-- ==== Sys2Proof/Word.lean ====
section
/-! DEFINITION. The word types of the TB940 and the one container of the model: a sparse map in canonical form. -/

namespace Sys2Proof

/-- One byte (R4). -/
abbrev Byte := BitVec 8
/-- One v or s register (R83). -/
abbrev Word := BitVec 32
/-- A register pair, an instruction word, a latch (R83, R84, R98). -/
abbrev DWord := BitVec 64

/-- A map from numbers to values with a default: entries in strictly rising order of their numbers, and none
equal to the default. The default is given where the map is read or written. -/
abbrev SMap (α : Type) := List (Nat × α)

/-- The value at `k`, the default `d` where nothing is listed. -/
def SMap.get {α : Type} (d : α) : SMap α → Nat → α
  | [], _ => d
  | (j, x) :: m, k => if j = k then x else SMap.get d m k

/-- Lists `x` at `k`, in order. -/
def SMap.ins {α : Type} : SMap α → Nat → α → SMap α
  | [], k, x => [(k, x)]
  | (j, y) :: m, k, x =>
    if j < k then (j, y) :: SMap.ins m k x
    else if j = k then (k, x) :: m
    else (k, x) :: (j, y) :: m

/-- Writes `x` at `k`; the default itself is never listed. -/
def SMap.put {α : Type} [DecidableEq α] (d : α) (m : SMap α) (k : Nat) (x : α) : SMap α :=
  if x = d then m.filter (fun e => e.1 ≠ k) else SMap.ins m k x

/-- The canonical form, from the lower bound `lo` on. -/
def SMap.wfFrom {α : Type} [DecidableEq α] (d : α) : Nat → SMap α → Bool
  | _, [] => true
  | lo, (j, x) :: m => decide (lo ≤ j) && decide (x ≠ d) && SMap.wfFrom d (j + 1) m

/-- The canonical form: strictly rising numbers, no default listed. -/
def SMap.wf {α : Type} [DecidableEq α] (d : α) (m : SMap α) : Bool := SMap.wfFrom d 0 m

/-- Writes a list of values at `k`, `k + 1`, and so on. -/
def SMap.putAll {α : Type} [DecidableEq α] (d : α) : SMap α → Nat → List α → SMap α
  | m, _, [] => m
  | m, k, x :: xs => SMap.putAll d (SMap.put d m k x) (k + 1) xs

/-- The `n` values from `k` on. -/
def SMap.getN {α : Type} (d : α) (m : SMap α) (k : Nat) : Nat → List α
  | 0 => []
  | n + 1 => SMap.get d m k :: SMap.getN d m (k + 1) n

end Sys2Proof
end

