-- ==== Sys2Proof/Machine/Bits.lean ====
section
/-! DEFINITION. Bit fields, extension, byte order and small counting helpers (R3, R4, R7). -/

namespace Sys2Proof.Machine

/-- Bits [lo + len - 1 : lo] of a number (R4). -/
def bitsOf (x lo len : Nat) : Nat := (x >>> lo) % 2 ^ len

/-- Bit n of a number as a truth value. -/
def bitOf (x n : Nat) : Bool := x.testBit n

/-- A truth value as a bit. -/
def bit1 (b : Bool) : Nat := if b then 1 else 0

/-- The signed reading of the low n bits of x (R110). -/
def signedOf (n x : Nat) : Int :=
  let y := x % 2 ^ n
  if n = 0 then 0 else if y < 2 ^ (n - 1) then (y : Int) else (y : Int) - (2 ^ n : Nat)

/-- An integer reduced modulo 2^n (R111). -/
def wrapTo (n : Nat) (e : Int) : Nat := (e % ((2 ^ n : Nat) : Int)).toNat

/-- The n bytes of x, lowest address first (R4). -/
def bytesOf : Nat → Nat → List Byte
  | 0, _ => []
  | n + 1, x => BitVec.ofNat 8 x :: bytesOf n (x / 256)

/-- The number that bytes hold, lowest address first (R4). -/
def natOfBytes : List Byte → Nat
  | [] => 0
  | b :: bs => b.toNat + 256 * natOfBytes bs

/-- The number of one bits among the low n bits of x. -/
def popCount : Nat → Nat → Nat
  | 0, _ => 0
  | n + 1, x => bit1 (x.testBit n) + popCount n x

/-- The number of leading zero bits of an n-bit pattern. -/
def leadZeros : Nat → Nat → Nat
  | 0, _ => 0
  | n + 1, x => if x.testBit n then 0 else 1 + leadZeros n x

/-- The pattern of n bits whose bit i is f i. -/
def ofBits (f : Nat → Bool) : Nat → Nat
  | 0 => 0
  | n + 1 => ofBits f n + (if f n then 2 ^ n else 0)

/-- The numbers of the set bits among the low n bits of x, ascending. -/
def setBits (n x : Nat) : List Nat := (List.range n).filter (fun i => x.testBit i)

/-- Writes the w bits at lo of x. -/
def putBits (x lo w v : Nat) : Nat :=
  x - (bitsOf x lo w) * 2 ^ lo + (v % 2 ^ w) * 2 ^ lo

/-- ⌈a / b⌉. -/
def ceilDiv (a b : Nat) : Nat := (a + b - 1) / b

/-- The least d with n ≤ 2^d, counted up to fuel. -/
def log2Ceil : Nat → Nat → Nat → Nat
  | 0, d, _ => d
  | fuel + 1, d, n => if n ≤ 2 ^ d then d else log2Ceil fuel (d + 1) n

/-- Least element of a list of numbers, if there is one. -/
def minOf : List Nat → Option Nat
  | [] => none
  | x :: xs => match minOf xs with
    | none => some x
    | some y => some (min x y)

/-- Inserts a number into an ascending list without repeats. -/
def insertSet (x : Nat) : List Nat → List Nat
  | [] => [x]
  | y :: ys => if x < y then x :: y :: ys else if x = y then y :: ys else y :: insertSet x ys

/-- Union into an ascending list without repeats. -/
def unionSet (xs ys : List Nat) : List Nat := xs.foldr insertSet ys

/-- Fold(n, x): the exclusive OR of the n-bit groups of x (R176), over k groups. -/
def foldXor (n : Nat) : Nat → Nat → Nat
  | 0, _ => 0
  | k + 1, x => (x % 2 ^ n) ^^^ foldXor n k (x >>> n)

end Sys2Proof.Machine
end

