-- ==== Sys2Proof/Syntax.lean ====
section
/-! DEFINITION. The syntax of every row of the opcode table: the instruction words of R86 to R101 with their fields taken
apart, and the steps of the device's other agents with their arguments. -/

namespace Sys2Proof

/-- The type codes of R89; `rsv` holds a reserved code, 19 to 31. -/
inductive Ty where
  | b32 | b64 | i8 | i16 | i32 | i64 | n8 | n16 | n32 | n64 | h16 | bf16 | f32 | f64
  | e4m3 | e5m2 | e3m2 | e2m1 | q4
  | rsv (code : BitVec 5)
  deriving DecidableEq, Repr

/-- The rounding modes of R88 and R114. -/
inductive Rnd where
  | rn | rz | rp | rm
  deriving DecidableEq, Repr

/-- The operand codes of R95. `imm x` is the small immediate of code 0xC0 + x, `const k` the constant of code
0xE0 + k with k from 4 to 15, `rsv k` the reserved code 0xF0 + k. -/
inductive Opnd where
  | v (r : BitVec 7)
  | s (r : BitVec 6)
  | imm (x : BitVec 5)
  | latch (i : BitVec 2)
  | const (k : BitVec 4)
  | rsv (k : BitVec 4)
  | none
  deriving DecidableEq, Repr

/-- The bits every word but a paired one shares: H, the negate bit and the predicate code (R87). -/
structure Head where
  hold : Bool
  neg : Bool
  pred : BitVec 3
  deriving DecidableEq, Repr

/-- A full word (R87, R88); `mods` is the modifier field below TYPE. -/
structure FWord where
  hd : Head
  wbx : Bool
  d : Opnd
  a : Opnd
  b : Opnd
  c : Opnd
  ty : Ty
  mods : BitVec 12
  deriving DecidableEq, Repr

/-- An immediate-form word (R90). -/
structure IWord where
  hd : Head
  wbx : Bool
  d : Opnd
  a : Opnd
  rsv32 : Bool
  imm : BitVec 32
  deriving DecidableEq, Repr

/-- A memory-form word (R91). -/
structure MWord where
  hd : Head
  wbx : Bool
  d : Opnd
  a : Opnd
  ofs : BitVec 14
  width : BitVec 3
  space : BitVec 3
  ori : Bool
  ew : BitVec 2
  sx : Bool
  cp : BitVec 2
  low : BitVec 7
  deriving DecidableEq, Repr

/-- One half of a paired word (R93). -/
structure Half where
  g : Bool
  minor : BitVec 6
  wbx : Bool
  d : BitVec 7
  a : Opnd
  b : Opnd
  deriving DecidableEq, Repr

/-- A paired word (R93). -/
structure PWord where
  hold : Bool
  h0 : Half
  h1 : Half
  deriving DecidableEq, Repr

/-- REGROUP's own layout (R406). -/
structure RegroupWord where
  hd : Head
  wbx : Bool
  d : Opnd
  n : BitVec 8
  rsv32 : Bool
  imm : BitVec 32
  deriving DecidableEq, Repr

/-- MSPAN's own layout (R389). -/
structure SpanWord where
  hd : Head
  wbx : Bool
  d : Opnd
  a : Opnd
  ext : BitVec 16
  ty : Ty
  mods : BitVec 12
  deriving DecidableEq, Repr

/-- An issue unit of a core that issues in a ck: the core's key (256 × partition + logical core) and the unit (R29). -/
structure UnitSel where
  core : Nat
  unit : Nat
  deriving DecidableEq, Repr

/-- A 64-byte mailbox block, word 0 to word 7 (R271, R289). -/
structure MailBlock where
  w0 : DWord
  w1 : DWord
  w2 : DWord
  w3 : DWord
  w4 : DWord
  w5 : DWord
  w6 : DWord
  w7 : DWord
  deriving DecidableEq, Repr

/-- The lodge registers without a row of their own (R6, R288, R290). -/
inductive LodgeReg where
  | status
  | response
  | command (i : Fin 8)
  deriving DecidableEq, Repr

/-- The units that change service state (R266). -/
inductive UnitKind where
  | core | slice | polder | farChannel
  deriving DecidableEq, Repr

/-- Where a storage error strikes (R259). -/
inductive Struck where
  /-- v or s registers, masks, continuation pool: a workgroup that owns the struck word, and the word of its core's register file -/
  | registers (wid word : Nat)
  /-- scratchpad, berm or buffer state of a workgroup: panel and row -/
  | scratchpad (wid panel row : Nat)
  /-- an accumulator tile -/
  | tile (wid tile : Nat)
  /-- the commit-plane copy of a tile -/
  | commit (wid tile : Nat)
  /-- a stationary slot -/
  | slot (wid slot : Nat)
  /-- an instruction-cache line of a physical core -/
  | icache (core : Nat)
  /-- a clean last-level line -/
  | llcClean (line : Nat)
  /-- a dirty last-level line -/
  | llcDirty (line : Nat)
  /-- a line of the near or the far tier -/
  | tier (line : Nat)
  /-- a page-table entry of a context -/
  | pageEntry (ctx pa : Nat)
  /-- lodge memory -/
  | lodgeMemory
  /-- a die link -/
  | dieLink (num : Nat)
  deriving DecidableEq, Repr

/-- What a peer device asks for (R286). -/
inductive PeerOp where
  | load (n : Nat)
  | store (bytes : List Byte)
  | routine (r : Nat) (operands : List DWord)
  deriving DecidableEq, Repr

/-- An access that arrives from a peer device: its domain number, key ID, target physical address and operation (R286). -/
structure PeerAccess where
  device : Nat
  key : Nat
  pa : Nat
  op : PeerOp
  deriving DecidableEq, Repr

/-- A domain-reduction contribution of another member (R232). -/
structure Contribution where
  device : Nat
  tag : Nat
  op : Nat
  ty : Ty
  elems : List DWord
  deriving DecidableEq, Repr

/-- Every row of spec/opcode_table.json, one constructor each. -/
inductive Instr where
  /-- GROUP_BINDING_ENTRY_WRITE (R18). -/
  | groupBindingEntryWrite (index : Nat) (entry : DWord)
  /-- PARTITION_START (R20). -/
  | partitionStart (part : Nat)
  /-- TURN_SWITCH (R22). -/
  | turnSwitch (pcore : Nat)
  /-- ISSUE_OPPORTUNITY (R29). -/
  | issueOpportunity (sel : List UnitSel)
  /-- AGEING_PROMOTION (R34). -/
  | ageingPromotion (wid gid tid : Nat)
  /-- GROUP_STARVATION_SELECT (R35). -/
  | groupStarvationSelect (wid gid : Nat)
  /-- KWAIT_RELEASE (R39). -/
  | kwaitRelease (wid gid : Nat)
  /-- REJOIN_DEADLOCK (R40). -/
  | rejoinDeadlock (wid gid : Nat)
  /-- GROUP_FORMATION_FULL_BIN (R42). -/
  | groupFormationFullBin (wid pc stage : Nat)
  /-- GROUP_FORMATION_QUIESCENCE (R42). -/
  | groupFormationQuiescence (wid : Nat)
  /-- WORKGROUP_RESIDENCY (R28). -/
  | workgroupResidency (lid wgid base : Nat)
  /-- WORKGROUP_COMPLETION (R50). -/
  | workgroupCompletion (wid : Nat)
  /-- WORKGROUP_PLACEMENT (R242). -/
  | workgroupPlacement (part : Nat)
  /-- ZEROING_COMPLETE (R148). -/
  | zeroingComplete (core : Nat)
  /-- SERIALISER_STOP (R63). -/
  | serialiserStop (lid : Nat)
  /-- SERIALISER_PUBLISH_WRITE (R63). -/
  | serialiserPublishWrite (lid : Nat)
  /-- IMAGE_RESTORE (R76). -/
  | imageRestore (lid part : Nat)
  /-- JOB_CHECKPOINT (R80). -/
  | jobCheckpoint (ctx : Nat)
  /-- QUEUE_DESCRIPTOR_WRITE (R234). -/
  | queueDescriptorWrite (q : Nat) (desc : BitVec 256)
  /-- QUEUE_DOORBELL (R235). -/
  | queueDoorbell (q : Nat) (wr : Word)
  /-- LAUNCH_PACKET (R236). -/
  | launchPacket (q : Nat)
  /-- WAIT_PACKET (R236). -/
  | waitPacket (q : Nat)
  /-- WAIT_PACKET_RELEASE (R236). -/
  | waitPacketRelease (q : Nat)
  /-- SIGNAL_INTERVAL_EXPIRY (R239). -/
  | signalIntervalExpiry (lid : Nat)
  /-- BIND_RUN (R241). -/
  | bindRun (slot : Nat) (rec : DWord)
  /-- BIND_STOP_REQUEST (R243). -/
  | bindStopRequest (slot : Nat)
  /-- REORDER_STALL (R241). -/
  | reorderStall (lid : Nat)
  /-- TIME_LIMIT (R244). -/
  | timeLimit (lid : Nat)
  /-- LOCKED_CLOCK_MODE (R247). -/
  | lockedClockMode (part : Nat) (on : Bool)
  /-- COPY_SLOT_TAKE (R146). -/
  | copySlotTake (wid q : Nat)
  /-- COPY_SECTOR_WRITE (R219). -/
  | copySectorWrite (wid q : Nat)
  /-- COPY_COMPLETE (R220). -/
  | copyComplete (wid q : Nat)
  /-- FENCE_ENTRY_HEAD (R404). -/
  | fenceEntryHead (wid q : Nat)
  /-- BARRIER_DEADLOCK (R226). -/
  | barrierDeadlock (wid : Nat)
  /-- XBAR_RELEASE (R228). -/
  | xbarRelease (lid x core : Nat)
  /-- WAITV_WAKE (R230). -/
  | waitvWake (wid tid : Nat)
  /-- WAITV_POLL (R229). -/
  | waitvPoll (wid tid : Nat)
  /-- WAITV_TIMEOUT (R229). -/
  | waitvTimeout (wid tid : Nat)
  /-- CBACQ_RETRY (R146). -/
  | cbacqRetry (wid gid : Nat)
  /-- MATRIX_QUEUE_ENTRY (R149). -/
  | matrixQueueEntry (core : Nat)
  /-- LINE_ROUTINE_RUN (R208). -/
  | lineRoutineRun (slice : Nat)
  /-- DET_REQUEST_APPLY (R213). -/
  | detRequestApply (lid : Nat)
  /-- REPLY (R204). -/
  | reply (wid tid : Nat)
  /-- LOAD_RETURN (R368). -/
  | loadReturn (wid tid : Nat)
  /-- PAGE_FAULT (R258). -/
  | pageFault (ctx page : Nat)
  /-- FAULT_ANSWER_RETRY (R258). -/
  | faultAnswerRetry (ctx page : Nat)
  /-- FAULT_ANSWER_FAIL (R258). -/
  | faultAnswerFail (ctx page : Nat)
  /-- PTE_INVALIDATION (R195). -/
  | pteInvalidation (ctx va len : Nat)
  /-- COMPANION_STORE (R284). -/
  | companionStore (ctx va : Nat) (bytes : List Byte)
  /-- COMPANION_LOAD (R284). -/
  | companionLoad (ctx va n : Nat)
  /-- PEER_ACCESS (R286). -/
  | peerAccess (acc : PeerAccess)
  /-- PEER_TIMEOUT (R287). -/
  | peerTimeout (d : Nat)
  /-- FATAL_TRAP (R255). -/
  | fatalTrap (lid : Nat)
  /-- CORRECTED_ERROR (R259). -/
  | correctedError (at_ : Struck)
  /-- UNCORRECTABLE_ERROR (R259). -/
  | uncorrectableError (at_ : Struck) (hard : Bool)
  /-- SLICE_PAUSE_END (R267). -/
  | slicePauseEnd (slice : Nat)
  /-- FIRMWARE_READY_TIMEOUT (R268). -/
  | firmwareReadyTimeout
  /-- THERMAL_HALT (R296). -/
  | thermalHalt
  /-- THERMAL_RESUME (R296). -/
  | thermalResume
  /-- POWER_CAP_ADJUST (R296). -/
  | powerCapAdjust (part steps : Nat)
  /-- RESET_RELEASE (R297). -/
  | resetRelease (straps : BitVec 8)
  /-- TRACE_SAMPLE (R282). -/
  | traceSample (part : Nat)
  /-- PARK (R276). -/
  | park (agent : Nat) (b : MailBlock)
  /-- RESUME (R277). -/
  | resume (agent : Nat) (b : MailBlock)
  /-- STEP (R277). -/
  | step (agent : Nat) (b : MailBlock)
  /-- STOPALL (R276). -/
  | stopall (agent : Nat) (b : MailBlock)
  /-- RESUMEALL (R271). -/
  | resumeall (agent : Nat) (b : MailBlock)
  /-- READ (R278). -/
  | read (agent : Nat) (b : MailBlock)
  /-- EDIT (R278). -/
  | edit (agent : Nat) (b : MailBlock)
  /-- COMMIT (R279). -/
  | commit (agent : Nat) (b : MailBlock)
  /-- DISCARD (R271). -/
  | discard (agent : Nat) (b : MailBlock)
  /-- SETBP (R272). -/
  | setbp (agent : Nat) (b : MailBlock)
  /-- SETWP (R272). -/
  | setwp (agent : Nat) (b : MailBlock)
  /-- CTXDEF (R289). -/
  | ctxdef (agent : Nat) (b : MailBlock)
  /-- ERRRING (R256). -/
  | errring (agent : Nat) (b : MailBlock)
  /-- RASRING (R264). -/
  | rasring (agent : Nat) (b : MailBlock)
  /-- GRANT (R270). -/
  | grant (agent : Nat) (b : MailBlock)
  /-- REVOKE (R280). -/
  | revoke (agent : Nat) (b : MailBlock)
  /-- KEYLOAD (R294). -/
  | keyload (agent : Nat) (b : MailBlock)
  /-- KEYCLEAR (R295). -/
  | keyclear (agent : Nat) (b : MailBlock)
  /-- ATTEST (R293). -/
  | attest (agent : Nat) (b : MailBlock)
  /-- FWSTAGE (R292). -/
  | fwstage (agent : Nat) (b : MailBlock)
  /-- FWSWITCH (R268). -/
  | fwswitch (agent : Nat) (b : MailBlock)
  /-- UNIT (R266). -/
  | unit (agent : Nat) (b : MailBlock)
  /-- DOMAIN (R285). -/
  | domain (agent : Nat) (b : MailBlock)
  /-- ADMIT (R285). -/
  | admitPeer (agent : Nat) (b : MailBlock)
  /-- POWER (R296). -/
  | power (agent : Nat) (b : MailBlock)
  /-- REGISTER_WRITE (R6). -/
  | registerWrite (agent : Nat) (reg : LodgeReg) (value : DWord)
  /-- NOP (R393). -/
  | nop (w : FWord)
  /-- PAIRED_WORD (R94). -/
  | pairedWord (w : PWord)
  /-- IADD (R351). -/
  | iadd (w : FWord)
  /-- IADD_IMM (R352). -/
  | iaddImm (w : IWord)
  /-- ISUB (R351). -/
  | isub (w : FWord)
  /-- ISUB_IMM (R352). -/
  | isubImm (w : IWord)
  /-- IADDC (R354). -/
  | iaddc (w : FWord)
  /-- ISUBB (R354). -/
  | isubb (w : FWord)
  /-- IMUL (R359). -/
  | imul (w : FWord)
  /-- IMUL_IMM (R352). -/
  | imulImm (w : IWord)
  /-- IMULHI (R359). -/
  | imulhi (w : FWord)
  /-- IMULHI_IMM (R352). -/
  | imulhiImm (w : IWord)
  /-- IMAD (R359). -/
  | imad (w : FWord)
  /-- IMIN (R351). -/
  | imin (w : FWord)
  /-- IMIN_IMM (R352). -/
  | iminImm (w : IWord)
  /-- IMAX (R351). -/
  | imax (w : FWord)
  /-- IMAX_IMM (R352). -/
  | imaxImm (w : IWord)
  /-- IABS (R351). -/
  | iabs (w : FWord)
  /-- INEG (R351). -/
  | ineg (w : FWord)
  /-- ICMP (R358). -/
  | icmp (w : FWord)
  /-- IPOPC (R356). -/
  | ipopc (w : FWord)
  /-- ICLZ (R356). -/
  | iclz (w : FWord)
  /-- IBREV (R356). -/
  | ibrev (w : FWord)
  /-- IBFE (R355). -/
  | ibfe (w : FWord)
  /-- IBFI (R355). -/
  | ibfi (w : FWord)
  /-- LEA (R375). -/
  | lea (w : FWord)
  /-- LEA_IMM (R352). -/
  | leaImm (w : IWord)
  /-- LOP (R376). -/
  | lop (w : FWord)
  /-- SHL (R410). -/
  | shl (w : FWord)
  /-- SHR (R410). -/
  | shr (w : FWord)
  /-- SAR (R410). -/
  | sar (w : FWord)
  /-- SHL_IMM (R409). -/
  | shlImm (w : IWord)
  /-- SHR_IMM (R409). -/
  | shrImm (w : IWord)
  /-- SAR_IMM (R409). -/
  | sarImm (w : IWord)
  /-- SEL (R411). -/
  | sel (w : FWord)
  /-- MOV (R387). -/
  | mov (w : FWord)
  /-- MOV_SPECIAL (R387). -/
  | movSpecial (w : FWord)
  /-- MOVI (R388). -/
  | movi (w : IWord)
  /-- PLOP (R398). -/
  | plop (w : FWord)
  /-- PMOV_TO_REG (R399). -/
  | pmovToReg (w : FWord)
  /-- PMOV_FROM_REG (R399). -/
  | pmovFromReg (w : FWord)
  /-- PMOV_PRED (R399). -/
  | pmovPred (w : FWord)
  /-- FADD (R331). -/
  | fadd (w : FWord)
  /-- FADD_IMM (R332). -/
  | faddImm (w : IWord)
  /-- FSUB (R331). -/
  | fsub (w : FWord)
  /-- FMUL (R331). -/
  | fmul (w : FWord)
  /-- FMUL_IMM (R332). -/
  | fmulImm (w : IWord)
  /-- FFMA (R331). -/
  | ffma (w : FWord)
  /-- FMIN (R331). -/
  | fmin (w : FWord)
  /-- FMIN_IMM (R332). -/
  | fminImm (w : IWord)
  /-- FMAX (R331). -/
  | fmax (w : FWord)
  /-- FMAX_IMM (R332). -/
  | fmaxImm (w : IWord)
  /-- FABS (R329). -/
  | fabs (w : FWord)
  /-- FNEG (R329). -/
  | fneg (w : FWord)
  /-- FCMP (R335). -/
  | fcmp (w : FWord)
  /-- FCLASS (R333). -/
  | fclass (w : FWord)
  /-- FRND (R339). -/
  | frnd (w : FWord)
  /-- FCVT (R337). -/
  | fcvt (w : FWord)
  /-- FRCP (R338). -/
  | frcp (w : FWord)
  /-- FRSQ (R338). -/
  | frsq (w : FWord)
  /-- FSQRT (R338). -/
  | fsqrt (w : FWord)
  /-- FEXP2 (R338). -/
  | fexp2 (w : FWord)
  /-- FLOG2 (R338). -/
  | flog2 (w : FWord)
  /-- FTANH (R338). -/
  | ftanh (w : FWord)
  /-- NPACK (R395). -/
  | npack (w : FWord)
  /-- NUNPK (R395). -/
  | nunpk (w : FWord)
  /-- NSCALE (R396). -/
  | nscale (w : FWord)
  /-- GSHFL (R346). -/
  | gshfl (w : FWord)
  /-- GBFLY (R341). -/
  | gbfly (w : FWord)
  /-- GRED (R345). -/
  | gred (w : FWord)
  /-- GSCAN (R345). -/
  | gscan (w : FWord)
  /-- GVOTE (R347). -/
  | gvote (w : FWord)
  /-- GMATCH (R342). -/
  | gmatch (w : FWord)
  /-- GRANK (R342). -/
  | grank (w : FWord)
  /-- JOIN (R361). -/
  | join (w : FWord)
  /-- LEAVE (R361). -/
  | leave (w : FWord)
  /-- KWAIT (R361). -/
  | kwait (w : FWord)
  /-- KMOV (R363). -/
  | kmov (w : FWord)
  /-- KAND (R363). -/
  | kand (w : FWord)
  /-- KOR (R363). -/
  | kor (w : FWord)
  /-- KRD (R363). -/
  | krd (w : FWord)
  /-- KSET (R363). -/
  | kset (w : FWord)
  /-- BRA (R311). -/
  | bra (w : IWord)
  /-- BRX (R311). -/
  | brx (w : FWord)
  /-- CALL (R311). -/
  | call (w : IWord)
  /-- RET (R408). -/
  | ret (w : FWord)
  /-- SWITCH (R420). -/
  | switch (w : FWord)
  /-- REGROUP (R407). -/
  | regroup (w : RegroupWord)
  /-- YIELD (R431). -/
  | yield (w : FWord)
  /-- EXIT (R328). -/
  | exit (w : FWord)
  /-- TRAP (R425). -/
  | trap (w : FWord)
  /-- TRAPRET (R426). -/
  | trapret (w : FWord)
  /-- BKPT (R309). -/
  | bkpt (w : FWord)
  /-- SYSRD (R423). -/
  | sysrd (w : FWord)
  /-- SYSWR (R423). -/
  | syswr (w : FWord)
  /-- STAMP_IN (R418). -/
  | stampIn (w : FWord)
  /-- STAMP_MMA (R418). -/
  | stampMma (w : FWord)
  /-- STAMP_OUT (R418). -/
  | stampOut (w : FWord)
  /-- TIME (R424). -/
  | time (w : FWord)
  /-- LD (R369). -/
  | ld (w : MWord)
  /-- LDS (R370). -/
  | lds (w : MWord)
  /-- LDA (R371). -/
  | lda (w : MWord)
  /-- LDB (R372). -/
  | ldb (w : MWord)
  /-- ST (R414). -/
  | st (w : MWord)
  /-- STS (R415). -/
  | sts (w : MWord)
  /-- STB (R414). -/
  | stb (w : MWord)
  /-- PREF (R400). -/
  | pref (w : MWord)
  /-- ATOM (R302). -/
  | atom (w : FWord)
  /-- ATOM_SCR (R303). -/
  | atomScr (w : FWord)
  /-- LRCALL (R204). -/
  | lrcall (w : FWord)
  /-- LRDEF (R205). -/
  | lrdef (w : FWord)
  /-- LRDROP (R206). -/
  | lrdrop (w : FWord)
  /-- WAITV (R229). -/
  | waitv (w : FWord)
  /-- WAKE (R230). -/
  | wake (w : FWord)
  /-- PHASE_PUB (R184). -/
  | phasePub (w : FWord)
  /-- PHASE_REF (R184). -/
  | phaseRef (w : FWord)
  /-- PHASE (R184). -/
  | phase (w : FWord)
  /-- FENCE (R186). -/
  | fence (w : FWord)
  /-- BAR (R307). -/
  | bar (w : FWord)
  /-- BARARV (R307). -/
  | bararv (w : FWord)
  /-- BARWAIT (R307). -/
  | barwait (w : FWord)
  /-- BARTX (R223). -/
  | bartx (w : FWord)
  /-- BARINIT (R223). -/
  | barinit (w : FWord)
  /-- XBARV (R430). -/
  | xbarv (w : FWord)
  /-- XBWAIT (R430). -/
  | xbwait (w : FWord)
  /-- XBSET (R435). -/
  | xbset (w : FWord)
  /-- CPIN (R318). -/
  | cpin (w : FWord)
  /-- CPOUT (R318). -/
  | cpout (w : FWord)
  /-- CPOUT_DOMAIN_REDUCTION (R232). -/
  | cpoutDomainReduction (w : FWord)
  /-- CPGATH (R218). -/
  | cpgath (w : FWord)
  /-- CPGATH_DIGEST (R218). -/
  | cpgathDigest (w : FWord)
  /-- CPSCAT (R218). -/
  | cpscat (w : FWord)
  /-- CPFILL (R218). -/
  | cpfill (w : FWord)
  /-- CPFILL_SCRATCHPAD (R218). -/
  | cpfillScratchpad (w : FWord)
  /-- QFENCE (R404). -/
  | qfence (w : FWord)
  /-- QWAIT (R405). -/
  | qwait (w : FWord)
  /-- CBACQ (R315). -/
  | cbacq (w : FWord)
  /-- CBREL (R315). -/
  | cbrel (w : FWord)
  /-- CBREL_CFG (R315). -/
  | cbrelCfg (w : FWord)
  /-- CVPUT (R322). -/
  | cvput (w : FWord)
  /-- CVSEAL (R323). -/
  | cvseal (w : FWord)
  /-- LAUNCH (R365). -/
  | launch (w : FWord)
  /-- MLDB (R384). -/
  | mldb (w : FWord)
  /-- MSWAP (R391). -/
  | mswap (w : FWord)
  /-- MMA (R385). -/
  | mma (w : FWord)
  /-- MMAW (R385). -/
  | mmaw (w : FWord)
  /-- MSPAN (R390). -/
  | mspan (w : SpanWord)
  /-- MCOMMIT (R381). -/
  | mcommit (w : FWord)
  /-- MZERO (R392). -/
  | mzero (w : FWord)
  /-- MLDA (R382). -/
  | mlda (w : FWord)
  /-- MSTA (R382). -/
  | msta (w : FWord)
  /-- FIRMWARE_READY (R268). -/
  | firmwareReady
  /-- PEER_ANSWERS (R285). -/
  | peerAnswers (d : Nat)
  /-- PEER_PORT_FAILURE (R287). -/
  | peerPortFailure (port : Nat)
  /-- DOMAIN_REDUCTION_ARRIVAL (R232). -/
  | domainReductionArrival (c : Contribution)
  /-- UNIT_DRAIN_COMPLETE (R266). -/
  | unitDrainComplete (kind : UnitKind) (num : Nat)
  /-- UNIT_TEST_PASSED (R266). -/
  | unitTestPassed (kind : UnitKind) (num : Nat)
  deriving DecidableEq, Repr

end Sys2Proof
end

