-- ==== Sys2Proof/Machine/Entry.lean ====
section
/-! DEFINITION. What each instruction word's entry says of its fields: operand codes, types, modifiers, the hold class,
the fetch port, the registers it names, and the illegal-instruction causes that its bits alone decide (R88, R95, R102). -/

namespace Sys2Proof.Machine

/-- A run of registers that a field names: v or s, the first number, how many, and the alignment of the first (R84). -/
structure RegRun where
  isV : Bool
  base : Nat
  count : Nat
  align : Nat
  deriving DecidableEq, Repr

/-- The operand codes an entry accepts in a source field (R95). -/
inductive SrcKind where
  /-- not used: 0xFF -/
  | unused
  /-- v, s, small immediate, constant, latch -/
  | any
  /-- v, s, small immediate, constant -/
  | noLatch
  /-- v or s -/
  | vs
  /-- v only -/
  | vOnly
  /-- s only -/
  | sOnly
  /-- s or small immediate -/
  | sImm
  /-- s, small immediate or constant -/
  | sImmConst
  /-- mask k0 to k11, codes 0xD0 to 0xDB (R360) -/
  | mask
  /-- predicate source, codes 0xD0 to 0xD7 (R398) -/
  | predSrc
  /-- operand count of LRCALL, codes 0xD0 to 0xD4 (R203) -/
  | count4
  deriving DecidableEq, Repr

/-- The codes an entry accepts in the destination field (R95, R325). -/
inductive DstKind where
  /-- no result: 0xFF with wbx = 0 -/
  | unused
  /-- v, s, or 0xFF with wbx = 1 -/
  | reg
  /-- as reg, but 0xFF with wbx = 0 is a code that the entry does not list (R401) -/
  | regListed
  /-- as reg; 0xFF with wbx = 0 where the word still writes a predicate -/
  | regOrPred (ok : Bool)
  /-- v or s, never the latches -/
  | vs
  /-- v, s or 0xFF -/
  | vsOrNone
  /-- v or 0xFF -/
  | vOrNone
  /-- v only -/
  | vOnly
  /-- s only -/
  | sOnly
  /-- s or 0xFF -/
  | sOrNone
  deriving DecidableEq, Repr

/-- How an entry takes RND, SAT or FTZ: never (cause 3), or where the flag holds (cause 9 elsewhere) (R325). -/
inductive ModAcc where
  | never
  | when (ok : Bool)
  deriving DecidableEq, Repr

/-- What an entry says of a full word. -/
structure Entry where
  holdClass : Bool := false
  d : DstKind := .unused
  dn : Nat := 1
  dalign : Nat := 0
  a : SrcKind := .unused
  an : Nat := 1
  aalign : Nat := 0
  b : SrcKind := .unused
  bn : Nat := 1
  balign : Nat := 0
  c : SrcKind := .unused
  cn : Nat := 1
  types : List Ty := [.b32]
  tyCause : Nat := 9
  rnd : ModAcc := .never
  sat : ModAcc := .never
  ftz : ModAcc := .never
  ownMods : Bool := false
  specMask : Nat := 0
  port1 : Bool := false
  extra : List Nat := []
  deriving DecidableEq, Repr

/-- RND of R88. -/
def FRnd (w : FWord) : Nat := bitsOf w.mods.toNat 10 2
/-- SAT of R88. -/
def FSat (w : FWord) : Bool := bitOf w.mods.toNat 9
/-- FTZ of R88. -/
def FFtz (w : FWord) : Bool := bitOf w.mods.toNat 8
/-- SPEC of R88. -/
def FSpec (w : FWord) : Nat := bitsOf w.mods.toNat 0 8

/-- The rounding mode of a two-bit field (R88). -/
def rndOf (n : Nat) : Rnd := if n = 0 then .rn else if n = 1 then .rz else if n = 2 then .rp else .rm

/-- The type of a five-bit code (R89). -/
def tyOfCode (c : BitVec 5) : Ty :=
  if c = 0 then .b32 else if c = 1 then .b64 else if c = 2 then .i8 else if c = 3 then .i16 else if c = 4 then .i32
  else if c = 5 then .i64 else if c = 6 then .n8 else if c = 7 then .n16 else if c = 8 then .n32 else if c = 9 then .n64
  else if c = 10 then .h16 else if c = 11 then .bf16 else if c = 12 then .f32 else if c = 13 then .f64
  else if c = 14 then .e4m3 else if c = 15 then .e5m2 else if c = 16 then .e3m2 else if c = 17 then .e2m1
  else if c = 18 then .q4 else .rsv c

/-- The five-bit code of a type (R89). -/
def codeOfTy : Ty → BitVec 5
  | .b32 => 0 | .b64 => 1 | .i8 => 2 | .i16 => 3 | .i32 => 4 | .i64 => 5 | .n8 => 6 | .n16 => 7 | .n32 => 8 | .n64 => 9
  | .h16 => 10 | .bf16 => 11 | .f32 => 12 | .f64 => 13 | .e4m3 => 14 | .e5m2 => 15 | .e3m2 => 16 | .e2m1 => 17
  | .q4 => 18 | .rsv c => c

/-- Width in bits of an element of a type (R110, R112). -/
def widthOf : Ty → Nat
  | .b32 | .i32 | .n32 | .f32 => 32
  | .b64 | .i64 | .n64 | .f64 => 64
  | .i8 | .n8 | .e4m3 | .e5m2 => 8
  | .i16 | .n16 | .h16 | .bf16 => 16
  | .e3m2 => 6
  | .e2m1 | .q4 => 4
  | .rsv _ => 32

/-- A type of 64 bits, which occupies a pair (R84). -/
def is64 (t : Ty) : Bool := widthOf t == 64

/-- The registers an operand of a type occupies (R84). -/
def regsOf (t : Ty) : Nat := if is64 t then 2 else 1

def isSigned : Ty → Bool
  | .i8 | .i16 | .i32 | .i64 | .q4 => true
  | _ => false

def isFloat : Ty → Bool
  | .h16 | .bf16 | .f32 | .f64 | .e4m3 | .e5m2 | .e3m2 | .e2m1 => true
  | _ => false

def isBit : Ty → Bool
  | .b32 | .b64 => true
  | _ => false

/-- The four formats that accept .ftz (R116). -/
def isFtzType : Ty → Bool
  | .h16 | .bf16 | .f32 | .f64 => true
  | _ => false

def isRsv : Ty → Bool
  | .rsv _ => true
  | _ => false

def intTypes : List Ty := [.i32, .n32, .i64, .n64]
def bitTypes : List Ty := [.b32, .b64]
def floatTypes : List Ty := [.f32, .f64, .h16, .bf16]

/-- Whether an operand code is accepted in a source field (R95). -/
def accepts (k : SrcKind) (o : Opnd) : Bool :=
  match k, o with
  | .any, .v _ | .any, .s _ | .any, .imm _ | .any, .const _ | .any, .latch _ => true
  | .noLatch, .v _ | .noLatch, .s _ | .noLatch, .imm _ | .noLatch, .const _ => true
  | .vs, .v _ | .vs, .s _ => true
  | .vOnly, .v _ => true
  | .sOnly, .s _ => true
  | .sImm, .s _ | .sImm, .imm _ => true
  | .sImmConst, .s _ | .sImmConst, .imm _ | .sImmConst, .const _ => true
  | .mask, .imm x => 16 ≤ x.toNat && x.toNat ≤ 27
  | .predSrc, .imm x => 16 ≤ x.toNat && x.toNat ≤ 23
  | .count4, .imm x => 16 ≤ x.toNat && x.toNat ≤ 20
  | _, _ => false

/-- Causes of a source field (R95, R325): a reserved code is cause 4, an unused field other than 0xFF cause 5. -/
def srcCauses (k : SrcKind) (o : Opnd) : List Nat :=
  match k with
  | .unused => match o with
    | .none => []
    | .rsv _ => [4, 5]
    | _ => [5]
  | _ => if accepts k o then [] else [4]

/-- Causes of the destination field and of wbx (R87, R95, R325, R401). -/
def dstCauses (k : DstKind) (wbx : Bool) (o : Opnd) : List Nat :=
  let latchOk := match k with | .reg | .regListed | .regOrPred _ => true | _ => false
  let wbxBad : List Nat := if wbx && (!latchOk || o != .none) then [5] else []
  let code : List Nat :=
    match o with
    | .v _ => match k with
      | .unused => [5]
      | .sOnly | .sOrNone => [4]
      | _ => []
    | .s _ => match k with
      | .unused => [5]
      | .vOnly | .vOrNone => [4]
      | _ => []
    | .none => match k with
      | .unused | .vsOrNone | .vOrNone | .sOrNone => []
      | .reg => if wbx then [] else [5]
      | .regListed => if wbx then [] else [4]
      | .regOrPred ok => if wbx || ok then [] else [5]
      | .vs | .vOnly | .sOnly => [4]
    | _ => match k with
      | .unused => match o with
        | .rsv _ => [4, 5]
        | _ => [5]
      | _ => [4]
  wbxBad ++ code

/-- The registers an operand names, `n` of them, the first a multiple of `al` (of n where al is 0). -/
def runOf (o : Opnd) (n al : Nat) : List RegRun :=
  match o with
  | .v r => [⟨true, r.toNat, n, if al = 0 then n else al⟩]
  | .s r => [⟨false, r.toNat, n, if al = 0 then n else al⟩]
  | _ => []

/-- Cause 10 of a run: the first register breaks its alignment, or the run passes v127 or s63 (R84). -/
def runCauses (r : RegRun) : List Nat :=
  if r.base % r.align ≠ 0 || r.base + r.count > (if r.isV then 128 else 64) then [10] else []

/-- The v registers of a list of runs, without repeats (R99). -/
def vRegsOf (rs : List RegRun) : List Nat :=
  rs.foldl (fun acc r => if r.isV then unionSet ((List.range r.count).map (r.base + ·)) acc else acc) []

/-- Cause 7: more than two distinct v registers of one bank (R99). -/
def bankCauses (rs : List RegRun) : List Nat :=
  let vs := vRegsOf rs
  if (List.range 4).any (fun k => 2 < (vs.filter (fun r => r % 4 == k)).length) then [7] else []

/-- Causes of one of RND, SAT, FTZ (R88, R325). -/
def modCauses (acc : ModAcc) (nonzero : Bool) : List Nat :=
  match acc with
  | .never => if nonzero then [3] else []
  | .when ok => if nonzero && !ok then [9] else []

/-- Causes of the predicate field (R87). -/
def headCauses (h : Head) (holdClass : Bool) : List Nat :=
  (if h.pred = 7#3 && h.neg then [3] else []) ++ (if h.hold && !holdClass then [11] else [])

/-- The latch a source field names. -/
def latchOf : Opnd → List Nat
  | .latch i => [i.toNat]
  | _ => []

/-- The value of a small immediate, code - 0xD0 (R95). -/
def immVal (x : BitVec 5) : Int := (x.toNat : Int) - 16

/-- A small immediate below 0, or at or above the limit. -/
def immOut (lim : Nat) : Opnd → Bool
  | .imm x => immVal x < 0 || (lim : Int) ≤ immVal x
  | _ => false

/-- A small immediate below 0. -/
def immNeg : Opnd → Bool
  | .imm x => immVal x < 0
  | _ => false

/-- Whether a small immediate is exact in a narrow float source type (R95). -/
def immExact (t : Ty) : Opnd → Bool
  | .imm x =>
    let m := (immVal x).natAbs
    match t with
    | .e5m2 | .e3m2 => !([9, 11, 13, 15].contains m)
    | .e2m1 => [0, 1, 2, 3, 4, 6].contains m
    | _ => true
  | _ => true

/-- The causes of a full word under its entry. -/
def fCauses (w : FWord) (e : Entry) : List Nat :=
  headCauses w.hd e.holdClass
  ++ (if isRsv w.ty then [3] else if e.types.contains w.ty then [] else [e.tyCause])
  ++ (if e.ownMods then [] else
        modCauses e.rnd (FRnd w != 0) ++ modCauses e.sat (FSat w) ++ modCauses e.ftz (FFtz w)
        ++ (if FSpec w &&& (255 - e.specMask) != 0 then [3] else []))
  ++ dstCauses e.d w.wbx w.d ++ srcCauses e.a w.a ++ srcCauses e.b w.b ++ srcCauses e.c w.c
  ++ (runOf w.d e.dn e.dalign).flatMap runCauses
  ++ (runOf w.a e.an e.aalign).flatMap runCauses
  ++ (runOf w.b e.bn e.balign).flatMap runCauses
  ++ (runOf w.c e.cn 0).flatMap runCauses
  ++ bankCauses (runOf w.a e.an e.aalign ++ runOf w.b e.bn e.balign ++ runOf w.c e.cn 0)
  ++ e.extra

/-- Entry of an integer two- or three-source word (R350, R353, R359). -/
def intEntry (w : FWord) (types : List Ty) (sat : Bool) (b c : SrcKind) : Entry :=
  { holdClass := true, d := .reg, dn := regsOf w.ty, a := .any, an := regsOf w.ty, b := b, bn := regsOf w.ty, c := c,
    cn := regsOf w.ty, types := types, sat := if sat then .when true else .never }

/-- Entry of a float arithmetic word (R330). -/
def floatEntry (w : FWord) (types : List Ty) (rnd sat ftz : Bool) (b c : SrcKind) : Entry :=
  { holdClass := true, d := .reg, dn := regsOf w.ty, a := .any, an := regsOf w.ty, b := b, bn := regsOf w.ty, c := c,
    cn := regsOf w.ty, types := types, rnd := if rnd then .when true else .never,
    sat := if sat then .when true else .never, ftz := if ftz then .when true else .never }

/-- Entry of a shift (R401, R409). -/
def shiftEntry (w : FWord) : Entry :=
  { holdClass := true, d := .regListed, dn := regsOf w.ty, a := .any, an := regsOf w.ty, b := .noLatch, bn := 1,
    types := bitTypes }

/-- The number of elements and their width in the packing words (R394). -/
def packCount : Ty → Nat
  | .e2m1 | .q4 => 8
  | _ => 4

def packTypes : List Ty := [.e4m3, .e5m2, .e3m2, .e2m1, .q4]

/-- The types FCVT converts between (R120). -/
def cvtTypes : List Ty :=
  [.i8, .i16, .i32, .i64, .n8, .n16, .n32, .n64, .h16, .bf16, .f32, .f64, .e4m3, .e5m2, .e3m2, .e2m1]

/-- FCVT's source type, SPEC[7:3] (R336). -/
def cvtSrc (w : FWord) : Ty := tyOfCode (BitVec.ofNat 5 (FSpec w / 8))

def fcvtEntry (w : FWord) : Entry :=
  let s := cvtSrc w
  { holdClass := true, d := .reg, dn := regsOf w.ty, a := .any, an := regsOf s, types := cvtTypes, specMask := 0xF8,
    rnd := .when (isFloat w.ty || isFloat s), sat := .when true, ftz := .when (isFtzType w.ty || isFtzType s),
    extra := (if isRsv s then [3] else if cvtTypes.contains s then [] else [9])
      ++ (if immExact s w.a then [] else [4]) }

/-- ICMP and FCMP (R334, R357): PD in SPEC[2:0], CC in SPEC[6:3]. -/
def cmpEntry (w : FWord) (types : List Ty) (ccs : Nat) (ftz : Bool) (more : List Nat) : Entry :=
  { holdClass := true, d := .regOrPred (FSpec w % 8 != 7), a := .any, an := regsOf w.ty, b := .any, bn := regsOf w.ty,
    types := types, ftz := if ftz then .when true else .never, specMask := 0x7F,
    extra := (if ccs ≤ bitsOf (FSpec w) 3 4 then [3] else []) ++ more }

/-- IADDC and ISUBB (R353). -/
def carryEntry (w : FWord) : Entry :=
  { holdClass := true, d := .regOrPred (FSpec w % 8 != 7), dn := regsOf w.ty, a := .any, an := regsOf w.ty, b := .any,
    bn := regsOf w.ty, types := [.n32, .n64], specMask := 0x3F }

/-- GRED and GSCAN (R344, R345). -/
def redEntry (w : FWord) (scan : Bool) : Entry :=
  let op := FSpec w % 8
  let fl := w.ty == .f32 || w.ty == .f64
  let okType := if op ≤ 2 then intTypes.contains w.ty || fl else bitTypes.contains w.ty
  { holdClass := true, d := .reg, dn := regsOf w.ty, a := .any, an := regsOf w.ty,
    types := intTypes ++ bitTypes ++ [.f32, .f64], rnd := .when (op == 0 && fl), sat := .when (op == 0),
    ftz := .when (fl && decide (op ≤ 2)), specMask := if scan then 0xF else 0x7,
    extra := (if 6 ≤ op then [3] else if okType then [] else [9]) }

/-- GVOTE (R347): PD in SPEC[4:2], MODE in SPEC[1:0]. -/
def voteEntry (w : FWord) : Entry :=
  let mode := FSpec w % 4
  let pd := bitsOf (FSpec w) 2 3
  { holdClass := true, d := .regOrPred (pd != 7), dn := regsOf w.ty, a := .any, an := 1, types := bitTypes,
    specMask := 0x1F,
    extra := if (mode == 3 && pd != 7) || (w.ty == .b64 && mode != 3) then [9] else [] }

/-- The masks (R360, R362). -/
def maskEntry (b c : SrcKind) : Entry := { a := .mask, b := b, c := c, port1 := true }

/-- Words whose every operand field is 0xFF, outside the hold class. -/
def bareEntry (port1 : Bool) : Entry := { port1 := port1 }

/-- The type OP requires of ATOM (R301). -/
def atomTy (op : Nat) : Option Ty :=
  ([.n32, .n64, .b32, .b64, .b32, .b64, .b32, .b64, .i32, .i64, .n32, .n64, .n32, .n64, .i32, .i64, .n32, .n64,
    .b32, .b64, .b32, .b64, .f32, .f64, .f32, .f64, .f32, .f64, .b64] : List Ty)[op]?

/-- The operand count of OP (R301). -/
def atomCount (op : Nat) : Nat := if op = 20 || op = 21 then 2 else if op = 28 then 0 else 1

def atomEntry (w : FWord) (scr : Bool) : Entry :=
  let op := FSpec w % 32
  let n := regsOf w.ty
  { d := .vOrNone, dn := n, a := .vs, an := if scr then 1 else 2,
    b := (match w.b with | .none => .unused | _ => if 1 ≤ atomCount op then .noLatch else .unused), bn := n,
    c := (match w.c with | .none => .unused | _ => if atomCount op = 2 then .noLatch else .unused), cn := n,
    types := (match atomTy op with | some t => [t] | none => [w.ty]), specMask := 0x3F,
    extra := (if 29 ≤ op then [14] else
        (if 1 ≤ atomCount op && w.b == .none then [5] else []) ++ (if atomCount op = 2 && w.c == .none then [5] else [])) }

/-- The operand count of a built-in routine (R212). -/
def builtinCount (r : Nat) : Nat := if r = 84 || r = 85 then 2 else if r = 92 then 0 else 1

/-- LRCALL (R203). -/
def lrcallEntry (w : FWord) : Entry :=
  let r := bitsOf w.mods.toNat 0 7
  let n := match w.c with | .imm x => x.toNat - 16 | _ => 0
  { d := .vOrNone, dn := 3, dalign := 2, a := .vs, an := 2, b := if n = 0 then .unused else .vs, bn := 2 * n, balign := 2,
    c := .count4, types := [.b64], ownMods := true,
    extra := (if n = 0 && w.b != .none && !accepts .vs w.b then [4] else []) ++ (if 64 ≤ r && r ≤ 92 && n != builtinCount r then [9] else [])
      ++ (if 93 ≤ r || bitsOf w.mods.toNat 7 5 != 0 then [14] else []) }

/-- A barrier number in field a: a negative small immediate is cause 14 (R306). -/
def barEntry (w : FWord) (d : DstKind) (b : SrcKind) : Entry :=
  { d := d, a := .sImm, b := b, port1 := true, extra := if immNeg w.a then [14] else [] }

/-- A cross-core barrier number in field a (R429). -/
def xbarEntry (w : FWord) (d : DstKind) (b : SrcKind) : Entry :=
  { d := d, a := .sImm, b := b, port1 := true, extra := if immOut 16 w.a then [14] else [] }

/-- A copy command (R317). -/
def copyEntry (w : FWord) (fill : Bool) : Entry :=
  { a := .sOnly, an := 8, b := if fill then .sOnly else .unused, bn := 2, specMask := 7, port1 := true,
    extra := match w.a with
      | .s r => if r.toNat % 8 ≠ 0 then [4] else []
      | _ => [] }

/-- A circular-buffer word (R314). -/
def cbEntry (w : FWord) (d : DstKind) (b : SrcKind) (mask : Nat) : Entry :=
  { d := d, a := .sImm, b := b, specMask := mask, port1 := true, extra := if immNeg w.a then [14] else [] }

/-- A tile operand: a small immediate lies from 0 to 15 (R379). -/
def tileCauses : Opnd → List Nat
  | .imm x => if immVal x < 0 then [4] else []
  | _ => []

/-- The read-only and listed system registers (R422). -/
def sysListed (n : Nat) : Bool := n ≤ 0x14 || (0x40 ≤ n && n ≤ 0x45) || (0x50 ≤ n && n ≤ 0x5A)

/-- Causes of a system register number (R421, R422); `wr` for SYSWR. Log 17, DEDUCED. -/
def sysCauses (wr : Bool) (n : Nat) : List Nat :=
  if !sysListed n then [14]
  else if wr then (if n ≤ 0x14 then [12] else if n = 0x40 || 0x58 ≤ n then [] else [14]) else []

/-- SYSRD and SYSWR (R421). -/
def sysEntry (w : FWord) (wr : Bool) : Entry :=
  { d := if wr then .unused else .vs, a := (match w.a with | .none => .unused | _ => .sOnly),
    b := if wr then .noLatch else .unused, specMask := if w.a = .none then 0xFF else 0, port1 := true,
    extra := if w.a = .none then sysCauses wr (FSpec w) else [] }

/-- STAMP's fields (R417); `form` is the constructor's form. -/
def stampEntry (w : FWord) (form : Nat) : Entry :=
  { a := .sImm, b := if form = 0 then .sImmConst else .unused, c := if form = 0 then .sOnly else .unused, cn := 2,
    specMask := 0x1F, port1 := true,
    extra := (if FSpec w % 4 = 3 then [3] else []) ++ (if form = 1 && bitsOf (FSpec w) 2 3 != 0 then [3] else [])
      ++ (if immNeg w.a then [14] else []) }

/-- A matrix word (R379, R380). -/
def matEntry (a b c : SrcKind) (cn mask : Nat) (extra : List Nat) : Entry :=
  { a := a, b := b, c := c, cn := cn, specMask := mask, port1 := true, extra := extra }

/-- PMOV's modifiers (R399). -/
def pmovEntry (w : FWord) (dir : Nat) : Entry :=
  let m := w.mods.toNat
  let pi := bitsOf m 7 3
  let mask := bitsOf m 0 7
  { holdClass := true, d := if dir = 1 then .unused else .reg, a := if dir = 1 then .any else .unused, ownMods := true,
    extra := (if bitsOf m 10 2 = 3 then [3] else [])
      ++ (if dir = 2 then (if pi = 7 then [3] else []) ++ (if mask != 0 then [3] else [])
          else (if pi != 0 then [3] else []))
      ++ (if dir = 1 && mask = 0 then [3] else []) }

end Sys2Proof.Machine
end

