-- ==== Sys2Proof/Machine/Float.lean ====
section
/-! DEFINITION. Number formats, the one rounding, float arithmetic, comparison and conversion (R110 to R123). -/

namespace Sys2Proof.Machine

/-- How a format encodes NaNs (R112). -/
inductive NanKind where
  | ieee | allOnes | absent
  deriving DecidableEq, Repr

/-- A floating format: exponent bits, fraction bits, bias, infinities, NaNs (R112). -/
structure Fmt where
  eb : Nat
  mb : Nat
  bias : Nat
  inf : Bool
  nan : NanKind
  deriving DecidableEq, Repr

/-- The W48 accumulator format (R112, R126). -/
def w48 : Fmt := ⟨9, 38, 255, true, .ieee⟩

/-- The format of a float type (R112). -/
def fmtOf : Ty → Fmt
  | .h16 => ⟨5, 10, 15, true, .ieee⟩
  | .bf16 => ⟨8, 7, 127, true, .ieee⟩
  | .f64 => ⟨11, 52, 1023, true, .ieee⟩
  | .e4m3 => ⟨4, 3, 7, false, .allOnes⟩
  | .e5m2 => ⟨5, 2, 15, true, .ieee⟩
  | .e3m2 => ⟨3, 2, 3, false, .absent⟩
  | .e2m1 => ⟨2, 1, 1, false, .absent⟩
  | _ => ⟨8, 23, 127, true, .ieee⟩

/-- The flag bits (R130). -/
def fIV : Nat := 1
def fDZ : Nat := 2
def fOF : Nat := 4
def fUF : Nat := 8
def fNX : Nat := 16
def fSAT : Nat := 32
def fBLK : Nat := 64

/-- A decoded value: a NaN, an infinity, or the exact (-1)^neg × m × 2^e. -/
inductive FVal where
  | nan (sig : Bool)
  | inf (neg : Bool)
  | fin (neg : Bool) (m : Nat) (e : Int)
  deriving DecidableEq, Repr

/-- The value of a pattern (R112, R113). -/
def decodeF (f : Fmt) (x : Nat) : FVal :=
  let neg := x.testBit (f.eb + f.mb)
  let ef := bitsOf x f.mb f.eb
  let fr := bitsOf x 0 f.mb
  let top := 2 ^ f.eb - 1
  if f.nan = .ieee && ef = top then
    if fr = 0 then .inf neg else .nan (!fr.testBit (f.mb - 1))
  else if f.nan = .allOnes && ef = top && fr = 2 ^ f.mb - 1 then .nan false
  else if ef = 0 then .fin neg fr (1 - (f.bias : Int) - (f.mb : Int))
  else .fin neg (2 ^ f.mb + fr) ((ef : Int) - (f.bias : Int) - (f.mb : Int))

/-- Whether a pattern is a subnormal of the format. -/
def isSubnormal (f : Fmt) (x : Nat) : Bool := bitsOf x f.mb f.eb = 0 && bitsOf x 0 f.mb != 0

/-- A subnormal replaced by a zero of its sign, where `ftz` holds (R116). -/
def flushIn (f : Fmt) (ftz : Bool) (x : Nat) : Nat :=
  if ftz && isSubnormal f x then bitsOf x (f.eb + f.mb) 1 * 2 ^ (f.eb + f.mb) else x

/-- The sign bit in place. -/
def signBit (f : Fmt) (neg : Bool) : Nat := if neg then 2 ^ (f.eb + f.mb) else 0

/-- The largest finite pattern, without sign (R112). -/
def largestBits (f : Fmt) : Nat :=
  match f.nan with
  | .ieee => (2 ^ f.eb - 1) * 2 ^ f.mb - 1
  | .allOnes => 2 ^ (f.eb + f.mb) - 2
  | .absent => 2 ^ (f.eb + f.mb) - 1

/-- The default NaN; +0 in a format without NaNs (R96, R112, R121). -/
def defaultNan (f : Fmt) : Nat :=
  match f.nan with
  | .ieee => (2 ^ f.eb - 1) * 2 ^ f.mb + 2 ^ (f.mb - 1)
  | .allOnes => 2 ^ (f.eb + f.mb) - 1
  | .absent => 0

/-- The pattern of an infinity; ±largest in a format without infinities (R96). -/
def infBits (f : Fmt) (neg : Bool) : Nat :=
  signBit f neg + (if f.inf then (2 ^ f.eb - 1) * 2 ^ f.mb else largestBits f)

/-- Whether a remainder `rem` of a unit `2^s` rounds the magnitude n up (R114). -/
def roundsUp (r : Rnd) (neg : Bool) (n rem s : Nat) : Bool :=
  match r with
  | .rn => 2 ^ s < 2 * rem || (2 * rem = 2 ^ s && n % 2 = 1)
  | .rz => false
  | .rp => !neg && rem != 0
  | .rm => neg && rem != 0

/-- The magnitude m × 2^e in units of 2^q, rounded, and whether it was inexact (R114). -/
def roundTo (r : Rnd) (neg : Bool) (m : Nat) (e q : Int) : Nat × Bool :=
  if q ≤ e then (m * 2 ^ (e - q).toNat, false)
  else
    let s := (q - e).toNat
    let n := m >>> s
    let rem := m % 2 ^ s
    (if roundsUp r neg n rem s then n + 1 else n, rem != 0)

/-- What an overflow delivers (R115). -/
def overflowBits (f : Fmt) (r : Rnd) (sat neg : Bool) : Nat :=
  let toInf := match r with
    | .rn => true
    | .rz => false
    | .rp => !neg
    | .rm => neg
  if sat || !toInf || f.nan = .absent then signBit f neg + largestBits f
  else if f.inf then infBits f neg
  else defaultNan f

/-- The one rounding of an exact (-1)^neg × m × 2^e into a format (R114 to R116). -/
def roundF (f : Fmt) (r : Rnd) (sat ftz neg : Bool) (m : Nat) (e : Int) : Nat × Nat :=
  if m = 0 then (signBit f neg, 0)
  else
    let top : Int := e + (Nat.log2 m : Int)
    let emin : Int := 1 - (f.bias : Int)
    let q : Int := (if top < emin then emin else top) - (f.mb : Int)
    let (n0, inexact) := roundTo r neg m e q
    let carry := n0 = 2 ^ (f.mb + 1)
    let n := if carry then 2 ^ f.mb else n0
    let q := if carry then q + 1 else q
    let lb := largestBits f
    let le : Int := (bitsOf lb f.mb f.eb : Int) - (f.bias : Int) - (f.mb : Int)
    let ln := 2 ^ f.mb + bitsOf lb 0 f.mb
    if le ≤ q && ln < n * 2 ^ (q - le).toNat then (overflowBits f r sat neg, fOF + fNX)
    else if n < 2 ^ f.mb then
      if ftz then (signBit f neg, fUF + fNX)
      else (signBit f neg + n, if inexact then fUF + fNX else 0)
    else
      (signBit f neg + (q + (f.mb : Int) + (f.bias : Int)).toNat * 2 ^ f.mb + (n - 2 ^ f.mb), if inexact then fNX else 0)

/-- An infinite result: ±largest under .sat (R115). -/
def infResult (f : Fmt) (sat neg : Bool) : Nat := if sat then signBit f neg + largestBits f else infBits f neg

/-- IV where a NaN operand signals. -/
def ivOf (xs : List FVal) : Nat := if xs.contains (.nan true) then fIV else 0

def FVal.isNan : FVal → Bool
  | .nan _ => true
  | _ => false

/-- A signed magnitude as an integer. -/
def signedMag (neg : Bool) (m : Nat) : Int := if neg then -(m : Int) else (m : Int)

/-- The exact sum of two finite values, its sign where it is zero as R114 says. -/
def addExact (r : Rnd) (n1 : Bool) (m1 : Nat) (e1 : Int) (n2 : Bool) (m2 : Nat) (e2 : Int) : Bool × Nat × Int :=
  let e := if e1 ≤ e2 then e1 else e2
  let s := signedMag n1 (m1 * 2 ^ (e1 - e).toNat) + signedMag n2 (m2 * 2 ^ (e2 - e).toNat)
  if s = 0 then (if n1 = n2 then n1 else r = .rm, 0, e) else (s < 0, s.natAbs, e)

/-- Addition of decoded values (R117). -/
def addV (f : Fmt) (r : Rnd) (sat ftz : Bool) (x y : FVal) : Nat × Nat :=
  match x, y with
  | .nan _, _ | _, .nan _ => (defaultNan f, ivOf [x, y])
  | .inf a, .inf b => if a = b then (infResult f sat a, 0) else (defaultNan f, fIV)
  | .inf a, .fin _ _ _ => (infResult f sat a, 0)
  | .fin _ _ _, .inf b => (infResult f sat b, 0)
  | .fin n1 m1 e1, .fin n2 m2 e2 =>
    let (n, m, e) := addExact r n1 m1 e1 n2 m2 e2
    roundF f r sat ftz n m e

/-- Multiplication of decoded values (R117). -/
def mulV (f : Fmt) (r : Rnd) (sat ftz : Bool) (x y : FVal) : Nat × Nat :=
  match x, y with
  | .nan _, _ | _, .nan _ => (defaultNan f, ivOf [x, y])
  | .inf a, .inf b => (infResult f sat (a != b), 0)
  | .inf a, .fin b m _ => if m = 0 then (defaultNan f, fIV) else (infResult f sat (a != b), 0)
  | .fin b m _, .inf a => if m = 0 then (defaultNan f, fIV) else (infResult f sat (a != b), 0)
  | .fin n1 m1 e1, .fin n2 m2 e2 => roundF f r sat ftz (n1 != n2) (m1 * m2) (e1 + e2)

/-- 0 × ∞, whatever the addend holds. -/
def zeroTimesInf : FVal → FVal → Bool
  | .inf _, .fin _ m _ | .fin _ m _, .inf _ => m = 0
  | _, _ => false

/-- Fused multiply and add of decoded values (R117). -/
def fmaV (f : Fmt) (r : Rnd) (sat ftz : Bool) (x y z : FVal) : Nat × Nat :=
  if x.isNan || y.isNan || z.isNan then
    (defaultNan f, if zeroTimesInf x y then fIV else ivOf [x, y, z])
  else if zeroTimesInf x y then (defaultNan f, fIV)
  else match x, y, z with
    | .fin n1 m1 e1, .fin n2 m2 e2, .fin n3 m3 e3 =>
      let (n, m, e) := addExact r (n1 != n2) (m1 * m2) (e1 + e2) n3 m3 e3
      roundF f r sat ftz n m e
    | .fin _ _ _, .fin _ _ _, .inf c => (infResult f sat c, 0)
    | _, _, _ =>
      let sgn : FVal → Bool := fun v => match v with
        | .inf n => n
        | .fin n _ _ => n
        | .nan _ => false
      let p := sgn x != sgn y
      match z with
      | .inf c => if c = p then (infResult f sat p, 0) else (defaultNan f, fIV)
      | _ => (infResult f sat p, 0)

/-- Comparison of two values that are no NaNs, −0 equal to +0: less, equal or greater. -/
def cmpV (x y : FVal) : Ordering :=
  match x, y with
  | .inf a, .inf b => if a = b then .eq else if a then .lt else .gt
  | .inf a, _ => if a then .lt else .gt
  | _, .inf b => if b then .gt else .lt
  | .fin n1 m1 e1, .fin n2 m2 e2 =>
    let e := if e1 ≤ e2 then e1 else e2
    compare (signedMag n1 (m1 * 2 ^ (e1 - e).toNat)) (signedMag n2 (m2 * 2 ^ (e2 - e).toNat))
  | _, _ => .eq

/-- Whether x comes before y where −0 is below +0 (R118). -/
def belowV (x y : FVal) : Bool :=
  match cmpV x y with
  | .lt => true
  | .gt => false
  | .eq => match x, y with
    | .fin n1 m1 _, .fin n2 m2 _ => m1 = 0 && m2 = 0 && n1 && !n2
    | _, _ => false

/-- minimumNumber and maximumNumber on patterns (R118). -/
def minMaxF (f : Fmt) (isMax : Bool) (x y : Nat) : Nat × Nat :=
  let vx := decodeF f x
  let vy := decodeF f y
  let fl := ivOf [vx, vy]
  if vx.isNan && vy.isNan then (defaultNan f, fl)
  else if vx.isNan then (y, fl)
  else if vy.isNan then (x, fl)
  else if isMax then (if belowV vx vy then y else x, fl)
  else (if belowV vy vx then y else x, fl)

/-- The relation of R335: less, equal, greater or unordered. -/
def relF (f : Fmt) (x y : Nat) : Option Ordering :=
  let vx := decodeF f x
  let vy := decodeF f y
  if vx.isNan || vy.isNan then none else some (cmpV vx vy)

/-- The condition codes of FCMP (R335). -/
def fccHolds (cc : Nat) (r : Option Ordering) : Bool :=
  let l := r == some .lt
  let e := r == some .eq
  let g := r == some .gt
  let u := r == none
  match cc with
  | 0 => e | 1 => l | 2 => l || e | 3 => g | 4 => g || e | 5 => l || g | 6 => l || e || g | 7 => e || u
  | 8 => l || u | 9 => l || e || u | 10 => g || u | 11 => e || g || u | 12 => l || g || u | _ => u

/-- IV of FCMP (R335). -/
def fcmpFlags (f : Fmt) (cc x y : Nat) : Nat :=
  let vx := decodeF f x
  let vy := decodeF f y
  if vx = .nan true || vy = .nan true then fIV
  else if (vx.isNan || vy.isNan) && 1 ≤ cc && cc ≤ 4 then fIV else 0

/-- The least and the greatest value of an integer type (R110). -/
def minInt (t : Ty) : Int := if isSigned t then -((2 ^ (widthOf t - 1) : Nat) : Int) else 0
def maxInt (t : Ty) : Int :=
  if isSigned t then ((2 ^ (widthOf t - 1) : Nat) : Int) - 1 else ((2 ^ widthOf t : Nat) : Int) - 1

/-- An integer of a type from its pattern. -/
def intOf (t : Ty) (x : Nat) : Int :=
  if isSigned t then signedOf (widthOf t) x else ((x % 2 ^ widthOf t : Nat) : Int)

/-- An integer clamped into a type's range (R111). -/
def clampInt (t : Ty) (e : Int) : Int := if e < minInt t then minInt t else if maxInt t < e then maxInt t else e

/-- Whether an integer lies in a type's range. -/
def inRange (t : Ty) (e : Int) : Bool := minInt t ≤ e && e ≤ maxInt t

/-- A value into an integer type (R121). -/
def toIntV (t : Ty) (r : Rnd) (x : FVal) : Nat × Nat :=
  match x with
  | .nan _ => (0, fIV)
  | .inf n => (wrapTo (widthOf t) (if n then minInt t else maxInt t), fIV)
  | .fin n m e =>
    let (k, inexact) := roundTo r n m e 0
    let v := signedMag n k
    if inRange t v then (wrapTo (widthOf t) v, if inexact then fNX else 0)
    else (wrapTo (widthOf t) (clampInt t v), fIV)

/-- A float value into a float format (R121). -/
def toFloatV (f : Fmt) (r : Rnd) (sat ftz : Bool) (x : FVal) : Nat × Nat :=
  match x with
  | .nan s => if f.nan = .absent then (0, fIV) else (defaultNan f, if s then fIV else 0)
  | .inf n =>
    if f.inf then (infResult f sat n, 0)
    else if f.nan = .absent then (signBit f n + largestBits f, if sat then 0 else fOF)
    else if sat then (signBit f n + largestBits f, 0) else (defaultNan f, fIV)
  | .fin n m e => roundF f r sat ftz n m e

/-- An exact integer as a value. -/
def valOfInt (k : Int) : FVal := .fin (k < 0) k.natAbs 0

/-- The level-1 rule of FCVT into E4M3 (R123). -/
def level1E4M3 (r : Rnd) (x : FVal) : Nat × Nat :=
  let f := fmtOf .e4m3
  match x with
  | .nan s => (0x7F, if s then fIV else 0)
  | .inf n => (signBit f n + largestBits f, fOF)
  | .fin n m e => roundF f r true false n m e

/-- A pattern of a numeric type read exactly; `ftz` flushes a subnormal of the four formats that accept it. -/
def readNum (t : Ty) (ftz : Bool) (x : Nat) : FVal :=
  if isFloat t then decodeF (fmtOf t) (flushIn (fmtOf t) (ftz && isFtzType t) (x % 2 ^ widthOf t))
  else valOfInt (intOf t x)

/-- FCVT's result and flags for a pattern of the source type (R120, R121, R123). -/
def convert (level1 : Bool) (dt st : Ty) (r : Rnd) (sat ftz : Bool) (x : Nat) : Nat × Nat :=
  if level1 && dt = .e4m3 then level1E4M3 r (readNum st ftz x)
  else if isFloat dt then toFloatV (fmtOf dt) r sat (ftz && isFtzType dt) (readNum st ftz x)
  else if isFloat st then toIntV dt r (readNum st ftz x)
  else
    let k := intOf st x
    if sat && !inRange dt k then (wrapTo (widthOf dt) (clampInt dt k), fSAT) else (wrapTo (widthOf dt) k, 0)

/-- FRND of one value (R339). -/
def frndF (f : Fmt) (r : Rnd) (ftz : Bool) (x0 : Nat) : Nat × Nat :=
  let x := flushIn f ftz x0
  match decodeF f x with
  | .nan s => (defaultNan f, if s then fIV else 0)
  | .inf _ => (x, 0)
  | .fin n m e =>
    let (k, inexact) := roundTo r n m e 0
    if inexact then ((roundF f .rn false false n k 0).1, 0) else (x, 0)

/-- The class mask of one value (R333). -/
def classF (f : Fmt) (x : Nat) : Nat :=
  match decodeF f x with
  | .nan s => if s then 1 else 2
  | .inf n => if n then 4 else 512
  | .fin n m _ =>
    if m = 0 then (if n then 32 else 64)
    else if isSubnormal f x then (if n then 16 else 128)
    else if n then 8 else 256

/-- Integer square root by bits. -/
def isqrtGo : Nat → Nat → Nat → Nat
  | 0, _, acc => acc
  | k + 1, x, acc =>
    let t := acc + 2 ^ k
    isqrtGo k x (if t * t ≤ x then t else acc)

def isqrt (x : Nat) : Nat := isqrtGo (Nat.log2 x / 2 + 1) x 0

/-- m with a sticky bit below it: a value that lies strictly above m where `st` holds. -/
def sticky (m : Nat) (st : Bool) : Nat := 2 * m + bit1 st

/-- 1 / x of a finite nonzero value, with a sticky bit. -/
def recipExact (m : Nat) (e : Int) : Nat × Int :=
  let k := Nat.log2 m + 80
  (sticky (2 ^ k / m) (2 ^ k % m != 0), -e - (k : Int) - 1)

/-- √x of a positive value, with a sticky bit. -/
def sqrtExact (m : Nat) (e : Int) : Nat × Int :=
  let odd := e % 2 ≠ 0
  let m := (if odd then 2 * m else m) * 2 ^ 160
  let e := (if odd then e - 1 else e) - 160
  let s := isqrt m
  (sticky s (s * s != m), e / 2 - 1)

/-- 1 / √x of a positive value, with a sticky bit. -/
def rsqrtExact (m : Nat) (e : Int) : Nat × Int :=
  let odd := e % 2 ≠ 0
  let m := if odd then 2 * m else m
  let e := if odd then e - 1 else e
  let k := Nat.log2 m + 80
  let s := isqrt (2 ^ (2 * k) / m)
  (sticky s (s * s * m != 2 ^ (2 * k)), -(e / 2) - (k : Int) - 1)

/-- The fixed-point precision of the transcendental functions. -/
def fxP : Nat := 640

/-- Σ x^(2i+1) / (2i+1) over n terms in fixed point: atanh. -/
def atanhGo : Nat → Nat → Nat → Nat → Nat
  | 0, _, _, _ => 0
  | n + 1, pw, sq, i => pw / (2 * i + 1) + atanhGo n ((pw * sq) >>> fxP) sq (i + 1)

/-- atanh of num / den, at most 1/3. -/
def atanhFx (num den : Nat) : Nat :=
  let x := (num <<< fxP) / den
  atanhGo 210 x ((x * x) >>> fxP) 0

/-- ln 2 in fixed point. -/
def ln2Fx : Nat := 2 * atanhFx 1 3

/-- Σ t^i / i! from i = k + 1 on, with term = t^k / k!. -/
def expGo : Nat → Nat → Nat → Nat → Nat
  | 0, _, _, _ => 0
  | n + 1, term, t, i =>
    let term := ((term * t) >>> fxP) / (i + 1)
    term + expGo n term t (i + 1)

/-- e^t − 1 for t in [0, 1) in fixed point. -/
def expm1Fx (t : Nat) : Nat := expGo 150 (2 ^ fxP) t 0

/-- Result of a special function whose value is never a grid point: (-1)^neg × (m + something) × 2^e. -/
def irrational (f : Fmt) (r : Rnd) (ftz neg : Bool) (m : Nat) (e : Int) : Nat × Nat :=
  roundF f r false ftz neg (sticky m true) (e - 1)

/-- 2^x of a finite value in binary32 (R119). -/
def exp2F (r : Rnd) (ftz neg : Bool) (m : Nat) (e : Int) : Nat × Nat :=
  let f := fmtOf .f32
  if m = 0 then (0x3F800000, 0)
  else if 12 ≤ e + (Nat.log2 m : Int) then roundF f r false ftz false 1 (if neg then -4096 else 4096)
  else
    let fx := if 0 ≤ e then (m * 2 ^ e.toNat) <<< fxP else (m <<< fxP) / 2 ^ (-e).toNat
    let x : Int := signedMag neg fx
    let n := x / ((2 ^ fxP : Nat) : Int)
    let fr := (x % ((2 ^ fxP : Nat) : Int)).toNat
    if fr = 0 then roundF f r false ftz false 1 n
    else irrational f r ftz false (2 ^ fxP + expm1Fx ((fr * ln2Fx) >>> fxP)) (n - (fxP : Int))

/-- log2 of a positive value in binary32 (R119). -/
def log2F (r : Rnd) (ftz : Bool) (m : Nat) (e : Int) : Nat × Nat :=
  let f := fmtOf .f32
  let l := Nat.log2 m
  let k : Int := e + (l : Int)
  if m = 2 ^ l then roundF f r false ftz (k < 0) k.natAbs 0
  else
    let ln := 2 * atanhFx (m - 2 ^ l) (m + 2 ^ l)
    let v : Int := k * ((2 ^ fxP : Nat) : Int) + (((ln <<< fxP) / ln2Fx : Nat) : Int)
    irrational f r ftz (v < 0) v.natAbs (-(fxP : Int))

/-- tanh of a finite nonzero value in binary32 (R119). -/
def tanhF (r : Rnd) (ftz neg : Bool) (m : Nat) (e : Int) : Nat × Nat :=
  let f := fmtOf .f32
  if 6 ≤ e + (Nat.log2 m : Int) then irrational f r ftz neg (2 ^ 200 - 1) (-200)
  else
    let fx := if 0 ≤ e then (m * 2 ^ e.toNat) <<< fxP else (m <<< fxP) / 2 ^ (-e).toNat
    let n := (2 * fx) / ln2Fx
    let t := expm1Fx ((2 * fx) % ln2Fx)
    let em1 := t * 2 ^ n + (2 ^ n - 1) * 2 ^ fxP
    irrational f r ftz neg ((em1 <<< fxP) / (em1 + 2 ^ (fxP + 1))) (-(fxP : Int))

/-- The special functions of R119. -/
inductive SpecialFn where
  | rcp | rsq | sqrt | exp2 | log2 | tanh
  deriving DecidableEq, Repr

/-- A special function of one value (R119). -/
def specialF (op : SpecialFn) (t : Ty) (r : Rnd) (ftz : Bool) (x0 : Nat) : Nat × Nat :=
  let f := fmtOf t
  let x := flushIn f ftz x0
  let one := f.bias * 2 ^ f.mb
  match decodeF f x with
  | .nan s => (defaultNan f, if s then fIV else 0)
  | .inf n => match op with
    | .rcp => (signBit f n, 0)
    | .rsq => if n then (defaultNan f, fIV) else (0, 0)
    | .sqrt => if n then (defaultNan f, fIV) else (x, 0)
    | .exp2 => if n then (0, 0) else (x, 0)
    | .log2 => if n then (defaultNan f, fIV) else (x, 0)
    | .tanh => (signBit f n + one, 0)
  | .fin n m e =>
    if m = 0 then match op with
      | .rcp | .rsq => (infBits f n, fDZ)
      | .sqrt | .tanh => (x, 0)
      | .exp2 => (one, 0)
      | .log2 => (infBits f true, fDZ)
    else match op with
      | .rcp => let (q, k) := recipExact m e; roundF f r false ftz n q k
      | .rsq => if n then (defaultNan f, fIV) else let (q, k) := rsqrtExact m e; roundF f r false ftz false q k
      | .sqrt => if n then (defaultNan f, fIV) else let (q, k) := sqrtExact m e; roundF f r false ftz false q k
      | .exp2 => exp2F r ftz n m e
      | .log2 => if n then (defaultNan f, fIV) else log2F r ftz m e
      | .tanh => tanhF r ftz n m e

/-- The level-1 reciprocal (R122). -/
def level1Rcp (x : Nat) : Nat × Nat :=
  let f := fmtOf .f32
  match decodeF f x with
  | .nan s => (defaultNan f, if s then fIV else 0)
  | .inf n => (signBit f n, 0)
  | .fin n m e =>
    if m = 0 || isSubnormal f x then (infBits f n, fDZ)
    else
      let (q, k) := recipExact m e
      let top : Int := k + (Nat.log2 q : Int)
      if top < -126 then (signBit f n, fUF + fNX)
      else
        let y := (roundF f .rz false false false q k).1
        let z := y - y % 4
        (signBit f n + z, if m = 2 ^ Nat.log2 m then 0 else fNX)

/-- One half of a packed or single float word: the function on the one value, or on each half (R117). -/
def onHalves (t : Ty) (g : Nat → Nat × Nat) (parts : Nat → Nat) : Nat × Nat :=
  match t with
  | .h16 | .bf16 =>
    let (lo, f0) := g (parts 0)
    let (hi, f1) := g (parts 1)
    (hi * 65536 + lo, f0 ||| f1)
  | _ => g (parts 0)

/-- Half `h` of a pattern: the low 16 bits or the next 16 for packed pairs, the whole for the other types. -/
def halfOf (t : Ty) (x h : Nat) : Nat :=
  match t with
  | .h16 | .bf16 => bitsOf x (16 * h) 16
  | _ => x

end Sys2Proof.Machine
end

