-- ==== Sys2Proof/Machine/Flags.lean ====
section
/-! DEFINITION. Every value and flag computation of the per-thread words: integer and bit arithmetic with SAT, float words by
halves, conversion, the packing words and their flags (R110 to R123, R329 to R339, R348 to R359, R375, R376, R394 to
R396, R410, R411). A result is a pattern and a set of flag bits. -/

namespace Sys2Proof.Machine

/-- The two-operand integer operations. -/
inductive IntOp where
  | add | sub | mul | mulhi | imin | imax | abs | neg
  deriving DecidableEq, Repr

/-- The exact result of an integer operation (R350, R359). -/
def intExact (op : IntOp) (x y : Int) : Int :=
  match op with
  | .add => x + y
  | .sub => x - y
  | .mul => x * y
  | .mulhi => x * y
  | .imin => if y < x then y else x
  | .imax => if x < y then y else x
  | .abs => (x.natAbs : Int)
  | .neg => -x

/-- An exact integer result written in a type, wrapping or saturating (R111, R351). -/
def finishInt (t : Ty) (sat : Bool) (e : Int) : Nat × Nat :=
  if sat && !inRange t e then (wrapTo (widthOf t) (clampInt t e), fSAT) else (wrapTo (widthOf t) e, 0)

/-- An integer word of two operands (R350, R351, R359). -/
def intOp (op : IntOp) (t : Ty) (sat : Bool) (x y : Nat) : Nat × Nat :=
  let e := intExact op (intOf t x) (intOf t y)
  match op with
  | .mulhi => (wrapTo (widthOf t) (e / ((2 ^ widthOf t : Nat) : Int)), 0)
  | _ => finishInt t sat e

/-- IMAD (R359). -/
def imadOp (t : Ty) (sat : Bool) (x y z : Nat) : Nat × Nat := finishInt t sat (intOf t x * intOf t y + intOf t z)

/-- IADDC and ISUBB: the result and the carry or borrow out (R354). -/
def carryOp (sub : Bool) (t : Ty) (x y : Nat) (cin : Bool) : Nat × Bool :=
  let n := widthOf t
  let e : Int := if sub then (x : Int) - (y : Int) - (bit1 cin : Int) else (x : Int) + (y : Int) + (bit1 cin : Int)
  (wrapTo n e, if sub then e < 0 else ((2 ^ n : Nat) : Int) ≤ e)

/-- ICMP's conditions (R358). -/
def iccHolds (cc : Nat) (t : Ty) (x y : Nat) : Bool :=
  let a := intOf t x
  let b := intOf t y
  match cc with
  | 0 => a = b
  | 1 => a ≠ b
  | 2 => a < b
  | 3 => a ≤ b
  | 4 => b < a
  | _ => b ≤ a

/-- IBFE (R355). -/
def ibfeOp (t : Ty) (x pl : Nat) : Nat :=
  let n := widthOf t
  let p := pl % 256
  let l := min (pl / 256 % 256) n
  let f := ofBits (fun i => if p + i < n then x.testBit (p + i) else isSigned t && x.testBit (n - 1)) l
  if l = 0 then 0 else if isSigned t then wrapTo n (signedOf l f) else f

/-- IBFI (R355). -/
def ibfiOp (t : Ty) (x y pl : Nat) : Nat :=
  let n := widthOf t
  let p := pl % 256
  let l := min (pl / 256 % 256) n
  ofBits (fun i => if p ≤ i && i < p + l then y.testBit (i - p) else x.testBit i) n

/-- IBREV (R356). -/
def ibrevOp (t : Ty) (x : Nat) : Nat := ofBits (fun i => x.testBit (widthOf t - 1 - i)) (widthOf t)

/-- LOP: any function of three inputs, bit by bit (R376). -/
def lopOp (n tbl x y z : Nat) : Nat :=
  ofBits (fun i => tbl.testBit (4 * bit1 (x.testBit i) + 2 * bit1 (y.testBit i) + bit1 (z.testBit i))) n

/-- LEA (R375). -/
def leaOp (x y : Nat) (sx : Bool) (sh : Nat) : Nat :=
  let e : Int := if sx then signedOf 32 y else ((y % 2 ^ 32 : Nat) : Int)
  wrapTo 64 ((x : Int) + e * ((2 ^ sh : Nat) : Int))

/-- The shifts (R410). -/
inductive ShiftOp where
  | shl | shr | sar
  deriving DecidableEq, Repr

def shiftOp (op : ShiftOp) (n x k : Nat) : Nat :=
  match op with
  | .shl => if n ≤ k then 0 else (x * 2 ^ k) % 2 ^ n
  | .shr => if n ≤ k then 0 else (x % 2 ^ n) >>> k
  | .sar => wrapTo n (signedOf n x / ((2 ^ (min k n) : Nat) : Int))

/-- The float operations of two and three operands. -/
inductive FloatOp where
  | add | sub | mul | fma | fmin | fmax
  deriving DecidableEq, Repr

/-- A decoded value with its sign inverted. -/
def negV : FVal → FVal
  | .nan s => .nan s
  | .inf n => .inf (!n)
  | .fin n m e => .fin (!n) m e

/-- One value of a float word (R331). -/
def floatOne (op : FloatOp) (t : Ty) (r : Rnd) (sat ftz : Bool) (x0 y0 z0 : Nat) : Nat × Nat :=
  let f := fmtOf t
  let x := flushIn f ftz x0
  let y := flushIn f ftz y0
  let z := flushIn f ftz z0
  match op with
  | .add => addV f r sat ftz (decodeF f x) (decodeF f y)
  | .sub => addV f r sat ftz (decodeF f x) (negV (decodeF f y))
  | .mul => mulV f r sat ftz (decodeF f x) (decodeF f y)
  | .fma => fmaV f r sat ftz (decodeF f x) (decodeF f y) (decodeF f z)
  | .fmin => minMaxF f false x y
  | .fmax => minMaxF f true x y

/-- A float word of two or three operands, by halves (R117, R331). -/
def floatOp (op : FloatOp) (t : Ty) (r : Rnd) (sat ftz : Bool) (x y z : Nat) : Nat × Nat :=
  onHalves t (fun h => floatOne op t r sat ftz (halfOf t x h) (halfOf t y h) (halfOf t z h)) id

/-- FABS and FNEG (R329). -/
def signOp (neg : Bool) (t : Ty) (x : Nat) : Nat :=
  let f := fmtOf t
  (onHalves t (fun h =>
    let v := halfOf t x h
    let s := v.testBit (f.eb + f.mb)
    let m := bitsOf v 0 (f.eb + f.mb)
    (m + signBit f (neg && !s), 0)) id).1

/-- FCLASS (R333). -/
def fclassOp (t : Ty) (x : Nat) : Nat := (onHalves t (fun h => (classF (fmtOf t) (halfOf t x h), 0)) id).1

/-- FRND (R339). -/
def frndOp (t : Ty) (r : Rnd) (ftz : Bool) (x : Nat) : Nat × Nat :=
  onHalves t (fun h => frndF (fmtOf t) r ftz (halfOf t x h)) id

/-- A value times 2^s. -/
def scaleV (s : Int) : FVal → FVal
  | .fin n m e => .fin n m (e + s)
  | v => v

/-- One element of NPACK (R395). -/
def packOne (t : Ty) (r : Rnd) (sat ftz : Bool) (s : Int) (x : Nat) : Nat × Nat :=
  let v := scaleV (-s) (decodeF (fmtOf .f32) (flushIn (fmtOf .f32) ftz x))
  match t with
  | .q4 => toIntV .q4 r v
  | _ => toFloatV (fmtOf t) r sat false v

/-- NPACK: the packed register and its flags (R395). -/
def npackOp (t : Ty) (r : Rnd) (sat ftz : Bool) (s : Int) : List Nat → Nat × Nat
  | [] => (0, 0)
  | x :: xs =>
    let (v, f0) := packOne t r sat ftz s x
    let (rest, f1) := npackOp t r sat ftz s xs
    (v + rest * 2 ^ widthOf t, f0 ||| f1)

/-- The value of a narrow element (R112, R110). -/
def elementV (t : Ty) (x : Nat) : FVal :=
  match t with
  | .q4 => valOfInt (signedOf 4 x)
  | .i8 => valOfInt (signedOf 8 x)
  | .n8 => valOfInt ((x % 256 : Nat) : Int)
  | _ => decodeF (fmtOf t) x

/-- NUNPK: the values and their flags (R395). -/
def nunpkOp (t : Ty) (r : Rnd) (ftz : Bool) (s : Int) (x : Nat) : List (Nat × Nat) :=
  (List.range (packCount t)).map (fun i =>
    toFloatV (fmtOf .f32) r false ftz (scaleV s (elementV t (bitsOf x (widthOf t * i) (widthOf t)))))

/-- Lmax of NSCALE as m × 2^e (R396). -/
def lmaxOf : Ty → Nat × Int
  | .e4m3 => (7, 6)
  | .e5m2 => (7, 13)
  | .e3m2 => (7, 2)
  | .e2m1 => (3, 1)
  | _ => (7, 0)

/-- The smallest k with m × 2^e ≤ lm × 2^(le + k). -/
def smallestScale (lm : Nat) (le : Int) (m : Nat) (e : Int) : Int :=
  let k0 : Int := e + (Nat.log2 m : Int) - le - (Nat.log2 lm : Int)
  -- at k0 the leading bits of the two sides stand at one place
  let d : Int := (Nat.log2 m : Int) - (Nat.log2 lm : Int)
  let fits := if 0 ≤ d then m ≤ lm * 2 ^ d.toNat else m * 2 ^ (-d).toNat ≤ lm
  if fits then k0 else k0 + 1

/-- The exponent that NSCALE gives one sub-block, and its flags (R396). -/
def nscaleOne (t : Ty) (x : Nat) : Int × Nat :=
  match decodeF (fmtOf .f32) x with
  | .nan _ | .inf _ => (31, fIV)
  | .fin _ m e => if m = 0 then (-32, 0) else (smallestScale (lmaxOf t).1 (lmaxOf t).2 m e, 0)

/-- NSCALE (R396). -/
def nscaleOp (t : Ty) (xs : List Nat) : Nat × Nat :=
  let njs := xs.map (nscaleOne t)
  let fl := njs.foldl (fun acc p => acc ||| p.2) 0
  let e0 := njs.foldl (fun acc p => if acc < p.1 then p.1 else acc) (-1000000 : Int)
  let ov := (31 : Int) < e0
  let e := if ov then 31 else if e0 < -32 then -32 else e0
  let fs := njs.map (fun p => (min 3 (max 0 (e - p.1))).toNat)
  let body := (List.range 4).foldl (fun acc j => acc + (fs.getD j 0) * 2 ^ (2 * j + 2)) 0
  (wrapTo 6 e * 1024 + body, if ov then fl ||| fOF else fl)

/-- What a read-modify-write leaves at its address and the flags it raises, by OP of R301 (R212, R301). -/
def atomOp (op : Nat) (old a0 a1 : Nat) : Nat × Nat :=
  match op with
  | 0 => ((old + a0) % 2 ^ 32, 0)
  | 1 => ((old + a0) % 2 ^ 64, 0)
  | 2 | 3 => (old &&& a0, 0)
  | 4 | 5 => (old ||| a0, 0)
  | 6 | 7 => (old ^^^ a0, 0)
  | 8 => (if signedOf 32 a0 < signedOf 32 old then a0 else old, 0)
  | 9 => (if signedOf 64 a0 < signedOf 64 old then a0 else old, 0)
  | 10 | 11 => (if a0 < old then a0 else old, 0)
  | 14 => (if signedOf 32 old < signedOf 32 a0 then a0 else old, 0)
  | 15 => (if signedOf 64 old < signedOf 64 a0 then a0 else old, 0)
  | 12 | 13 | 16 | 17 => (if old < a0 then a0 else old, 0)
  | 18 | 19 => (a0, 0)
  | 20 | 21 => (if old = a0 then a1 else old, 0)
  | 22 => floatOne .add .f32 .rn false false old a0 0
  | 23 => floatOne .add .f64 .rn false false old a0 0
  | 24 => floatOne .fmin .f32 .rn false false old a0 0
  | 25 => floatOne .fmin .f64 .rn false false old a0 0
  | 26 => floatOne .fmax .f32 .rn false false old a0 0
  | 27 => floatOne .fmax .f64 .rn false false old a0 0
  | _ => (old, 0)

/-- Whether OP names a 32-bit form: the even ones below 28 (R301). -/
def atomIs32 (op : Nat) : Bool := op % 2 = 0 && op < 28

/-- Combine of the reductions (R344): OP, type and modifiers. -/
def combineOp (op : Nat) (t : Ty) (r : Rnd) (sat ftz : Bool) (x y : Nat) : Nat × Nat :=
  if isFloat t then
    match op with
    | 0 => floatOne .add t r sat ftz x y 0
    | 1 => floatOne .fmin t r false ftz x y 0
    | _ => floatOne .fmax t r false ftz x y 0
  else match op with
    | 0 => intOp .add t sat x y
    | 1 => intOp .imin t false x y
    | 2 => intOp .imax t false x y
    | 3 => (x &&& y, 0)
    | 4 => (x ||| y, 0)
    | _ => (x ^^^ y, 0)

/-- The identity of a reduction (R344). -/
def identityOp (op : Nat) (t : Ty) : Nat :=
  if isFloat t then
    match op with
    | 0 => 0
    | 1 => infBits (fmtOf t) false
    | _ => infBits (fmtOf t) true
  else match op with
    | 1 => wrapTo (widthOf t) (maxInt t)
    | 2 => wrapTo (widthOf t) (minInt t)
    | 3 => 2 ^ widthOf t - 1
    | _ => 0

/-- A value with flags, or an absent lane (R128). -/
abbrev RVal := Option (Nat × Nat)

/-- Combine of two tree values; an absent side is no Combine (R128, R345). -/
def combineR (f : Nat → Nat → Nat × Nat) (x y : RVal) : RVal :=
  match x, y with
  | none, _ => y
  | _, none => x
  | some (a, fa), some (b, fb) => let (v, fl) := f a b; some (v, fa ||| fb ||| fl)

/-- One level of the tree: neighbours combined (R128). -/
def treeLevel (f : Nat → Nat → Nat × Nat) : List RVal → List RVal
  | x :: y :: rest => combineR f x y :: treeLevel f rest
  | xs => xs

/-- The value of the tree over 2^d leaves (R128, R17). -/
def treeOf (f : Nat → Nat → Nat × Nat) : Nat → List RVal → RVal
  | 0, xs => xs.headD none
  | d + 1, xs => treeOf f d (treeLevel f xs)

/-- The prefix over the first n lanes, split into the maximal aligned blocks, combined from the left (R129); `d` bounds
the block size 2^d. -/
def prefixOf (f : Nat → Nat → Nat × Nat) : Nat → List RVal → Nat → RVal → RVal
  | 0, xs, n, acc => if n = 0 then acc else combineR f acc (xs.headD none)
  | d + 1, xs, n, acc =>
    if 2 ^ (d + 1) ≤ n then
      prefixOf f d (xs.drop (2 ^ (d + 1))) (n - 2 ^ (d + 1)) (combineR f acc (treeOf f (d + 1) (xs.take (2 ^ (d + 1)))))
    else prefixOf f d xs n acc

end Sys2Proof.Machine
end

