-- ==== Sys2Proof/Config.lean ====
section
/-! DEFINITION. What an implementation fixes and the spec leaves open: constants without a body, so that nothing can
evaluate them. -/

namespace Sys2Proof.Config

/-- The outcome of the n-th free choice: which eligible stores of the third kind a load takes, which further stores a
publish takes (R181, R183), the flags of unordered words that a read of %flags sees (R132). Log 4, DESIGN CHOICE. -/
opaque choose : Nat → Bool

/-- The two XTS keys of key ID 0, which belong to the lodge and its firmware (R177). Log 5, DESIGN CHOICE. -/
opaque lodgeKeys : BitVec 512

/-- What the engine encrypts with under a key ID whose slot is clear (R177). Log 5, DESIGN CHOICE. -/
opaque clearKeys : Nat → BitVec 512

/-- The virtual address at which the image of a newly sealed version of a context is mapped: context, version number,
image size (R313). Log 4, DESIGN CHOICE. -/
opaque codeBase : Nat → Nat → Nat → Nat

/-- The fused 32-byte device seed (R291). Log 4, DESIGN CHOICE. -/
opaque seed : BitVec 256

/-- Which cores of a polder the fuse map marks as its spares: the place of spare k of polder P, by 4 × P + k, among the cores of the polder
that it has not marked before (R15). Log 93, DESIGN CHOICE. -/
opaque spareCore : Nat → Nat

/-- The certificate in lodge flash for the two public keys of the device: an identity key, a KEM key (R291). Log 56, DESIGN CHOICE. -/
opaque certificate : List Byte → List Byte → List Byte

/-- The fused minimum firmware version at manufacture (R292). Log 4, DESIGN CHOICE. -/
opaque minVersion : BitVec 32

/-- The boot images of the two banks in lodge flash: bank B?, then digest and version (R268, R292). Log 4, DESIGN CHOICE. -/
opaque bootDigest : Bool → BitVec 256
opaque bootVersion : Bool → BitVec 32

/-- Whether a boot image passes the check of digest and signature that the boot code makes: bank B? (R292). Log 4, DESIGN
CHOICE. -/
opaque bootOk : Bool → Bool

/-- The trace ring that the lodge names for a partition when it starts, if it enables trace records: SPER, base, number of records (R282).
Log 73, DESIGN CHOICE. -/
opaque traceRing : Nat → Option (Nat × Nat × Nat)

/-- The bank that the lodge boots from at the first bring-up (R268). Log 4, DESIGN CHOICE. -/
opaque bootBank : Bool

/-- Version, digest and body in the bytes of a firmware image, whose layout R292 does not give. Log 70, DESIGN CHOICE. -/
opaque fwVersion : List Byte → BitVec 32
opaque fwDigest : List Byte → BitVec 256
opaque fwBody : List Byte → List Byte

/-- The public key that firmware images are signed under, whose digest is fused, and the place of the signature in the bytes of an image,
whose layout R292 does not give. Log 56, DESIGN CHOICE. -/
opaque signingKey : List Byte
opaque fwSignature : List Byte → List Byte

/-- The 32 random bytes of the signature of a report, by the number of the free choice (R293). Log 56, DESIGN CHOICE. -/
opaque signatureRandom : Nat → BitVec 256

/-- The choice of the replacement policy among the ways of a full set, by the number of the free choice (R176). Log 94, DESIGN CHOICE. -/
opaque victim : Nat → Nat

/-- Which of the bytes between the first that a copy command may not touch and the last that it touches the record of its scratchpad
fault names, by the number of the free choice (R216, R252). Log 107, DESIGN CHOICE. -/
opaque copyFault : Nat → Nat

/-- What a trace record holds in a field that R282 gives no value for its kind: the field. Log 4, DESIGN CHOICE. -/
opaque unstated : Nat → Nat

/-- LOC and INDEX of RAS records where R264 does not say how a location is numbered: unit, and the location's own numbers. Log 4,
DESIGN CHOICE. -/
opaque rasLoc : Nat → Nat → Nat → Nat

/-- The context number that tags a line which a peer device writes: its domain number, key ID, physical address (R178, R286). Log 55, DESIGN CHOICE. -/
opaque peerTag : Nat → Nat → Nat → Nat

end Sys2Proof.Config
end

