-- ==== Sys2Proof/Machine/Aes.lean ====
section
/-! DEFINITION. AES-256, its XTS mode for one 16-byte block of a 128-byte data unit, and AES key unwrap, which the spec names for
memory encryption and for key provisioning (R177, R178, R294). The functions are those of FIPS 197, IEEE 1619 and RFC 3394. -/

namespace Sys2Proof.Machine

/-- The S-box of FIPS 197, by byte value. Log 92, PRESUMED. -/
def aesSbox : List Nat :=
  [99, 124, 119, 123, 242, 107, 111, 197, 48, 1, 103, 43, 254, 215, 171, 118,
   202, 130, 201, 125, 250, 89, 71, 240, 173, 212, 162, 175, 156, 164, 114, 192]
  ++ [183, 253, 147, 38, 54, 63, 247, 204, 52, 165, 229, 241, 113, 216, 49, 21,
   4, 199, 35, 195, 24, 150, 5, 154, 7, 18, 128, 226, 235, 39, 178, 117]
  ++ [9, 131, 44, 26, 27, 110, 90, 160, 82, 59, 214, 179, 41, 227, 47, 132,
   83, 209, 0, 237, 32, 252, 177, 91, 106, 203, 190, 57, 74, 76, 88, 207]
  ++ [208, 239, 170, 251, 67, 77, 51, 133, 69, 249, 2, 127, 80, 60, 159, 168,
   81, 163, 64, 143, 146, 157, 56, 245, 188, 182, 218, 33, 16, 255, 243, 210]
  ++ [205, 12, 19, 236, 95, 151, 68, 23, 196, 167, 126, 61, 100, 93, 25, 115,
   96, 129, 79, 220, 34, 42, 144, 136, 70, 238, 184, 20, 222, 94, 11, 219]
  ++ [224, 50, 58, 10, 73, 6, 36, 92, 194, 211, 172, 98, 145, 149, 228, 121,
   231, 200, 55, 109, 141, 213, 78, 169, 108, 86, 244, 234, 101, 122, 174, 8]
  ++ [186, 120, 37, 46, 28, 166, 180, 198, 232, 221, 116, 31, 75, 189, 139, 138,
   112, 62, 181, 102, 72, 3, 246, 14, 97, 53, 87, 185, 134, 193, 29, 158]
  ++ [225, 248, 152, 17, 105, 217, 142, 148, 155, 30, 135, 233, 206, 85, 40, 223,
   140, 161, 137, 13, 191, 230, 66, 104, 65, 153, 45, 15, 176, 84, 187, 22]

def aesSub (x : Nat) : Nat := aesSbox.getD x 0

/-- The byte that the S-box takes to x. -/
def aesUnsub (x : Nat) : Nat := aesSbox.idxOf x

/-- Twice a byte in the field of AES. -/
def aesX2 (x : Nat) : Nat := if x < 128 then 2 * x else (2 * x - 256) ^^^ 0x1B

/-- A product in the field of AES, by the bits of the first factor. -/
def aesMul (k x : Nat) : Nat :=
  let x2 := aesX2 x
  let x4 := aesX2 x2
  (if k.testBit 0 then x else 0) ^^^ (if k.testBit 1 then x2 else 0) ^^^ (if k.testBit 2 then x4 else 0)
    ^^^ (if k.testBit 3 then aesX2 x4 else 0)

/-- Bytes added bit by bit. -/
def xorBytes (a b : List Nat) : List Nat := List.zipWith (· ^^^ ·) a b

/-- The next eight key bytes pairs of a key schedule: the 32 bytes after `k`, with the round constant `rc`. -/
def aesNextKey (k : List Nat) (rc : Nat) : List Nat :=
  let w := fun (i : Nat) => (k.drop (4 * i)).take 4
  let t := match w 7 with
    | [a, b, c, d] => [aesSub b ^^^ rc, aesSub c, aesSub d, aesSub a]
    | x => x
  let w0 := xorBytes (w 0) t
  let w1 := xorBytes (w 1) w0
  let w2 := xorBytes (w 2) w1
  let w3 := xorBytes (w 3) w2
  let w4 := xorBytes (w 4) (w3.map aesSub)
  let w5 := xorBytes (w 5) w4
  let w6 := xorBytes (w 6) w5
  w0 ++ w1 ++ w2 ++ w3 ++ w4 ++ w5 ++ w6 ++ xorBytes (w 7) w6

/-- The key schedule of a 32-byte key: n more blocks of 32 bytes. -/
def aesSchedule : Nat → Nat → List Nat → List Nat
  | 0, _, k => k
  | n + 1, rc, k => k ++ aesSchedule n (aesX2 rc) (aesNextKey k rc)

/-- The 15 round keys of a 32-byte key. -/
def aesKeys (key : List Nat) : List (List Nat) :=
  let ks := aesSchedule 7 1 key
  (List.range 15).map (fun i => (ks.drop (16 * i)).take 16)

/-- A state with byte i taken from place f i. -/
def aesPerm (f : Nat → Nat) (s : List Nat) : List Nat := (List.range 16).map (fun i => s.getD (f i) 0)

/-- The columns of a state multiplied by the circulant matrix of four factors. -/
def aesMix (a b c d : Nat) (s : List Nat) : List Nat :=
  (List.range 16).map (fun i =>
    let at' := fun (j : Nat) => s.getD (i / 4 * 4 + (i + j) % 4) 0
    aesMul a (at' 0) ^^^ aesMul b (at' 1) ^^^ aesMul c (at' 2) ^^^ aesMul d (at' 3))

/-- Rows shifted left, and right. -/
def aesShift (s : List Nat) : List Nat := aesPerm (fun i => (i + 4 * (i % 4)) % 16) s
def aesUnshift (s : List Nat) : List Nat := aesPerm (fun i => (i + 12 * (i % 4)) % 16) s

/-- Rounds of the cipher with the given round keys; the last leaves the columns unmixed. -/
def aesRounds : List (List Nat) → List Nat → List Nat
  | [], s => s
  | [k], s => xorBytes (aesShift (s.map aesSub)) k
  | k :: ks, s => aesRounds ks (xorBytes (aesMix 2 3 1 1 (aesShift (s.map aesSub))) k)

/-- Rounds of the inverse cipher, with the round keys from the last but one down to the first. -/
def aesUnrounds : List (List Nat) → List Nat → List Nat
  | [], s => s
  | [k], s => xorBytes ((aesUnshift s).map aesUnsub) k
  | k :: ks, s => aesUnrounds ks (aesMix 14 11 13 9 (xorBytes ((aesUnshift s).map aesUnsub) k))

/-- AES-256 of a 16-byte block under a 32-byte key. Log 92, PRESUMED. -/
def aesEncrypt (key blk : List Nat) : List Nat :=
  match aesKeys key with
  | [] => blk
  | k :: ks => aesRounds ks (xorBytes blk k)

/-- The inverse cipher. Log 92, PRESUMED. -/
def aesDecrypt (key blk : List Nat) : List Nat :=
  match (aesKeys key).reverse with
  | [] => blk
  | k :: ks => aesUnrounds ks (xorBytes blk k)

/-- Bytes as numbers, and back. -/
def numsOf (bs : List Byte) : List Nat := bs.map BitVec.toNat
def bytesOfNums (xs : List Nat) : List Byte := xs.map (BitVec.ofNat 8)

/-- The two 32-byte XTS keys of a key ID, the data key first (R177, R294). -/
def xtsKey1 (k : BitVec 512) : List Nat := numsOf (bytesOf 32 k.toNat)
def xtsKey2 (k : BitVec 512) : List Nat := numsOf (bytesOf 32 (k.toNat / 2 ^ 256))

/-- A 128-bit number doubled in the field of XTS. -/
def xtsDouble (x : Nat) : Nat := if x < 2 ^ 127 then 2 * x else (2 * x - 2 ^ 128) ^^^ 0x87

/-- The tweak of block j of the data unit with a sequence number (R177). -/
def xtsTweak (k : BitVec 512) (seq j : Nat) : List Nat :=
  let t := natOfBytes (bytesOfNums (aesEncrypt (xtsKey2 k) (numsOf (bytesOf 16 seq))))
  numsOf (bytesOf 16 (Nat.repeat xtsDouble j t))

/-- Block j of a data unit encrypted, and decrypted (R177). Log 92, PRESUMED. -/
def xtsEncrypt (k : BitVec 512) (seq j : Nat) (blk : List Nat) : List Nat :=
  let t := xtsTweak k seq j
  xorBytes (aesEncrypt (xtsKey1 k) (xorBytes blk t)) t

def xtsDecrypt (k : BitVec 512) (seq j : Nat) (blk : List Nat) : List Nat :=
  let t := xtsTweak k seq j
  xorBytes (aesDecrypt (xtsKey1 k) (xorBytes blk t)) t

/-- One step of key unwrapping at place i (from 1) and step number t: the check value and the eight-byte blocks after it. -/
def unwrapStep (key : List Nat) (t i : Nat) (st : List Nat × List (List Nat)) : List Nat × List (List Nat) :=
  let tb := (numsOf (bytesOf 8 t)).reverse
  let b := aesDecrypt key (xorBytes st.1 tb ++ st.2.getD (i - 1) [])
  (b.take 8, st.2.set (i - 1) (b.drop 8))

/-- Key unwrapping of RFC 3394 for n eight-byte blocks: steps 6n down to 1. -/
def unwrapSteps (key : List Nat) (n : Nat) : Nat → List Nat × List (List Nat) → List Nat × List (List Nat)
  | 0, st => st
  | t + 1, st => unwrapSteps key n t (unwrapStep key (t + 1) (t % n + 1) st)

/-- The key data of wrapped bytes, where the integrity check passes (R294). Log 92, PRESUMED. -/
def keyUnwrap (key wrapped : List Nat) : Option (List Nat) :=
  let n := wrapped.length / 8 - 1
  let bs := (List.range n).map (fun i => (wrapped.drop (8 * (i + 1))).take 8)
  let st := unwrapSteps key n (6 * n) (wrapped.take 8, bs)
  if st.1 = List.replicate 8 0xA6 then some st.2.flatten else none

end Sys2Proof.Machine
end

