-- ==== Sys2Proof/Machine/State.lean ====
section
/-! DEFINITION. The state of the TB940 and of the agents around its cores, as plain data, and its value at reset. -/

namespace Sys2Proof.Machine

/-- Why a run stops with a fault. -/
inductive Fault where
  /-- Raised by a word's meaning when `cur` names no path of a resident workgroup, so no word stands to be executed
  (R29 selects a path before a word issues). Safe: no step of an issue opportunity reaches it. -/
  | noPath
  deriving DecidableEq, Repr

/-- Why a step has no meaning. -/
inductive Refusal where
  /-- An instruction of the table that has no meaning yet. Safe: the machine stops. -/
  | notModelled (mnemonic : String)
  deriving DecidableEq, Repr

/-- Precedence clocks (R182): thread identity → number of its memory accesses that precede. -/
abbrev Clock := SMap Nat

/-- The keys under which a 128-byte line of a tier stands encrypted (R177): none where nothing has written it, the lodge's own
(key ID 0), the two XTS keys of an owner, or what the engine uses for a key ID under which none are loaded. Log 5, DESIGN CHOICE. -/
inductive LineKey where
  | none
  | lodge
  | owner (keys : BitVec 512)
  | clear (id : Nat)
  deriving DecidableEq, Repr

/-- Memory contents by physical address as they read under the keys of their line, the keys of each line, and the security
engine's key slots, by key ID (R175 to R178, R294). -/
structure Mem where
  bytes : SMap Byte
  keys : SMap LineKey
  slots : SMap (BitVec 512)
  deriving DecidableEq, Repr

/-- One unpublished store of U_c, or a published one that the core's snapshot does not hold yet (R180, R181). -/
structure UStore where
  lid : Nat
  uid : Nat
  seq : Nat
  ctx : Nat
  key : Nat
  cells : List Host.Cell
  rel : Clock
  pub : Bool
  deriving DecidableEq, Repr

/-- The issue ordinal that a launch has on a logical core, 0 at launch (R74). Log 20, DEDUCED. -/
structure View where
  lid : Nat
  ordinal : Nat
  deriving DecidableEq, Repr

/-- A matrix word in the matrix queue, its scalar operands read (R149). -/
inductive MOp where
  | mldb (slot base shape : Nat)
  | mswap (bx by_ : Nat)
  | mma (tile base shape slot : Nat) (win : Option Nat)
  | mzero (tile n : Nat)
  | mlda (tile base : Nat) (ty : Ty) (ori : Bool)
  | msta (tile base : Nat) (ty : Ty) (ori : Bool) (rnd : Rnd) (sat : Bool)
  deriving DecidableEq, Repr

/-- An entry of the matrix queue, with the group that issued it, whether its span was open, and whether it is the span's first
MMA or MMAW (R149, R168). -/
structure MEntry where
  wid : Nat
  gid : Nat
  inSpan : Bool
  first : Bool
  op : MOp
  deriving DecidableEq, Repr

/-- A logical core, by its key 256 × partition + number (R12, R16, R31, R35, R149, R180). -/
structure LCore where
  key : Nat
  /-- the snapshot S_c (R180) -/
  snap : Mem
  /-- the phase ordinal (R184) -/
  phase : Nat
  views : List View
  ulist : List UStore
  /-- FENCE release clocks of published bytes, by physical address -/
  brel : SMap Clock
  mq : List MEntry
  /-- the running group of a deterministic launch: workgroup and group (R46) -/
  running : Option (Nat × Nat)
  /-- the group that each issue unit holds (R31) -/
  held : List (Option (Nat × Nat))
  /-- round-robin pointers of the issue units (R35) -/
  rr : List Nat
  /-- panels being zeroed: physical core, first panel and count (R148) -/
  zeroing : List (Nat × Nat × Nat)
  deriving DecidableEq, Repr

/-- A WAITV in progress (R229). -/
structure WaitV where
  va : Nat
  pa : Nat
  key : Nat
  w64 : Bool
  cmp : DWord
  d : Opnd
  /-- ck of the first blocking and ck of the current sleep -/
  start : Nat
  since : Nat
  interval : Nat
  /-- sleeping on a monitor, or polling -/
  mon : Bool
  woken : Bool
  /-- its read is at the slice -/
  reading : Bool
  last : DWord
  deriving DecidableEq, Repr

/-- The kinds of access that a page-fault request names: the permissions that it needs (R173, R258). -/
inductive Access where
  | load | store | update | fetch
  deriving DecidableEq, Repr

/-- What a blocked thread waits for (R73, R258, R405). -/
inductive Wait where
  | kwait (k : Nat)
  | bar (b tok : Nat) (d : Opnd)
  | waitv (w : WaitV)
  /-- a CBACQ on a buffer, with its destination -/
  | cbuf (n : Nat) (d : Opnd)
  | xbar (x tok : Nat) (d : Opnd)
  /-- the queue mask, and the serial number that the awaited commands lie below -/
  | qwait (m upto : Nat)
  /-- an absent page, the kind of access, and the address of the access of a lane that met it (R258) -/
  | page (page : Nat) (kind : Access) (va : Option Nat)
  deriving DecidableEq, Repr

/-- The run state of a thread (R42, R73, R328). -/
inductive Run where
  | ready
  | wait (w : Wait)
  | pool
  | exited
  deriving DecidableEq, Repr

/-- A load whose data has not been written yet (R368, R374): `gather` marks an s destination, `va` is its address, `bad` the poisoned line
it consumes, with the SEQ of its RAS record (R260), and `pas` the physical addresses at which it meets its pages (R287). -/
structure LoadFly where
  pc : Nat
  d : Opnd
  vals : List Word
  gather : Bool
  va : Nat
  bad : Option (Nat × Nat)
  pas : List Nat
  deriving DecidableEq, Repr

/-- The registers that the return slot will write (R204), and whether the reply loads: that of an LDA, a WAITV's read and an ATOM.LOAD. -/
structure SlotHold where
  d : Opnd
  n : Nat
  load : Bool
  deriving DecidableEq, Repr

/-- The conformance registers of a thread, and the PC of the trapped word (R422, R426). Log 113, DEDUCED. -/
structure Conf where
  pc : Nat
  word : DWord
  a : DWord
  b : DWord
  c : DWord
  res : DWord
  flags : BitVec 7
  deriving DecidableEq, Repr

/-- A thread; its index in the workgroup's list is %tid (R27, R41, R83, R98, R191). -/
structure Thread where
  gid : Nat
  lane : Nat
  stage : Nat
  pc : Nat
  v : SMap Word
  p : BitVec 7
  l0 : Option DWord
  l1 : Option DWord
  l2 : Option DWord
  l3 : Option DWord
  hold : Nat
  age : Nat
  run : Run
  nlive : Nat
  phc : Nat
  detc : Nat
  slot : Option SlotHold
  loads : List LoadFly
  /-- memory accesses made so far, and the clocks of R182 -/
  seq : Nat
  vc : Clock
  fvc : Clock
  acq : Clock
  obs : SMap Nat
  skip : Bool
  /-- put back at a wait word that it is to re-issue, by a restore or as its group parked: the WAIT code, and the token of a barrier wait or
  the mask of a KWAIT (R73, R276, R307) -/
  resumed : Option (Nat × Nat)
  /-- how far a LAUNCH that has not handed over has come: its publish is done, and the record that it has read (R365) -/
  launchAt : Option (Option Nat)
  conf : Option Conf
  deriving DecidableEq, Repr

/-- An open span (R56). -/
structure Span where
  pc : Nat
  f : Nat
  n : Nat
  ext : Nat
  saved : List (Nat × List Word × BitVec 7)
  slotmap : List Nat
  wtiles : List Nat
  /-- the physical slots that the span's MMAs read (R57, R60) -/
  rslots : List Nat
  /-- its first MMA or MMAW has issued -/
  begun : Bool
  deriving DecidableEq, Repr

/-- A load with an s destination that gathers its lanes (R48). -/
structure Gather where
  pc : Nat
  d : Opnd
  tids : List Nat
  got : List (Nat × List Word)
  deriving DecidableEq, Repr

/-- A debug event of one stopped lane (R281). -/
structure DbgEv where
  kind : Nat
  index : Nat
  defer : Bool
  all : Bool
  tid : Nat
  wgid : Nat
  gid : Nat
  lane : Nat
  ncore : Nat
  pc : Nat
  fva : Nat
  lid : Nat
  deriving DecidableEq, Repr

/-- A stop that a group takes at the end of the ck or, inside a hold region, behind its closing word: whether it is an all-stop, and its events
(R55, R276, R281). -/
structure Stop where
  all : Bool
  events : List DbgEv
  deriving DecidableEq, Repr

/-- A group (R24, R35, R38, R42, R83, R276). -/
structure Group where
  gid : Nat
  stage : Nat
  lanes : List (Option Nat)
  s : SMap Word
  k : SMap (BitVec 64)
  span : Option Span
  /-- a tile error has rolled the span back since the last MCOMMIT (R261) -/
  struck : Bool
  parked : Bool
  /-- a stop that it has met and not taken yet (R55, R276) -/
  stops : Option Stop
  /-- STEP in flight (R277), and whether the debug right has ended meanwhile (R280) -/
  stepping : Bool
  lastStep : Bool
  ready : Nat
  entry : Nat
  gathers : List Gather
  deriving DecidableEq, Repr

/-- A slot descriptor (R155, R446). -/
structure SlotDesc where
  k : Nat
  n : Nat
  bt : Nat
  sb : Bool
  loaded : Bool
  deriving DecidableEq, Repr

/-- A circular buffer's state word (R145). -/
structure CBuf where
  slots : Nat
  free : Nat
  filled : Nat
  widx : Nat
  ridx : Nat
  held : Nat
  deriving DecidableEq, Repr

/-- A copy command or, with cmd = 0, a fence entry (R216, R404, R447). -/
structure CopyCmd where
  serial : Nat
  cmd : Nat
  q : Nat
  mask : Nat
  pc : Nat
  desc : List Word
  pat : DWord
  taken : Option Nat
  started : Bool
  done : Bool
  sectors : Nat
  /-- the index or page list, once read -/
  idx : Option (List Nat)
  clk : Clock
  fl : BitVec 7
  stampIn : List Nat
  stampOut : List Nat
  /-- physical addresses of the global sectors written -/
  dests : List Nat
  /-- the source sectors, window units and manifest entries that the command has read, by their place (R194) -/
  srcs : SMap (List Byte)
  deriving DecidableEq, Repr

/-- An open range on DET pages (R194): the runs of bytes, each by its first address and its length. -/
structure OpenRange where
  q : Nat
  wr : Bool
  runs : List (Nat × Nat)
  /-- the fence that covers its queue, by its serial number: the range closes when the fence's entries reach the heads (R404) -/
  fence : Option Nat
  deriving DecidableEq, Repr

/-- A stamp entry (R168), with the ck in which it was opened last (R418). -/
structure Stamp where
  isOpen : Bool
  openCk : Nat
  tag : Nat
  addr : Nat
  inQ : Option Nat
  outQ : Option Nat
  mmaG : Option Nat
  spanG : Option Nat
  t1 : Nat
  t2 : Nat
  t3 : Nat
  t4 : Nat
  t5 : Nat
  t6 : Nat
  deriving DecidableEq, Repr

/-- A resident workgroup (R24 to R28, R72, R130, R133, R145, R155, R222). -/
structure WG where
  wid : Nat
  lid : Nat
  wgid : Nat
  core : Nat
  base : Nat
  /-- its first tile and its first stationary slot of the core's 256 and 4 (R12, R28). Log 53, DEDUCED. -/
  tileAt : Nat
  slotAt : Nat
  formation : Nat
  flags : BitVec 32
  /-- how often SYSWR has cleared each flag (R423): the flags that threads know are those raised since -/
  cleared : SMap Nat
  win : SMap Byte
  /-- FENCE release clocks of scratchpad bytes -/
  wrel : SMap Clock
  tiles : SMap (BitVec 48)
  commit : SMap (BitVec 48)
  slots : SMap Byte
  smap : List Nat
  descs : List SlotDesc
  cbs : List CBuf
  queues : List (List CopyCmd)
  /-- queues whose command ended with an error (R221) -/
  qerr : List Nat
  serial : Nat
  /-- completed commands, by 8 × serial + queue: their global sectors and their flags (R132, R405) -/
  qdone : SMap (List Nat × Nat)
  ranges : List OpenRange
  stamps : List Stamp
  relaunched : Bool
  noRelaunch : Bool
  threads : List Thread
  groups : List Group
  /-- clocks of the arrivals of a running generation, by barrier; of completed ones, by barrier × 2^22 + generation -/
  bclk : SMap Clock
  bdone : SMap Clock
  /-- global sectors counted into a barrier's generation, and by buffer slot -/
  bsec : SMap (List Nat)
  sclk : SMap Clock
  ssec : SMap (List Nat)
  deriving DecidableEq, Repr

/-- What a slice request asks for (R208, R229, R230, R371). -/
inductive ReqKind where
  | atom (w64 : Bool)
  | lrcall
  | lda (width : Nat) (sx : Bool) (gather : Bool)
  | waitv (w64 : Bool)
  | wake
  | peer (device : Nat)
  deriving DecidableEq, Repr

/-- A request to a home slice (R204, R214): `clk` is the thread's clock at issue, `lvl` and `ea` the level and the address of the leaf
entry of its translation and `base` the page that the entry mapped (R174, R187). -/
structure Req where
  kind : ReqKind
  lid : Nat
  wid : Nat
  tid : Nat
  core : Nat
  ctx : Nat
  key : Nat
  va : Nat
  pa : Nat
  r : Nat
  opnds : List DWord
  d : Opnd
  pc : Nat
  ordinal : Nat
  phc : Nat
  detn : Nat
  det : Bool
  wgid : Nat
  clk : Clock
  lvl : Nat
  ea : Nat
  base : Nat
  deriving DecidableEq, Repr

/-- A reply on its way (R204, R210); `acq` is the release clocks that a read of M acquires (R182). -/
structure Reply where
  req : Req
  code : Nat
  detail : Nat
  fl : BitVec 7
  y : DWord
  hi : DWord
  acq : Clock
  deriving DecidableEq, Repr

/-- A routine entry in a slice's cache: its tag, and the entry's 128 bytes as one number (R202). -/
structure CachedEntry where
  ctx : Nat
  r : Nat
  ver : Nat
  entry : Nat
  deriving DecidableEq, Repr

/-- A monitor of a slice (R230). -/
structure Monitor where
  slice : Nat
  line : Nat
  ctx : Nat
  waiters : List (Nat × Nat)
  deriving DecidableEq, Repr

/-- Who waits for a page (R258). -/
inductive FaultSrc where
  | word (wid tid : Nat)
  | copy (wid q va : Nat)
  | table (slice : Nat) (r : Req)
  /-- a request that a restore reissues (R76, R78) -/
  | reissue (r : Req)
  | parser (q : Nat)
  | signal (lid : Nat)
  /-- a record of a context's error ring, or debug ring (R256, R281) -/
  | ring (ctx : Nat) (dbg : Bool)
  deriving DecidableEq, Repr

/-- A page-fault request, merged per context and 64 KiB page: the virtual address and the access kind of its first source, and its
sources (R258). -/
structure FaultReq where
  ctx : Nat
  page : Nat
  va : Nat
  kind : Access
  srcs : List FaultSrc
  deriving DecidableEq, Repr

/-- A trap record of R256 before it is written; `lid` and the time are filled in as it is noted. -/
structure TrapRec where
  cls : Nat
  cause : Nat
  prec : Bool
  relaunch : Bool
  tid : Nat
  wgid : Nat
  gid : Nat
  lane : Nat
  ncore : Nat
  pc : Nat
  fva : Nat
  lid : Nat
  time : Nat
  detail : Nat
  deriving DecidableEq, Repr

/-- A trap event: its place in the order of R254 and its lane records. -/
structure TrapEvent where
  ck : Nat
  core : Nat
  rank : Nat
  sub : Nat
  records : List TrapRec
  deriving DecidableEq, Repr

/-- A kernel header (R248). -/
structure Hdr where
  entry : Nat
  gsz : Nat
  dx : Nat
  dy : Nat
  dz : Nat
  regs : Nat
  scr : Nat
  acc : Nat
  stat : Nat
  queues : Nat
  cbufs : Nat
  stages : List Nat
  pin : Bool
  det : Bool
  idem : Bool
  level : Nat
  deriving DecidableEq, Repr

/-- A cross-core barrier (R227). -/
structure XBar where
  gen : Nat
  member : BitVec 256
  next : Option (BitVec 256)
  arrived : BitVec 256
  role : Nat
  /-- the ck of the last arrival of the generation, and the highest core that arrived in it (R47). Log 32, DEDUCED. -/
  last : Option (Nat × Nat)
  deriving DecidableEq, Repr

/-- Where a launch stands. -/
inductive LPhase where
  /-- accepted, not bound -/
  | queued
  | bound
  /-- the serialiser has stopped it (R63 steps 1 to 3) -/
  | draining
  /-- its image is written -/
  | stopped
  /-- a fatal trap has been raised (R255) -/
  | dying
  | complete
  deriving DecidableEq, Repr

/-- A launch (R236, R239, R241, R243, R244, R255). -/
structure Launch where
  lid : Nat
  record : List DWord
  ctx : Nat
  part : Nat
  hdr : Hdr
  gx : Nat
  gy : Nat
  gz : Nat
  prio : Nat
  ovl : Bool
  det : Bool
  sig : Nat
  codever : Nat
  tlimit : Nat
  /-- queue and ring index -/
  q : Nat
  qidx : Nat
  phase : LPhase
  slot : Option Nat
  next : Nat
  base : Nat
  done : List Nat
  placed : Bool
  /-- workgroups placed on a logical core and not resident yet: logical workgroup index and core key (R28, R242) -/
  pending : List (Nat × Nat)
  /-- workgroups relaunched once (R265) -/
  relaunched : List Nat
  /-- the serialiser has been started since the launch was last bound (R62, R68) -/
  stopping : Bool
  ckUsed : Nat
  lastSig : Option Nat
  heldSig : Bool
  children : List Nat
  window : List Req
  frontier : Nat × Nat × Nat × Nat
  frontierCk : Nat
  xbars : List XBar
  traps : List TrapEvent
  /-- its trap records have gone to the error ring (R255 step 5) -/
  recorded : Bool
  /-- records of relaunches written for it so far (R256, R265) -/
  nrec : Nat
  /-- all-stop in force (R276) -/
  allStop : Bool
  /-- the flag words of its completed workgroups, by %wgid (R132, R441) -/
  flagWords : SMap (BitVec 32)
  deriving DecidableEq, Repr

/-- A ring that the lodge writes (R256, R264, R281). -/
structure Ring where
  base : Nat
  /-- its index word, where one has been named -/
  index : Option Nat
  k : Nat
  count : Nat
  /-- records whose write waits for a page, by their numbers (R256) -/
  wait : List (Nat × List Byte)
  deriving DecidableEq, Repr

/-- An overlay entry (R278). -/
structure Edit where
  wgid : Nat
  gid : Nat
  tid : Nat
  tgt : Nat
  reg : Nat
  size : Nat
  addr : Nat
  value : DWord
  deriving DecidableEq, Repr

/-- The debug state of a context (R270, R272, R278). -/
structure Dbg where
  holder : Option Nat
  ring : Option Ring
  bps : SMap DWord
  wps : SMap (BitVec 128)
  overlay : List Edit
  deriving DecidableEq, Repr

/-- An open version handle (R249). -/
structure Handle where
  base : Nat
  image : List Byte
  deriving DecidableEq, Repr

/-- A context descriptor and what the lodge keeps beside it (R240, R249, R256, R257, R270). -/
structure Ctx where
  defined : Bool
  dead : Bool
  root : Nat
  rtab : Nat
  ksetAddr : Nat
  kset : BitVec 1024
  ckgen : Nat
  part : Nat
  tlim : Nat
  pinq : Nat
  /-- the kernels with PIN set whose lines a polder's instruction cache holds: polder, version, entry (R250) -/
  pins : List (Nat × Nat × Nat)
  errRing : Option Ring
  dbg : Dbg
  handles : List (Option Handle)
  nextVer : Nat
  deriving DecidableEq, Repr

/-- A sealed code version and the virtual address at which its image is mapped (R248, R313). -/
structure CodeVer where
  ctx : Nat
  num : Nat
  image : List Byte
  base : Nat
  deriving DecidableEq, Repr

/-- A queue descriptor (R234), the parser's hold on it (R236) and the records that LAUNCH placed in its ring (R365). -/
structure QDesc where
  ring : Nat
  size : Nat
  ctx : Nat
  prio : Nat
  en : Bool
  dev : Bool
  rd : Nat
  wr : Nat
  status : Nat
  erridx : Nat
  stalled : Bool
  /-- the wait packet that holds the queue: SIGADDR and the awaited count -/
  holding : Option (Nat × Nat)
  devRecs : List (Nat × Nat × Nat)
  deriving DecidableEq, Repr

/-- What the lodge does to repair the device, kept back while its firmware restarts (R268). -/
inductive Repair where
  /-- the page of a line is retired (R260) -/
  | retire (line : Nat)
  /-- a physical core with a hard error begins to leave service (R263) -/
  | core (n : Nat)
  /-- a context ends, for the RAS record of that SEQ (R257) -/
  | context (ctx seq : Nat)
  deriving DecidableEq, Repr

/-- The service states of R266. -/
inductive Service where
  | inService | draining | outOfService | underTest | retired
  deriving DecidableEq, Repr

/-- The power states of R296. -/
inductive Power where
  | off | idle | active
  deriving DecidableEq, Repr

/-- A partition (R20, R21, R246, R247, R282, R296). -/
structure Part where
  started : Bool
  cores : Nat
  ckStart : Nat
  locked : Bool
  power : Power
  clockStep : Nat
  trace : Bool
  sper : Nat
  traceBase : Nat
  traceSize : Nat
  traceCount : Nat
  /-- round-robin place of the samples -/
  traceRr : Nat
  /-- the first ck of the next placement (R242) -/
  nextPlace : Nat
  deriving DecidableEq, Repr

/-- The firmware banks (R268, R292). -/
structure Firmware where
  digA : BitVec 256
  digB : BitVec 256
  verA : BitVec 32
  verB : BitVec 32
  okA : Bool
  okB : Bool
  minVer : BitVec 32
  /-- a restart into a bank is under way: the bank left -/
  restart : Option Bool
  deriving DecidableEq, Repr

/-- The lodge's RV64IMAC core and its 512 KiB of tightly coupled memory (R11): program counter, the integer registers x1 to x31, and
the bytes at offsets below 2^19. Log 106, DESIGN CHOICE. -/
structure RvCore where
  pc : DWord
  x : SMap DWord
  tcm : SMap Byte
  deriving DecidableEq, Repr

/-- The lodge's registers and mailbox (R288, R290), its core (R11), and the interrupts that it has raised at the host: the mailbox
interrupt (R290) and the queues whose error it has signalled (R237). -/
structure Lodge where
  ready : Bool
  bank : Bool
  bindErr : Bool
  busy : Bool
  therm : Bool
  domain : Nat
  fwver : BitVec 32
  cmd : List DWord
  /-- the requester that wrote word 0 of the command (R290) -/
  agent : Nat
  respStatus : Nat
  respOp : Nat
  done : Bool
  busy8 : Bool
  value : DWord
  mailIrq : Bool
  queueIrq : List Nat
  rv : RvCore
  deriving DecidableEq, Repr

/-- A stored image of a launch (R63, R69): where it stands in memory, and what is known beside its bytes. Log 49, DESIGN CHOICE. -/
structure Image where
  lid : Nat
  ctx : Nat
  /-- its first physical address and its size in bytes -/
  addr : Nat
  size : Nat
  /-- numeric flags of sectors that recorded copies have written: %wgid, queue, position, flags (R66) -/
  copyFlags : List (Nat × Nat × Nat × Nat)
  /-- the workgroups that may not be relaunched, by %wgid (R265) -/
  bound : List Nat
  /-- the groups with a tile error since their last MCOMMIT, by %wgid and %gid (R261) -/
  struck : List (Nat × Nat)
  /-- the threads of parked groups that have arrived at a BAR, by %wgid and %tid (R73, R307) -/
  arrived : List (Nat × Nat)
  /-- the open ranges of copies on DET pages that no fence covers, by %wgid (R194) -/
  ranges : List (Nat × OpenRange)
  /-- the running groups of a deterministic launch, by %ncore, %wgid and %gid (R46, R77) -/
  running : List (Nat × Nat × Nat)
  deriving DecidableEq, Repr

/-- An open domain reduction (R232): the member command and the contributions of the others. -/
structure Reduction where
  tag : Nat
  contribs : List Contribution
  deriving DecidableEq, Repr

/-- A manifest of a job checkpoint (R80, R81). -/
structure Ckpt where
  ctx : Nat
  gen : Nat
  pages : List Nat
  deriving DecidableEq, Repr

/-- The path whose word executes (R29). -/
structure Cur where
  core : Nat
  unit : Nat
  wid : Nat
  gid : Nat
  /-- the lanes of the path, ascending -/
  lanes : List Nat
  pc : Nat
  second : Bool
  deriving DecidableEq, Repr

/-- A test owed at the end of the ck (R39, R40, R50, R224, R226, R276). -/
inductive Due where
  | kwait (wid gid : Nat)
  | bar (wid b : Nat)
  | rejoin (wid gid : Nat)
  | deadlock (wid : Nat)
  | finish (wid : Nat)
  /-- a group's stops are taken (R55, R276) -/
  | stops (wid gid : Nat)
  /-- a STEP in flight ends (R277) -/
  | stepEnd (wid gid : Nat)
  deriving DecidableEq, Repr

/-- A move that timing or the outside selects: the time that passes before it, the writes of other owners to the
companion and peer windows in that time, and the move. -/
structure Cue where
  dck : Nat
  dns : Nat
  ext : List (Nat × List Byte)
  move : Instr
  deriving DecidableEq, Repr

/-- The state of the device. -/
structure State where
  ck : Nat
  ns : Nat
  agenda : List Cue
  issue : List Cur
  cur : Option Cur
  /-- the workgroups as the ck found them -/
  before : List WG
  due : List Due
  /-- tests owed in the next ck (R40, R226) -/
  late : List Due
  free : Nat
  mem : Mem
  /-- poisoned lines, with the SEQ of the RAS record that reports each (R260) -/
  poison : SMap Nat
  tags : SMap Nat
  retired : List Nat
  quarantined : List (Nat × Nat)
  slices : SMap (List Req)
  paused : List Nat
  monitors : List Monitor
  replies : List Reply
  faults : List FaultReq
  gbt : SMap DWord
  queues : SMap QDesc
  ctxs : SMap Ctx
  slots : SMap DWord
  lidNext : Nat
  lodge : Lodge
  rasRing : Option Ring
  rasSeq : Nat
  corrected : SMap (List Nat)
  domain : SMap DWord
  admitted : List (Nat × Nat)
  portsDown : List Nat
  fw : Firmware
  /-- the spare cores that the fuse map marks, as the lodge read it at bring-up (R15) -/
  spares : List Nat
  /-- the TURN of the logical core that last was resident on a physical core (R22) -/
  turns : SMap Nat
  /-- physical cores that a hard error takes out of service once their workgroups have ended (R263) -/
  failing : List Nat
  /-- repairs that wait for the lodge's firmware, oldest first (R268) -/
  repairs : List Repair
  /-- the lines in the ways of a last-level set, by 1,024 × slice + set: the line + 1 by way, 0 for an empty way (R176) -/
  ways : SMap (List Nat)
  /-- the way + 1 of a last-level set that an error struck as a line was evicted: the next fill takes another (R432) -/
  struckWays : SMap Nat
  /-- lines that a prefetch has marked first for eviction (R400) -/
  evictFirst : List Nat
  /-- routine entries that a slice caches, oldest first (R202) -/
  rcache : SMap (List CachedEntry)
  parts : SMap Part
  units : SMap Service
  images : List Image
  /-- the physical address at which the next image is put. Log 49, DESIGN CHOICE. -/
  imageBase : Nat
  ckpts : List Ckpt
  codes : List CodeVer
  reductions : List Reduction
  launches : List Launch
  /-- what the companion link or the peer fabric last carried back: none for a failed transaction (R284, R286) -/
  link : Option (List Byte)
  cores : List LCore
  wgs : List WG
  widNext : Nat
  deriving DecidableEq, Repr

/-- Empty memory. -/
def Mem.empty : Mem := ⟨[], [], []⟩

/-- A queue descriptor at reset (R234). -/
def QDesc.reset : QDesc := ⟨0, 0, 0, 0, false, false, 0, 0, 0, 0, false, none, []⟩

/-- Debug state without a holder (R272). -/
def Dbg.reset : Dbg := ⟨none, none, [], [], []⟩

/-- A context descriptor at reset (R240). Log 7, DESIGN CHOICE. -/
def Ctx.reset : Ctx :=
  ⟨false, false, 0, 0, 0, 0, 0, 0, 0, 0, [], none, Dbg.reset, [none, none, none, none], 1⟩

/-- A partition that has not started: it stands idle, as one without a bound record does (R296). Log 6, DESIGN CHOICE. -/
def Part.reset : Part := ⟨false, 0, 0, false, .idle, 0, false, 8, 0, 0, 0, 0, 0⟩

/-- The lodge's registers at reset (R288, R290). Log 6, DESIGN CHOICE. -/
def Lodge.reset : Lodge :=
  ⟨false, false, false, false, false, 0, 0, [0, 0, 0, 0, 0, 0, 0, 0], 0, 0, 0, false, false, 0, false, [], ⟨0, [], []⟩⟩

/-- The firmware banks before anything is staged. Log 6, DESIGN CHOICE. -/
def Firmware.reset : Firmware := ⟨0, 0, 0, 0, false, false, 0, none⟩

/-- The machine right after reset. -/
def State.reset : State where
  ck := 0
  ns := 0
  agenda := []
  issue := []
  cur := none
  before := []
  due := []
  late := []
  free := 0
  mem := Mem.empty
  poison := []
  tags := []
  retired := []
  quarantined := []
  slices := []
  paused := []
  monitors := []
  replies := []
  faults := []
  gbt := []
  queues := []
  ctxs := []
  slots := []
  lidNext := 1
  lodge := Lodge.reset
  rasRing := none
  rasSeq := 0
  corrected := []
  domain := []
  admitted := []
  portsDown := []
  fw := Firmware.reset
  spares := []
  turns := []
  failing := []
  repairs := []
  ways := []
  struckWays := []
  evictFirst := []
  rcache := []
  parts := []
  units := []
  images := []
  imageBase := 0x1400000000
  ckpts := []
  codes := []
  reductions := []
  launches := []
  link := none
  cores := []
  wgs := []
  widNext := 1

end Sys2Proof.Machine
end

