-- ==== Sys2Proof/Machine/Info.lean ====
section
/-! DEFINITION. For every instruction word: its head, its hold class, the causes that its bits alone decide, the registers it
reads and writes, its fetch port and its place in a span (R30, R54, R57, R102). -/

namespace Sys2Proof.Machine

/-- What a word is to an open span (R57). -/
inductive SpanAct where
  /-- legal where every v register written lies in S and no s register is written -/
  | alu
  /-- legal where every target lies in the body -/
  | branch
  | mma
  | mldb (slot : Nat)
  | mswap
  | mcommit
  /-- span-violation inside a span -/
  | outside
  deriving DecidableEq, Repr

/-- What the checks at issue need to know of a word. -/
structure Info where
  head : Head
  holdClass : Bool
  causes : List Nat
  reads : List RegRun
  writes : List RegRun
  latches : List Nat
  /-- latch writes: the word shifts the latches (R97) -/
  shifts : Bool
  port1 : Bool
  act : SpanAct
  /-- only the producer group issues it (R45) -/
  producer : Bool
  /-- a matrix word (R49) -/
  matrix : Bool
  /-- uses the return slot (R204) -/
  slot : Bool
  deriving DecidableEq, Repr

/-- Whether an operand code is an s register. -/
def isS : Opnd → Bool
  | .s _ => true
  | _ => false

/-- Whether an operand code is a v register. -/
def isV : Opnd → Bool
  | .v _ => true
  | _ => false

/-- Info of a full word from its entry. -/
def fInfo (w : FWord) (e : Entry) (act : SpanAct) : Info where
  head := w.hd
  holdClass := e.holdClass
  causes := fCauses w e
  reads := runOf w.a e.an e.aalign ++ runOf w.b e.bn e.balign ++ runOf w.c e.cn 0
  writes := runOf w.d e.dn e.dalign
  latches := latchOf w.a ++ latchOf w.b ++ latchOf w.c
  shifts := e.holdClass && (isV w.d || w.wbx)
  port1 := e.port1 || w.hd.hold || isS w.d
  act := act
  producer := false
  matrix := false
  slot := false

/-- An ALU word of the hold class. -/
def fAlu (w : FWord) (e : Entry) : Option Info := some (fInfo w e .alu)

/-- A word outside the hold class that no span admits. -/
def fOut (w : FWord) (e : Entry) : Option Info := some (fInfo w e .outside)

/-- A word that uses the return slot. -/
def fSlot (w : FWord) (e : Entry) : Option Info := some { fInfo w e .outside with slot := true }

/-- A copy command or fence of the producer group. -/
def fProd (w : FWord) (e : Entry) : Option Info := some { fInfo w e .outside with producer := true }

/-- A matrix word. -/
def fMat (w : FWord) (e : Entry) (act : SpanAct) : Option Info := some { fInfo w e act with matrix := true }

/-- Causes of an immediate-form word (R90). -/
def iCauses (w : IWord) (hold : Bool) (d : DstKind) (dn : Nat) (a : SrcKind) (an : Nat) (branch : Bool) : List Nat :=
  headCauses w.hd hold ++ (if w.rsv32 then [3] else []) ++ dstCauses d w.wbx w.d ++ srcCauses a w.a
  ++ (runOf w.d dn 0).flatMap runCauses ++ (runOf w.a an 0).flatMap runCauses ++ bankCauses (runOf w.a an 0)
  ++ (if branch && w.imm.toNat % 8 != 0 then [13] else [])

/-- Info of an immediate-form ALU word. -/
def iAluTo (w : IWord) (d : DstKind) (n : Nat) (a : SrcKind) : Option Info :=
  some { head := w.hd, holdClass := true, causes := iCauses w true d n a n false, reads := runOf w.a n 0,
         writes := runOf w.d n 0, latches := latchOf w.a, shifts := isV w.d || w.wbx,
         port1 := w.hd.hold || isS w.d, act := .alu, producer := false, matrix := false, slot := false }

/-- Info of an immediate-form ALU word of chapters 16 to 18 (R325). -/
def iAlu (w : IWord) (n : Nat) (a : SrcKind) : Option Info := iAluTo w .reg n a

/-- The registers of a memory word's data field by WIDTH (R368). -/
def memRegs (width : Nat) : Nat :=
  if width ≤ 2 then 1 else if width = 3 then 2 else if width = 4 then 4 else if width = 5 then 17
  else if width = 6 then 13 else 9

/-- The bytes of a memory access by WIDTH (R91, R124). -/
def memBytes (width : Nat) : Nat :=
  if width ≤ 4 then 2 ^ width else if width = 5 then 66 else if width = 6 then 50 else 34

/-- The alignment of the data field's first register. -/
def memAlign (width : Nat) : Nat := if 5 ≤ width then 2 else memRegs width

/-- The causes of R91 that loads, stores and PREF share. Log 16, DEDUCED. -/
def mCauses (w : MWord) (scratchBase : Bool) (hold : Bool) : List Nat :=
  headCauses w.hd hold
  ++ (if w.low != 0 || 3 ≤ w.space.toNat || w.ew = 3#2 || w.cp = 3#2 then [3] else [])
  ++ (if (w.ori && w.space != 1#3) || (!w.ori && w.ew != 0) || (5 ≤ w.width.toNat && w.space = 2#3)
        || (w.ori && (5 ≤ w.width.toNat || 8 * 2 ^ w.width.toNat < 4 * 2 ^ w.ew.toNat)) then [9] else [])
  ++ srcCauses .vs w.a
  ++ (runOf w.a (if scratchBase then 1 else 2) 0).flatMap runCauses

/-- Causes of a load (R91, R367, R368). -/
def ldCauses (w : MWord) : List Nat :=
  let n := w.width.toNat
  mCauses w (w.space = 1#3) (w.space = 1#3)
  ++ (if w.sx && 2 ≤ n then [9] else []) ++ (if w.cp != 0 && w.space != 0 then [9] else [])
  ++ (if w.wbx then (if w.space != 1#3 then [5] else if 4 ≤ n then [9] else []) ++ (if w.d != .none then [5] else []) else [])
  ++ (match w.d with
      | .v _ => []
      | .s _ => if n ≤ 3 then [] else [4]
      | .none => if w.wbx then [] else [4]
      | _ => [4])
  ++ (runOf w.d (memRegs n) (memAlign n)).flatMap runCauses
  ++ bankCauses (runOf w.a (if w.space = 1#3 then 1 else 2) 0)

/-- The data registers of a store that count against the bank rule (R99): those of WIDTH 0 to 4. A block group is no bank operand,
since R412 to R415 give STB its forms and effects and no group of 9 registers or more could meet R99. Log 16, DEDUCED. -/
def dataRun (w : MWord) : List RegRun :=
  if 5 ≤ w.width.toNat then [] else runOf w.d (memRegs w.width.toNat) (memAlign w.width.toNat)

/-- Causes of a store (R91, R412, R413). Log 16, DEDUCED. -/
def stCauses (w : MWord) : List Nat :=
  let n := w.width.toNat
  mCauses w (w.space = 1#3) (w.space = 1#3)
  ++ (if w.space = 2#3 || w.sx || (w.cp != 0 && w.space = 1#3) then [9] else [])
  ++ (if w.wbx then [5] else [])
  ++ (match w.d with
      | .v _ => []
      | .s _ => if n ≤ 3 then [] else [4]
      | .latch _ => if n ≤ 3 && w.space = 1#3 then [] else [4]
      | _ => [4])
  ++ (runOf w.d (memRegs n) (memAlign n)).flatMap runCauses
  ++ bankCauses (runOf w.a (if w.space = 1#3 then 1 else 2) 0 ++ dataRun w)

/-- Info of a load; SPACE 1 is the scratchpad. -/
def ldInfo (w : MWord) : Option Info :=
  let scr := w.space == 1#3
  some { head := w.hd, holdClass := scr, causes := ldCauses w, reads := runOf w.a (if scr then 1 else 2) 0,
         writes := runOf w.d (memRegs w.width.toNat) (memAlign w.width.toNat), latches := latchOf w.a,
         shifts := scr && (isV w.d || w.wbx), port1 := w.hd.hold || isS w.d, act := if scr then .alu else .outside,
         producer := false, matrix := false, slot := w.space == 2#3 }

/-- Info of a store. -/
def stInfo (w : MWord) : Option Info :=
  let scr := w.space == 1#3
  some { head := w.hd, holdClass := scr, causes := stCauses w,
         reads := runOf w.a (if scr then 1 else 2) 0 ++ runOf w.d (memRegs w.width.toNat) (memAlign w.width.toNat),
         writes := [], latches := latchOf w.d, shifts := false, port1 := w.hd.hold, act := .outside,
         producer := false, matrix := false, slot := false }

/-- Info of PREF (R400); SX = 1 is cause 9. Log 121, DESIGN CHOICE. -/
def prefInfo (w : MWord) : Option Info :=
  some { head := w.hd, holdClass := false,
         causes := mCauses w false false
           ++ (if (w.space != 0 && w.space.toNat ≤ 2) || w.width != 0 || w.sx || w.cp = 2#2 then [9] else [])
           ++ dstCauses .unused w.wbx w.d ++ bankCauses (runOf w.a 2 0),
         reads := runOf w.a 2 0, writes := [], latches := [], shifts := false, port1 := w.hd.hold, act := .outside,
         producer := false, matrix := false, slot := false }

/-- Whether a minor is assigned (R101). -/
def minorOk (m : BitVec 6) : Bool := m.toNat ≤ 0x19

/-- Causes of one half of a paired word (R93, R95, R101); the count of a paired shift may be a latch. Log 116, DESIGN CHOICE. -/
def halfCauses (h : Half) : List Nat :=
  if !minorOk h.minor then [2]
  else if h.minor = 0 then
    (if h.wbx || h.d != 0 || h.a != .v 0 || h.b != .v 0 then [3] else [])
  else
    (if h.wbx && h.d != 0x7F#7 then [5] else [])
    ++ srcCauses .any h.a ++ srcCauses (if h.minor = 0x0E#6 then .unused else .any) h.b

/-- The v register that a half writes. -/
def halfDst (h : Half) : List RegRun := if h.minor = 0 || h.wbx then [] else [⟨true, h.d.toNat, 1, 1⟩]

/-- The registers that a half reads. -/
def halfSrc (h : Half) : List RegRun :=
  if h.minor = 0 then [] else runOf h.a 1 0 ++ runOf h.b 1 0

/-- Causes of a paired word (R93, R94, R99). -/
def pCauses (w : PWord) : List Nat :=
  halfCauses w.h0 ++ halfCauses w.h1 ++ (if !w.h0.g && w.h1.g then [3] else [])
  ++ (if halfDst w.h0 != [] && halfDst w.h0 == halfDst w.h1 then [8] else [])
  ++ bankCauses (halfSrc w.h0 ++ halfSrc w.h1)

/-- The predicate of the pair guard (R93). -/
def guardHead (w : PWord) : Head :=
  { hold := w.hold, neg := w.h0.g && w.h1.g, pred := if w.h0.g then 2#3 else 7#3 }

def pInfo (w : PWord) : Option Info :=
  some { head := guardHead w, holdClass := true, causes := pCauses w, reads := halfSrc w.h0 ++ halfSrc w.h1,
         writes := halfDst w.h0 ++ halfDst w.h1,
         latches := if w.h0.minor = 0 then latchOf w.h1.a ++ latchOf w.h1.b
           else latchOf w.h0.a ++ latchOf w.h0.b
             ++ (if w.h1.minor = 0 then [] else ((latchOf w.h1.a ++ latchOf w.h1.b).filter (fun i => i != 0)).map (· - 1)),
         shifts := w.h0.minor != 0 || w.h1.minor != 0, port1 := w.hold, act := .alu,
         producer := false, matrix := false, slot := false }

/-- Info of REGROUP (R406). -/
def regroupInfo (w : RegroupWord) : Option Info :=
  some { head := w.hd, holdClass := false,
         causes := headCauses w.hd false ++ dstCauses .unused w.wbx w.d ++ (if w.rsv32 then [3] else [])
           ++ (if w.n.toNat % 2 = 1 || 128 < w.n.toNat then [14] else [])
           ++ (if w.imm.toNat % 8 != 0 then [13] else []),
         reads := [], writes := [], latches := [], shifts := false, port1 := true, act := .outside,
         producer := false, matrix := false, slot := true }

/-- The number of registers of S that MSPAN names. -/
def spanCount (w : SpanWord) : Nat := w.mods.toNat % 8 + 1

/-- The run S of MSPAN (R389). -/
def spanRun (w : SpanWord) : List RegRun :=
  match w.d with
  | .v r => [⟨true, r.toNat, spanCount w, 1⟩]
  | _ => []

/-- Info of MSPAN (R389). -/
def spanInfo (w : SpanWord) : Option Info :=
  some { head := w.hd, holdClass := false,
         causes := headCauses w.hd false ++ (if w.wbx then [5] else []) ++ (if isV w.d then [] else [4])
           ++ srcCauses .unused w.a ++ (if isRsv w.ty then [3] else if w.ty = .b32 then [] else [9])
           ++ (if bitsOf w.mods.toNat 3 9 != 0 then [3] else []) ++ (spanRun w).flatMap runCauses
           ++ (if w.ext = 0 then [14] else []),
         reads := spanRun w, writes := [], latches := [], shifts := false, port1 := true, act := .outside,
         producer := false, matrix := true, slot := false }

/-- A branch word (R310): CALL and RET are no branches to a span or a hold region. -/
def braInfo (w : IWord) : Option Info :=
  some { head := w.hd, holdClass := false, causes := iCauses w false .unused 1 .unused 1 true, reads := [], writes := [],
         latches := [], shifts := false, port1 := w.hd.hold, act := .branch, producer := false, matrix := false,
         slot := false }

def callInfo (w : IWord) : Option Info :=
  some { head := w.hd, holdClass := false, causes := iCauses w false .vOnly 2 .unused 1 true, reads := [],
         writes := runOf w.d 2 0, latches := [], shifts := false, port1 := w.hd.hold, act := .outside,
         producer := false, matrix := false, slot := false }

def brxInfo (w : FWord) : Option Info :=
  some (fInfo w { d := .vOrNone, dn := 2, a := .vs, an := 2, types := [.b64] } (if w.d = .none then .branch else .outside))

/-- The float words' entries (R330, R338). -/
def fArith (w : FWord) : Option Info := fAlu w (floatEntry w floatTypes true true true .any .unused)
def fMinMax (w : FWord) : Option Info := fAlu w (floatEntry w floatTypes false false true .any .unused)
def fSpecial (w : FWord) (types : List Ty) : Option Info :=
  fAlu w (floatEntry w types true false true .unused .unused)

/-- One-source bit words (R356). -/
def bitEntry (w : FWord) (wide : Bool) : Entry :=
  { holdClass := true, d := .reg, dn := if wide then regsOf w.ty else 1, a := .any, an := regsOf w.ty, types := bitTypes }

/-- One-source float words (R329, R333, R339). -/
def floatBits (w : FWord) : Entry :=
  { holdClass := true, d := .reg, dn := regsOf w.ty, a := .any, an := regsOf w.ty, types := floatTypes }

/-- The packing words (R394): the scale of an eight-element NPACK is an s register, a small immediate or a constant, and a v register
there is cause 7. Log 96, DEDUCED. -/
def packEntry (w : FWord) (which : Nat) : Entry :=
  let n := packCount w.ty
  if which = 0 then
    { holdClass := true, d := .reg, a := .vOnly, an := n, b := if n = 8 then .noLatch else .any, types := packTypes,
      rnd := .when true, sat := .when true, ftz := .when true, extra := if n = 8 && isV w.b then [7] else [] }
  else if which = 1 then
    { holdClass := true, d := if w.wbx && w.d == .none then .unused else .vOnly, dn := n, a := .any, b := .any, types := packTypes, rnd := .when true,
      ftz := .when true }
  else { holdClass := true, d := .reg, a := .vOnly, an := 4, types := packTypes }

/-- LRDEF and LRDROP's routine number: a negative small immediate is cause 4 (R377). -/
def lrNumCauses : Opnd → List Nat := tileCauses

def barOpndB : SrcKind := .sImmConst

/-- The memory-side types of MLDA and MSTA (R161). -/
def mldaTypes : List Ty := [.f32, .h16, .bf16, .i32]
def mstaTypes : List Ty := [.f32, .h16, .bf16, .e4m3, .e5m2, .e2m1, .i32, .i8, .q4]

/-- The info of every instruction word; `none` for the moves of the other agents. -/
def info : Instr → Option Info
  | .nop w => fAlu w { holdClass := true, tyCause := 3 }
  | .pairedWord w => pInfo w
  | .iadd w => fAlu w (intEntry w intTypes true .any .unused)
  | .iaddImm w => iAlu w 1 .any
  | .isub w => fAlu w (intEntry w intTypes true .any .unused)
  | .isubImm w => iAlu w 1 .any
  | .iaddc w => fAlu w (carryEntry w)
  | .isubb w => fAlu w (carryEntry w)
  | .imul w => fAlu w (intEntry w intTypes true .any .unused)
  | .imulImm w => iAlu w 1 .any
  | .imulhi w => fAlu w (intEntry w intTypes false .any .unused)
  | .imulhiImm w => iAlu w 1 .any
  | .imad w => fAlu w (intEntry w intTypes true .any .any)
  | .imin w => fAlu w (intEntry w intTypes false .any .unused)
  | .iminImm w => iAlu w 1 .any
  | .imax w => fAlu w (intEntry w intTypes false .any .unused)
  | .imaxImm w => iAlu w 1 .any
  | .iabs w => fAlu w (intEntry w [.i32, .i64] true .unused .unused)
  | .ineg w => fAlu w (intEntry w [.i32, .i64] true .unused .unused)
  | .icmp w => fAlu w (cmpEntry w (intTypes ++ bitTypes) 6 false
      (if isBit w.ty && 2 ≤ bitsOf (FSpec w) 3 4 then [9] else []))
  | .ipopc w => fAlu w (bitEntry w false)
  | .iclz w => fAlu w (bitEntry w false)
  | .ibrev w => fAlu w (bitEntry w true)
  | .ibfe w => fAlu w (intEntry w intTypes false .any .unused)
  | .ibfi w => fAlu w (intEntry w bitTypes false .any .any)
  | .lea w => fAlu w { holdClass := true, d := .reg, dn := 2, a := .vs, an := 2, b := .noLatch, types := [.b64],
                       specMask := 0xF }
  | .leaImm w => iAlu w 2 .vs
  | .lop w => fAlu w { intEntry w bitTypes false .any .any with specMask := 0xFF }
  | .shl w => fAlu w (shiftEntry w)
  | .shr w => fAlu w (shiftEntry w)
  | .sar w => fAlu w (shiftEntry w)
  | .shlImm w => iAluTo w .regListed 1 .any
  | .shrImm w => iAluTo w .regListed 1 .any
  | .sarImm w => iAluTo w .regListed 1 .any
  | .sel w => fAlu w { intEntry w bitTypes false .any .unused with d := .regListed, specMask := 0xF, extra := if FSpec w % 8 = 7 then [3] else [] }
  | .mov w => fAlu w { holdClass := true, d := .reg, dn := regsOf w.ty, a := .any, an := regsOf w.ty,
                       types := bitTypes ++ floatTypes,
                       extra := if w.b != .none || w.c != .none then [3] else [] }
  | .movSpecial w => fAlu w { holdClass := true, d := .reg, specMask := 0xFF,
                              extra := (if w.b != .none || w.c != .none then [3] else [])
                                ++ (if 0x14 < FSpec w then [12] else []) }
  | .movi w => iAlu w 1 .unused
  | .plop w => fAlu w { holdClass := true, a := .predSrc, b := .predSrc, c := .predSrc, ownMods := true,
                        extra := (if bitOf w.mods.toNat 11 then [3] else [])
                          ++ (if bitsOf w.mods.toNat 8 3 = 7 then [3] else []) }
  | .pmovToReg w => fAlu w (pmovEntry w 0)
  | .pmovFromReg w => fAlu w (pmovEntry w 1)
  | .pmovPred w => fAlu w (pmovEntry w 2)
  | .fadd w => fArith w
  | .faddImm w => iAlu w 1 .any
  | .fsub w => fArith w
  | .fmul w => fArith w
  | .fmulImm w => iAlu w 1 .any
  | .ffma w => fAlu w (floatEntry w floatTypes true true true .any .any)
  | .fmin w => fMinMax w
  | .fminImm w => iAlu w 1 .any
  | .fmax w => fMinMax w
  | .fmaxImm w => iAlu w 1 .any
  | .fabs w => fAlu w (floatBits w)
  | .fneg w => fAlu w (floatBits w)
  | .fcmp w => fAlu w (cmpEntry w [.f32, .f64] 14 true [])
  | .fclass w => fAlu w { floatBits w with dn := 1 }
  | .frnd w => fAlu w { floatBits w with rnd := .when true, ftz := .when true }
  | .fcvt w => fAlu w (fcvtEntry w)
  | .frcp w => fSpecial w [.f32, .f64]
  | .frsq w => fSpecial w [.f32]
  | .fsqrt w => fSpecial w [.f32, .f64]
  | .fexp2 w => fSpecial w [.f32]
  | .flog2 w => fSpecial w [.f32]
  | .ftanh w => fSpecial w [.f32]
  | .npack w => fAlu w (packEntry w 0)
  | .nunpk w => fAlu w (packEntry w 1)
  | .nscale w => fAlu w (packEntry w 2)
  | .gshfl w => fAlu w { intEntry w bitTypes false .noLatch .unused with bn := 1, specMask := 0x1F }
  | .gbfly w => fAlu w { intEntry w bitTypes false .any .unused with specMask := 0x3F, extra := if 6 ≤ FSpec w % 8 then [3] else [] }
  | .gred w => fAlu w (redEntry w false)
  | .gscan w => fAlu w (redEntry w true)
  | .gvote w => fAlu w (voteEntry w)
  | .gmatch w => fAlu w { intEntry w bitTypes false .unused .unused with dn := FSpec w % 2 + 1, specMask := 1 }
  | .grank w => fAlu w { intEntry w bitTypes false .unused .unused with dn := 1, specMask := 1 }
  | .join w => fOut w (maskEntry .unused .unused)
  | .leave w => fOut w (maskEntry .unused .unused)
  | .kwait w => fOut w (maskEntry .unused .unused)
  | .kmov w => fOut w (maskEntry .unused .mask)
  | .kand w => fOut w (maskEntry .mask .mask)
  | .kor w => fOut w (maskEntry .mask .mask)
  | .krd w => fAlu w { holdClass := true, d := .reg, dn := regsOf w.ty, a := .mask, types := bitTypes }
  | .kset w => fOut w { a := .vs, an := regsOf w.ty, c := .mask, types := bitTypes, port1 := true }
  | .bra w => braInfo w
  | .brx w => brxInfo w
  | .call w => callInfo w
  | .ret w => fOut w { a := .vs, an := 2, types := [.b64] }
  | .switch w => fOut w { a := .vs, specMask := 7, port1 := true }
  | .regroup w => regroupInfo w
  | .yield w => fOut w (bareEntry true)
  | .exit w => fOut w (bareEntry true)
  | .trap w => fOut w { a := .noLatch, port1 := true }
  | .trapret w => fOut w (bareEntry true)
  | .bkpt w => fOut w (bareEntry true)
  | .sysrd w => fOut w (sysEntry w false)
  | .syswr w => fOut w (sysEntry w true)
  | .stampIn w => fOut w (stampEntry w 0)
  | .stampMma w => fOut w (stampEntry w 1)
  | .stampOut w => fOut w (stampEntry w 2)
  | .time w => fOut w { d := .vs, dn := 2, types := [.b64], port1 := true }
  | .ld w => ldInfo w
  | .lds w => ldInfo w
  | .lda w => ldInfo w
  | .ldb w => ldInfo w
  | .st w => stInfo w
  | .sts w => stInfo w
  | .stb w => stInfo w
  | .pref w => prefInfo w
  | .atom w => fSlot w (atomEntry w false)
  | .atomScr w => fSlot w (atomEntry w true)
  | .lrcall w => fSlot w (lrcallEntry w)
  | .lrdef w => fOut w { d := .sOrNone, a := .sOnly, an := 2, b := .sImm, extra := lrNumCauses w.b }
  | .lrdrop w => fOut w { d := .sOrNone, b := .sImm, extra := lrNumCauses w.b }
  | .waitv w => fSlot w { d := .vOrNone, dn := regsOf w.ty, a := .vs, an := 2, b := .noLatch, bn := regsOf w.ty,
                          types := bitTypes }
  | .wake w => fSlot w { a := .vs, an := 2 }
  | .phasePub w => fOut w { specMask := 0xF, extra := if bitsOf (FSpec w) 2 2 = 3 then [3] else [] }
  | .phaseRef w => fOut w { specMask := 0xF, extra := if bitsOf (FSpec w) 2 2 = 3 then [3] else [] }
  | .phase w => fOut w { specMask := 0xF,
                         extra := if bitsOf (FSpec w) 2 2 = 3 || FSpec w % 4 = 0 then [3] else [] }
  | .fence w => fOut w (bareEntry false)
  | .bar w => fOut w (barEntry w .vOrNone .unused)
  | .bararv w => fOut w (barEntry w .vOrNone .unused)
  | .barwait w => fOut w (barEntry w .vOrNone .vs)
  | .bartx w => fOut w (barEntry w .unused barOpndB)
  | .barinit w => fOut w (barEntry w .unused barOpndB)
  | .xbarv w => fOut w (xbarEntry w .sOrNone .unused)
  | .xbwait w => fOut w (xbarEntry w .vsOrNone .vs)
  | .xbset w => fOut w (xbarEntry w .unused .sOnly)
  | .cpin w => fProd w (copyEntry w false)
  | .cpout w => fProd w (copyEntry w false)
  | .cpoutDomainReduction w => fProd w (copyEntry w false)
  | .cpgath w => fProd w (copyEntry w false)
  | .cpgathDigest w => fProd w (copyEntry w false)
  | .cpscat w => fProd w (copyEntry w false)
  | .cpfill w => fProd w (copyEntry w true)
  | .cpfillScratchpad w => fProd w (copyEntry w true)
  | .qfence w => fProd w { specMask := 0xFF, port1 := true }
  | .qwait w => fOut w { specMask := 0xFF, port1 := true }
  | .cbacq w => fOut w (cbEntry w .vs .unused 0)
  | .cbrel w => fOut w (cbEntry w .unused .unused 0)
  | .cbrelCfg w => fOut w (cbEntry w .unused .sImmConst 1)
  | .cvput w => fOut w { a := .sOnly, an := 2, b := .vs, c := .vs, cn := 2, types := [.b64], specMask := 3, port1 := true }
  | .cvseal w => fOut w { d := .sOnly, dn := 2, types := [.b64], specMask := 3, port1 := true }
  | .launch w => fOut w { d := .sOnly, dn := 2, a := .sOnly, b := .sOnly, bn := 2, types := [.b64], port1 := true }
  | .mldb w => fMat w (matEntry .unused .sOnly .sOnly 1 3 []) (.mldb (FSpec w % 4))
  | .mswap w => fMat w (matEntry .unused .unused .unused 1 0xF []) .mswap
  | .mma w => fMat w (matEntry .sImm .sOnly .sOnly 1 3 (tileCauses w.a)) .mma
  | .mmaw w => fMat w (matEntry .sImm .sOnly .sOnly 2 3 (tileCauses w.a)) .mma
  | .mspan w => spanInfo w
  | .mcommit w => fMat w (matEntry .unused .unused .unused 1 0 []) .mcommit
  | .mzero w => fMat w (matEntry .sImm .sImm .unused 1 0 (tileCauses w.a)) .outside
  | .mlda w => fMat w { matEntry .sImm .sOnly .unused 1 1 (tileCauses w.a) with types := mldaTypes } .outside
  | .msta w => fMat w { matEntry .sImm .sOnly .unused 1 1 (tileCauses w.a) with types := mstaTypes, rnd := .when true, sat := .when true } .outside
  | _ => none

/-- The causes that a word's bits alone decide, and that need no declared count (R102). -/
def causesOf (i : Instr) : List Nat :=
  match info i with
  | some x => x.causes
  | none => []

end Sys2Proof.Machine
end

