-- ==== Sys2Proof/WellFormed.lean ====
section
/-! DEFINITION. Which instructions are well formed: what an instruction word can hold at all, that the word is the row's own
form, and that its bits alone meet no illegal-instruction cause (R86 to R102). -/

namespace Sys2Proof

open Machine

/-- An operand that some operand code stands for (R95): constants are 4 to 15, reserved codes 0xF0 to 0xFE. -/
def opndOk : Opnd → Bool
  | .const k => 4 ≤ k.toNat
  | .rsv k => k.toNat ≠ 15
  | _ => true

/-- A type that some type code stands for: the reserved ones are 19 to 31 (R89). -/
def tyOk : Ty → Bool
  | .rsv c => 19 ≤ c.toNat
  | _ => true

/-- A full word whose fields some bits stand for. -/
def FWord.ok (w : FWord) : Bool := opndOk w.d && opndOk w.a && opndOk w.b && opndOk w.c && tyOk w.ty

def IWord.ok (w : IWord) : Bool := opndOk w.d && opndOk w.a

def MWord.ok (w : MWord) : Bool := opndOk w.d && opndOk w.a

def Half.ok (h : Half) : Bool := opndOk h.a && opndOk h.b

def PWord.ok (w : PWord) : Bool := w.h0.ok && w.h1.ok

def SpanWord.ok (w : SpanWord) : Bool := opndOk w.d && opndOk w.a && tyOk w.ty

/-- The form of a load row: LDB by WIDTH, then LDS and LDA by SPACE (R100). -/
def ldForm (w : MWord) : Nat :=
  if 5 ≤ w.width.toNat then 3 else if w.space = 1#3 then 1 else if w.space = 2#3 then 2 else 0

/-- The form of a store row: STB by WIDTH, then STS by SPACE (R100). -/
def stForm (w : MWord) : Nat := if 5 ≤ w.width.toNat then 2 else if w.space = 1#3 then 1 else 0

/-- The form of a PHASE row by MODE (R184). -/
def phaseForm (w : FWord) : Nat := if FSpec w % 4 = 1 then 1 else if FSpec w % 4 = 2 then 2 else 0

/-- The form of a PMOV row by DIR (R399). -/
def pmovForm (w : FWord) : Nat :=
  let d := bitsOf w.mods.toNat 10 2
  if d = 1 then 1 else if d = 2 then 2 else 0

/-- The form of a STAMP row by FORM (R417). -/
def stampForm (w : FWord) : Nat := if FSpec w % 4 = 1 then 1 else if FSpec w % 4 = 2 then 2 else 0

/-- Whether the word's fields can stand in a word and are those of the row that the constructor names. The rows of one
layout are told apart by a field: MOV by source a, PMOV by DIR, loads and stores by SPACE and WIDTH, ATOM by SP, PHASE by
MODE, STAMP by FORM, CBREL by CFG. Three rows share their words with the row before them, because the copy descriptor's
MODE tells them apart at run time (R217): those words are named by the first row, and the three are no word of their own. Log 57, DEDUCED. -/
def formOk : Instr → Bool
  | .pairedWord w => w.ok
  | .iaddImm w | .isubImm w | .imulImm w | .imulhiImm w | .iminImm w | .imaxImm w | .leaImm w | .shlImm w | .shrImm w
  | .sarImm w | .movi w | .faddImm w | .fmulImm w | .fminImm w | .fmaxImm w | .bra w | .call w => w.ok
  | .regroup w => opndOk w.d
  | .mspan w => w.ok
  | .ld w => w.ok && ldForm w == 0
  | .lds w => w.ok && ldForm w == 1
  | .lda w => w.ok && ldForm w == 2
  | .ldb w => w.ok && ldForm w == 3
  | .st w => w.ok && stForm w == 0
  | .sts w => w.ok && stForm w == 1
  | .stb w => w.ok && stForm w == 2
  | .pref w => w.ok
  | .mov w => w.ok && w.a != .none
  | .movSpecial w => w.ok && w.a == .none
  | .pmovToReg w => w.ok && pmovForm w == 0
  | .pmovFromReg w => w.ok && pmovForm w == 1
  | .pmovPred w => w.ok && pmovForm w == 2
  | .atom w => w.ok && !bitOf w.mods.toNat 5
  | .atomScr w => w.ok && bitOf w.mods.toNat 5
  | .phasePub w => w.ok && phaseForm w == 1
  | .phaseRef w => w.ok && phaseForm w == 2
  | .phase w => w.ok && phaseForm w == 0
  | .stampIn w => w.ok && stampForm w == 0
  | .stampMma w => w.ok && stampForm w == 1
  | .stampOut w => w.ok && stampForm w == 2
  | .cbrel w => w.ok && !bitOf w.mods.toNat 0
  | .cbrelCfg w => w.ok && bitOf w.mods.toNat 0
  | .cpoutDomainReduction _ | .cpgathDigest _ | .cpfillScratchpad _ => false
  | .nop w | .iadd w | .isub w | .iaddc w | .isubb w | .imul w | .imulhi w | .imad w | .imin w | .imax w | .iabs w
  | .ineg w | .icmp w | .ipopc w | .iclz w | .ibrev w | .ibfe w | .ibfi w | .lea w | .lop w | .shl w | .shr w | .sar w
  | .sel w | .plop w | .fadd w | .fsub w | .fmul w | .ffma w | .fmin w | .fmax w | .fabs w | .fneg w | .fcmp w
  | .fclass w | .frnd w | .fcvt w | .frcp w | .frsq w | .fsqrt w | .fexp2 w | .flog2 w | .ftanh w | .npack w | .nunpk w
  | .nscale w | .gshfl w | .gbfly w | .gred w | .gscan w | .gvote w | .gmatch w | .grank w | .join w | .leave w | .kwait w
  | .kmov w | .kand w | .kor w | .krd w | .kset w | .brx w | .ret w | .switch w | .yield w | .exit w | .trap w | .trapret w
  | .bkpt w | .sysrd w | .syswr w | .time w | .lrcall w | .lrdef w | .lrdrop w | .waitv w | .wake w | .fence w | .bar w
  | .bararv w | .barwait w | .bartx w | .barinit w | .xbarv w | .xbwait w | .xbset w | .cpin w | .cpout w | .cpgath w
  | .cpscat w | .cpfill w | .qfence w | .qwait w | .cbacq w | .cvput w | .cvseal w | .launch w | .mldb w | .mswap w
  | .mma w | .mmaw w | .mcommit w | .mzero w | .mlda w | .msta w => w.ok
  | .groupBindingEntryWrite _ _ | .partitionStart _ | .turnSwitch _ | .issueOpportunity _ | .ageingPromotion _ _ _
  | .groupStarvationSelect _ _ | .kwaitRelease _ _ | .rejoinDeadlock _ _ | .groupFormationFullBin _ _ _
  | .groupFormationQuiescence _ | .workgroupResidency _ _ _ | .workgroupCompletion _ | .workgroupPlacement _
  | .zeroingComplete _ | .serialiserStop _ | .serialiserPublishWrite _ | .imageRestore _ _ | .jobCheckpoint _
  | .queueDescriptorWrite _ _ | .queueDoorbell _ _ | .launchPacket _ | .waitPacket _ | .waitPacketRelease _
  | .signalIntervalExpiry _ | .bindRun _ _ | .bindStopRequest _ | .reorderStall _ | .timeLimit _ | .lockedClockMode _ _
  | .copySlotTake _ _ | .copySectorWrite _ _ | .copyComplete _ _ | .fenceEntryHead _ _ | .barrierDeadlock _
  | .xbarRelease _ _ _ | .waitvWake _ _ | .waitvPoll _ _ | .waitvTimeout _ _ | .cbacqRetry _ _ | .matrixQueueEntry _
  | .lineRoutineRun _ | .detRequestApply _ | .reply _ _ | .loadReturn _ _ | .pageFault _ _ | .faultAnswerRetry _ _
  | .faultAnswerFail _ _ | .pteInvalidation _ _ _ | .companionStore _ _ _ | .companionLoad _ _ _ | .peerAccess _
  | .peerTimeout _ | .fatalTrap _ | .correctedError _ | .uncorrectableError _ _ | .slicePauseEnd _
  | .firmwareReadyTimeout | .thermalHalt | .thermalResume | .powerCapAdjust _ _ | .resetRelease _ | .traceSample _
  | .park _ _ | .resume _ _ | .step _ _ | .stopall _ _ | .resumeall _ _ | .read _ _ | .edit _ _ | .commit _ _
  | .discard _ _ | .setbp _ _ | .setwp _ _ | .ctxdef _ _ | .errring _ _ | .rasring _ _ | .grant _ _ | .revoke _ _
  | .keyload _ _ | .keyclear _ _ | .attest _ _ | .fwstage _ _ | .fwswitch _ _ | .unit _ _ | .domain _ _ | .admitPeer _ _
  | .power _ _ | .registerWrite _ _ _ | .firmwareReady | .peerAnswers _ | .peerPortFailure _
  | .domainReductionArrival _ | .unitDrainComplete _ _ | .unitTestPassed _ _ => true

/-- Whether an instruction is a word of the instruction stream. -/
def isWord (i : Instr) : Bool := (info i).isSome

/-- Well formed: the fields stand in a word of the row, and no cause of R102 is decided by the bits alone. The moves of the
other agents carry no word and are always well formed. -/
def wf (i : Instr) : Bool := formOk i && (causesOf i).isEmpty

end Sys2Proof
end

