-- ==== Sys2Proof/Machine/Ops.lean ====
section
/-! DEFINITION. The named operations over the state: finding and changing its parts, memory and its keys, translation, taking a
fatal trap, the launch's way back from it, records, and publishing and refreshing (R170 to R187, R252 to R264). -/

namespace Sys2Proof.Machine

/-! ## Parts of the state -/

def State.wg? (s : State) (wid : Nat) : Option WG := s.wgs.find? (fun w => w.wid == wid)

def State.modWG (s : State) (wid : Nat) (f : WG → WG) : State :=
  { s with wgs := s.wgs.map (fun w => if w.wid = wid then f w else w) }

def State.launch? (s : State) (lid : Nat) : Option Launch := s.launches.find? (fun l => l.lid == lid)

def State.modLaunch (s : State) (lid : Nat) (f : Launch → Launch) : State :=
  { s with launches := s.launches.map (fun l => if l.lid = lid then f l else l) }

/-- A logical core on which nothing has run. -/
def LCore.fresh (key : Nat) : LCore :=
  { key := key, snap := Mem.empty, phase := 0, views := [], ulist := [], brel := [], mq := [], running := none,
    held := [none, none, none, none], rr := [0, 0, 0, 0], zeroing := [] }

def State.core (s : State) (key : Nat) : LCore := (s.cores.find? (fun c => c.key == key)).getD (LCore.fresh key)

def State.modCore (s : State) (key : Nat) (f : LCore → LCore) : State :=
  if s.cores.any (fun c => c.key == key) then
    { s with cores := s.cores.map (fun c => if c.key = key then f c else c) }
  else { s with cores := s.cores ++ [f (LCore.fresh key)] }

/-- A launch's view of a logical core that it has not used. -/
def View.fresh (lid : Nat) : View := ⟨lid, 0⟩

def LCore.view (c : LCore) (lid : Nat) : View := (c.views.find? (fun v => v.lid == lid)).getD (View.fresh lid)

def LCore.modView (c : LCore) (lid : Nat) (f : View → View) : LCore :=
  if c.views.any (fun v => v.lid == lid) then
    { c with views := c.views.map (fun v => if v.lid = lid then f v else v) }
  else { c with views := c.views ++ [f (View.fresh lid)] }

def State.view (s : State) (key lid : Nat) : View := (s.core key).view lid

def State.modView (s : State) (key lid : Nat) (f : View → View) : State := s.modCore key (fun c => c.modView lid f)

def State.ctx (s : State) (n : Nat) : Ctx := s.ctxs.get Ctx.reset n

def State.modCtx (s : State) (n : Nat) (f : Ctx → Ctx) : State :=
  { s with ctxs := s.ctxs.put Ctx.reset n (f (s.ctx n)) }

def State.queue (s : State) (q : Nat) : QDesc := s.queues.get QDesc.reset q

def State.modQueue (s : State) (q : Nat) (f : QDesc → QDesc) : State :=
  { s with queues := s.queues.put QDesc.reset q (f (s.queue q)) }

def State.part (s : State) (n : Nat) : Part := s.parts.get Part.reset n

def State.modPart (s : State) (n : Nat) (f : Part → Part) : State :=
  { s with parts := s.parts.put Part.reset n (f (s.part n)) }

def WG.modThreads (w : WG) (f : Nat → Thread → Thread) : WG := { w with threads := w.threads.mapIdx f }

def WG.modThread (w : WG) (tid : Nat) (f : Thread → Thread) : WG :=
  w.modThreads (fun i t => if i = tid then f t else t)

def WG.group? (w : WG) (gid : Nat) : Option Group := w.groups.find? (fun g => g.gid == gid)

def WG.modGroup (w : WG) (gid : Nat) (f : Group → Group) : WG :=
  { w with groups := w.groups.map (fun g => if g.gid = gid then f g else g) }

/-- The identity of a thread in the clocks of R182. -/
def uidOf (wid tid : Nat) : Nat := wid * 2048 + tid

/-- Group size G of a kernel (R24, R248). -/
def Hdr.g (h : Hdr) : Nat := 16 * 2 ^ h.gsz

/-- Threads of a workgroup, N (R24). -/
def Hdr.n (h : Hdr) : Nat := h.dx * h.dy * h.dz

/-- Bytes of the scratchpad window (R133, R248). -/
def Hdr.window (h : Hdr) : Nat := h.scr * 8192

/-- A deterministic launch (R46, R248). -/
def Launch.isDet (l : Launch) : Bool := l.det || l.hdr.det

/-- Workgroups of a launch (R24). -/
def Launch.count (l : Launch) : Nat := l.gx * l.gy * l.gz

/-- Executed by a core: bound, and no trap or stop has ended its issue. -/
def Launch.runs (l : Launch) : Bool := l.phase == .bound

/-- The entry of a logical core in the group binding table, and its fields (R18). -/
def State.gbe (s : State) (key : Nat) : DWord := s.gbt.get 0 key

def State.gbSt (s : State) (key : Nat) : Nat := bitsOf (s.gbe key).toNat 61 2

def gbPart (e : Nat) : Nat := bitsOf e 48 4
def gbSave (e : Nat) : Nat := bitsOf e 16 30
def gbTurn (e : Nat) : Nat := bitsOf e 12 4
def gbMuxl (e : Nat) : Nat := bitsOf e 9 3
def gbPcore (e : Nat) : Nat := bitsOf e 0 9

/-- The panels of a physical core that some workgroups of a logical core give up, to be zeroed: physical core, first panel and count (R148);
one that is not resident holds none. -/
def State.panelsGone (s : State) (key : Nat) (ws : List WG) : List (Nat × Nat × Nat) :=
  if s.gbSt key = 1 then
    ws.map (fun w => (gbPcore (s.gbe key).toNat, w.base, ((s.launch? w.lid).map (fun l => l.hdr.scr)).getD 0))
  else []

/-- The clocks' join (R182). -/
def Clock.join (a b : Clock) : Clock := b.foldl (fun m e => if m.get 0 e.1 < e.2 then m.put 0 e.1 e.2 else m) a

/-- Free choices used. Log 4, DESIGN CHOICE. -/
def State.spend (s : State) (n : Nat) : State := { s with free := s.free + n }

/-! ## Memory at the home slices -/

/-- A physical address of the companion window (R175). -/
def isCompanion (pa : Nat) : Bool := 0x1000000000000 ≤ pa && pa < 0x2000000000000

/-- A physical address of a peer window (R175). -/
def isPeer (pa : Nat) : Bool := 0x8000000000000 ≤ pa && pa < 0x8000000000000 + 0x80000000000 * 256

/-- A physical address that the near or the far tier could hold. -/
def isLocal (pa : Nat) : Bool := pa < 0x1000000000000

/-- The device and the offset of a peer address (R286). -/
def peerOf (pa : Nat) : Nat := (pa - 0x8000000000000) / 0x80000000000
def peerOff (pa : Nat) : Nat := (pa - 0x8000000000000) % 0x80000000000

/-- Whether a local physical address lies in a whole page of a tier (R175). -/
def tierOk (pa : Nat) : Bool :=
  (pa < 0x8000000000 && pa % 0x2000000000 / 65536 < 1464843)
  || (0x10000000000 ≤ pa && (pa - 0x10000000000) / 65536 < 31250000)

/-- What a byte of memory reads as where nothing has been written. Log 5, DESIGN CHOICE. -/
def unlisted : Byte := 0

/-- What the engine encrypts with under a key ID (R177). Log 5, DESIGN CHOICE. -/
def Mem.keyOf (m : Mem) (key : Nat) : LineKey :=
  if key = 0 then .lodge
  else match m.slots.find? (fun e => e.1 == key) with
    | some e => .owner e.2
    | none => .clear key

/-- The two XTS keys of a line (R177). -/
def LineKey.bits : LineKey → BitVec 512
  | .none => 0
  | .lodge => Config.lodgeKeys
  | .owner k => k
  | .clear id => Config.clearKeys id

/-- A byte of a block that was encrypted under one pair of keys and is decrypted under another (R177, R178): the 16 bytes of the
block at a physical address, and the place of the byte. -/
def crossRead (old new : LineKey) (pa : Nat) (blk : List Byte) : Byte :=
  let j := pa % 128 / 16
  let c := xtsEncrypt old.bits (pa / 128) j (numsOf blk)
  BitVec.ofNat 8 ((xtsDecrypt new.bits (pa / 128) j c).getD (pa % 16) 0)

/-- The byte that a reader under a key finds: the stored one under the line's own keys, else the ciphertext decrypted under the wrong
keys (R177, R178). The companion and peer windows are not encrypted by this device. Log 5, DESIGN CHOICE. -/
def Mem.read (m : Mem) (key pa : Nat) : Byte :=
  let b := m.bytes.get unlisted pa
  let k := m.keys.get .none (pa / 128)
  if !isLocal pa || k = .none || k = m.keyOf key then b
  else crossRead k (m.keyOf key) pa (m.bytes.getN unlisted (pa / 16 * 16) 16)

/-- n bytes from a physical address on. -/
def Mem.readN (m : Mem) (key pa : Nat) : Nat → List Byte
  | 0 => []
  | n + 1 => m.read key pa :: m.readN key (pa + 1) n

/-- A line taken under a key: refetched where another key held it (R178). Log 5, DESIGN CHOICE. -/
def Mem.rekey (m : Mem) (key line : Nat) : Mem :=
  let k := m.keys.get .none line
  if !isLocal (line * 128) || k = m.keyOf key then m
  else if k = .none then { m with keys := m.keys.put .none line (m.keyOf key) }
  else { m with bytes := m.bytes.putAll unlisted (line * 128) (m.readN key (line * 128) 128),
                keys := m.keys.put .none line (m.keyOf key) }

/-- One byte written under a key. -/
def Mem.write (m : Mem) (key pa : Nat) (b : Byte) : Mem :=
  let m := m.rekey key (pa / 128)
  { m with bytes := m.bytes.put unlisted pa b }

/-- Cells written under a key, in order. -/
def Mem.writeCells (m : Mem) (key : Nat) (cs : List Host.Cell) : Mem :=
  cs.foldl (fun m c => m.write key c.1 c.2) m

/-- Bytes as cells from an address on. -/
def cellsAt : Nat → List Byte → List Host.Cell
  | _, [] => []
  | a, b :: bs => (a, b) :: cellsAt (a + 1) bs

/-- The canonical form of memory. -/
def Mem.wf (m : Mem) : Bool := SMap.wf unlisted m.bytes && SMap.wf .none m.keys

/-! ## Service states and the last-level cache -/

/-- Service state of a unit: cores from 0 on, slices from 1000, polders from 2000, far-tier channels from 3000 (R266). Log 79, DESIGN CHOICE. -/
def unitKey (k : UnitKind) (n : Nat) : Nat :=
  match k with
  | .core => n
  | .slice => 1000 + n
  | .polder => 2000 + n
  | .farChannel => 3000 + n

def State.service (s : State) (k : UnitKind) (n : Nat) : Service := s.units.get .inService (unitKey k n)

/-- The home slice of a line (R176). -/
def homeSlice (pa : Nat) : Nat :=
  if pa < 0x8000000000 then 32 * (pa / 0x2000000000) + foldXor 5 9 (pa / 128) else foldXor 7 7 (pa / 128)

/-- The slice that serves a line: its home slice, or that slice's partner while the home slice is out of service (R176, R266). -/
def State.sliceFor (s : State) (pa : Nat) : Nat :=
  let h := homeSlice pa
  match s.service .slice h with
  | .inService | .draining => h
  | _ => h ^^^ 1

/-- A last-level set: 1,024 × slice + set (R176). -/
def State.setOf (s : State) (line : Nat) : Nat := 1024 * s.sliceFor (line * 128) + line % 1024

/-- The ways of a set, sixteen of them (R13, R176). -/
def State.waysAt (s : State) (set : Nat) : List Nat := s.ways.get (List.replicate 16 0) set

/-- The way that holds a line (R176). -/
def State.wayOf (s : State) (line : Nat) : Option Nat :=
  let ws := s.waysAt (s.setOf line)
  (List.range 16).find? (fun i => ws.getD i 0 == line + 1)

/-- A line comes into its set (R176): it takes the lowest empty way that is not quarantined; where there is none, a way of the
replacement policy's choice is evicted, a line that is marked first before the others (R400), which writes its line back. The fill whose
eviction met an error takes another way (R432). Log 94, DESIGN CHOICE. -/
def State.fillLine (s : State) (line : Nat) : State :=
  let set := s.setOf line
  let ws := s.waysAt set
  let free := (List.range 16).filter (fun i => !s.quarantined.contains (set / 1024, i) && s.struckWays.get 0 set != i + 1)
  let struck := s.struckWays.put 0 set 0
  if !isLocal (line * 128) || ws.contains (line + 1) || free.isEmpty then s
  else match free.find? (fun i => ws.getD i 0 == 0) with
    | some i => { s with ways := s.ways.put (List.replicate 16 0) set (ws.set i (line + 1)), struckWays := struck }
    | none =>
      let first := free.find? (fun i => s.evictFirst.contains (ws.getD i 0 - 1))
      let i := first.getD (free.getD (Config.victim s.free % free.length) 0)
      { s with
        ways := s.ways.put (List.replicate 16 0) set (ws.set i (line + 1)), struckWays := struck,
        evictFirst := s.evictFirst.filter (fun l => l + 1 != ws.getD i 0),
        tags := s.tags.put 0 (ws.getD i 0 - 1) 0, free := s.free + 1 }

/-- Whether a line's contents stand under another key than a key ID's (R177, R178). -/
def State.foreign (s : State) (key line : Nat) : Bool :=
  s.mem.keys.get .none line != .none && s.mem.keys.get .none line != s.mem.keyOf key

/-- A request finds a line in the last-level cache under a key, or brings it in; one that is held under another key ID is written back first,
so that no tag is left, and its contents stay the owner's (R176, R178). -/
def State.fetchLine (s : State) (key line : Nat) : State :=
  let t := s.fillLine line
  { t with tags := if s.foreign key line then t.tags.put 0 line 0 else t.tags }

/-- The lines of some bytes, each under the key it is read with, are fetched once (R178). -/
def State.fetchLines (s : State) (ps : List (Nat × Nat)) : State :=
  (ps.map (fun p => (p.1 / 128, p.2))).dedup.foldl (fun s p => s.fetchLine p.2 p.1) s

/-- The lines of some cells, each once. -/
def linesOf (cs : List Host.Cell) : List Nat := (cs.map (fun c => c.1 / 128)).dedup

/-- Cells enter M at the home slices under a key, for a context, whose number tags the line (R176, R178, R183). -/
def State.writeM (s : State) (ctx key : Nat) (cs : List Host.Cell) : State :=
  let s := (linesOf cs).foldl State.fillLine s
  { s with mem := s.mem.writeCells key cs, tags := (linesOf cs).foldl (fun t l => t.put 0 l (ctx + 1)) s.tags }

/-- Bytes as M holds them, without a key: what page walks and lodge firmware read. -/
def State.rawBytes (s : State) (pa n : Nat) : List Byte := SMap.getN unlisted s.mem.bytes pa n

/-- The poisoned line that an access meets, and the SEQ of its RAS record (R260). -/
def State.poisoned (s : State) (pa n : Nat) : Option (Nat × Nat) :=
  s.poison.find? (fun e => pa / 128 ≤ e.1 && e.1 ≤ (pa + n - 1) / 128)

/-- The page of a consumed or poisoned line is retired (R260), once the lodge's firmware runs (R268). -/
def State.retirePage (s : State) (line : Nat) : State :=
  let p := line * 128 / 65536
  if s.retired.contains p || s.repairs.contains (.retire line) then s
  else if s.lodge.ready then { s with retired := s.retired ++ [p] }
  else { s with repairs := s.repairs ++ [.retire line] }

/-! ## Translation -/

/-- A page's translation (R171, R172): the level and the address of its leaf entry, the page it maps, physical address, key ID,
attributes. -/
structure Trans where
  lvl : Nat
  ea : Nat
  base : Nat
  pa : Nat
  key : Nat
  r : Bool
  w : Bool
  x : Bool
  det : Bool
  dgen : Nat
  deriving DecidableEq, Repr

/-- What a walk or a check answers: a translation, a cause of R173, or a page fault, which is order 3. -/
inductive XRes where
  | ok (t : Trans)
  | cause (n : Nat)
  deriving DecidableEq, Repr

/-- Reads a page-table entry. -/
def State.entry (s : State) (pa : Nat) : Nat := natOfBytes (s.rawBytes pa 8)

/-- Whether a leaf's format is broken at a level (R172). -/
def leafBad (lvl e : Nat) : Bool :=
  lvl = 0 || (bitOf e 3 && !bitOf e 2) || bitsOf e 6 2 != 0 || bitsOf e 62 2 != 0
  || (lvl = 1 && bitsOf e 16 14 != 0) || (lvl = 2 && bitsOf e 16 5 != 0)

/-- Whether a table pointer's format is broken at a level (R171, R172). -/
def tableBad (lvl e : Nat) : Bool :=
  lvl = 3 || bitsOf e 2 6 != 0 || bitsOf e 52 12 != 0 || (lvl ≤ 1 && bitsOf e 8 4 != 0)

/-- Index of a virtual address at a level, and the low bits of a leaf there (R170). -/
def levelIndex (lvl va : Nat) : Nat :=
  match lvl with
  | 0 => bitsOf va 39 17
  | 1 => bitsOf va 30 9
  | 2 => bitsOf va 21 9
  | _ => bitsOf va 16 5

def leafBits (lvl : Nat) : Nat := if lvl = 1 then 30 else if lvl = 2 then 21 else 16

/-- The walk from a level on (R170 to R173); the fuel is the number of levels left. A table that lies in no range of R175 is read as its
bytes stand. Log 24, DEDUCED. -/
def State.walk (s : State) : Nat → Nat → Nat → XRes
  | 0, _, _ => .cause 4
  | n + 1, table, va =>
    let lvl := 3 - n
    let ea := table + 8 * levelIndex lvl va
    let e := s.entry ea
    if !bitOf e 0 then .cause 3
    else if bitOf e 1 then
      if leafBad lvl e then .cause 4
      else
        let k := leafBits lvl
        .ok { lvl := lvl, ea := ea, base := bitsOf e 16 36, pa := bitsOf e 16 36 * 65536 + va % 2 ^ k, key := bitsOf e 52 10, r := bitOf e 2, w := bitOf e 3,
              x := bitOf e 4, det := bitOf e 5, dgen := bitsOf e 8 8 }
    else if tableBad lvl e then .cause 4
    else s.walk n (bitsOf e 8 44 * 256) va

/-- The far-tier channel of a physical address, of 32 GB each (R11, R175). Log 95, DESIGN CHOICE. -/
def channelOf (pa : Nat) : Nat := (pa - 0x10000000000) / 32000000000

/-- Whether the lodge has removed the range of a far-tier address, because its channel has left service (R266). -/
def State.rangeGone (s : State) (pa : Nat) : Bool :=
  0x10000000000 ≤ pa && (match s.service .farChannel (channelOf pa) with | .inService | .draining => false | _ => true)

/-- Cause 6 or 7 of a translated address, 0 for none (R173, R286). Log 24, DEDUCED. -/
def State.placeCause (s : State) (ctx : Nat) (t : Trans) : Nat :=
  if isPeer t.pa then
    let d := peerOf t.pa
    let e := s.domain.get 0 d
    if !(e.getLsbD 0 && e.getLsbD 2) || !tierOk (peerOff t.pa) || (d = s.lodge.domain && s.rangeGone (peerOff t.pa)) then 6
    else if !(s.ctx ctx).kset.getLsbD t.key || !s.admitted.contains (d, t.key) then 7 else 0
  else if !isCompanion t.pa && !(isLocal t.pa && tierOk t.pa && !s.rangeGone t.pa) then 6
  else if !(s.ctx ctx).kset.getLsbD t.key then 7 else 0

/-- The place where an access acts: an address in the window of this device's own domain number stands for its offset here (R286). Log 84,
DEDUCED. -/
def State.actsAt (s : State) (t : Trans) : Trans :=
  if isPeer t.pa && peerOf t.pa = s.lodge.domain then { t with pa := peerOff t.pa } else t

/-- One page's check from order 2 on: the translation or the first cause (R173). -/
def State.checkPage (s : State) (ctx va : Nat) (r w x : Bool) : XRes :=
  if 2 ^ 56 ≤ va then .cause 2
  else match s.walk 4 ((s.ctx ctx).root * 2 ^ 20) va with
    | .cause c => .cause c
    | .ok t =>
      if (r && !t.r) || (w && !t.w) || (x && !t.x) then .cause 5
      else match s.placeCause ctx t with
        | 0 => .ok (s.actsAt t)
        | c => .cause c

/-- The first addresses of the 64 KiB pages that n bytes touch. -/
def pagesOf (va n : Nat) : List Nat :=
  if va / 65536 = (va + n - 1) / 65536 then [va] else [va, (va / 65536 + 1) * 65536]

/-- A whole access: the lowest cause over its pages, or the translation of each (R173). Log 24, DEDUCED. -/
def State.access (s : State) (ctx va n align : Nat) (r w x : Bool) : Except Nat (List Trans) :=
  if va % align ≠ 0 then .error 1
  else
    let rs := (pagesOf va n).map (fun a => s.checkPage ctx (a % 2 ^ 64) r w x)
    match minOf (rs.filterMap (fun q => match q with | .cause c => some c | .ok _ => none)) with
    | some c => .error c
    | none => .ok (rs.filterMap (fun q => match q with | .ok t => some t | .cause _ => none))

/-- The physical addresses of n bytes, given the translations of their pages, with the key of each. -/
def placeBytes (va n : Nat) (ts : List Trans) : List (Nat × Nat) :=
  (List.range n).map (fun i =>
    match ts with
    | [t] => (t.pa + i, t.key)
    | [t, u] => let k := 65536 - va % 65536; if i < k then (t.pa + i, t.key) else (u.pa + (i - k), u.key)
    | _ => (0, 0))

/-- Sets DGEN to the context's checkpoint generation where it differs (R174): only the entry's own byte changes, and only
where the entry is a valid leaf that still maps the same page under the same key ID. -/
def State.setDgen (s : State) (ctx : Nat) (t : Trans) : State :=
  let g := (s.ctx ctx).ckgen
  let e := s.entry t.ea
  if t.dgen = g || !(bitOf e 0 && bitOf e 1 && !leafBad t.lvl e && bitsOf e 16 36 = t.base && bitsOf e 52 10 = t.key) then s
  else { s with mem := { s.mem with bytes := s.mem.bytes.put unlisted (t.ea + 1) (BitVec.ofNat 8 g) } }

/-! ## Fatal traps -/

/-- The time of day of records. -/
def State.now (s : State) : Nat := s.ns % 2 ^ 64

/-- Taking a fatal trap (R252 to R255): the event is noted with its lane records, and the launch is marked as ending; no
lane of the trapping word writes. The row FATAL_TRAP then ends the launch. Log 13, DEDUCED. Log 14, DEDUCED. -/
def State.raise (s : State) (lid : Nat) (core rank sub : Nat) (recs : List TrapRec) : State :=
  s.modLaunch lid (fun l =>
    if l.phase = .complete then l
    else { l with phase := .dying, traps := l.traps ++ [⟨s.ck, core, rank, sub, recs⟩] })

/-- A lane record (R256). -/
def State.record (s : State) (w : WG) (cls cause : Nat) (prec : Bool) (tid gid lane pc fva detail : Nat) : TrapRec :=
  { cls := cls, cause := cause, prec := prec, relaunch := false, tid := tid, wgid := w.wgid, gid := gid, lane := lane,
    ncore := w.core % 256, pc := pc, fva := fva, lid := w.lid, time := s.now, detail := detail }

/-- A lane record put among those of one event, by %tid (R254). -/
def insertRec (r : TrapRec) : List TrapRec → List TrapRec
  | [] => [r]
  | q :: qs => if r.tid < q.tid then r :: q :: qs else q :: insertRec r qs

/-- Whether an event of returning data belongs to the same word of the same ck as a lane record (R254). -/
def TrapEvent.sameWord (e : TrapEvent) (ck core : Nat) (r : TrapRec) : Bool :=
  e.ck == ck && e.core == core && e.rank == 3
    && e.records.any (fun q => q.cls == r.cls && q.wgid == r.wgid && q.gid == r.gid && q.pc == r.pc)

/-- A trap that a reply or returning data raises for one lane (R254): it joins the trap of the other lanes of its word whose
data came in the same ck. Log 13, DEDUCED. -/
def State.raiseReturn (s : State) (lid core : Nat) (r : TrapRec) : State :=
  match s.launch? lid with
  | none => s
  | some l =>
    if l.traps.any (fun e => e.sameWord s.ck core r) then
      s.modLaunch lid (fun l => { l with traps := l.traps.map (fun (e : TrapEvent) =>
        if e.sameWord s.ck core r then { e with records := insertRec r e.records, sub := min e.sub r.tid } else e) })
    else s.raise lid core 3 r.tid [r]

/-- Clears everything of a launch from the cores (R255 steps 2 to 4, R148, R163): its resident workgroups, its requests,
its unpublished stores, its views, its matrix entries and its issue state. -/
def State.sweepLaunch (s : State) (lid : Nat) : State :=
  let mine := fun (wid : Nat) => (s.wg? wid).any (fun w => w.lid == lid)
  { s with
    wgs := s.wgs.filter (fun w => w.lid ≠ lid)
    before := s.before.filter (fun w => w.lid ≠ lid)
    issue := s.issue.filter (fun c => !mine c.wid)
    slices := s.slices.map (fun e => (e.1, e.2.filter (fun r => r.lid ≠ lid)))
    monitors := (s.monitors.map (fun m => { m with waiters := m.waiters.filter (fun x => !mine x.1) })).filter
      (fun m => !m.waiters.isEmpty)
    replies := s.replies.filter (fun r => r.req.lid ≠ lid)
    faults := (s.faults.map (fun f => { f with srcs := f.srcs.filter (fun x => match x with
      | .word wid _ | .copy wid _ _ => !mine wid
      | .table _ r | .reissue r => r.lid != lid
      | .parser _ => true
      | .signal l => l != lid
      | .ring _ _ => true) })).filter (fun f => !f.srcs.isEmpty)
    cores := s.cores.map (fun c =>
      { c with views := c.views.filter (fun v => v.lid ≠ lid), ulist := c.ulist.filter (fun u => u.pub || u.lid ≠ lid),
               mq := c.mq.filter (fun e => !mine e.wid),
               running := if c.running.any (fun p => mine p.1) then none else c.running,
               held := c.held.map (fun h => if h.any (fun p => mine p.1) then none else h),
               zeroing := c.zeroing ++ s.panelsGone c.key (s.wgs.filter (fun w => w.lid = lid && w.core = c.key)) }) }

/-! ## Owed tests -/

/-- The place of an owed test among the others: the masks first, then the barriers, then
the stops of groups (R276), then what depends on them. -/
def Due.rank : Due → Nat
  | .kwait _ _ => 0
  | .bar _ _ => 1
  | .stops _ _ => 2
  | .rejoin _ _ => 3
  | .deadlock _ => 4
  | .finish _ => 5
  | .stepEnd _ _ => 6

/-- Inserts an owed test behind those of its rank. -/
def insertDue (d : Due) : List Due → List Due
  | [] => [d]
  | e :: es => if d.rank < e.rank then d :: e :: es else e :: insertDue d es

/-- The tests that fall in the ck after the one that calls for them (R40, R226). -/
def Due.inNext : Due → Bool
  | .rejoin _ _ | .deadlock _ => true
  | _ => false

/-- A test owed at the end of the ck, or in the next one, once. Log 75, DEDUCED. -/
def State.owe (s : State) (d : Due) : State :=
  if d.inNext then (if s.late.contains d then s else { s with late := insertDue d s.late })
  else if s.due.contains d then s else { s with due := insertDue d s.due }

/-- Several tests owed. -/
def State.oweAll (s : State) (ds : List Due) : State := ds.foldl State.owe s

/-! ## Publishing and refreshing -/

/-- Whether a store of U_c precedes a thread under R181: its own, or one its clock covers. -/
def UStore.precedes (u : UStore) (uid : Nat) (vc : Clock) : Bool := u.uid == uid || u.seq ≤ vc.get 0 u.uid

/-- The stores of U_c that a publish takes: those that precede, those that core order per byte adds, and the ones that the
free choices add (R183), of those that `can` lets be published. The list is walked from its end, with the addresses of the later members.
Log 23, DESIGN CHOICE. -/
def publishSet (can must : UStore → Bool) (extra : Nat → Bool) : Nat → List UStore → List Bool × List Nat
  | _, [] => ([], [])
  | i, u :: us =>
    let (rest, addrs) := publishSet can must extra (i + 1) us
    let take := can u && (must u || extra i || u.cells.any (fun c => addrs.contains c.1))
    (take :: rest, if take then u.cells.map (·.1) ++ addrs else addrs)

/-- Whether a store still stands in U_c and may leave it: no publish takes a store of a launch that a fatal trap ends (R180, R255 step 3). -/
def State.canPublish (s : State) (u : UStore) : Bool := !u.pub && !(s.launch? u.lid).any (fun l => l.phase == .dying)

/-- Moves the marked stores into M in core order and keeps them as published. Log 23, DESIGN CHOICE. -/
def State.publishMarked (s : State) (key : Nat) (marks : List Bool) : State :=
  let us := (s.core key).ulist
  let s := (us.zip marks).foldl (fun s p => if p.2 then s.writeM p.1.ctx p.1.key p.1.cells else s) s
  s.modCore key (fun c => { c with ulist := (us.zip marks).map (fun p => if p.2 then { p.1 with pub := true } else p.1) })

/-- A publish on a logical core of the stores that `must` names and what goes with them (R183). Log 22, DESIGN CHOICE. Log 23, DESIGN CHOICE. -/
def State.publish (s : State) (key : Nat) (must : UStore → Bool) : State :=
  let us := (s.core key).ulist
  let f := s.free
  (s.publishMarked key (publishSet s.canPublish must (fun i => Config.choose (f + i)) 0 us).1).spend us.length

/-- The publish of a whole launch on a logical core (R50, R63 step 4, R180). -/
def State.publishAll (s : State) (key : Nat) (mine : UStore → Bool) : State :=
  s.publishMarked key (publishSet s.canPublish mine (fun _ => false) 0 (s.core key).ulist).1

/-- Whether a store has bytes in a line. -/
def UStore.meets (line : Nat) (u : UStore) : Bool := u.cells.any (fun c => c.1 / 128 == line)

/-- A store's bytes in a line, as a store of its own (R187). -/
def UStore.inLine (line : Nat) (u : UStore) : UStore := { u with cells := u.cells.filter (fun c => c.1 / 128 == line) }

/-- A store cut into its bytes in a line and its other bytes (R187). -/
def UStore.split (line : Nat) (u : UStore) : List UStore :=
  let out := u.cells.filter (fun c => c.1 / 128 != line)
  if out.isEmpty then [u] else [u.inLine line, { u with cells := out }]

/-- The marked stores of U_c cut at a line (R187): their bytes in the line are published, their other bytes stay; a store that is not
marked stays whole. -/
def cutMarked (line : Nat) (us : List UStore) (marks : List Bool) : List (UStore × Bool) :=
  (us.zip marks).flatMap (fun p => if p.2 then (p.1.split line).map (fun u => (u, u.meets line)) else [(p.1, false)])

/-- The publish of its own line that an atomic or a routine makes first (R187): the stores that precede it by its clock, and
those that the free choices add, each by its bytes in that line. -/
def State.publishLine (s : State) (key : Nat) (clk : Clock) (line : Nat) : State :=
  let us := (s.core key).ulist
  let f := s.free
  let marks := (publishSet s.canPublish (fun u => u.meets line && u.seq ≤ clk.get 0 u.uid)
    (fun i => (us.map (UStore.meets line)).getD i false && Config.choose (f + i)) 0 (us.map (UStore.inLine line))).1
  let cut := cutMarked line us marks
  ((s.modCore key (fun c => { c with ulist := cut.map (·.1) })).publishMarked key (cut.map (·.2))).spend us.length

/-- Which addresses a refresh of a scope takes: local pages, the companion window with .sys, the peer windows with .dom
(R185). -/
def inScope (scope pa : Nat) : Bool := isLocal pa || (scope = 1 && isCompanion pa) || (scope = 2 && isPeer pa)

/-- A snapshot refreshed in a scope: the segments of the address space in order (R183, R185). -/
def refreshMem (scope : Nat) (m old : Mem) : Mem :=
  { bytes := m.bytes.filter (fun e => isLocal e.1)
      ++ ((if scope = 1 then m.bytes else old.bytes).filter (fun e => !isLocal e.1 && !isPeer e.1))
      ++ ((if scope = 2 then m.bytes else old.bytes).filter (fun e => isPeer e.1)),
    keys := m.keys, slots := m.slots }

/-- Published stores leave U_c for the snapshot where `gone` names their bytes; the release clocks stay with the bytes (R182, R183). -/
def LCore.settle (c : LCore) (gone : Nat → Bool) : LCore :=
  { c with
    ulist := (c.ulist.map (fun u => if u.pub then { u with cells := u.cells.filter (fun x => !gone x.1) } else u)).filter
      (fun u => !u.cells.isEmpty)
    brel := (c.ulist.filter (fun u => u.pub)).foldl (fun b u => (u.cells.filter (fun x => gone x.1)).foldl (fun b x =>
      b.put [] x.1 (Clock.join (b.get [] x.1) u.rel)) b) c.brel }

/-- A launch comes to a logical core on which it holds no view: its issue ordinal starts at 0, and the core's snapshot is M as it stands,
which holds every published store; their release clocks stay with their bytes (R74, R180, R182). Log 20, DEDUCED. -/
def State.enterCore (s : State) (key lid : Nat) : State :=
  if (s.core key).views.any (fun v => v.lid == lid) then s
  else s.modCore key (fun c => { (c.settle (fun _ => true)).modView lid id with snap := s.mem })

/-- A refresh of a logical core's snapshot in a scope; published stores that the snapshot now holds leave U_c (R182, R183, R185). Log
22, DESIGN CHOICE. -/
def State.refresh (s : State) (key scope : Nat) : State :=
  s.modCore key (fun c => { c.settle (inScope scope) with snap := refreshMem scope s.mem c.snap })

/-- The snapshot refreshed for 32-byte sectors only (R192); published bytes of those sectors leave U_c. -/
def State.refreshSectors (s : State) (key : Nat) (secs : List Nat) : State :=
  if secs.isEmpty then s
  else s.modCore key (fun c => { c.settle (fun a => secs.contains (a / 32)) with snap :=
    { c.snap with
      bytes := secs.foldl (fun b x => b.putAll unlisted (32 * x) (s.rawBytes (32 * x) 32)) c.snap.bytes,
      keys := secs.foldl (fun k x => k.put .none (x / 4) (s.mem.keys.get .none (x / 4))) c.snap.keys } })

/-! ## Records that the lodge writes -/

/-- Little-endian bytes of fields given as (width in bits, value), lowest first. -/
def packBits : List (Nat × Nat) → Nat
  | [] => 0
  | (w, x) :: fs => x % 2 ^ w + packBits fs * 2 ^ w

/-- The 64 bytes of a trap record (R256). Log 18, DEDUCED. -/
def TrapRec.bytes (r : TrapRec) (sec more : Bool) : List Byte :=
  bytesOf 64 (packBits [(8, r.cls), (8, r.cause), (1, bit1 r.prec), (1, bit1 sec), (1, bit1 r.relaunch), (1, bit1 more),
    (12, 0), (32, r.tid), (32, r.wgid), (32, r.gid), (6, r.lane), (8, r.ncore), (2, 0), (56, r.pc), (56, r.fva),
    (64, r.lid), (64, r.time), (64, r.detail), (64, 0)])

/-- A write of the lodge through a context, W required, in 8-byte units or a record that stays inside a page; dropped on a
page fault answered fail, a fatal cause or a poisoned line (R239, R256). -/
def State.lodgeWrite (s : State) (ctx va : Nat) (bs : List Byte) : State × Bool :=
  match s.access ctx va bs.length 1 false true false with
  | .ok [t] =>
    if (s.poisoned t.pa bs.length).isSome then (s, false)
    else ((s.setDgen ctx t).writeM ctx t.key (cellsAt t.pa bs), true)
  | _ => (s, false)

/-- Wakes the waiters of a line's monitor of a context; the monitor is dropped (R230). -/
def State.wakeLine (s : State) (line ctx : Nat) : State :=
  let hit := fun (m : Monitor) => m.line == line && m.ctx == ctx
  let ws := (s.monitors.filter hit).flatMap (fun m => m.waiters)
  let wake := fun (t : Thread) => match t.run with
    | .wait (.waitv z) => if z.mon then { t with run := .wait (.waitv { z with woken := true }) } else t
    | _ => t
  let s : State := { s with wgs := s.wgs.map (fun w => w.modThreads (fun i t => if ws.contains (w.wid, i) then wake t else t)) }
  { s with monitors := s.monitors.filter (fun m => !hit m) }

/-- Eight bytes exchanged by the lodge at the home slice, as an EXCH.b64 of a context (R187): a change wakes the line's monitors
(R230). -/
def State.lodgeExch (s : State) (ctx va x : Nat) : State × Bool :=
  let pa := match s.access ctx va 8 8 false true false with
    | .ok [t] => some t.pa
    | _ => none
  let r := s.lodgeWrite ctx va (bytesOf 8 x)
  match pa with
  | some a => if r.2 && natOfBytes (s.rawBytes a 8) != x then (r.1.wakeLine (a / 128) ctx, true) else r
  | none => r

/-- The 64 KiB page of an address. -/
def pageOf (va : Nat) : Nat := va / 65536

/-- A fault request for an address and a kind of access, merged with that of the same context and page (R258). -/
def State.sendFault (s : State) (ctx va : Nat) (kind : Access) (src : FaultSrc) : State :=
  let page := pageOf va
  if s.faults.any (fun f => f.ctx == ctx && f.page == page) then
    { s with faults := s.faults.map (fun f =>
        if f.ctx = ctx ∧ f.page = page ∧ ¬ f.srcs.contains src then { f with srcs := f.srcs ++ [src] } else f) }
  else { s with faults := s.faults ++ [⟨ctx, page, va, kind, [src]⟩] }

/-- The address at which a write of a record or of the index word waits for its page, if that is absent (R256). -/
def State.ringAbsent (s : State) (ctx : Nat) (r : Ring) (i : Nat) : Option Nat :=
  let absent := fun (va n : Nat) => match s.access ctx va n 1 false true false with
    | .error 3 => some va
    | _ => none
  absent (r.base + 64 * (i % 2 ^ r.k)) 64 <|> r.index.bind (fun a => absent a 8)

/-- Record i of a ring written, and then the index word (R256); a write that fails drops the record. -/
def State.ringPut (s : State) (ctx : Nat) (r : Ring) (i : Nat) (bs : List Byte) : State :=
  let s1 := s.lodgeWrite ctx (r.base + 64 * (i % 2 ^ r.k)) bs
  if s1.2 then
    match r.index with
    | none => s1.1
    | some a => let s2 := s1.1.lodgeExch ctx a (i + 1); if s2.2 then s2.1 else s
  else s

/-- One record into a ring of a context (R256): the count advances; a record whose page is absent waits, and later ones wait
behind it. -/
def State.ringWrite (s : State) (ctx : Nat) (dbg : Bool) (r : Ring) (bs : List Byte) : State × Ring :=
  match s.ringAbsent ctx r r.count with
  | some a => (s.sendFault ctx a .store (.ring ctx dbg), { r with count := r.count + 1, wait := r.wait ++ [(r.count, bs)] })
  | none =>
    if r.wait.isEmpty then (s.ringPut ctx r r.count bs, { r with count := r.count + 1 })
    else (s, { r with count := r.count + 1, wait := r.wait ++ [(r.count, bs)] })

/-- The waiting records of a ring written in order, up to the next absent page (R256); those that `drop` names are dropped. -/
def State.ringFlush (s : State) (ctx : Nat) (dbg : Bool) (drop : Nat → Bool) : Ring → List (Nat × List Byte) → State × Ring
  | r, [] => (s, { r with wait := [] })
  | r, e :: es =>
    match s.ringAbsent ctx r e.1 with
    | some a => if drop (pageOf a) then s.ringFlush ctx dbg drop r es
      else (s.sendFault ctx a .store (.ring ctx dbg), { r with wait := e :: es })
    | none => (s.ringPut ctx r e.1 e.2).ringFlush ctx dbg drop r es

/-- The RAS record of an event (R264): each takes a SEQ; it is written where a ring has been named. -/
structure Ras where
  kind : Nat
  unit : Nat
  index : Nat
  loc : Nat
  pa : Nat
  ctx : Option Nat
  term : Bool
  retired : Bool
  quar : Bool
  deriving DecidableEq, Repr

def Ras.bytes (r : Ras) (seq time : Nat) : List Byte :=
  bytesOf 64 (packBits [(8, r.kind), (8, r.unit), (16, r.index), (32, r.loc), (52, r.pa), (12, 0), (9, r.ctx.getD 0),
    (1, bit1 r.term), (1, bit1 r.retired), (1, bit1 r.quar), (1, bit1 r.ctx.isSome), (51, 0), (64, seq), (64, time),
    (192, 0)])

/-- Writes a RAS record by physical address, as lodge firmware with key ID 0 (R264). -/
def State.ras (s : State) (r : Ras) : State :=
  let seq := s.rasSeq + 1
  match s.rasRing with
  | none => { s with rasSeq := seq }
  | some g =>
    let a := g.base + 64 * (g.count % 2 ^ g.k)
    let ix := g.index.getD 0
    let ok := (s.poisoned a 64).isNone && (s.poisoned ix 8).isNone
    let rec1 := cellsAt a (r.bytes seq s.now)
    let idx1 := cellsAt ix (bytesOf 8 (g.count + 1))
    let s1 := if ok then (s.writeM 0 0 rec1).writeM 0 0 idx1 else s
    { s1 with rasSeq := seq, rasRing := some { g with count := g.count + 1 } }

/-- The trace record kinds of launch and workgroup events (R282). Log 73, DESIGN CHOICE. -/
def State.trace (s : State) (part kind wgid gid ncore pc unit stall act : Nat) : State :=
  let p := s.part part
  if !p.trace || p.traceSize = 0 then s
  else
    let a := p.traceBase + 32 * (p.traceCount % p.traceSize)
    let bs := bytesOf 32 (packBits [(56, pc), (8, kind), (32, wgid), (32, gid), (8, ncore), (2, unit), (4, stall), (7, act),
      (43, 0), (64, s.now)])
    (s.writeM 0 0 (cellsAt a bs)).modPart part (fun p => { p with traceCount := p.traceCount + 1 })

/-- Signals a rejected write in the lodge status register (R18, R288). -/
def State.bindError (s : State) : State := { s with lodge := { s.lodge with bindErr := true } }

end Sys2Proof.Machine
end

