-- ==== Sys2Proof/Machine/Operands.lean ====
section
/-! DEFINITION. The path that executes a word, its lanes, every operand form, and the writing of results: registers, latches,
predicates, flags and the advance of the path (R29, R32, R33, R83, R84, R95 to R98). -/

namespace Sys2Proof.Machine

/-- A lane of a path: its number in the group, its thread's %tid, and the thread as the word finds it. -/
structure Lane where
  lane : Nat
  tid : Nat
  t : Thread
  deriving DecidableEq, Repr

/-- The path that executes a word: where it stands, its workgroup and group, the group as the ck found it, its launch and
its lanes in ascending %lane (R29). -/
structure Path where
  cur : Cur
  w : WG
  g : Group
  old : Group
  l : Launch
  lanes : List Lane
  deriving DecidableEq, Repr

/-- The lanes of a group by number, with their threads. -/
def lanesOf (w : WG) (g : Group) (ns : List Nat) : List Lane :=
  ns.filterMap (fun n =>
    match g.lanes[n]? with
    | some (some tid) => (w.threads[tid]?).map (fun t => ⟨n, tid, t⟩)
    | _ => none)

/-- The path named by `cur`. Log 88, DEDUCED. -/
def State.path (s : State) : Option Path :=
  match s.cur with
  | none => none
  | some c =>
    match s.wg? c.wid with
    | none => none
    | some w =>
      match w.group? c.gid, s.launch? w.lid with
      | some g, some l =>
        let old := ((s.before.find? (fun v => v.wid == c.wid)).bind (fun v => v.group? c.gid)).getD g
        let ls := lanesOf w g c.lanes
        if ls.isEmpty then none else some ⟨c, w, g, old, l, ls⟩
      | _, _ => none

/-- Group size of a path's launch. -/
def Path.gsz (x : Path) : Nat := x.l.hdr.g

/-- The context of a path's launch. -/
def Path.ctx (x : Path) : Nat := x.l.ctx

/-- The identity of a lane's thread in the clocks. -/
def Path.uid (x : Path) (ln : Lane) : Nat := uidOf x.w.wid ln.tid

/-- The path holds its issue unit: the word before was H-set (R31). -/
def Path.holding (x : Path) : Bool := x.lanes.any (fun ln => ln.t.hold != 0)

/-- Whether a lane executes a word of a predicate field (R33, R87). -/
def Thread.executes (t : Thread) (hd : Head) : Bool := (hd.pred = 7#3 || t.p.getLsbD hd.pred.toNat) != hd.neg

/-- The executing lanes. -/
def Path.exec (x : Path) (hd : Head) : List Lane := x.lanes.filter (fun ln => ln.t.executes hd)

/-- A predicate by number; 7 reads as the given constant. -/
def Thread.pred (t : Thread) (n : Nat) (always : Bool) : Bool := if n = 7 then always else t.p.getLsbD n

/-- The clocks of a logical core run: no thermal halt is in force, and its partition is active (R296). -/
def State.clocked (s : State) (key : Nat) : Bool := !s.lodge.therm && (s.part (key / 256)).power == .active

/-- Whether a logical core runs: it is resident on its physical core, and its clocks run (R19, R22, R296). What a saved one holds rests. -/
def State.coreUp (s : State) (key : Nat) : Bool := s.gbSt key == 1 && s.clocked key

/-- The physical core of a workgroup. -/
def State.pcoreOf (s : State) (w : WG) : Nat := gbPcore (s.gbe w.core).toNat

/-! ## Reading operands -/

/-- The registers of a run as one little-endian number (R84). -/
def numOf : List Word → Nat
  | [] => 0
  | w :: ws => w.toNat + 2 ^ 32 * numOf ws

/-- n registers holding a number, the low one first (R84). -/
def wordsOf : Nat → Nat → List Word
  | 0, _ => []
  | n + 1, x => BitVec.ofNat 32 x :: wordsOf n (x / 2 ^ 32)

/-- A small immediate in a type (R95): sign-extended for integer and bit types, converted exactly for float types, in both
halves of packed pairs. -/
def immBits (t : Ty) (k : Int) : Nat :=
  if isFloat t then
    let x := (toFloatV (fmtOf t) .rn false false (valOfInt k)).1
    match t with
    | .h16 | .bf16 => x * 65537
    | _ => x
  else wrapTo (if is64 t then 64 else 32) k

/-- The integer column of the constants of R96, from code 0xE4 on. -/
def constInts : List Nat :=
  [0, 1, 0xFFFFFFFF, 0x80000000, 2, 0xFFFFFFFE, 4, 0x7FFFFFFF, 0xFFFF, 0xFFFF0000, 0x55555555, 0xAAAAAAAA]

/-- The float column of the constants of R96. -/
def constFloat (f : Fmt) (k : Nat) : Nat :=
  let num := fun (neg : Bool) (m : Nat) (e : Int) => (toFloatV f .rn false false (.fin neg m e)).1
  match k with
  | 4 => 0
  | 5 => num false 1 0
  | 6 => num true 1 0
  | 7 => num false 1 (-1)
  | 8 => num false 1 1
  | 9 => num true 1 1
  | 10 => num false 1 2
  | 11 => signBit f true
  | 12 => infBits f false
  | 13 => infBits f true
  | 14 => if f.nan = .absent then 0 else defaultNan f
  | _ => largestBits f

/-- A constant in a type (R96). -/
def constBits (t : Ty) (k : Nat) : Nat :=
  if isFloat t then
    let x := constFloat (fmtOf t) k
    match t with
    | .h16 | .bf16 => x * 65537
    | _ => x
  else
    let x := constInts.getD (k - 4) 0
    if is64 t then wrapTo 64 (signedOf 32 x) else x

/-- A latch of a thread (R98). -/
def Thread.latch (t : Thread) (i : Nat) : Option DWord :=
  if i = 0 then t.l0 else if i = 1 then t.l1 else if i = 2 then t.l2 else t.l3

/-- n registers that an operand names, read as one number: v of the thread, s of the group as the ck found it (R29). -/
def readRegs (s : SMap Word) (t : Thread) (o : Opnd) (n : Nat) : Nat :=
  match o with
  | .v r => numOf (t.v.getN 0 r.toNat n)
  | .s r => numOf (s.getN 0 r.toNat n)
  | _ => 0

/-- The value of a source operand in a type (R95, R96, R97): the register bits, the immediate or constant in the type, or
the latch. -/
def readOpnd (s : SMap Word) (t : Thread) (ty : Ty) (o : Opnd) : Nat :=
  match o with
  | .v _ | .s _ => readRegs s t o (regsOf ty)
  | .imm k => immBits ty (immVal k)
  | .const k => constBits ty k.toNat
  | .latch i => let x := ((t.latch i.toNat).getD 0).toNat; if is64 ty then x else x % 2 ^ 32
  | .rsv _ | .none => 0

/-- The value of a source in a lane. -/
def Path.read (x : Path) (ln : Lane) (ty : Ty) (o : Opnd) : Nat := readOpnd x.old.s ln.t ty o

/-- A 64-bit pair in a lane. -/
def Path.pair (x : Path) (ln : Lane) (o : Opnd) : Nat := readRegs x.old.s ln.t o 2

/-- An operand read as .n32 in a lane. -/
def Path.read32 (x : Path) (ln : Lane) (o : Opnd) : Nat := x.read ln .n32 o

/-! ## Results -/

/-- What a word leaves in one lane: v registers, the value for an s destination, values shifted into the latches,
predicates and flags. -/
structure LaneRes where
  v : List (Nat × List Word)
  s : List Word
  shifts : List DWord
  preds : List (Nat × Bool)
  fl : Nat
  deriving DecidableEq, Repr

/-- The result of a word with one destination of n registers (R87, R97); a predicate number of 7 writes none. -/
def resultIn (d : Opnd) (n val fl : Nat) (preds : List (Nat × Bool)) : LaneRes :=
  let ps := preds.filter (fun p => p.1 != 7)
  match d with
  | .v r => ⟨[(r.toNat, wordsOf n val)], [], [BitVec.ofNat 64 val], ps, fl⟩
  | .s _ => ⟨[], wordsOf n val, [], ps, fl⟩
  | _ => ⟨[], [], [BitVec.ofNat 64 val], ps, fl⟩

/-- One shift of the latches (R98); `none` marks the shifted-in value stale. -/
def Thread.shiftIn (t : Thread) (x : Option DWord) : Thread := { t with l0 := x, l1 := t.l0, l2 := t.l1, l3 := t.l2 }

/-- Predicates written. -/
def setPred (p : BitVec 7) (e : Nat × Bool) : BitVec 7 :=
  if e.2 then p ||| BitVec.ofNat 7 (2 ^ e.1) else p &&& ~~~ BitVec.ofNat 7 (2 ^ e.1)

/-- v registers written from a run's first number on. -/
def Thread.setV (t : Thread) (r : Nat) (ws : List Word) : Thread := { t with v := SMap.putAll 0 t.v r ws }

/-- A lane's results applied to its thread; `shift` is whether the word writes the latches. -/
def LaneRes.apply (r : LaneRes) (shift : Bool) (t : Thread) : Thread :=
  let t := r.v.foldl (fun t e => t.setV e.1 e.2) t
  let t := { t with p := r.preds.foldl setPred t.p }
  if shift then r.shifts.foldl (fun t x => t.shiftIn (some x)) t else t

/-- How often a word shifts the latches: each half of a paired word that is no NOP (R97, R98). -/
def shiftCount (i : Instr) (nfo : Info) : Nat :=
  if nfo.shifts then
    match i with
    | .pairedWord w => bit1 (w.h0.minor != 0) + bit1 (w.h1.minor != 0)
    | _ => 1
  else 0

/-- n stale shifts. -/
def Thread.shiftStale : Nat → Thread → Thread
  | 0, t => t
  | n + 1, t => Thread.shiftStale n (t.shiftIn none)

/-- A thread past a word: at the given PC, its age zero, its marks cleared; an H-clear word empties the latches (R34, R98). -/
def Thread.past (t : Thread) (hold : Bool) (pc : Nat) : Thread :=
  if hold then { t with pc := pc, age := 0, skip := false, resumed := none, hold := t.hold + 1 }
  else { t with pc := pc, age := 0, skip := false, resumed := none, hold := 0, l0 := none, l1 := none, l2 := none,
                l3 := none }

/-- The next word of a lane. -/
def Path.next (x : Path) : Nat := x.cur.pc + 8

/-- Threads of the path changed, each by its lane. -/
def Path.onLanes (x : Path) (f : Lane → Thread → Thread) (w : WG) : WG :=
  w.modThreads (fun i t => match x.lanes.find? (fun ln => ln.tid == i) with | some ln => f ln t | none => t)

/-- Whether another path of the group is inside a hold region (R31). -/
def Path.othersHold (x : Path) : Bool :=
  x.w.threads.zipIdx.any (fun p => p.1.gid == x.g.gid && p.1.hold != 0 && p.1.run != .exited && !x.lanes.any (fun ln => ln.tid == p.2))

/-- What a unit holds after a word of a path: an H-set word takes it, an H-clear word of the group gives it up where no other path of the
group still holds (R31). -/
def Path.heldAfter (x : Path) (hold : Bool) (h : Option (Nat × Nat)) : Option (Nat × Nat) :=
  if hold then some (x.w.wid, x.g.gid) else if h = some (x.w.wid, x.g.gid) && !x.othersHold then none else h

/-- The hold of the issue unit after a word (R31). -/
def State.setHeld (s : State) (x : Path) (hold : Bool) : State :=
  s.modCore x.w.core (fun c => { c with held := c.held.mapIdx (fun u h => if u = x.cur.unit then x.heldAfter hold h else h) })

/-- The end of a word for its path: each lane's thread changed by `f` and moved past the word to `pc`, the workgroup by
`h`, and the unit's hold set (R31 to R34). -/
def Path.finish (x : Path) (s : State) (hold : Bool) (pc : Lane → Nat) (f : Lane → Thread → Thread) (h : WG → WG) :
    State :=
  (s.modWG x.w.wid (fun w => h (x.onLanes (fun ln t => (f ln t).past hold (pc ln)) w))).setHeld x hold

/-- The path advances with no other effect. -/
def Path.advance (x : Path) (s : State) (hold : Bool) : State :=
  x.finish s hold (fun _ => x.next) (fun _ t => t) id

/-- Flags ORed into the flag word (R131). -/
def WG.orFlags (w : WG) (fl : Nat) : WG := { w with flags := w.flags ||| BitVec.ofNat 32 fl }

/-- Flags cleared by SYSWR: what was known of their raising before is gone (R132, R423). -/
def WG.clearFlags (w : WG) (ones : Nat) : WG :=
  { w with
    flags := w.flags &&& ~~~ BitVec.ofNat 32 ones
    cleared := (setBits 7 ones).foldl (fun m b => SMap.put 0 m b (SMap.get 0 m b + 1)) w.cleared
    qdone := (w.qdone.map (fun e => (e.1, e.2.1, ofBits (fun b => e.2.2.testBit b && !ones.testBit b) 7))).filter (fun e => e.2 != ([], 0)) }

/-- s registers of a group written (R48). -/
def WG.setS (w : WG) (gid : Nat) (d : Opnd) (ws : List Word) : WG :=
  match d with
  | .s r => w.modGroup gid (fun g => { g with s := SMap.putAll 0 g.s r.toNat ws })
  | _ => w

/-- The running group of a deterministic launch gives way (R46). -/
def State.giveWay (s : State) (x : Path) : State :=
  if x.l.isDet then s.modCore x.w.core (fun c => { c with running := none }) else s

/-- A wait is a switch point of a deterministic launch (R46), but where every lane only issues again the word that it waited at before a restore or
a park: its group has given way there already (R77, R277). Log 77, DEDUCED. -/
def State.switchPoint (s : State) (x : Path) : State :=
  if x.lanes.all (fun ln => ln.t.resumed.isSome) then s else s.giveWay x

/-! ## Traps of a word -/

/-- A precise trap of a word: a record for each named lane with cause, address and detail; the path stays on the word
(R253, R254). -/
def Path.trap (x : Path) (s : State) (cls : Nat) (who : List (Lane × Nat × Nat × Nat)) : State :=
  s.raise x.l.lid x.w.core 2 (2 * x.cur.unit + bit1 x.cur.second)
    (who.map (fun e => s.record x.w cls e.2.1 (cls != 22) e.1.tid x.g.gid e.1.lane x.cur.pc e.2.2.1 e.2.2.2))

end Sys2Proof.Machine
end

