-- ==== Sys2Proof/Machine/Debug.lean ====
section
/-! DEFINITION. Breakpoints, watchpoints, parking and the debug events (R272 to R276, R281). -/

namespace Sys2Proof.Machine

/-- The 64 bytes of a debug event (R281). -/
def DbgEv.bytes (e : DbgEv) (more : Bool) (time : Nat) : List Byte :=
  bytesOf 64 (packBits [(8, e.kind), (4, e.index), (1, bit1 e.defer), (1, bit1 e.all), (1, bit1 more), (17, 0),
    (32, e.tid), (32, e.wgid), (32, e.gid), (6, e.lane), (8, e.ncore), (2, 0), (56, e.pc), (56, e.fva), (64, e.lid),
    (64, time), (128, 0)])

/-- Events written one after another; MORE marks the last where others were dropped. -/
def writeEvents (s : State) (ctx : Nat) (dropped : Bool) : Ring → List DbgEv → State × Ring
  | r, [] => (s, r)
  | r, e :: es =>
    let q := s.ringWrite ctx true r (e.bytes (dropped && es.isEmpty) s.now)
    writeEvents q.1 ctx dropped q.2 es

/-- The debug events of a stop, at most 256 (R281); without a debug ring none is written. -/
def State.debugEvents (s : State) (ctx : Nat) (es : List DbgEv) : State :=
  match (s.ctx ctx).dbg.ring with
  | none => s
  | some r =>
    let q := writeEvents s ctx (256 < es.length) r (es.take 256)
    q.1.modCtx ctx (fun c => { c with dbg := { c.dbg with ring := some q.2 } })

/-- The event of a lane of a path. -/
def Path.event (x : Path) (kind index : Nat) (defer all : Bool) (ln : Lane) (fva : Nat) : DbgEv :=
  { kind := kind, index := index, defer := defer, all := all, tid := ln.tid, wgid := x.w.wgid, gid := x.g.gid,
    lane := ln.lane, ncore := x.w.core % 256, pc := x.cur.pc, fva := fva, lid := x.l.lid }

/-- Whether a thread stands inside a hold region (R31, R55). -/
def Thread.inHold (t : Thread) : Bool := t.run == .ready && t.hold != 0

/-- Whether a path of a group is inside a hold region (R55). -/
def WG.inRegion (w : WG) (gid : Nat) : Bool := w.threads.any (fun t => t.gid == gid && t.inHold)

/-- Whether a group stands parked (R55, R276): it has parked, and no path of it is inside a hold region. -/
def WG.isParked (w : WG) (g : Group) : Bool := g.parked && !w.inRegion g.gid

/-- A thread of a group that parks (R276): one that waits stands at its word, which it issues again when the group runs; one that has arrived at
a barrier counts no second arrival (R277, R307). A page fault under way goes on. Log 104, DEDUCED. -/
def Thread.parkWait (t : Thread) : Thread :=
  match t.run with
  | .wait (.kwait k) => { t with run := .ready, resumed := some (1, k) }
  | .wait (.bar _ tok _) => { t with run := .ready, resumed := some (2, tok) }
  | .wait (.waitv _) => { t with run := .ready, resumed := some (3, 0), slot := none }
  | .wait (.cbuf _ _) => { t with run := .ready, resumed := some (4, 0) }
  | .wait (.xbar _ _ _) => { t with run := .ready, resumed := some (5, 0) }
  | .wait (.qwait _ _) => { t with run := .ready }
  | _ => t

def ReqKind.isWaitv : ReqKind → Bool
  | .waitv _ => true
  | _ => false

/-- The monitors and the reads of the WAITVs of some threads are given up (R231, R276). -/
def State.dropReads (s : State) (mine : Nat → Nat → Bool) : State :=
  let keep := fun (r : Req) => !(r.kind.isWaitv && mine r.wid r.tid)
  { s with
    monitors := (s.monitors.map (fun (m : Monitor) => { m with waiters := m.waiters.filter (fun x => !mine x.1 x.2) })).filter
      (fun m => !m.waiters.isEmpty)
    slices := (s.slices.map (fun e => (e.1, e.2.filter keep))).filter (fun e => !e.2.isEmpty)
    replies := s.replies.filter (fun p => keep p.req)
    faults := (s.faults.map (fun (f : FaultReq) => { f with srcs := f.srcs.filter (fun x => match x with
      | .table _ r | .reissue r => keep r
      | _ => true) })).filter (fun f => !f.srcs.isEmpty) }

/-- The threads of a group, by their workgroup and %tid. -/
def State.threadIn (s : State) (gid wid tid : Nat) : Bool :=
  ((s.wg? wid).bind (fun w => w.threads[tid]?)).any (fun t => t.gid == gid)

/-- Parks one group (R276): every thread of it stands at its own PC, and it issues nothing more. Log 104, DEDUCED. -/
def State.parkGroup (s : State) (wid gid : Nat) : State :=
  (s.dropReads (fun v t => v == wid && s.threadIn gid v t)).modWG wid (fun w =>
    (w.modThreads (fun _ t => if t.gid = gid then t.parkWait else t)).modGroup gid (fun g => { g with parked := true, stops := none }))

/-- A stop noted for a group that does not stand parked, beside those that it has met already. -/
def Group.note (g : Group) (all : Bool) (es : List DbgEv) : Group :=
  if g.parked then g
  else { g with stops := some ⟨all || g.stops.any (fun p => p.all), ((g.stops.map (fun p => p.events)).getD []) ++ es⟩ }

/-- A group meets a stop: a hit, a BKPT or a command. It takes it once the words of the ck have completed, or behind the closing word of its hold
region (R55, R276). -/
def State.stopGroup (s : State) (wid gid : Nat) (all : Bool) (es : List DbgEv) : State :=
  (s.modWG wid (fun w => w.modGroup gid (fun g => g.note all es))).owe (.stops wid gid)

/-- All-stop: every group of a launch parks, each at its next word boundary outside a hold region and behind the stops that it has met, and
dispatch places no workgroup of it (R276). -/
def State.parkLaunch (s : State) (lid : Nat) : State :=
  let gs := (s.wgs.filter (fun w => w.lid == lid)).flatMap (fun w => w.groups.map (fun g => (w.wid, g.gid, g.stops.isSome || w.inRegion g.gid)))
  (gs.foldl (fun (s : State) p => if p.2.2 then s.stopGroup p.1 p.2.1 false [] else s.parkGroup p.1 p.2.1) s).modLaunch lid
    (fun l => { l with allStop := true })

/-- The stops of a group are taken, unless a path of it is still inside a hold region or its launch ends (R55, R276): their events are written with
the time of the boundary (R281), and the group parks, or its launch where ALL = 1. -/
def State.takeStops (s : State) (wid gid : Nat) : State :=
  match s.wg? wid with
  | none => s
  | some w => match w.group? gid, s.launch? w.lid with
    | some g, some l => match g.stops with
      | none => s
      | some p =>
        if w.inRegion gid || l.phase == .dying then s
        else
          let t := (s.debugEvents l.ctx p.events).modWG wid (fun w => w.modGroup gid (fun g => { g with stops := none }))
          if p.all then t.parkLaunch w.lid else t.parkGroup wid gid
    | _, _ => s

/-- Every group of a workgroup parked, or none with a stop or a park. -/
def WG.setParked (w : WG) (b : Bool) : WG := { w with groups := w.groups.map (fun g => { g with parked := b, stops := none }) }

/-- The enabled breakpoint of the lowest index at a PC, and whether one there has ALL = 1 (R272, R273, R276). -/
def Dbg.breakAt (d : Dbg) (pc : Nat) : Option (Nat × Bool) :=
  match d.holder with
  | none => none
  | some _ =>
    let hits := d.bps.filter (fun e => e.2.getLsbD 56 && bitsOf e.2.toNat 0 56 == pc)
    hits.head?.map (fun e => (e.1, hits.any (fun h => h.2.getLsbD 57)))

/-- Whether a watchpoint takes a kind of access in a space (R272, R274). -/
def watchTakes (w : BitVec 128) (spc rd wr : Bool) : Bool :=
  w.getLsbD 64 && (w.getLsbD 68 == spc) && ((rd && w.getLsbD 65) || (wr && w.getLsbD 66))

/-- Whether a byte address lies in a watchpoint's range. -/
def watchCovers (w : BitVec 128) (a : Nat) : Bool :=
  let lo := bitsOf w.toNat 0 56
  lo ≤ a && a < lo + 2 ^ bitsOf w.toNat 69 5

/-- The first watchpoint that an access of some bytes meets: its index, whether one that the access meets has ALL = 1, and the lowest
byte accessed that it watches (R274, R276, R281). -/
def Dbg.watchHit (d : Dbg) (spc rd wr : Bool) (bytes : List Nat) : Option (Nat × Bool × Nat) :=
  match d.holder with
  | none => none
  | some _ =>
    let hits := d.wps.filterMap (fun e =>
      if watchTakes e.2 spc rd wr then
        (minOf (bytes.filter (watchCovers e.2))).map (fun a => (e.1, e.2.getLsbD 67, a))
      else none)
    hits.head?.map (fun h => (h.1, hits.any (fun q => q.2.1), h.2.2))

/-- The lanes of a word that a watchpoint stops, with what they met (R274); a lane's first issue after a stop is exempt
(R275). Log 62, DEDUCED. -/
def State.watched (s : State) (x : Path) (spc rd wr : Bool) (bytes : Lane → List Nat) (ls : List Lane) :
    List (Lane × Nat × Bool × Nat) :=
  let d := (s.ctx x.ctx).dbg
  ls.filterMap (fun ln =>
    if ln.t.skip then none else (d.watchHit spc rd wr (bytes ln)).map (fun h => (ln, h)))

/-- Stops the lanes that a watchpoint met (R275): the stop with its events, and the mark of their next issue. Inside a hold region
the access is performed and the stop is deferred. Log 62, DEDUCED. -/
def State.stopWatched (s : State) (x : Path) (defer : Bool) (hits : List (Lane × Nat × Bool × Nat)) : State :=
  match hits with
  | [] => s
  | h :: _ =>
    let s := s.stopGroup x.w.wid x.g.gid (hits.any (fun e => e.2.2.1) || h.2.2.1)
      (hits.map (fun e => x.event 3 e.2.1 defer e.2.2.1 e.1 e.2.2.2))
    if defer then s
    else s.modWG x.w.wid (fun w => w.modThreads (fun i t => if hits.any (fun e => e.1.tid == i) then { t with skip := true } else t))

end Sys2Proof.Machine
end

