-- ==== Sys2Proof/Machine/Issue.lean ====
section
/-! DEFINITION. The issue of a word: when it is ready, the breakpoint before it, the five checks of R103 in their order, and the
writing of its results (R29 to R34, R48, R49, R53, R57, R94, R98, R102, R103, R254, R273). -/

namespace Sys2Proof.Machine

/-! ## Code -/

/-- The sealed version that a launch executes (R248). -/
def State.codeOf (s : State) (l : Launch) : Option CodeVer :=
  s.codes.find? (fun v => v.ctx == l.ctx && v.num == l.codever)

/-- The number of kernels of an image (R248). -/
def kernelCount (img : List Byte) : Nat := natOfBytes (img.take 4)

/-- The entry offset of kernel k (R248). -/
def entryOff (img : List Byte) (k : Nat) : Nat := natOfBytes ((img.drop (64 + 64 * k)).take 4)

/-- The end of a kernel's extent as an offset: the lowest ENTRY above its own, or the end of the image (R312). -/
def extentEnd (img : List Byte) (entry : Nat) : Nat :=
  (minOf (((List.range (kernelCount img)).map (entryOff img)).filter (fun e => entry < e))).getD img.length

/-- Whether a virtual address lies in the extent of the launch's kernel (R312). -/
def State.inKernel (s : State) (l : Launch) (va : Nat) : Bool :=
  match s.codeOf l with
  | none => false
  | some v => v.base + l.hdr.entry ≤ va && va < v.base + extentEnd v.image l.hdr.entry

/-! ## Readiness -/

/-- Whether two runs share a register. -/
def RegRun.meets (a b : RegRun) : Bool := a.isV == b.isV && a.base < b.base + b.count && b.base < a.base + a.count

/-- The registers that a thread waits for: loads in flight and the return slot (R204, R374). -/
def Thread.owed (t : Thread) : List RegRun :=
  t.loads.flatMap (fun f => if f.gather then [] else runOf f.d f.vals.length 1)
    ++ (match t.slot with | some h => runOf h.d h.n 1 | none => [])

/-- The s registers that a group waits for (R48). -/
def Group.owed (g : Group) : List RegRun := g.gathers.flatMap (fun q => runOf q.d 2 1)

/-- Matrix entries that fetch scratchpad operands (R150). -/
def MOp.fetches : MOp → Bool
  | .mldb _ _ _ | .mma _ _ _ _ _ | .mlda _ _ _ _ => true
  | _ => false

def MOp.isMma : MOp → Bool
  | .mma _ _ _ _ _ => true
  | _ => false

def MOp.isMsta : MOp → Bool
  | .msta _ _ _ _ _ _ => true
  | _ => false

/-- The matrix entries of a word's group that the word waits for (R150). -/
def matrixWait (i : Instr) (m : MOp) : Bool :=
  match i with
  | .sts _ | .cbrel _ => m.fetches
  | .stb w => w.space == 1#3 && m.fetches
  | .lds _ => m.isMsta
  | .ldb w => w.space == 1#3 && m.isMsta
  | .bar _ | .bararv _ | .xbarv _ | .exit _ => true
  | .mcommit _ => m.isMma
  | _ => false

/-- Words that enter the matrix queue (R149). -/
def entersMatrix : Instr → Bool
  | .mldb _ | .mswap _ | .mma _ | .mmaw _ | .mzero _ | .mlda _ | .msta _ => true
  | _ => false

/-- Whether the queues that a word enters have room for it: 32 commands each that have not completed (R318, R404). -/
def queuesRoom (w : WG) (i : Instr) : Bool :=
  let room := fun (q : Nat) => ((w.queues.getD q []).filter (fun c => !c.done)).length < 32
  match i with
  | .cpin f | .cpout f | .cpgath f | .cpscat f | .cpfill f | .cpoutDomainReduction f | .cpgathDigest f
  | .cpfillScratchpad f => room (FSpec f % 8)
  | .qfence f => (setBits 8 (FSpec f)).all room
  | _ => true

/-- An executing lane of an EXIT with nothing outstanding (R328, R374). -/
def Lane.mayExit (ln : Lane) : Bool := ln.t.loads.isEmpty && ln.t.slot.isNone

/-- A lane none of whose earlier loads is still to return (R186): in global memory or the scratchpad, or by the return slot. -/
def Lane.loaded (ln : Lane) : Bool := ln.t.loads.isEmpty && !(ln.t.slot.map (fun h => h.load)).getD false

/-- Whether the lanes of a path have what a word waits for: an EXIT waits for its first executing lane alone, where every lane executes it,
and takes the others as they become ready (R33, R328); a FENCE waits for the earlier loads of its executing lanes (R186); a REGROUP waits for
every load of its lanes; other words for the registers that they name, and for the return slot where they use it. -/
def Path.lanesReady (x : Path) (i : Instr) (nfo : Info) : Bool :=
  let regs := nfo.reads ++ nfo.writes
  match i with
  | .exit _ => x.lanes.any (fun ln => !ln.t.executes nfo.head) || ((x.exec nfo.head).head?).all Lane.mayExit
  | .fence _ => (x.exec nfo.head).all Lane.loaded
  | .regroup _ => x.lanes.all (fun ln => ln.t.loads.isEmpty && (!nfo.slot || ln.t.slot.isNone))
  | _ => x.lanes.all (fun ln => ln.t.owed.all (fun r => regs.all (fun q => !r.meets q)) && (!nfo.slot || ln.t.slot.isNone))

/-- Whether the word that a path stands at can issue: its registers, its return slot, the matrix queue and the matrix words it
waits for (R35, R149, R150, R204, R374). Log 9, DEDUCED. -/
def State.readyWord (s : State) (i : Instr) (nfo : Info) (x : Path) : Bool :=
  let c := s.core x.w.core
  let regs := nfo.reads ++ nfo.writes
  let mine := c.mq.filter (fun e => e.wid == x.w.wid && e.gid == x.g.gid)
  x.lanesReady i nfo
  && x.g.owed.all (fun r => regs.all (fun q => !r.meets q))
  && (!entersMatrix i || c.mq.length < 8)
  && mine.all (fun e => !matrixWait i e.op)

/-! ## The five checks -/

/-- What a word's entry adds to the checks: causes decided by declared counts, causes decided by lane values, uniform
operands by field number, the targets of a branch, and the physical slot that a slot name stands for (R157). -/
structure Checks where
  decl : List Nat := []
  lane : Lane → List Nat := fun _ => []
  uniform : List (Nat × (Lane → Nat)) := []
  target : Option (Lane → Nat) := none
  slot : Nat → Nat := id

/-- A named lane of a trap: lane, cause, address, detail. -/
abbrev Named := Lane × Nat × Nat × Nat

/-- Causes that the word and the declared counts decide (R102): the word's own, cause 10 for registers at or above .regs
(R84), the entry's, and the hold rules (R53). Log 15, DEDUCED. -/
def wordCauses (x : Path) (nfo : Info) (ck : Checks) : List Nat :=
  nfo.causes
  ++ (if (nfo.reads ++ nfo.writes).any (fun r => r.isV && x.l.hdr.regs < r.base + r.count) then [10] else [])
  ++ ck.decl
  ++ (if nfo.head.hold && x.lanes.any (fun ln => 32 ≤ ln.t.hold) then [11] else [])
  ++ (if !nfo.head.hold && x.holding && !nfo.holdClass && nfo.act != .branch then [11] else [])

/-- Causes that depend on a lane's values (R102): stale latches (R98), the entry's, and a closing branch that leaves the
kernel (R312). Log 15, DEDUCED. -/
def laneCauses (s : State) (x : Path) (nfo : Info) (ck : Checks) (ln : Lane) : List Nat :=
  (if nfo.latches.any (fun i => (ln.t.latch i).isNone) then [6] else [])
  ++ ck.lane ln
  ++ (match ck.target with
      | some f => if !nfo.head.hold && x.holding && nfo.act == .branch && !s.inKernel x.l (f ln) then [11] else []
      | none => [])

/-- Lanes that meet the illegal-instruction trap, each with its lowest cause (R102). -/
def illegalLanes (s : State) (x : Path) (nfo : Info) (ck : Checks) : List Named :=
  let wc := wordCauses x nfo ck
  x.lanes.filterMap (fun ln =>
    (minOf (wc ++ (if ln.t.executes nfo.head then laneCauses s x nfo ck ln else []))).map (fun c => (ln, c, 0, 0)))

/-- The word past a span's end (R57). Log 58, DEDUCED. -/
def Span.last (sp : Span) : Nat := sp.pc + 8 * sp.ext

/-- Whether a word breaks the rules of an open span in a lane (R57). Log 58, DEDUCED. -/
def spanBreak (sp : Span) (x : Path) (nfo : Info) (ck : Checks) (ln : Lane) : Bool :=
  let inS := fun (r : RegRun) => r.isV && sp.f ≤ r.base && r.base + r.count ≤ sp.f + sp.n
  if x.cur.pc ≤ sp.pc || sp.last < x.cur.pc then true
  else match nfo.act with
    | .alu => !nfo.writes.all inS
    | .branch => match ck.target with
      | some f => !(sp.pc < f ln && f ln ≤ sp.last)
      | none => true
    | .mldb n => sp.rslots.contains (ck.slot n)
    | .mma | .mswap | .mcommit => false
    | .outside => true

/-- The lanes of a span violation and the DETAIL (R57, R252): every executing lane of a word that breaks the rules in one of them. A
word past the end of the body violates the span also where no lane executes it. MCOMMIT outside a span has DETAIL 0 (R381), and so have
MMA and MMAW. Log 118, DESIGN CHOICE. -/
def spanLanes (x : Path) (nfo : Info) (ck : Checks) : List Named :=
  let ex := x.exec nfo.head
  match x.g.span with
  | some sp =>
    let past := sp.last < x.cur.pc
    let who := if past && ex.isEmpty then x.lanes else ex
    if who.any (spanBreak sp x nfo ck) then who.map (fun ln => (ln, 0, 0, sp.pc)) else []
  | none =>
    if nfo.act == .mma || nfo.act == .mcommit then ex.map (fun ln => (ln, 0, 0, 0)) else []

/-- REGROUP by the producer group, or a copy or fence by another (R41, R45). -/
def stageBreak (i : Instr) (x : Path) (nfo : Info) : Bool :=
  (nfo.producer && x.g.stage != 0) || (match i with | .regroup _ => x.g.stage == 0 | _ => false)

/-- The lanes of a group that are not empty (R42): occupied by a thread that has not exited. -/
def liveLanes (w : WG) (g : Group) : List Nat :=
  (List.range g.lanes.length).filter (fun n =>
    match g.lanes[n]? with
    | some (some tid) => (w.threads[tid]?).any (fun t => t.run != .exited)
    | _ => false)

/-- Whether the path holds every non-empty lane (R49). -/
def Path.converged (x : Path) : Bool :=
  (liveLanes x.w x.g).all (fun n => x.lanes.any (fun ln => ln.lane == n))

/-- Whether a function takes one value on a list. -/
def sameOn (f : Lane → Nat) : List Lane → Bool
  | [] => true
  | l :: ls => ls.all (fun m => f m == f l)

/-- The first of the five checks that fails, in the order of R103: its class and lanes. Log 15, DEDUCED. -/
def State.firstTrap (s : State) (i : Instr) (x : Path) (nfo : Info) (ck : Checks) : Option (Nat × List Named) :=
  let ill := illegalLanes s x nfo ck
  let ex := x.exec nfo.head
  let all := fun (c d : Nat) => ex.map (fun ln => ((ln, c, 0, d) : Named))
  if !ill.isEmpty then some (1, ill)
  else if !(spanLanes x nfo ck).isEmpty then some (2, spanLanes x nfo ck)
  else if ex.isEmpty then none
  else if stageBreak i x nfo then some (3, all 0 0)
  else if nfo.matrix && !x.converged then some (4, all 0 0)
  else (ck.uniform.find? (fun u => !sameOn u.2 ex)).map (fun u => (5, all 0 u.1))

/-! ## Issue -/

/-- What the breakpoints do to a path before its word (R55, R273, R275): the state after, and the lanes that issue. Log 62, DEDUCED. -/
def State.breakStop (s : State) (x : Path) (hold : Bool) : State × List Lane :=
  match (s.ctx x.ctx).dbg.breakAt x.cur.pc with
  | none => (s, x.lanes)
  | some (idx, all) =>
    let stop := x.lanes.filter (fun ln => !ln.t.skip)
    if stop.isEmpty then (s, x.lanes)
    else
      let defer := hold || x.holding
      let s := s.stopGroup x.w.wid x.g.gid all (stop.map (fun ln => x.event 1 idx defer all ln 0))
      if defer then (s, x.lanes)
      else
        (s.modWG x.w.wid (fun w => w.modThreads (fun i t => if stop.any (fun ln => ln.tid == i) then { t with skip := true } else t)),
          x.lanes.filter (fun ln => ln.t.skip))

/-- The word advances every lane; lanes that do not execute shift stale values into the latches (R33, R98). Log 9, DEDUCED. -/
def Path.idle (x : Path) (s : State) (i : Instr) (nfo : Info) : State :=
  x.finish s nfo.head.hold (fun _ => x.next) (fun _ t => t.shiftStale (shiftCount i nfo)) id

/-- SWITCH fetches its table words and passes over them whether or not a lane executes it (R33, R92, R420). -/
def hasTable : Instr → Bool
  | .switch _ => true
  | _ => false

/-- A word that has passed the checks: its effect where a lane executes, or where the word has table words. -/
def Path.act (x : Path) (s : State) (i : Instr) (nfo : Info) (body : Path → State → State) : State :=
  if (x.exec nfo.head).isEmpty && !hasTable i then x.idle s i nfo else body x s

/-- The checks and then the effect. -/
def Path.issue (x : Path) (s : State) (i : Instr) (nfo : Info) (ck : Path → Checks) (body : Path → State → State) : State :=
  match s.firstTrap i x nfo (ck x) with
  | some (cls, who) => x.trap s cls who
  | none => x.act s i nfo body

/-- The issue of a word (R29): nothing while it is not ready; then the breakpoint; then the checks and the effect. Log 81, DESIGN CHOICE. -/
def Path.run (x : Path) (s : State) (i : Instr) (nfo : Info) (ck : Path → Checks) (body : Path → State → State) : State :=
  if !s.readyWord i nfo x then s
  else
    let b := s.breakStop x nfo.head.hold
    if b.2.isEmpty then b.1 else { x with lanes := b.2 }.issue b.1 i nfo ck body

/-- A word's meaning: with no path to execute it there is nothing to do (fault noPath). Log 9, DEDUCED. Log 81, DESIGN CHOICE. -/
def State.word (s : State) (i : Instr) (ck : Path → Checks) (body : Path → State → State) :
    Host.Outcome State Fault Refusal :=
  match info i, s.path with
  | some nfo, some x => .next (x.run s i nfo ck body)
  | _, _ => .fault .noPath

/-! ## Words that compute in each lane -/

/-- The place of a workgroup's flag in the clocks: what a thread knows to have been raised since the flag was last cleared (R132, R423).
Log 19, DEDUCED. Log 79, DESIGN CHOICE. -/
def WG.flagKey (w : WG) (b : Nat) : Nat := 2 ^ 64 + 8 * (w.wid + 2 ^ 64 * w.cleared.get 0 b) + b

/-- A clock that knows of raised flags. -/
def WG.flagClock (w : WG) (fl : Nat) (clk : Clock) : Clock := (setBits 7 fl).foldl (fun c b => SMap.put 0 c (w.flagKey b) 1) clk

/-- A thread learns of raised flags; its own earlier words are whole words, so the flags of their other lanes are among them
(R132). Log 19, DEDUCED. -/
def Thread.knows (t : Thread) (w : WG) (fl : Nat) : Thread := { t with vc := w.flagClock fl t.vc }

/-- The ORed flags of the executing lanes. -/
def flagsOf (ls : List Lane) (f : Lane → LaneRes) : Nat := ls.foldl (fun a ln => a ||| (f ln).fl) 0

/-- The results written: v registers, predicates and latches of the executing lanes, stale shifts of the others, an s
destination once, and the flags (R33, R48, R98, R131). -/
def Path.commit (x : Path) (s : State) (i : Instr) (nfo : Info) (d : Opnd) (f : Lane → LaneRes) : State :=
  let ex := x.exec nfo.head
  let n := shiftCount i nfo
  let fl := flagsOf ex f
  x.finish s nfo.head.hold (fun _ => x.next)
    (fun ln t => if ln.t.executes nfo.head then ((f ln).apply (0 < n) t).knows x.w fl else t.shiftStale n)
    (fun w =>
      let w := w.orFlags fl
      match ex with
      | ln :: _ => w.setS x.g.gid d (f ln).s
      | [] => w)

/-- The uniform check of an s destination (R48): field 0. -/
def sDest (d : Opnd) (f : Lane → LaneRes) : List (Nat × (Lane → Nat)) :=
  match d with
  | .s _ => [(0, fun ln => numOf (f ln).s)]
  | _ => []

/-- A word that computes a result in each executing lane and changes nothing else: `f` gives the result, `decl` the causes
that declared counts decide. -/
def State.alu (s : State) (i : Instr) (d : Opnd) (decl : Path → List Nat) (f : State → Path → Lane → LaneRes) :
    Host.Outcome State Fault Refusal :=
  match info i with
  | none => .fault .noPath
  | some nfo =>
    s.word i (fun x => { decl := decl x, uniform := sDest d (f s x) }) (fun x s' => x.commit s' i nfo d (f s x))

end Sys2Proof.Machine
end

