-- ==== Sys2Proof/Machine/Fetch.lean ====
section
/-! DEFINITION. Fetching instruction words, waiting for a page, blocking, and the tests owed at the end of a ck (R39, R40, R42,
R224, R226, R258, R313). -/

namespace Sys2Proof.Machine

/-- What a fetch of a word finds. -/
inductive Fetched where
  | word (w : DWord)
  /-- a cause of R173; 3 is a page fault -/
  | cause (n : Nat)
  /-- a poisoned line and its SEQ (R260) -/
  | poison (line seq : Nat)
  deriving DecidableEq, Repr

/-- The image word at a virtual address, where all its bytes lie in the mapped range (R313). -/
def CodeVer.wordAt (v : CodeVer) (va : Nat) : Option DWord :=
  if v.base ≤ va && va + 8 ≤ v.base + v.image.length then
    some (BitVec.ofNat 64 (natOfBytes ((v.image.drop (va - v.base)).take 8)))
  else none

/-- An instruction fetch: checked under R173 with X, from the launch's sealed version only; outside its range it lacks X
(R313). Log 30, DEDUCED. -/
def State.fetch (s : State) (l : Launch) (va : Nat) : Fetched :=
  let w := (s.codeOf l).bind (fun v => v.wordAt va)
  match s.checkPage l.ctx va false false true, w with
  | .cause c, some _ => .cause c
  | .cause c, none => .cause (min c 5)
  | .ok _, none => .cause 5
  | .ok t, some w =>
    match s.poisoned t.pa 8 with
    | some e => .poison e.1 e.2
    | none => .word w

/-- Threads of a path blocked at the word; they keep its PC. -/
def Path.hold (x : Path) (s : State) (ls : List Lane) (w : Lane → Wait) : State :=
  s.modWG x.w.wid (fun g => g.modThreads (fun i t =>
    match ls.find? (fun ln => ln.tid == i) with
    | some ln => { t with run := .wait (w ln), age := 0 }
    | none => t))

/-- A page fault holds the path at the word until it is answered; `kind` is the kind of access, `who` are the lanes that met it, with
their addresses (R173, R258). Log 25, DEDUCED. -/
def Path.pageWait (x : Path) (s : State) (kind : Access) (page : Nat) (who : List (Lane × Nat)) : State :=
  x.hold s x.lanes (fun ln => .page page kind ((who.find? (fun e => e.1.tid == ln.tid)).map (fun e => e.2)))

/-- The tests that a blocking thread makes owed: rejoin deadlock and barrier deadlock (R40, R226). -/
def State.oweBlock (s : State) (x : Path) : State := s.oweAll [.rejoin x.w.wid x.g.gid, .deadlock x.w.wid]

/-- The executing lanes block at the word and the others advance; in a deterministic launch this is a switch point (R46). -/
def Path.block (x : Path) (s : State) (hd : Head) (w : Lane → Wait) : State :=
  let ex := x.exec hd
  let s := x.finish s hd.hold (fun ln => if ln.t.executes hd then x.cur.pc else x.next) (fun _ t => t) id
  ((x.hold s ex w).switchPoint x).oweBlock x

/-- A blocked thread goes on past its word. -/
def Thread.release (t : Thread) : Thread := { t with run := .ready, pc := t.pc + 8, resumed := none }

end Sys2Proof.Machine
end

