-- ==== Sys2Proof/Machine/Scratch.lean ====
section
/-! DEFINITION. The scratchpad window: row and column accesses, their checks, the barrier objects of the berm and the circular
buffers' state words (R133 to R137, R143 to R146, R222 to R225). -/

namespace Sys2Proof.Machine

/-- Bytes of the window of a path's workgroup (R133). -/
def Path.window (x : Path) : Nat := x.l.hdr.window

/-- Where a column access goes (R136): its panel's first byte, row0, the byte column, the nibble, and the number of elements. -/
structure Column where
  panel : Nat
  row0 : Nat
  col : Nat
  nib : Nat
  n : Nat
  deriving DecidableEq, Repr

/-- Element width in bits of EW (R91). -/
def ewBits (ew : Nat) : Nat := 4 * 2 ^ ew

def columnOf (a width ew : Nat) : Column :=
  { panel := a / 8192 * 8192, row0 := if ew = 0 then 2 * bitsOf a 7 6 else bitsOf a 6 7, col := a % 64,
    nib := bitsOf a 6 1, n := 8 * 2 ^ width / ewBits ew }

/-- The first byte of element k of a column access. -/
def Column.at (c : Column) (k : Nat) : Nat := c.panel + 64 * (c.row0 + k) + c.col

/-- The bytes that a lane's scratchpad access touches (R135, R136). -/
def scrBytes (w : MWord) (a : Nat) : List Nat :=
  if w.ori then
    let c := columnOf a w.width.toNat w.ew.toNat
    (List.range c.n).flatMap (fun k => if w.ew = 2#2 then [c.at k, c.at k + 1] else [c.at k])
  else (List.range (memBytes w.width.toNat)).map (a + ·)

/-- Whether a lane's access keeps the alignment of R135 and R136. -/
def scrAligned (w : MWord) (a : Nat) : Bool :=
  if w.ori then
    let c := columnOf a w.width.toNat w.ew.toNat
    c.n != 0 && c.row0 % c.n == 0 && (w.ew != 2#2 || a % 2 == 0)
  else if 5 ≤ w.width.toNat then a % 2 == 0 else a % 2 ^ w.width.toNat == 0

/-- The first byte of the berm (R134). -/
def bermOf (size : Nat) : Nat := size - 16384

/-- The bytes of a range. -/
def rangeBytes (va n : Nat) : List Nat := (List.range n).map (va + ·)

/-- The scratchpad fault of a list of bytes: 1 window, 2 alignment, 3 barrier-window; 0 for none (R144). -/
def scrFault (size : Nat) (bytes : List Nat) (aligned write : Bool) : Nat :=
  if bytes.any (fun b => size ≤ b) then 1 else if !aligned then 2
  else if write && bytes.any (fun b => bermOf size ≤ b) then 3 else 0

/-- A scratchpad address of a memory word in a lane: the base read as an unsigned 32-bit value, plus the offset (R370). -/
def Path.scrAddr (x : Path) (w : MWord) (ln : Lane) : Int := (x.read32 ln w.a : Int) + w.ofs.toInt

/-- The fault of a memory word's scratchpad access in a lane (R133, R144): the window fault where a < 0 or a + b - 1 >= S, with b the
access's length in bytes. Log 98, DEDUCED. -/
def Path.scrCause (x : Path) (w : MWord) (write : Bool) (ln : Lane) : Nat :=
  let a := x.scrAddr w ln
  if a < 0 then 1
  else
    let f := scrFault x.window (rangeBytes a.toNat (memBytes w.width.toNat)) (scrAligned w a.toNat) false
    if f != 0 then f else if write && (scrBytes w a.toNat).any (fun b => bermOf x.window ≤ b) then 3 else 0

/-- A window byte. -/
def winByte (m : SMap Byte) (a : Nat) : Byte := m.get 0 a

/-- The loaded value of an access as a number, element k of a column at bits [EW·k + EW - 1 : EW·k] (R135, R136). -/
def scrLoad (m : SMap Byte) (w : MWord) (a : Nat) : Nat :=
  if w.ori then
    let c := columnOf a w.width.toNat w.ew.toNat
    let e := fun (k : Nat) =>
      let b := (winByte m (c.at k)).toNat
      if w.ew = 0#2 then bitsOf b (4 * c.nib) 4 else if w.ew = 1#2 then b else b + 256 * (winByte m (c.at k + 1)).toNat
    (List.range c.n).foldl (fun acc k => acc + e k * 2 ^ (ewBits w.ew.toNat * k)) 0
  else natOfBytes (m.getN 0 a (memBytes w.width.toNat))

/-- A store: row bytes in order, or the EW bits of each element (R136). -/
def scrStore (m : SMap Byte) (w : MWord) (a v : Nat) : SMap Byte :=
  if w.ori then
    let c := columnOf a w.width.toNat w.ew.toNat
    (List.range c.n).foldl (fun m k =>
      let e := bitsOf v (ewBits w.ew.toNat * k) (ewBits w.ew.toNat)
      if w.ew = 0#2 then
        SMap.put 0 m (c.at k) (BitVec.ofNat 8 (putBits (winByte m (c.at k)).toNat (4 * c.nib) 4 e))
      else if w.ew = 1#2 then SMap.put 0 m (c.at k) (BitVec.ofNat 8 e)
      else SMap.putAll 0 m (c.at k) (bytesOf 2 e)) m
  else SMap.putAll 0 m a (bytesOf (memBytes w.width.toNat) v)

/-- Traps of a scratchpad word: class 8, each faulting lane with its cause and the address as DETAIL and FVA (R144, R252,
R256). Log 18, DEDUCED. -/
def scrTrap (x : Path) (s : State) (cause : Lane → Nat) (addr : Lane → Nat) (ls : List Lane) : Option State :=
  let bad := ls.filter (fun ln => cause ln != 0)
  if bad.isEmpty then none else some (x.trap s 8 (bad.map (fun ln => (ln, cause ln, addr ln, addr ln))))

/-! ## Barrier objects -/

/-- A barrier object (R222). -/
structure Bar where
  pend : Int
  poison : Bool
  expect : Nat
  arrived : Nat
  cand : Nat
  role : Nat
  gen : Nat
  deriving DecidableEq, Repr

/-- The address of barrier object b in a window of a size (R134). -/
def barAddr (size b : Nat) : Nat := bermOf size + 16 * b

/-- Reads a barrier object from its 16 bytes (R222). -/
def barOf (bs : List Byte) : Bar :=
  let x := natOfBytes bs
  { pend := signedOf 56 (bitsOf x 0 56), poison := bitOf x 56, expect := bitsOf x 64 11, arrived := bitsOf x 75 11,
    cand := bitsOf x 86 10, role := bitsOf x 96 10, gen := bitsOf x 106 22 }

/-- The 16 bytes of a barrier object. -/
def Bar.bytes (b : Bar) : List Byte :=
  bytesOf 16 (packBits [(56, wrapTo 56 b.pend), (1, bit1 b.poison), (7, 0), (11, b.expect), (11, b.arrived), (10, b.cand),
    (10, b.role), (22, b.gen)])

/-- Barrier object b of a workgroup. -/
def WG.bar (w : WG) (size b : Nat) : Bar := barOf (w.win.getN 0 (barAddr size b) 16)

def WG.setBar (w : WG) (size b : Nat) (x : Bar) : WG := { w with win := SMap.putAll 0 w.win (barAddr size b) x.bytes }

/-- Whether the berm holds a poisoned object (R225). -/
def WG.poisonedBar (w : WG) (size : Nat) : Option Nat :=
  (List.range 1024).find? (fun b => bitOf (winByte w.win (barAddr size b + 7)).toNat 0)

/-- The window size of a workgroup. -/
def State.windowOf (s : State) (w : WG) : Nat := ((s.launch? w.lid).map (fun l => l.hdr.window)).getD 0

/-! ## Circular buffers -/

/-- A buffer that is not configured (R145). -/
def CBuf.reset : CBuf := ⟨0, 0, 0, 0, 0, 0⟩

def WG.cb (w : WG) (n : Nat) : CBuf := w.cbs.getD n CBuf.reset

def WG.modCb (w : WG) (n : Nat) (f : CBuf → CBuf) : WG := { w with cbs := w.cbs.mapIdx (fun i c => if i = n then f c else c) }

/-- The state word of a buffer (R145). -/
def CBuf.word (c : CBuf) : Nat := packBits [(8, c.slots), (8, c.free), (8, c.filled), (8, c.widx), (8, c.ridx), (8, c.held)]

end Sys2Proof.Machine
end

