-- ==== Sys2Proof/Machine/Global.lean ====
section
/-! DEFINITION. Global accesses: their checks, the thread's view of memory, the unpublished stores and the clocks that order
them (R173, R179 to R183, R187). -/

namespace Sys2Proof.Machine

/-! ## Checks -/

/-- The outcome of checking a word's global accesses: fatal causes by lane, a page to wait for, or the lanes with their
translations (R173). -/
inductive GRes where
  | fault (who : List Named)
  | page (p : Nat) (who : List (Lane × Nat))
  | ok (acc : List (Lane × List Trans))

/-- The first page of an access that is not present. -/
def State.faultPage (s : State) (ctx va n : Nat) : Nat :=
  pageOf (((pagesOf va n).find? (fun a => s.checkPage ctx (a % 2 ^ 64) false false false == .cause 3)).getD va)

/-- Checks the accesses of some lanes: all or nothing for the word (R173, R254). Log 18, DEDUCED. Log 30, DEDUCED. -/
def State.globalCheck (s : State) (x : Path) (ls : List Lane) (va : Lane → Nat) (n align : Nat) (r w : Bool) : GRes :=
  let rs := ls.map (fun ln => (ln, s.access x.ctx (va ln) n align r w false))
  let fatal := rs.filterMap (fun p => match p.2 with
    | .error c => if c = 3 then none else some ((p.1, c, va p.1, 0) : Named)
    | .ok _ => none)
  let absent := rs.filter (fun p => match p.2 with | .error _ => true | .ok _ => false)
  if !fatal.isEmpty then .fault fatal
  else match absent with
    | p :: _ =>
      let page := s.faultPage x.ctx (va p.1) n
      .page page ((absent.filter (fun q => s.faultPage x.ctx (va q.1) n == page)).map (fun q => (q.1, va q.1)))
    | [] => .ok (rs.filterMap (fun p => match p.2 with | .ok ts => some (p.1, ts) | .error _ => none))

/-- The address of a memory word in a lane (R91). -/
def Path.memAddr (x : Path) (w : MWord) (ln : Lane) : Nat := wrapTo 64 ((x.pair ln w.a : Int) + w.ofs.toInt)

/-- The alignment of a global access by WIDTH (R179). -/
def globalAlign (width : Nat) : Nat := if 5 ≤ width then 2 else 2 ^ width

/-- A global word: the checks, then the watchpoints, then `act` on the lanes that go on (R173, R254, R275). -/
def State.globalWord (s : State) (x : Path) (ls : List Lane) (va : Lane → Nat) (n align : Nat) (r w wr wd : Bool)
    (act : Path → List (Lane × List Trans) → State → State) : State :=
  match s.globalCheck x ls va n align r w with
  | .fault who => x.trap s 9 who
  | .page p who => x.pageWait s (if r then (if w then .update else .load) else .store) p who
  | .ok acc =>
    let hits := s.watched x false wr wd (fun ln => rangeBytes (va ln) n) ls
    let free := fun (ln : Lane) => !hits.any (fun h => h.1.tid == ln.tid)
    act { x with lanes := x.lanes.filter free } (acc.filter (fun a => free a.1)) (s.stopWatched x false hits)

/-! ## Clocks -/

/-- A thread's clock with its own accesses so far (R182). -/
def Thread.clock (t : Thread) (uid : Nat) : Clock := SMap.put 0 t.vc uid t.seq

/-- FENCE: what the thread has acquired now precedes, and what it has done precedes its later stores (R182, R186). -/
def Thread.fence (t : Thread) (uid : Nat) : Thread :=
  let vc := Clock.join t.vc t.acq
  { t with vc := vc, fvc := SMap.put 0 vc uid t.seq, acq := [] }

/-! ## The thread's view -/

/-- The number of a store among those of its core. -/
def UStore.id (u : UStore) : Nat := u.uid * 2 ^ 64 + u.seq + 1

/-- A byte as a reader under a key finds it in a store over a snapshot (R177, R178). -/
def UStore.byte (u : UStore) (snap : Mem) (key pa : Nat) : Option Byte :=
  (u.cells.find? (fun c => c.1 == pa)).map (fun c =>
    if snap.keyOf u.key = snap.keyOf key then c.2 else (snap.writeCells u.key u.cells).read key pa)

/-- What a load finds at one byte: its value, the store it came from where that store does not precede, and the release
clocks that it acquires. -/
structure Seen where
  b : Byte
  store : Option Nat
  acq : Clock
  deriving DecidableEq, Repr

/-- The value of one byte in a thread's view (R181): the latest of the taken stores of U_c, else the snapshot. The load acquires the
release clocks of that store and of every store that its value is later than (R182). -/
def lookByte (us : List (UStore × Bool)) (must : UStore → Bool) (brel : SMap Clock) (snap : Mem) (key pa : Nat) : Seen :=
  (us.foldl (fun p e =>
    match e.1.byte snap key pa with
    | none => p
    | some b =>
      let rel := Clock.join p.2 e.1.rel
      if e.2 then ({ b := b, store := if must e.1 then none else some e.1.id, acq := rel }, rel) else (p.1, rel))
    (({ b := snap.read key pa, store := none, acq := brel.get [] pa } : Seen), brel.get [] pa)).1

/-- A load's bytes and what the thread learns by them. -/
structure Loaded where
  bytes : List Byte
  obs : SMap Nat
  acq : Clock
  deriving DecidableEq, Repr

/-- The stores that a load takes for its bytes in one 32-byte sector: those that precede it, those of which the thread has read one of
these bytes before, and those of U_c that the free choices add; a published store has left U_c. Each is taken or passed over as a whole
(R179, R181, R189). Log 21, DEDUCED. -/
def takenStores (free : Nat) (must : UStore → Bool) (obs : SMap Nat) (pas : List Nat) (us : List UStore) : List (UStore × Bool) :=
  us.mapIdx (fun i u => (u, must u || (!u.pub && Config.choose (free + i)) || pas.any (fun a => obs.get 0 a == u.id)))

/-- The snapshot of a logical core, with the key slots as they stand (R177, R180). -/
def State.snapOf (s : State) (key : Nat) : Mem := { (s.core key).snap with slots := s.mem.slots }

/-- The sectors that the bytes of one load lie in are at most this many: 66 bytes that start at an even address. -/
def loadSectors : Nat := 4

/-- A load of some bytes by a thread, in its view (R181); `free` sets its free choices apart from those of other lanes. -/
def State.loadBytes (s : State) (x : Path) (ln : Lane) (free : Nat) (pas : List (Nat × Nat)) : Loaded :=
  let c := s.core x.w.core
  let must := fun (u : UStore) => u.precedes (x.uid ln) ln.t.vc
  let secs := (pas.map (fun p => p.1 / 32)).dedup
  let taken := fun (q : Nat) =>
    takenStores (free + secs.idxOf q * c.ulist.length) must ln.t.obs ((pas.map (·.1)).filter (fun a => a / 32 == q)) c.ulist
  let seen := pas.map (fun p => (p.1, lookByte (taken (p.1 / 32)) must c.brel (s.snapOf x.w.core) p.2 p.1))
  { bytes := seen.map (fun e => e.2.b)
    obs := seen.foldl (fun o e => match e.2.store with | some i => SMap.put 0 o e.1 i | none => o) ln.t.obs
    acq := seen.foldl (fun a e => Clock.join a e.2.acq) ln.t.acq }

/-! ## Unpublished stores -/

/-- A store's place in core order, behind the first store that precedes it, that has been published, that a lower lane of the same
word made (R179; `word` holds the lanes' stores), or that the core so chooses (R180). Log 21, DEDUCED. -/
def placeStore (free : Nat) (word : List (Nat × Nat)) (u : UStore) (vc : Clock) : List UStore → List UStore
  | [] => [u]
  | e :: es =>
    -- the list is given from its end on
    if e.precedes u.uid vc || e.pub || word.contains (e.uid, e.seq) || !Config.choose (free + es.length) then u :: e :: es
    else e :: placeStore free word u vc es

/-- A store of a thread enters U_c of its logical core (R180, R414); `word` holds the stores of its word's lanes. Log 21, DEDUCED. -/
def State.addStore (s : State) (core lid ctx uid : Nat) (word : List (Nat × Nat)) (t : Thread) (pas : List (Nat × Nat)) (bs : List Byte) : State :=
  let es := pas.zip bs
  let u := fun (key : Nat) =>
    ({ lid := lid, uid := uid, seq := t.seq + 1, ctx := ctx, key := key,
       cells := (es.filter (fun e => e.1.2 == key)).map (fun e => (e.1.1, e.2)), rel := t.fvc, pub := false } : UStore)
  let keys := (pas.map (·.2)).dedup
  let put := fun (l : List UStore) (key : Nat) => (placeStore s.free word (u key) t.vc l.reverse).reverse
  let s1 := s.modCore core (fun c => { c with ulist := keys.foldl put c.ulist })
  s1.spend ((s.core core).ulist.length + keys.length)

/-- One access more of a thread (R182). -/
def Thread.count (t : Thread) : Thread := { t with seq := t.seq + 1 }

end Sys2Proof.Machine
end

