-- ==== Sys2Proof/Machine/LoadStore.lean ====
section
/-! DEFINITION. The loads, the stores and PREF (R367 to R374, R400, R412 to R416). -/

namespace Sys2Proof.Machine

/-- A loaded value sign-extended from 8 or 16 bits where SX says so (R91). -/
def extendLoad (width : Nat) (sx : Bool) (v : Nat) : Nat :=
  if sx && width = 0 then wrapTo 32 (signedOf 8 v) else if sx && width = 1 then wrapTo 32 (signedOf 16 v) else v

/-- The registers that loaded bytes fill (R368). -/
def loadWords (width : Nat) (sx : Bool) (bs : List Byte) : List Word :=
  wordsOf (memRegs width) (extendLoad width sx (natOfBytes bs))

/-- The data of a store as a number: registers, or a latch's low bits (R413). -/
def storeVal (x : Path) (w : MWord) (ln : Lane) : Nat :=
  match w.d with
  | .latch i => ((ln.t.latch i.toNat).getD 0).toNat
  | o => readRegs x.old.s ln.t o (memRegs w.width.toNat)

/-! ## Global loads -/

/-- A lane's load sent: the thread counts the access, learns what it saw, and owes its destination (R369, R374). -/
def Thread.send (t : Thread) (pc : Nat) (d : Opnd) (ws : List Word) (gather : Bool) (va : Nat)
    (bad : Option (Nat × Nat)) (pas : List Nat)
    (ld : Loaded) : Thread :=
  { t.count with loads := t.loads ++ [⟨pc, d, ws, gather, va, bad, pas⟩], obs := ld.obs, acq := ld.acq }

/-- The first poisoned line that some bytes lie in, by their physical addresses, with its SEQ (R260). -/
def State.poisonAt (s : State) (pas : List (Nat × Nat)) : Option (Nat × Nat) := pas.findSome? (fun p => s.poisoned p.1 1)

/-- The loads of the executing lanes, each read in its thread's view at issue (R181, R369). -/
def Path.sendLoads (x : Path) (s : State) (w : MWord) (acc : List (Lane × List Trans)) : State :=
  let n := memBytes w.width.toNat
  let k := loadSectors * (s.core x.w.core).ulist.length
  let got := acc.mapIdx (fun i a =>
    let pas := placeBytes (x.memAddr w a.1) n a.2
    (a.1, pas, s.loadBytes x a.1 (s.free + i * k) pas, a.2.map (fun t => t.pa)))
  let gather := isS w.d
  let s1 := x.finish s w.hd.hold (fun _ => x.next)
    (fun ln t => match got.find? (fun g => g.1.tid == ln.tid) with
      | some g => t.send x.cur.pc w.d (loadWords w.width.toNat w.sx g.2.2.1.bytes) gather (x.memAddr w g.1) (s.poisonAt g.2.1) g.2.2.2 g.2.2.1
      | none => t)
    (fun v => if gather && !acc.isEmpty then
      v.modGroup x.g.gid (fun g => { g with gathers := g.gathers ++ [⟨x.cur.pc, w.d, acc.map (fun a => a.1.tid), []⟩] })
      else v)
  s1.spend (acc.length * k)

/-- LD and global LDB: checked under R173 with R, all or nothing; read from U_c and S_c, never from M (R369, R372). -/
def State.globalLoad (s : State) (i : Instr) (w : MWord) : Host.Outcome State Fault Refusal :=
  s.word i (fun _ => {}) (fun x s =>
    s.globalWord x (x.exec w.hd) (x.memAddr w) (memBytes w.width.toNat) (globalAlign w.width.toNat) true false true false
      (fun x acc s => x.sendLoads s w acc))

/-! ## Scratchpad loads -/

/-- A scratchpad word: the faults of R144, then the watchpoints, then `act` on the lanes that go on; inside a hold region
every lane goes on and the stop is deferred (R275). -/
def State.scratchWord (s : State) (x : Path) (hd : Head) (cause : Lane → Nat) (addr : Lane → Nat) (bytes : Lane → List Nat)
    (rd wr : Bool) (act : Path → State → State) : State :=
  match scrTrap x s cause addr (x.exec hd) with
  | some t => t
  | none =>
    let hits := s.watched x true rd wr bytes (x.exec hd)
    let defer := hd.hold || x.holding
    let free := fun (ln : Lane) => defer || !hits.any (fun h => h.1.tid == ln.tid)
    act { x with lanes := x.lanes.filter free } (s.stopWatched x defer hits)

/-- The release clocks of some window bytes. Log 80, DEDUCED. -/
def WG.relOf (w : WG) (bytes : List Nat) : Clock := bytes.foldl (fun a b => Clock.join a (w.wrel.get [] b)) []

/-- The result of a scratchpad load in a lane (R368, R370). -/
def scrResult (x : Path) (w : MWord) (ln : Lane) : LaneRes :=
  let v := scrLoad x.w.win w (x.scrAddr w ln).toNat
  let ws := loadWords w.width.toNat w.sx (bytesOf (memBytes w.width.toNat) v)
  let sh := BitVec.ofNat 64 (if w.width.toNat ≤ 3 then extendLoad w.width.toNat w.sx v else v)
  match w.d with
  | .v r => ⟨[(r.toNat, ws)], [], [sh], [], 0⟩
  | .s _ => ⟨[], ws, [], [], 0⟩
  | _ => ⟨[], [], [sh], [], 0⟩

/-- An s destination whose lanes loaded different data keeps its value, and the trap is imprecise: a record for each lane
that differs from the lowest (R48). -/
def State.gatherTrap (s : State) (x : Path) (vals : List (Lane × List Word)) : Option State :=
  let bad := vals.filter (fun e => e.2 != (vals.headD e).2)
  match bad with
  | [] => none
  | e :: _ => some (s.raise x.l.lid x.w.core 3 e.1.tid
      (bad.map (fun e => s.record x.w 5 0 false e.1.tid x.g.gid e.1.lane x.cur.pc 0 0)))

/-- A scratchpad load performed on the lanes of a path: every lane reads the bytes as they stood before the word (R137,
R370). -/
def Path.scrLoads (x : Path) (s : State) (i : Instr) (nfo : Info) (w : MWord) : State :=
  let ex := x.exec w.hd
  let learn := fun (ln : Lane) (t : Thread) =>
    { t.count with acq := Clock.join t.acq (x.w.relOf (scrBytes w (x.scrAddr w ln).toNat)) }
  let s1 := s.modWG x.w.wid (fun v => x.onLanes (fun ln t => if ln.t.executes w.hd then learn ln t else t) v)
  match (if isS w.d then s1.gatherTrap x (ex.map (fun ln => (ln, (scrResult x w ln).s))) else none) with
  | some t => x.idle t i nfo
  | none => x.commit s1 i nfo w.d (scrResult x w)

/-- LDS and scratchpad LDB (R370, R372). -/
def State.scratchLoad (s : State) (i : Instr) (w : MWord) : Host.Outcome State Fault Refusal :=
  match info i with
  | none => .fault .noPath
  | some nfo =>
    s.word i (fun _ => {}) (fun x s =>
      s.scratchWord x w.hd (x.scrCause w false) (fun ln => wrapTo 64 (x.scrAddr w ln))
        (fun ln => scrBytes w (x.scrAddr w ln).toNat) true false (fun x s => x.scrLoads s i nfo w))

def execLd (w : MWord) (s : State) : Host.Outcome State Fault Refusal := s.globalLoad (.ld w) w

def execLds (w : MWord) (s : State) : Host.Outcome State Fault Refusal := s.scratchLoad (.lds w) w

/-- LDB moves a scaled block raw, from global memory or the scratchpad by SPACE (R372). -/
def execLdb (w : MWord) (s : State) : Host.Outcome State Fault Refusal :=
  if w.space = 1#3 then s.scratchLoad (.ldb w) w else s.globalLoad (.ldb w) w

/-! ## Returning data -/

/-- The register writes of a returned load. -/
def LoadFly.deliver (f : LoadFly) (t : Thread) : Thread :=
  match f.d with
  | .v r => t.setV r.toNat f.vals
  | _ => t

/-- The group of a returning s-destination load: the one that gathers this thread's word. -/
def gatherFor (w : WG) (tid pc : Nat) : Option Group :=
  w.groups.find? (fun g => g.gathers.any (fun q => q.pc == pc && q.tids.contains tid))

/-- A lane's data put among those of a gather, by %tid (R254). -/
def insertGot (e : Nat × List Word) : List (Nat × List Word) → List (Nat × List Word)
  | [] => [e]
  | q :: qs => if e.1 < q.1 then e :: q :: qs else q :: insertGot e qs

/-- A gather with one lane's data more. -/
def Gather.take (q : Gather) (pc tid : Nat) (ws : List Word) : Gather :=
  if q.pc = pc ∧ q.tids.contains tid ∧ ¬ q.got.any (fun e => e.1 == tid) then { q with got := insertGot (tid, ws) q.got } else q

/-- A complete gather: equal data are written; otherwise the lanes that differ from the lowest are named, imprecisely, at
the PC of the load, and the s register keeps its value (R48). -/
def State.closeGather (s : State) (w : WG) (g : Group) (q : Gather) : State :=
  let s := s.modWG w.wid (fun v => v.modGroup g.gid (fun g => { g with gathers := g.gathers.filter (fun r => r != q) }))
  let first := q.tids.headD 0
  let vals := q.got.filter (fun e => e.1 = first)
  let v := (vals.headD (0, [])).2
  let bad := q.got.filter (fun e => e.2 != v)
  match bad with
  | [] => s.modWG w.wid (fun u => u.setS g.gid q.d v)
  | e :: _ => s.raise w.lid w.core 3 e.1 (bad.map (fun e =>
      s.record w 5 0 false e.1 g.gid (((w.threads[e.1]?).map (fun t => t.lane)).getD 0) q.pc 0 0))

/-- A load's data arrives: a poisoned line raises class 22 for the lane and PC of the word (R260); v destinations are
written; an s destination gathers its lanes first (R48, R368). -/
def State.arrive (s : State) (wid tid : Nat) (f : LoadFly) : State :=
  match s.wg? wid with
  | none => s
  | some w => match w.threads[tid]? with
    | none => s
    | some t => match f.bad with
      | some e => (s.retirePage e.1).raiseReturn w.lid w.core (s.record w 22 0 false tid t.gid t.lane f.pc f.va e.2)
      | none =>
        let s := s.modWG wid (fun v => v.modThread tid f.deliver)
        if !f.gather then s
        else match gatherFor w tid f.pc with
          | none => s
          | some g =>
            let s := s.modWG wid (fun v => v.modGroup g.gid (fun g => { g with gathers := g.gathers.map (fun q => q.take f.pc tid f.vals) }))
            match (s.wg? wid).bind (fun v => v.group? g.gid) with
            | none => s
            | some g => match g.gathers.find? (fun q => q.pc == f.pc && q.tids.all (fun i => q.got.any (fun e => e.1 == i))) with
              | none => s
              | some q => s.closeGather w g q

/-- LOAD_RETURN: the thread's oldest load arrives. -/
def execLoadReturn (wid tid : Nat) (s : State) : Host.Outcome State Fault Refusal :=
  .next (match (s.wg? wid).bind (fun w => w.threads[tid]?) with
    | none => s
    | some t => match t.loads with
      | [] => s
      | f :: rest =>
        if ((s.wg? wid).map (fun w => s.clocked w.core)).getD false then
          (s.modWG wid (fun v => v.modThread tid (fun t => { t with loads := rest }))).arrive wid tid f
        else s)

/-! ## Stores -/

/-- One lane's global store: the page takes the current generation, and the bytes enter U_c (R174, R180, R414). -/
def Path.storeLane (x : Path) (w : MWord) (s : State) (a : Lane × List Trans) : State :=
  let n := memBytes w.width.toNat
  let t := a.1.t
  let pas := placeBytes (x.memAddr w a.1) n a.2
  let s := a.2.foldl (fun s tr => s.setDgen x.ctx tr) s
  s.addStore x.w.core x.l.lid x.ctx (x.uid a.1) ((x.exec w.hd).map (fun ln => (x.uid ln, ln.t.seq + 1))) t pas (bytesOf n (storeVal x w a.1))

/-- ST and global STB: checked under R173 with W, all or nothing; the stores of the lanes in ascending %lane (R179, R414). -/
def State.globalStore (s : State) (i : Instr) (w : MWord) : Host.Outcome State Fault Refusal :=
  s.word i (fun _ => {}) (fun x s =>
    s.globalWord x (x.exec w.hd) (x.memAddr w) (memBytes w.width.toNat) (globalAlign w.width.toNat) false true false true
      (fun x acc s =>
        x.finish (acc.foldl (x.storeLane w) s) w.hd.hold (fun _ => x.next)
          (fun ln t => if acc.any (fun a => a.1.tid == ln.tid) then t.count else t) id))

/-- One lane's scratchpad store; the bytes carry the thread's release clock (R136, R137, R182). -/
def Path.scrStoreLane (w : MWord) (x : Path) (g : WG) (ln : Lane) : WG :=
  let a := (x.scrAddr w ln).toNat
  { g with
    win := scrStore g.win w a (storeVal x w ln)
    wrel := (scrBytes w a).foldl (fun m b => SMap.put [] m b (Clock.join (m.get [] b) ln.t.fvc)) g.wrel }

/-- STS and scratchpad STB: the lanes in ascending %lane, so that the highest stands (R137, R415). -/
def State.scratchStore (s : State) (i : Instr) (w : MWord) : Host.Outcome State Fault Refusal :=
  s.word i (fun _ => {}) (fun x s =>
    s.scratchWord x w.hd (x.scrCause w true) (fun ln => wrapTo 64 (x.scrAddr w ln))
      (fun ln => scrBytes w (x.scrAddr w ln).toNat) false true (fun x s =>
        x.finish s w.hd.hold (fun _ => x.next) (fun ln t => if ln.t.executes w.hd then t.count else t)
          (fun g => (x.exec w.hd).foldl (Path.scrStoreLane w x) g)))

def execSt (w : MWord) (s : State) : Host.Outcome State Fault Refusal := s.globalStore (.st w) w

def execSts (w : MWord) (s : State) : Host.Outcome State Fault Refusal := s.scratchStore (.sts w) w

/-- STB moves a scaled block raw, to global memory or the scratchpad by SPACE (R412 to R415). Log 16, DEDUCED. -/
def execStb (w : MWord) (s : State) : Host.Outcome State Fault Refusal :=
  if w.space = 1#3 then s.scratchStore (.stb w) w else s.globalStore (.stb w) w

/-- The home slice fetches a line under a key and allocates it; `first` marks it first for eviction (R178, R400). -/
def State.prefetch (s : State) (key line : Nat) (first : Bool) : State :=
  let t := s.fetchLine key line
  { t with evictFirst := if first && isLocal (line * 128) then insertSet line t.evictFirst else t.evictFirst }

/-- PREF: each executing lane whose address passes the checks has its line prefetched; another lane's prefetch is dropped. It changes no
value, and the path goes on (R400). Log 94, DESIGN CHOICE. -/
def execPref (w : MWord) (s : State) : Host.Outcome State Fault Refusal :=
  s.word (.pref w) (fun _ => {}) (fun x s =>
    x.advance ((x.exec w.hd).foldl (fun (s : State) ln =>
      match s.access x.ctx (x.memAddr w ln) 1 1 true false false with
      | .ok (t :: _) => s.prefetch t.key (t.pa / 128) (w.cp == 1#2)
      | _ => s) s) w.hd.hold)

end Sys2Proof.Machine
end

