-- ==== Sys2Proof/Machine/Slices.lean ====
section
/-! DEFINITION. The sluices: routine images and their checks, the slice words, the run of a request at its home slice, monitors,
and the replies (R187, R196 to R214, R229, R230, R260, R302, R371). -/

namespace Sys2Proof.Machine

/-! ## Routine images -/

/-- The fields of a slice word (R197). -/
def slOp (w : Nat) : Nat := bitsOf w 26 6
def slD (w : Nat) : Nat := bitsOf w 21 5
def slA (w : Nat) : Nat := bitsOf w 16 5
def slB (w : Nat) : Nat := bitsOf w 11 5
def slImm (w : Nat) : Nat := bitsOf w 0 16

/-- The register form (R197). -/
def slReg (op : Nat) : Bool := op < 32

/-- The assigned opcodes (R198). -/
def slAssigned (op : Nat) : Bool := op ≤ 0x1A || op = 0x20 || op = 0x21 || op = 0x23 || op = 0x24 || op = 0x25

/-- Which of d, a and b a word uses (R198). -/
def slUsesD (op : Nat) : Bool := !(op = 0x12 || op = 0x14 || op = 0x23 || op = 0x24 || op = 0x25)
def slUsesA (op : Nat) : Bool := !(op = 0x20 || op = 0x25)
def slUsesB (op : Nat) : Bool := slReg op && !(op = 0 || op = 0x11 || op = 0x13)

/-- A legal source code (R196). -/
def slSrcOk (anum c : Nat) : Bool := c ≤ 15 || (16 ≤ c && c ≤ 19 && c - 16 < anum) || (20 ≤ c && c ≤ 30)

/-- A legal destination code (R196). -/
def slDstOk (c : Nat) : Bool := c ≤ 15 || (20 ≤ c && c ≤ 28)

/-- The causes of word i of a routine of LEN words and ANUM operands (R200). -/
def slWordCauses (len anum i w : Nat) : List Nat :=
  let op := slOp w
  let code := fun (used : Bool) (ok : Nat → Bool) (c : Nat) => if used then ok c else c = 30
  (if !slAssigned op || (slReg op && bitsOf w 0 11 != 0) || (op = 0x25 && bitsOf w 8 8 != 0) then [3] else [])
  ++ (if slAssigned op && !(code (slUsesD op) slDstOk (slD w) && code (slUsesA op) (slSrcOk anum) (slA w)
        && (!slReg op || code (slUsesB op) (slSrcOk anum) (slB w))) then [4] else [])
  ++ (if (op = 0x23 || op = 0x24) && (signedOf 16 (slImm w) < 1 || (len : Int) < (i : Int) + 1 + signedOf 16 (slImm w)) then [5]
      else [])

/-- LEN, ANUM, VALID and VER of an entry (R199). -/
def slLen (e : Nat) : Nat := bitsOf e 0 5
def slAnum (e : Nat) : Nat := bitsOf e 5 3
def slValid (e : Nat) : Bool := bitOf e 8
def slVer (e : Nat) : Nat := bitsOf e 16 16

/-- Slice word i of an entry given as one number (R199). -/
def slWord (e i : Nat) : Nat := bitsOf e (64 + 32 * i) 32

/-- Every (cause, word index) that applies to an image (R200). -/
def imageCauses (e : Nat) : List (Nat × Nat) :=
  let len := slLen e
  if len = 0 || 24 < len || 4 < slAnum e || bitsOf e 9 7 != 0 || bitsOf e 32 32 != 0 then [(2, 0)]
  else
    (List.range len).flatMap (fun i => (slWordCauses len (slAnum e) i (slWord e i)).map (fun c => (c, i)))
    ++ ((List.range 30).filter (fun i => len ≤ i && slWord e i != 0)).map (fun i => (6, i))

/-- The status of a definition: the lowest cause and its lowest index, 0 where the image is accepted (R200). -/
def imageStatus (e : Nat) : Nat :=
  match minOf ((imageCauses e).map (fun p => p.1 * 256 + p.2)) with
  | none => 0
  | some k => k / 256 + 256 * (k % 256)

/-! ## Slice words -/

/-- The slice state (R196): the line as one number, T0 to T7 and Y by their codes, and the flags. -/
structure SliceSt where
  line : Nat
  regs : SMap DWord
  fl : Nat
  deriving DecidableEq, Repr

/-- A source (R196). -/
def SliceSt.src (t : SliceSt) (ops : List DWord) (ofs c : Nat) : Nat :=
  if c ≤ 15 then bitsOf t.line (64 * c) 64
  else if c ≤ 19 then (ops.getD (c - 16) 0).toNat
  else if c ≤ 28 then (t.regs.get 0 c).toNat
  else if c = 29 then ofs else 0

/-- A destination written, modulo 2^64 (R196, R198). -/
def SliceSt.dst (t : SliceSt) (c x : Nat) : SliceSt :=
  if c ≤ 15 then { t with line := putBits t.line (64 * c) 64 x } else { t with regs := t.regs.put 0 c (BitVec.ofNat 64 x) }

/-- What one slice word does: the state and how many words it skips, or an abort's status and detail. -/
inductive SliceRes where
  | on (t : SliceSt) (skip : Nat)
  | abort (code detail : Nat)

/-- The value of a register-form word of two sources, with its flags (R198); d is the old value of the destination. -/
def sliceOp (op d a b : Nat) : Nat × Nat :=
  let n := 2 ^ 64
  match op with
  | 0x00 => (a, 0)
  | 0x01 => (a + b, 0)
  | 0x02 => (a + n - b, 0)
  | 0x03 => (a &&& b, 0)
  | 0x04 => (a ||| b, 0)
  | 0x05 => (a ^^^ b, 0)
  | 0x06 => (a &&& (n - 1 - b), 0)
  | 0x07 => (a <<< (b % 64), 0)
  | 0x08 => (a >>> (b % 64), 0)
  | 0x09 => (if signedOf 64 b < signedOf 64 a then b else a, 0)
  | 0x0A => (if signedOf 64 a < signedOf 64 b then b else a, 0)
  | 0x0B => (min a b, 0)
  | 0x0C => (max a b, 0)
  | 0x0D => (bit1 (a == b), 0)
  | 0x0E => (bit1 (signedOf 64 a < signedOf 64 b), 0)
  | 0x0F => (bit1 (a < b), 0)
  | 0x10 => (if d ≠ 0 then a else b, 0)
  | 0x15 => floatOne .add .f32 .rn false false (a % 2 ^ 32) (b % 2 ^ 32) 0
  | 0x16 => floatOne .add .f64 .rn false false a b 0
  | 0x17 => floatOne .fmin .f32 .rn false false (a % 2 ^ 32) (b % 2 ^ 32) 0
  | 0x18 => floatOne .fmax .f32 .rn false false (a % 2 ^ 32) (b % 2 ^ 32) 0
  | 0x19 => floatOne .fmin .f64 .rn false false a b 0
  | 0x1A => floatOne .fmax .f64 .rn false false a b 0
  | _ => (0, 0)

/-- One slice word at index i (R198). -/
def sliceWord (ops : List DWord) (ofs i w : Nat) (t : SliceSt) : SliceRes :=
  let op := slOp w
  let a := t.src ops ofs (slA w)
  let b := t.src ops ofs (slB w)
  let imm := slImm w
  let sx := wrapTo 64 (signedOf 16 imm)
  if op = 0x11 then
    if 128 ≤ a || a % 8 ≠ 0 then .abort 2 i else .on (t.dst (slD w) (bitsOf t.line (8 * a) 64)) 0
  else if op = 0x12 then
    if 128 ≤ a || a % 8 ≠ 0 then .abort 2 i else .on { t with line := putBits t.line (8 * a) 64 b } 0
  else if op = 0x13 then
    if 128 ≤ a || a % 4 ≠ 0 then .abort 2 i else .on (t.dst (slD w) (bitsOf t.line (8 * a) 32)) 0
  else if op = 0x14 then
    if 128 ≤ a || a % 4 ≠ 0 then .abort 2 i else .on { t with line := putBits t.line (8 * a) 32 b } 0
  else if op = 0x20 then .on (t.dst (slD w) sx) 0
  else if op = 0x21 then .on (t.dst (slD w) (a + sx)) 0
  else if op = 0x23 then .on t (if a = 0 then imm else 0)
  else if op = 0x24 then .on t (if a ≠ 0 then imm else 0)
  else if op = 0x25 then .abort 3 (imm % 256)
  else
    let r := sliceOp op (t.src ops ofs (slD w)) a b
    let t1 := t.dst (slD w) r.1
    .on { t1 with fl := t.fl ||| r.2 } 0

/-- What a routine comes to: status code and detail, the line, the reply and the flags. -/
structure Ran where
  code : Nat
  detail : Nat
  line : Nat
  y : DWord
  fl : Nat
  deriving DecidableEq, Repr

/-- The run over the words from index i on (R208). -/
def sliceRun (ops : List DWord) (ofs : Nat) : Nat → Nat → List Nat → SliceSt → Ran
  | _, _, [], t => ⟨0, 0, t.line, t.regs.get 0 28, t.fl⟩
  | i, k + 1, _ :: ws, t => sliceRun ops ofs (i + 1) k ws t
  | i, 0, w :: ws, t =>
    match sliceWord ops ofs i w t with
    | .abort c d => ⟨c, d, t.line, 0, t.fl⟩
    | .on t skip => sliceRun ops ofs (i + 1) skip ws t

/-- A built-in routine on a line (R212): the old value at the address is the reply. Log 27, DEDUCED. -/
def builtinRun (r : Nat) (ops : List DWord) (ofs line : Nat) : Ran :=
  let op := if r = 76 || r = 77 then r + 4 - 64 else r - 64
  let n := if atomIs32 op then 32 else 64
  let old := bitsOf line (8 * ofs) n
  let v := atomOp op old ((ops.getD 0 0).toNat % 2 ^ n) ((ops.getD 1 0).toNat % 2 ^ n)
  ⟨0, 0, putBits line (8 * ofs) n v.1, BitVec.ofNat 64 old, v.2⟩

/-- An entry's run on a line (R208). -/
def entryRun (e : Nat) (ops : List DWord) (ofs line : Nat) : Ran :=
  sliceRun ops ofs 0 0 ((List.range (slLen e)).map (slWord e)) ⟨line, [], 0⟩

/-! ## Routine entries -/

/-- What a slice finds for a routine number (R202). -/
inductive EntryRes where
  | absent (va : Nat)
  | failed (cause : Nat)
  | poison (line seq : Nat)
  | invalid
  | entry (e : Nat)

/-- The virtual address of entry r of a context's routine table (R201). -/
def State.entryVa (s : State) (ctx r : Nat) : Nat := (s.ctx ctx).rtab + 128 * r

/-- The entry of a context's routine, as the table holds it (R202). Log 26, DEDUCED. -/
def State.fetchEntry (s : State) (ctx r : Nat) : EntryRes :=
  let va := s.entryVa ctx r
  match s.checkPage ctx va true false false with
  | .cause c => if c = 3 then .absent va else .failed c
  | .ok t =>
    match s.poisoned t.pa 128 with
    | some p => .poison p.1 p.2
    | none =>
      let e := natOfBytes (s.mem.readN t.key t.pa 128)
      if slValid e && imageStatus e = 0 then .entry e else .invalid

/-- The entries that a slice caches (R202). -/
def State.cached (s : State) (slice : Nat) : List CachedEntry := s.rcache.get [] slice

/-- What a slice finds for a routine: the entry that it caches, else the fetched one (R202). -/
def State.entryFor (s : State) (slice ctx r : Nat) : EntryRes :=
  match (s.cached slice).find? (fun e => e.ctx == ctx && e.r == r) with
  | some e => .entry e.entry
  | none => s.fetchEntry ctx r

/-- A valid entry enters a slice's cache of 512, whose oldest entry makes room (R202). Log 26, DEDUCED. -/
def State.cacheEntry (s : State) (slice ctx r e : Nat) : State :=
  let old := s.cached slice
  if old.any (fun c => c.ctx == ctx && c.r == r) then s
  else
    let kept := if old.length < 512 then old else old.drop 1
    { s with rcache := s.rcache.put [] slice (kept ++ [⟨ctx, r, slVer e, e⟩]) }

/-- Whether a request's entry may be cached: its context stands, and no fatal trap ends its launch, so that the entries of a context
that ends stay out of every slice (R202). -/
def State.mayCache (s : State) (r : Req) : Bool := !(s.ctx r.ctx).dead && !(s.launch? r.lid).any (fun l => l.phase == .dying)

/-- Cached entries that `drop` names leave every slice (R202, R205, R206). -/
def State.uncache (s : State) (drop : CachedEntry → Bool) : State :=
  { s with rcache := (s.rcache.map (fun e => (e.1, e.2.filter (fun c => !drop c)))).filter (fun e => !e.2.isEmpty) }

/-! ## Running a request -/

/-- The slice that serves an address; the companion coherence point and the peers' home slices have numbers of their own
(R176, R286, R302). Log 79, DESIGN CHOICE. -/
def State.sliceOf (s : State) (pa : Nat) : Nat :=
  if isPeer pa then 1000 + peerOf pa else if isCompanion pa then 999 else s.sliceFor pa

/-- A request put at the end of its slice's queue. -/
def State.toSlice (s : State) (r : Req) : State :=
  let k := s.sliceOf r.pa
  { s with slices := s.slices.put [] k (s.slices.get [] k ++ [r]) }

/-- The bytes of M that a request loads into its reply: those of an LDA, of a WAITV's read and of an ATOM.LOAD (R187, R302). -/
def Req.loaded (r : Req) : List Nat :=
  match r.kind with
  | .lda width _ _ => rangeBytes r.pa (memBytes width)
  | .waitv w64 => rangeBytes r.pa (if w64 then 8 else 4)
  | .atom w64 => if r.r = 92 then rangeBytes r.pa (if w64 then 8 else 4) else []
  | _ => []

/-- The release clocks of the stores that a read of M by a thread of a logical core finds there, or finds a later value than (R182).
Log 111, DEDUCED. -/
def State.relOfM (s : State) (core : Nat) (pas : List Nat) : Clock :=
  let c := s.core core
  pas.foldl (fun a pa => (c.ulist.filter (fun u => u.pub && u.cells.any (fun x => x.1 == pa))).foldl
    (fun a u => Clock.join a u.rel) (Clock.join a (c.brel.get [] pa))) []

/-- A reply sent; a peer's routine replies to the peer (R204, R286). -/
def State.answer (s : State) (r : Req) (code detail fl : Nat) (y hi : DWord) : State :=
  match r.kind with
  | .peer _ => { s with link := some (bytesOf 4 (packBits [(8, code), (8, detail), (7, fl)]) ++ bytesOf 8 y.toNat) }
  | _ => { s with replies := s.replies ++ [⟨r, code, detail, BitVec.ofNat 7 fl, y, hi, s.relOfM r.core r.loaded⟩] }

/-- The line of an address, read under a key, as one number. -/
def State.lineOf (s : State) (key pa : Nat) : Nat := natOfBytes (s.mem.readN key (pa / 128 * 128) 128)

/-- The effect of a routine that has run on its line (R208): the line changes whole or not at all, DGEN is set before the
change, and monitors of the line wake. -/
def State.applyRan (s : State) (r : Req) (old : Nat) (ran : Ran) : State :=
  let s :=
    if ran.code = 0 && ran.line != old then
      let s := match r.kind with
        | .peer _ => s
        | _ => s.setDgen r.ctx { lvl := r.lvl, ea := r.ea, base := r.base, pa := r.pa, key := r.key, r := true, w := true, x := false,
                                 det := r.det, dgen := 256 }
      (s.writeM r.ctx r.key (cellsAt (r.pa / 128 * 128) (bytesOf 128 ran.line))).wakeLine (r.pa / 128) r.ctx
    else s
  s.answer r ran.code ran.detail ran.fl (if ran.code = 0 then ran.y else 0) 0

/-- A routine request at the head of its slice's queue (R208): `entry` is what the slice found for it, none for a built-in. -/
def State.runEntry (s : State) (r : Req) (entry : Option Nat) : State :=
  let s := match r.kind with
    | .peer _ => s
    | _ => s.publishLine r.core r.clk (r.pa / 128)
  let s := s.fetchLine r.key (r.pa / 128)
  let old := s.lineOf r.key r.pa
  s.applyRan r old (match entry with
    | some e => entryRun e r.opnds (r.pa % 128) old
    | none => builtinRun r.r r.opnds (r.pa % 128) old)

/-- A request from a peer device, or for a peer's line (R286). -/
def Req.remote (r : Req) : Bool := isPeer r.pa || (match r.kind with | .peer _ => true | _ => false)

/-- A routine or atomic request runs (R202, R208, R286): only the built-ins run for a peer or on a peer's line. A request whose table page is absent waits for the answer; one of
the reorder window stays in the window. -/
def State.runRoutine (s : State) (r : Req) : State :=
  match s.poisoned r.pa 1 with
  | some p => (s.retirePage p.1).answer r 4 0 0 0 0
  | none =>
    if 64 ≤ r.r then s.runEntry r none
    else if r.remote then s.answer r 1 0 0 0 0
    else match s.entryFor (s.sliceOf r.pa) r.ctx r.r with
      | .absent va => s.sendFault r.ctx va .load (.table (s.sliceOf r.pa) r)
      | .failed c => s.answer r 7 c 0 0 0
      | .poison l _ => (s.retirePage l).answer r 5 0 0 0 0
      | .invalid => s.answer r 1 0 0 0 0
      | .entry e =>
        let s := if s.mayCache r then s.cacheEntry (s.sliceOf r.pa) r.ctx r.r e else s
        if slAnum e ≠ r.opnds.length then s.answer r 6 0 0 0 0 else s.runEntry r (some e)

/-- LDA reads M at its place in the linearisation (R187, R371); a poisoned line is consumed (R260). -/
def State.runRead (s : State) (r : Req) (n : Nat) : State :=
  match s.poisoned r.pa n with
  | some p => (s.retirePage p.1).answer r 4 p.2 0 0 0
  | none =>
    let x := natOfBytes (s.mem.readN r.key r.pa n)
    (s.fetchLines ((rangeBytes r.pa n).map (fun a => (a, r.key)))).answer r 0 0 0 (BitVec.ofNat 64 x) (BitVec.ofNat 64 (x / 2 ^ 64))

/-- A request takes effect. -/
def State.runReq (s : State) (r : Req) : State :=
  match r.kind with
  | .atom _ | .lrcall | .peer _ => s.runRoutine r
  | .lda width _ _ => s.runRead r (memBytes width)
  | .waitv w64 => s.runRead r (if w64 then 8 else 4)
  | .wake => ((if isLocal r.pa then s.wakeLine (r.pa / 128) r.ctx else s)).answer r 0 0 0 0 0

/-- LINE_ROUTINE_RUN: the request at the head of a slice's queue, where the slice is not paused (R208, R267). -/
def execLineRoutineRun (slice : Nat) (s : State) : Host.Outcome State Fault Refusal :=
  .next (match s.slices.get [] slice with
    | [] => s
    | r :: rest =>
      if s.paused.contains slice then s
      else { s with slices := s.slices.put [] slice rest }.runReq r)

/-! ## The reorder window of deterministic pages -/

/-- The order of the keys of R191. -/
def keyLt (a b : Nat × Nat × Nat × Nat) : Bool :=
  a.1 < b.1 || (a.1 == b.1 && (a.2.1 < b.2.1 || (a.2.1 == b.2.1 && (a.2.2.1 < b.2.2.1
    || (a.2.2.1 == b.2.2.1 && a.2.2.2 < b.2.2.2)))))

/-- The key of a request (R191). -/
def Req.key4 (r : Req) : Nat × Nat × Nat × Nat := (r.phc, r.wgid, r.tid, r.detn)

/-- The smallest of some keys. -/
def minKey : List (Nat × Nat × Nat × Nat) → Option (Nat × Nat × Nat × Nat)
  | [] => none
  | k :: ks => match minKey ks with
    | none => some k
    | some m => some (if keyLt m k then m else k)

/-- The atomics and routines of a launch that translate again and wait for their page (R76, R195). -/
def State.againReqs (s : State) (lid : Nat) : List Req :=
  s.faults.flatMap (fun f => f.srcs.filterMap (fun x => match x with
    | .reissue r => match r.kind with
      | .atom _ | .lrcall => if r.lid = lid then some r else none
      | _ => none
    | _ => none))

/-- The frontier F of a launch (R213): a request that has lost its place until its page comes still counts. -/
def State.frontierOf (s : State) (l : Launch) : Option (Nat × Nat × Nat × Nat) :=
  minKey (l.window.map Req.key4 ++ (s.againReqs l.lid).map Req.key4
    ++ (s.wgs.filter (fun w => w.lid == l.lid)).flatMap (fun w =>
        (w.threads.zipIdx.filter (fun p => p.1.run != .exited)).map (fun p => (p.1.phc, w.wgid, p.2, p.1.detc)))
    ++ l.pending.map (fun p => (0, p.1, 0, 0))
    ++ (if l.next < l.count then [(0, l.next, 0, 0)] else []))

/-- Whether a request waits for its table page. Log 78, DESIGN CHOICE. -/
def State.tableWaits (s : State) (r : Req) : Bool :=
  s.faults.any (fun f => f.srcs.any (fun x => match x with | .table _ q => q == r | _ => false))

/-- DET_REQUEST_APPLY: the window's request whose key is the frontier takes effect, where its slice is not paused (R213, R267); that of a
logical core whose turn has ended is withdrawn until its next turn (R62, R64). Log 78, DESIGN CHOICE. Log 51, DEDUCED. -/
def execDetRequestApply (lid : Nat) (s : State) : Host.Outcome State Fault Refusal :=
  .next (match s.launch? lid with
    | none => s
    | some l =>
      match l.window.find? (fun r => some r.key4 == s.frontierOf l) with
      | none => s
      | some r =>
        if s.tableWaits r || !l.runs || s.paused.contains (s.sliceOf r.pa) || s.gbSt r.core ≠ 1 then s
        else
          let s1 := s.runReq r
          if s1.tableWaits r then s1
          else s1.modLaunch lid (fun l => { l with window := l.window.erase r }))

/-! ## Replies -/

/-- The status word (R210). -/
def Reply.status (p : Reply) : Nat := packBits [(8, p.code), (8, p.detail), (7, p.fl.toNat)]

/-- The line-routine-error trap of a reply (R211, R302): the thread's place when it is raised, the PC of the word. -/
def State.routineError (s : State) (w : WG) (t : Thread) (p : Reply) : State :=
  s.raiseReturn w.lid w.core (s.record w 20 0 false p.req.tid t.gid t.lane p.req.pc 0 p.status)

/-- The registers that a reply writes: an LRCALL's with its status, an ATOM's in its width (R204, R302). -/
def Reply.words (p : Reply) : List Word :=
  match p.req.kind with
  | .atom w64 => wordsOf (if w64 then 2 else 1) p.y.toNat
  | .lrcall => wordsOf 2 p.y.toNat ++ [BitVec.ofNat 32 p.status]
  | _ => []

/-- The return slot freed, with the destination written. -/
def Thread.replied (t : Thread) (d : Opnd) (ws : List Word) : Thread :=
  let t := { t with slot := none }
  match d with
  | .v r => t.setV r.toNat ws
  | _ => t

/-- A thread acquires release clocks with a value that it has read (R182). -/
def Thread.acquires (t : Thread) (c : Clock) : Thread := { t with acq := Clock.join t.acq c }

/-- The reply of an atomic or a routine (R204, R210, R211, R302). -/
def State.routineReply (s : State) (w : WG) (t : Thread) (p : Reply) : State :=
  let fl := p.fl.toNat
  let err := p.code ≠ 0 && (match p.req.kind with | .atom _ => true | _ => p.req.d == .none)
  let s := s.modWG w.wid (fun v =>
    (v.orFlags fl).modThread p.req.tid (fun t => ((t.replied p.req.d p.words).acquires p.acq).knows w fl))
  if err then s.routineError w t p else s

/-! ## WAITV -/

/-- Free monitors, or one of the line already taken (R230): 64 per slice, none for a peer or companion line. -/
def State.monitorFree (s : State) (pa ctx : Nat) : Bool :=
  isLocal pa && (s.monitors.any (fun m => m.line == pa / 128 && m.ctx == ctx)
    || (s.monitors.filter (fun m => m.slice == s.sliceOf pa)).length < 64)

/-- A thread joins the monitor of a line. -/
def State.joinMonitor (s : State) (pa ctx wid tid : Nat) : State :=
  if s.monitors.any (fun m => m.line == pa / 128 && m.ctx == ctx) then
    { s with monitors := s.monitors.map (fun m =>
        if m.line = pa / 128 ∧ m.ctx = ctx then { m with waiters := m.waiters ++ [(wid, tid)] } else m) }
  else { s with monitors := s.monitors ++ [⟨s.sliceOf pa, pa / 128, ctx, [(wid, tid)]⟩] }

/-- A thread leaves its monitor; an empty monitor is free. -/
def State.leaveMonitor (s : State) (wid tid : Nat) : State :=
  let ms : List Monitor := s.monitors.map (fun m => { m with waiters := m.waiters.erase (wid, tid) })
  { s with monitors := ms.filter (fun m => !m.waiters.isEmpty) }

/-- The thread's run state set. -/
def State.setRun (s : State) (wid tid : Nat) (r : Run) : State :=
  s.modWG wid (fun w => w.modThread tid (fun t => { t with run := r }))

/-- The request of a WAITV's read. -/
def waitvReq (w : WG) (ctx tid : Nat) (t : Thread) (z : WaitV) (uid : Nat) : Req :=
  { kind := .waitv z.w64, lid := w.lid, wid := w.wid, tid := tid, core := w.core, ctx := ctx, key := z.key, va := z.va, pa := z.pa,
    r := 0, opnds := [], d := z.d, pc := t.pc, ordinal := 0, phc := t.phc, detn := 0, det := false,
    wgid := w.wgid, clk := t.clock uid, lvl := 3, ea := 0, base := 0 }

/-- The bytes of a WAITV's read. -/
def WaitV.n (z : WaitV) : Nat := if z.w64 then 8 else 4

/-- The blocked thread reads again (R229): the access is checked afresh; an absent page holds the thread at the word, and a
fatal cause raises the memory fault. Log 109, DESIGN CHOICE. Log 29, DEDUCED. -/
def State.waitvRead (s : State) (wid tid : Nat) (z : WaitV) : State :=
  match s.wg? wid with
  | none => s
  | some w => match w.threads[tid]?, s.launch? w.lid with
    | some t, some l =>
      let s := s.leaveMonitor wid tid
      match s.access l.ctx z.va z.n z.n true false false with
      | .error c =>
        if c = 3 then
          let page := s.faultPage l.ctx z.va z.n
          (s.modWG wid (fun w => w.modThread tid (fun t => { t with slot := none }))).setRun wid tid (Run.wait (Wait.page page .load (some z.va)))
        else s.raise w.lid w.core 2 8 [s.record w 9 c true tid t.gid t.lane t.pc z.va 0]
      | .ok ts =>
        let pa := ((ts.head?).map (fun u => u.pa)).getD z.pa
        let key := ((ts.head?).map (fun u => u.key)).getD z.key
        let z := { z with reading := true, mon := false, pa := pa, key := key }
        (s.setRun wid tid (.wait (.waitv z))).toSlice (waitvReq w l.ctx tid t z (uidOf wid tid))
    | _, _ => s

/-- A WAITV ends: d takes the value read, and the thread goes on (R229). -/
def State.waitvEnd (s : State) (wid tid : Nat) (z : WaitV) (y : DWord) (acq : Clock) : State :=
  (s.leaveMonitor wid tid).modWG wid (fun w => w.modThread tid (fun t =>
    ((t.replied z.d (wordsOf (if z.w64 then 2 else 1) y.toNat)).acquires acq).release))

/-- A WAITV sleeps: at a monitor where one is free, else polling (R229). Log 29, DEDUCED. -/
def State.waitvSleep (s : State) (wid tid ctx : Nat) (z : WaitV) : State :=
  let z := { z with reading := false, since := s.ck, woken := false }
  if s.monitorFree z.pa ctx then
    (s.joinMonitor z.pa ctx wid tid).setRun wid tid (.wait (.waitv { z with mon := true }))
  else s.setRun wid tid (.wait (.waitv { z with mon := false }))

/-- What a WAITV's read comes to (R229): it ends on a difference, after a wake, or once 65,536 ck have passed; an interval of
0 marks the first read. -/
def State.waitvReply (s : State) (w : WG) (t : Thread) (p : Reply) (z : WaitV) : State :=
  if p.code ≠ 0 then
    s.raiseReturn w.lid w.core (s.record w 22 0 false p.req.tid t.gid t.lane p.req.pc p.req.va p.detail)
  else if p.y ≠ z.cmp || (z.interval ≠ 0 && (z.woken || z.start + 65536 ≤ s.ck)) then s.waitvEnd w.wid p.req.tid z p.y p.acq
  else if z.interval = 0 then s.waitvSleep w.wid p.req.tid p.req.ctx { z with start := s.ck, interval := 64, last := p.y }
  else s.waitvSleep w.wid p.req.tid p.req.ctx { z with last := p.y }

/-- The WAITV that a thread is blocked in, where its core's clocks run: a halt keeps all state (R296). -/
def State.waitv? (s : State) (wid tid : Nat) : Option WaitV :=
  (((s.wg? wid).filter (fun w => s.clocked w.core)).bind (fun w => w.threads[tid]?)).bind (fun t =>
    match t.run with
    | .wait (.waitv z) => some z
    | _ => none)

/-- WAITV_WAKE: a woken waiter reads again. For a waiter that nothing has woken it is the slice event that drops its monitor,
a spurious wake-up of every waiter there (R230). Log 29, DEDUCED. -/
def execWaitvWake (wid tid : Nat) (s : State) : Host.Outcome State Fault Refusal :=
  .next (match s.waitv? wid tid with
    | none => s
    | some z =>
      if !z.mon || z.reading then s
      else if z.woken then s.waitvRead wid tid z
      else
        let hit := fun (m : Monitor) => m.waiters.contains (wid, tid)
        let s := (s.monitors.filter hit).foldl (fun s m => s.wakeLine m.line m.ctx) s
        s.waitvRead wid tid { z with woken := true })

/-- WAITV_POLL: the poll interval has passed; it doubles, to 4,096 ck at most (R229). -/
def execWaitvPoll (wid tid : Nat) (s : State) : Host.Outcome State Fault Refusal :=
  .next (match s.waitv? wid tid with
    | none => s
    | some z =>
      if z.mon || z.reading || s.ck < z.since + z.interval then s
      else s.waitvRead wid tid { z with interval := min (2 * z.interval) 4096 })

/-- WAITV_TIMEOUT: 65,536 ck have passed at the monitor (R229). -/
def execWaitvTimeout (wid tid : Nat) (s : State) : Host.Outcome State Fault Refusal :=
  .next (match s.waitv? wid tid with
    | none => s
    | some z => if !z.mon || z.reading || s.ck < z.since + 65536 then s else s.waitvRead wid tid z)

/-! ## REPLY -/

/-- LDA's data arrives as a load's does (R368, R371). -/
def State.ldaReply (s : State) (w : WG) (p : Reply) (width : Nat) (sx gather : Bool) : State :=
  let bs := bytesOf (memBytes width) (p.y.toNat + 2 ^ 64 * p.hi.toNat)
  let s := s.modWG w.wid (fun v => v.modThread p.req.tid (fun t => { t with slot := none }.acquires p.acq))
  s.arrive w.wid p.req.tid
    { pc := p.req.pc, d := p.req.d, vals := loadWords width sx bs, gather := gather, va := p.req.va,
      bad := if p.code ≠ 0 then some (p.req.pa / 128, p.detail) else none, pas := [p.req.pa] }

/-- REPLY: the oldest reply of a thread arrives, also while the thread is blocked or parked (R204). Log 8, DESIGN CHOICE. -/
def execReply (wid tid : Nat) (s : State) : Host.Outcome State Fault Refusal :=
  .next (match s.replies.find? (fun p => p.req.wid == wid && p.req.tid == tid) with
    | none => s
    | some p =>
      if !((s.wg? wid).map (fun w => s.clocked w.core)).getD true then s
      else
      let s : State := { s with replies := s.replies.erase p }
      match s.wg? wid with
      | none => s
      | some w => match w.threads[tid]? with
        | none => s
        | some t => match p.req.kind with
          | .atom _ | .lrcall => s.routineReply w t p
          | .lda width sx gather => s.ldaReply w p width sx gather
          | .waitv _ => match t.run with
            | .wait (.waitv z) => s.waitvReply w t p z
            | _ => s
          | .wake => s.modWG wid (fun v => v.modThread tid (fun t => { t with slot := none }))
          | .peer _ => s)

end Sys2Proof.Machine
end

