-- ==== Sys2Proof/Machine/Atomics.lean ====
section
/-! DEFINITION. The words that send requests to the sluices: ATOM, its scratchpad form, LRCALL, LDA, WAITV and WAKE, and the
words that define routines, LRDEF and LRDROP (R203 to R206, R229, R230, R300 to R305, R371, R377, R378, R427, R428). -/

namespace Sys2Proof.Machine

/-! ## Sending -/

/-- A lane's request, from its translation. -/
def Path.request (x : Path) (kind : ReqKind) (r : Nat) (opnds : List DWord) (d : Opnd) (va : Nat) (tr : Trans)
    (det : Bool) (ln : Lane) : Req :=
  { kind := kind, lid := x.l.lid, wid := x.w.wid, tid := ln.tid, core := x.w.core, ctx := x.ctx, key := tr.key, va := va,
    pa := tr.pa, r := r, opnds := opnds, d := d, pc := x.cur.pc, ordinal := 0, phc := ln.t.phc,
    detn := if det then ln.t.detc else 0, det := det, wgid := x.w.wgid, clk := ln.t.clock (x.uid ln), lvl := tr.lvl,
    ea := tr.ea, base := tr.base }

/-- A request leaves its core: to the reorder window for a DET page, else to its slice (R204, R213). Log 28, DEDUCED. -/
def State.dispatchReq (s : State) (r : Req) : State :=
  if r.det then s.modLaunch r.lid (fun l => { l with window := l.window ++ [r] }) else s.toSlice r

/-- The translation of an access that lies in one page. -/
def oneTrans (ts : List Trans) : Trans := ts.headD ⟨0, 0, 0, 0, 0, false, false, false, false, 0⟩

/-- The lanes of a word whose requests leave their core now, in order: one to a DET page while the launch's reorder window has room, or
where its own key is the frontier, since nothing could make room for it (R213). Log 28, DEDUCED. -/
def State.windowFit (s : State) (x : Path) : Nat → List (Lane × List Trans) → List (Lane × List Trans)
  | _, [] => []
  | room, a :: as =>
    if !(oneTrans a.2).det then a :: s.windowFit x room as
    else if room ≠ 0 then a :: s.windowFit x (room - 1) as
    else if s.frontierOf x.l = some (a.1.t.phc, x.w.wgid, a.1.tid, a.1.t.detc) then a :: s.windowFit x 0 as
    else s.windowFit x 0 as

/-- Requests with consecutive issue ordinals of their core (R74). -/
def State.sendAll (s : State) : List Req → State
  | [] => s
  | r :: rs =>
    let n := (s.view r.core r.lid).ordinal
    ((s.modView r.core r.lid (fun v => { v with ordinal := v.ordinal + 1 })).dispatchReq { r with ordinal := n }).sendAll rs

/-- The requests of a word sent, each lane's return slot taken, the path past the word (R204); a request to a DET page keeps
the workgroup from relaunch (R265). -/
def Path.send (x : Path) (s : State) (hd : Head) (h : SlotHold) (rs : List Req) : State :=
  (x.finish s hd.hold (fun _ => x.next)
    (fun ln t => match rs.find? (fun r => r.tid == ln.tid) with
      | some r => { t with slot := some h, detc := t.detc + bit1 r.det }
      | none => t)
    (fun g => if rs.any (fun r => r.det) then { g with noRelaunch := true } else g)).sendAll rs


/-- The requests of a word's lanes sent; a lane whose request would be beyond the 256 of the reorder window waits at the word, which has
issued for it as far as breakpoints go (R213). Log 28, DEDUCED. -/
def Path.sendFit (x : Path) (s : State) (hd : Head) (h : SlotHold) (req : Lane × List Trans → Req) (acc : List (Lane × List Trans)) : State :=
  let go := s.windowFit x (256 - x.l.window.length) acc
  let late := fun (tid : Nat) => acc.any (fun a => a.1.tid == tid) && !go.any (fun a => a.1.tid == tid)
  let y := { x with lanes := x.lanes.filter (fun ln => !late ln.tid) }
  let s := s.modWG x.w.wid (fun w => w.modThreads (fun i t => if late i then { t with skip := true } else t))
  if y.lanes.isEmpty then s else y.send s hd h (go.map req)

/-! ## ATOM -/

/-- OP and the built-in it selects, 12 and 13 running as 16 and 17 (R301, R302). -/
def atomNum (w : FWord) : Nat := FSpec w % 32
def atomRoutine (w : FWord) : Nat :=
  let op := atomNum w
  64 + (if op = 12 || op = 13 then op + 4 else op)

/-- The operands of a lane, read in TYPE (R301). -/
def atomOpnds (x : Path) (w : FWord) (ln : Lane) : List DWord :=
  ([w.b, w.c].take (atomCount (atomNum w))).map (fun o => BitVec.ofNat 64 (x.read ln w.ty o))

/-- The global form: one request for each executing lane (R302). Log 28, DEDUCED. -/
def execAtom (w : FWord) (s : State) : Host.Outcome State Fault Refusal :=
  s.word (.atom w) (fun _ => {}) (fun x s =>
    let n := widthOf w.ty / 8
    s.globalWord x (x.exec w.hd) (fun ln => x.pair ln w.a) n n true (atomNum w != 28) true true (fun x acc s =>
      x.sendFit s w.hd ⟨w.d, regsOf w.ty, atomNum w == 28⟩ (fun a =>
        let tr := oneTrans a.2
        x.request (.atom (is64 w.ty)) (atomRoutine w) (atomOpnds x w a.1) w.d (x.pair a.1 w.a) tr tr.det a.1) acc))

/-- One lane's read-modify-write of scratchpad bytes: the window after, and the lane's old value and flags (R303). Log 80, DEDUCED. -/
def scrAtomOne (x : Path) (w : FWord) (acc : WG × List (Lane × Nat × Nat)) (ln : Lane) : WG × List (Lane × Nat × Nat) :=
  let n := widthOf w.ty / 8
  let a := x.read32 ln w.a
  let old := natOfBytes (acc.1.win.getN 0 a n)
  let ops := atomOpnds x w ln
  let r := atomOp (atomNum w) old (ops.getD 0 0).toNat (ops.getD 1 0).toNat
  let bytes := (List.range n).map (a + ·)
  ({ acc.1 with
      win := SMap.putAll 0 acc.1.win a (bytesOf n r.1)
      wrel := bytes.foldl (fun m b => SMap.put [] m b (Clock.join (m.get [] b) ln.t.fvc)) acc.1.wrel },
    acc.2 ++ [(ln, old, r.2)])

/-- The scratchpad form: the lanes in ascending %lane, each reading what the lane before it left; the replies at once; it
counts as a load and a store (R182, R303). Log 80, DEDUCED. -/
def execAtomScr (w : FWord) (s : State) : Host.Outcome State Fault Refusal :=
  s.word (.atomScr w) (fun _ => {}) (fun x s =>
    let n := widthOf w.ty / 8
    let bytes := fun (ln : Lane) => (List.range n).map (x.read32 ln w.a + ·)
    s.scratchWord x w.hd (fun ln => scrFault x.window (bytes ln) (x.read32 ln w.a % n == 0) true) (fun ln => x.read32 ln w.a)
      bytes true true (fun x s =>
        let r := (x.exec w.hd).foldl (scrAtomOne x w) (x.w, [])
        let fl := r.2.foldl (fun f e => f ||| e.2.2) 0
        x.finish s w.hd.hold (fun _ => x.next)
          (fun ln t => match r.2.find? (fun e => e.1.tid == ln.tid) with
            | some e =>
              let t := { t with seq := t.seq + 2, acq := Clock.join t.acq (x.w.relOf (bytes ln)) }
              (t.replied w.d (wordsOf (regsOf w.ty) e.2.1)).knows x.w fl
            | none => t)
          (fun g => { g.orFlags fl with win := r.1.win, wrel := r.1.wrel })))

/-! ## LRCALL -/

/-- The routine number r and the operand count n (R203). -/
def lrNum (w : FWord) : Nat := bitsOf w.mods.toNat 0 7
def lrCount (w : FWord) : Nat :=
  match w.c with
  | .imm k => k.toNat - 16
  | _ => 0

/-- The operand block of a lane: n pairs from b on (R203). Log 27, DEDUCED. -/
def lrOpnds (x : Path) (w : FWord) (ln : Lane) : List DWord :=
  let z := readRegs x.old.s ln.t w.b (2 * lrCount w)
  (List.range (lrCount w)).map (fun i => BitVec.ofNat 64 (z / 2 ^ (64 * i)))

/-- The alignment of a routine's address: 4 bytes for a 32-bit built-in, else 8 (R203, R212). -/
def lrAlign (r : Nat) : Nat := if 64 ≤ r && atomIs32 (r - 64) then 4 else 8

/-- LRCALL sends one request for each executing lane (R204). A watchpoint takes its access to be the bytes of the operand that the alignment
names, at the request's address. Log 28, DEDUCED. Log 114, DESIGN CHOICE. -/
def execLrcall (w : FWord) (s : State) : Host.Outcome State Fault Refusal :=
  s.word (.lrcall w) (fun _ => {}) (fun x s =>
    let n := lrAlign (lrNum w)
    s.globalWord x (x.exec w.hd) (fun ln => x.pair ln w.a) n n true true true true (fun x acc s =>
      x.sendFit s w.hd ⟨w.d, 3, false⟩ (fun a =>
        let tr := oneTrans a.2
        x.request .lrcall (lrNum w) (lrOpnds x w a.1) w.d (x.pair a.1 w.a) tr tr.det a.1) acc))

/-! ## LDA -/

/-- LDA is checked as LD is, and reads M at the home slice; it takes no ordinal and no place in the reorder window (R74,
R371). -/
def execLda (w : MWord) (s : State) : Host.Outcome State Fault Refusal :=
  s.word (.lda w) (fun _ => {}) (fun x s =>
    let n := memBytes w.width.toNat
    s.globalWord x (x.exec w.hd) (x.memAddr w) n (globalAlign w.width.toNat) true false true false (fun x acc s =>
      let rs := acc.map (fun a =>
        x.request (.lda w.width.toNat w.sx (isS w.d)) 0 [] w.d (x.memAddr w a.1) (oneTrans a.2) false a.1)
      let s1 := x.finish s w.hd.hold (fun _ => x.next)
        (fun ln t => if rs.any (fun r => r.tid == ln.tid) then { t with slot := some ⟨w.d, memRegs w.width.toNat, true⟩ } else t)
        (fun v => if isS w.d && !acc.isEmpty then
          v.modGroup x.g.gid (fun g => { g with gathers := g.gathers ++ [⟨x.cur.pc, w.d, acc.map (fun a => a.1.tid), []⟩] })
          else v)
      rs.foldl State.dispatchReq s1))

/-! ## LRDEF, LRDROP -/

/-- The routine number of LRDEF and LRDROP, from the lowest executing lane (R205, R299). -/
def lrTarget (x : Path) (w : FWord) (ln : Lane) : Nat := x.read32 ln w.b

/-- The end of a definition: the path goes on, d takes the status (R205, R206, R377). -/
def Path.lrEnd (x : Path) (s : State) (w : FWord) (status : Nat) : State :=
  x.finish s w.hd.hold (fun _ => x.next) (fun _ t => t) (fun g => g.setS x.g.gid w.d [BitVec.ofNat 32 status])

/-- The table entry of a routine, for writing: its translation, without the W permission (R201). An absent table page holds the path at
the word, and a fatal cause raises class 9 with the entry's address. Log 99, DESIGN CHOICE. -/
def State.tableEntry (s : State) (x : Path) (hd : Head) (r : Nat) (act : Trans → State) : State :=
  let va := s.entryVa x.ctx r
  match s.checkPage x.ctx va true false false with
  | .cause c => if c = 3 then x.pageWait s .update (pageOf va) ((x.exec hd).map (fun ln => (ln, va)))
    else x.trap s 9 ((x.exec hd).map (fun ln => (ln, c, va, 0)))
  | .ok t => act t

/-- An entry written: the image's LEN, ANUM and words, VALID, and VER one more than before; every cached copy of it is dropped (R199,
R205, R206). The old entry's bytes are taken as they stand, also in a poisoned line. Log 26, DEDUCED. Log 99, DESIGN CHOICE. -/
def State.writeEntry (s : State) (ctx r : Nat) (t : Trans) (f : Nat → Nat) : State :=
  let old := natOfBytes (s.mem.readN t.key t.pa 128)
  ((s.setDgen ctx t).writeM ctx t.key (cellsAt t.pa (bytesOf 128 (f old)))).uncache (fun c => c.ctx == ctx && c.r == r)

/-- A header with VALID and VER set (R199). -/
def entryWith (e : Nat) (valid : Bool) (ver : Nat) : Nat := putBits (putBits e 8 1 (bit1 valid)) 16 16 ver

/-- What the executing lanes of a word have done so far, as one clock (R182, R299). -/
def Path.clocks (x : Path) (ls : List Lane) : Clock := ls.foldl (fun c ln => Clock.join c (ln.t.clock (x.uid ln))) []

/-- LRDEF: publish the image's line for every executing lane, read it from M, check it, write the entry (R205). -/
def execLrdef (w : FWord) (s : State) : Host.Outcome State Fault Refusal :=
  s.word (.lrdef w) (fun x => { uniform := [(1, fun ln => x.pair ln w.a), (2, lrTarget x w)] }) (fun x s =>
    match x.exec w.hd with
    | [] => s
    | ln :: rest =>
      let va := x.pair ln w.a
      match s.globalCheck x (ln :: rest) (fun _ => va) 128 128 true false with
      | .fault who => x.trap s 9 who
      | .page p who => x.pageWait s .load p who
      | .ok acc =>
        let tr := oneTrans ((acc.head?.map (fun a => a.2)).getD [])
        match s.poisoned tr.pa 128 with
        | some e => (x.trap s 22 ((ln :: rest).map (fun l => (l, 0, va, e.2)))).retirePage e.1
        | none =>
          let s := s.publishLine x.w.core (x.clocks (ln :: rest)) (tr.pa / 128)
          let e := s.lineOf tr.key tr.pa
          let r := lrTarget x w ln
          if 64 ≤ r then x.lrEnd s w 1
          else if imageStatus e ≠ 0 then x.lrEnd s w (imageStatus e)
          else s.tableEntry x w.hd r (fun t =>
            x.lrEnd (s.writeEntry x.ctx r t (fun old => entryWith e true ((slVer old + 1) % 2 ^ 16))) w 0))

/-- LRDROP clears VALID and increases VER (R206). -/
def execLrdrop (w : FWord) (s : State) : Host.Outcome State Fault Refusal :=
  s.word (.lrdrop w) (fun x => { uniform := [(2, lrTarget x w)] }) (fun x s =>
    match x.exec w.hd with
    | [] => s
    | ln :: _ =>
      let r := lrTarget x w ln
      if 64 ≤ r then x.lrEnd s w 1
      else s.tableEntry x w.hd r (fun t =>
        x.lrEnd (s.writeEntry x.ctx r t (fun old => entryWith old false ((slVer old + 1) % 2 ^ 16))) w 0))

/-! ## WAITV, WAKE -/

/-- WAITV: each executing lane sends its first read and blocks; the wait is a switch point (R46, R229, R428). -/
def execWaitv (w : FWord) (s : State) : Host.Outcome State Fault Refusal :=
  s.word (.waitv w) (fun _ => {}) (fun x s =>
    let n := widthOf w.ty / 8
    s.globalWord x (x.exec w.hd) (fun ln => x.pair ln w.a) n n true false true false (fun x acc s =>
      let tr := fun (ln : Lane) => oneTrans (((acc.find? (fun a => a.1.tid == ln.tid)).map (fun a => a.2)).getD [])
      let z := fun (ln : Lane) =>
        ({ va := x.pair ln w.a, pa := (tr ln).pa, key := (tr ln).key, w64 := is64 w.ty,
           cmp := BitVec.ofNat 64 (x.read ln w.ty w.b), d := w.d, start := s.ck, since := s.ck, interval := 0, mon := false,
           woken := false, reading := true, last := 0 } : WaitV)
      let s1 := x.block s w.hd (fun ln => .waitv (z ln))
      let s2 := s1.modWG x.w.wid (fun v => v.modThreads (fun i t =>
        if acc.any (fun a => a.1.tid == i) then { t with slot := some ⟨w.d, regsOf w.ty, true⟩ } else t))
      (acc.map (fun a => x.request (.waitv (is64 w.ty)) 0 [] w.d (x.pair a.1 w.a) (tr a.1) false a.1)).foldl
        State.dispatchReq s2))

/-- WAKE: each executing lane's request wakes the waiters of its line in its context (R230, R428). -/
def execWake (w : FWord) (s : State) : Host.Outcome State Fault Refusal :=
  s.word (.wake w) (fun _ => {}) (fun x s =>
    match s.globalCheck x (x.exec w.hd) (fun ln => x.pair ln w.a) 1 1 true false with
    | .fault who => x.trap s 9 who
    | .page p who => x.pageWait s .load p who
    | .ok acc =>
      (acc.map (fun a => x.request .wake 0 [] .none (x.pair a.1 w.a) (oneTrans a.2) false a.1)).foldl State.dispatchReq
        (x.finish s w.hd.hold (fun _ => x.next)
          (fun ln t => if acc.any (fun a => a.1.tid == ln.tid) then { t with slot := some ⟨.none, 0, false⟩ } else t) id))

end Sys2Proof.Machine
end

