-- ==== Sys2Proof/Machine/Barriers.lean ====
section
/-! DEFINITION. The barrier words, the test of a generation, poisoned objects, the barrier deadlock, and the cross-core barriers
(R47, R222 to R228, R306 to R308, R429, R430). -/

namespace Sys2Proof.Machine

/-! ## Arrivals -/

/-- The barrier number of a word in a lane (R306). -/
def barNum (x : Path) (w : FWord) (ln : Lane) : Nat := x.read32 ln w.a

/-- The checks of a barrier word: the number is uniform and below 1,024 (R306, R308). -/
def barChecks (w : FWord) (more : List (Nat × (Lane → Nat))) (x : Path) : Checks :=
  { lane := fun ln => if 1024 ≤ barNum x w ln then [14] else [], uniform := (1, barNum x w) :: more }

/-- One arrival (R223): CAND under R47; `fresh` says that no arrival of this ck stands before it. -/
def Bar.arrive (b : Bar) (det fresh : Bool) (tid : Nat) : Bar :=
  { b with
    arrived := b.arrived + 1
    cand := if det then (if b.arrived = 0 then tid else max b.cand tid)
            else if fresh then tid else max b.cand tid }

/-- The object as the ck found it (R224). Log 88, DEDUCED. -/
def Path.barBefore (x : Path) (s : State) (b : Nat) : Bar :=
  ((s.before.find? (fun w => w.wid == x.w.wid)).getD x.w).bar x.window b

/-- The arrivals of some lanes at a barrier, in order (R307). -/
def Bar.arriveAll (b : Bar) (det : Bool) (seen : Nat) : List Lane → Bar
  | [] => b
  | ln :: ls => (b.arrive det (b.arrived == seen) ln.tid).arriveAll det seen ls

/-- The cause of R223 that each arriving lane meets, 0 for none: no initialised object, or ARRIVED = EXPECT. Log 31, DEDUCED. -/
def arriveCauses (b : Bar) (ls : List Lane) : List (Lane × Nat) :=
  (ls.zipIdx).map (fun p => (p.1, if b.expect = 0 then 1 else if b.expect ≤ b.arrived + p.2 then 2 else 0))

/-- A barrier trap of some lanes (R223): class 13 with the barrier number. Log 31, DEDUCED. -/
def Path.barTrap (x : Path) (s : State) (b : Nat) (cs : List (Lane × Nat)) : Option State :=
  let bad := cs.filter (fun p => p.2 != 0)
  if bad.isEmpty then none else some (x.trap s 13 (bad.map (fun p => (p.1, p.2, 0, b))))

/-- The clocks of arrivals join those of the generation (R182). -/
def Path.joinArrivals (x : Path) (b : Nat) (ls : List Lane) (g : WG) : WG :=
  { g with bclk := SMap.put [] g.bclk b (ls.foldl (fun c ln => Clock.join c (ln.t.clock (x.uid ln))) (g.bclk.get [] b)) }

/-- The generation of a token. -/
def tokGen (tok : Nat) : Nat := tok % 2 ^ 22

/-- What BARWAIT gives a thread (R223). -/
def Bar.role? (b : Bar) (tid tok : Nat) : Nat :=
  bit1 (tid == b.role && tokGen tok == (b.gen + 2 ^ 22 - 1) % 2 ^ 22)

/-- The number of a completed generation in the clocks. -/
def genKey (b gen : Nat) : Nat := b * 2 ^ 22 + gen

/-- A thread past its barrier wait: d written, and what the generation's arrivals had done precedes (R182, R223). -/
def Thread.pastBar (t : Thread) (w : WG) (b : Nat) (o : Bar) (tid tok : Nat) (d : Opnd) : Thread :=
  let t := { t with vc := Clock.join t.vc (w.bdone.get [] (genKey b (tokGen tok))) }
  match d with
  | .v r => t.setV r.toNat [BitVec.ofNat 32 (o.role? tid tok)]
  | _ => t

/-- BARARV (R223, R307). -/
def execBararv (w : FWord) (s : State) : Host.Outcome State Fault Refusal :=
  s.word (.bararv w) (barChecks w []) (fun x s =>
    match x.exec w.hd with
    | [] => s
    | ln :: ls =>
      let b := barNum x w ln
      let o := x.w.bar x.window b
      match x.barTrap s b (arriveCauses o (ln :: ls)) with
      | some t => t
      | none =>
        (x.finish s w.hd.hold (fun _ => x.next)
          (fun l t => match w.d with
            | .v r => if l.t.executes w.hd then t.setV r.toNat [BitVec.ofNat 32 o.gen] else t
            | _ => t)
          (fun g => (x.joinArrivals b (ln :: ls) g).setBar x.window b
            (o.arriveAll x.l.isDet (x.barBefore s b).arrived (ln :: ls)))).owe (.bar x.w.wid b))

/-- A lane that an image put back at the wait part of its BAR or BARWAIT (R73, R307). -/
def Lane.again (l : Lane) : Bool := l.t.resumed.any (fun r => r.1 == 2)

/-- The token with which a lane of a BAR waits: GEN at its arrival, or GEN of the restored object (R307). -/
def Lane.barTok (l : Lane) (o : Bar) : Nat := if l.again then (l.t.resumed.map (fun r => r.2)).getD 0 else o.gen

/-- BAR (R223, R307): a poisoned object raises its trap before the arrival (R225, R308); then each lane arrives, but for a
lane that an image put back at its wait (R307), and blocks until its generation completes. A BAR whose arrival completes the
generation does not block, so the running group of a deterministic launch goes on (R46, R307). -/
def execBar (w : FWord) (s : State) : Host.Outcome State Fault Refusal :=
  s.word (.bar w) (barChecks w []) (fun x s =>
    match x.exec w.hd with
    | [] => s
    | ln :: ls =>
      let b := barNum x w ln
      let o := x.w.bar x.window b
      let new := (ln :: ls).filter (fun l => !l.again)
      if o.poison then x.trap s 14 ((ln :: ls).map (fun l => (l, 0, 0, b)))
      else match x.barTrap s b (arriveCauses o new ++ ((ln :: ls).filter Lane.again).map (fun l => (l, if o.expect = 0 then 1 else 0))) with
        | some t => t
        | none =>
          let o' := o.arriveAll x.l.isDet (x.barBefore s b).arrived new
          let waits := fun (l : Lane) => l.t.executes w.hd && o.gen == tokGen (l.barTok o)
          let s1 := s.modWG x.w.wid (fun g => (x.joinArrivals b new g).setBar x.window b o')
          let s2 := x.finish s1 w.hd.hold (fun l => if waits l then x.cur.pc else x.next)
            (fun l t => if l.t.executes w.hd && !waits l then t.pastBar x.w b o l.tid (l.barTok o) w.d else t) id
          let s3 := (((x.hold s2 ((ln :: ls).filter waits) (fun l => .bar b (l.barTok o) w.d)).switchPoint x).oweBlock x).owe (.bar x.w.wid b)
          if o'.arrived = o'.expect && o'.pend = 0 then
            s3.modCore x.w.core (fun c => { c with running := (s.core x.w.core).running })
          else s3)

/-- The token of a BARWAIT in a lane. -/
def barToken (x : Path) (w : FWord) (ln : Lane) : Nat := x.read32 ln w.b

/-- BARWAIT (R223, R307): lanes whose generation is over go on, the others block; it is a switch point (R308). -/
def execBarwait (w : FWord) (s : State) : Host.Outcome State Fault Refusal :=
  s.word (.barwait w) (barChecks w []) (fun x s =>
    match x.exec w.hd with
    | [] => s
    | ln :: ls =>
      let b := barNum x w ln
      let o := x.w.bar x.window b
      if o.poison then x.trap s 14 ((ln :: ls).map (fun l => (l, 0, 0, b)))
      else if o.expect = 0 then x.trap s 13 ((ln :: ls).map (fun l => (l, 1, 0, b)))
      else
        let waits := fun (l : Lane) => l.t.executes w.hd && o.gen == tokGen (barToken x w l)
        let s := x.finish s w.hd.hold (fun l => if waits l then x.cur.pc else x.next)
          (fun l t => if l.t.executes w.hd && !waits l then t.pastBar x.w b o l.tid (barToken x w l) w.d else t) id
        ((x.hold s ((ln :: ls).filter waits) (fun l => .bar b (barToken x w l) w.d)).switchPoint x).oweBlock x)

/-- BARTX (R223): a value that takes PEND above 2^55 - 1 is cause 4. -/
def execBartx (w : FWord) (s : State) : Host.Outcome State Fault Refusal :=
  s.word (.bartx w) (fun x => barChecks w [(2, fun ln => x.read32 ln w.b)] x) (fun x s =>
    match x.exec w.hd with
    | [] => s
    | ln :: ls =>
      let b := barNum x w ln
      let o := x.w.bar x.window b
      let p : Int := o.pend + (x.read32 ln w.b : Int)
      let c := if o.expect = 0 then 1 else if (2 : Int) ^ 55 ≤ p then 4 else 0
      match x.barTrap s b ((ln :: ls).map (fun l => (l, c))) with
      | some t => t
      | none =>
        (x.finish s w.hd.hold (fun _ => x.next) (fun _ t => t) (fun g => g.setBar x.window b { o with pend := p })).owe
          (.bar x.w.wid b))

/-- A thread blocked on a barrier object. -/
def Thread.onBar (t : Thread) (b : Nat) : Bool :=
  match t.run with
  | .wait (.bar c _ _) => c == b
  | _ => false

/-- BARINIT (R223, R225): cause 3 is tested against the object as the ck found it, and what the ck has already counted into the object
applies to the initialised one (R224). -/
def execBarinit (w : FWord) (s : State) : Host.Outcome State Fault Refusal :=
  s.word (.barinit w) (fun x => barChecks w [(2, fun ln => x.read32 ln w.b)] x) (fun x s =>
    match x.exec w.hd with
    | [] => s
    | ln :: ls =>
      let b := barNum x w ln
      let n := x.read32 ln w.b
      let old := x.barBefore s b
      let blocked := (((s.before.find? (fun v => v.wid == x.w.wid)).getD x.w).threads).any (fun t => t.onBar b)
      let c := if old.arrived ≠ 0 || old.pend ≠ 0 || blocked || n = 0 || x.l.hdr.n < n then 3 else 0
      match x.barTrap s b ((ln :: ls).map (fun l => (l, c))) with
      | some t => t
      | none =>
        (x.finish s w.hd.hold (fun _ => x.next) (fun _ t => t) (fun g =>
          let o := g.bar x.window b
          g.setBar x.window b { o with expect := n, arrived := o.arrived - old.arrived, cand := if o.arrived = 0 then 0 else o.cand,
                                       pend := o.pend - old.pend, poison := o.poison && !old.poison })).owe
          (.bar x.w.wid b))

/-! ## Completion -/

/-- The threads of a generation released (R223). -/
def WG.releaseBar (w : WG) (b : Nat) (o : Bar) (gen : Nat) : WG :=
  w.modThreads (fun i t =>
    match t.run with
    | .wait (.bar c tok d) => if c = b ∧ tokGen tok = gen then (t.pastBar w b o i tok d).release else t
    | _ => t)

/-- The test of a barrier object (R223, R224): where ARRIVED = EXPECT and PEND = 0 the generation completes; ROLE is given,
GEN advances, the waiters go on, and the core's snapshot takes the sectors that were counted in (R192). Log 31, DEDUCED. -/
def State.testBar (s : State) (wid b : Nat) : State :=
  match s.wg? wid with
  | none => s
  | some w =>
    let size := s.windowOf w
    let o := w.bar size b
    if o.expect = 0 || o.arrived ≠ o.expect || o.pend ≠ 0 then s
    else
      let new := { o with role := o.cand, arrived := 0, gen := (o.gen + 1) % 2 ^ 22 }
      let secs := w.bsec.get [] b
      let s := s.modWG wid (fun g =>
        let g := g.setBar size b new
        let g := { g with bdone := SMap.put [] g.bdone (genKey b o.gen) (g.bclk.get [] b),
                          bclk := SMap.put [] g.bclk b [], bsec := SMap.put [] g.bsec b [] }
        g.releaseBar b new o.gen)
      s.refreshSectors w.core secs

/-- Every thread of a workgroup has exited, with none in the pool. -/
def WG.allExited (w : WG) : Bool := w.threads.all (fun t => t.run == .exited)

/-- The poisoned-barrier trap of a workgroup whose threads have all exited (R225): attributed to lane 0 of the producer group at its
EXIT, with the barrier number. Log 109, DESIGN CHOICE. -/
def State.exitPoison (s : State) (wid sub : Nat) : State :=
  match s.wg? wid with
  | none => s
  | some w =>
    if !w.allExited then s
    else match w.poisonedBar (s.windowOf w) with
      | none => s
      | some b => s.raise w.lid w.core 2 sub [s.record w 14 0 true 0 0 0 (((w.threads[0]?).map (fun t => t.pc)).getD 0) 0 b]

/-- Poisons a barrier object; every thread blocked on it raises the poisoned-barrier trap, and so does a workgroup whose threads have
all exited (R221, R225). Log 109, DESIGN CHOICE. -/
def State.poisonBar (s : State) (wid b : Nat) : State :=
  match s.wg? wid with
  | none => s
  | some w =>
    let size := s.windowOf w
    let s := s.modWG wid (fun g => g.setBar size b { g.bar size b with poison := true })
    let who := w.threads.zipIdx.filter (fun p => p.1.onBar b)
    if who.isEmpty then s.exitPoison wid 8
    else s.raise w.lid w.core 2 8 (who.map (fun p => s.record w 14 0 true p.2 p.1.gid p.1.lane p.1.pc 0 b))

/-- A thread blocked at BAR, BARWAIT, KWAIT or CBACQ; a CBACQ whose buffer has filled slots is about to acquire (R146, R226). -/
def Thread.deadWait (w : WG) (t : Thread) : Bool :=
  match t.run with
  | .wait (.bar _ _ _) | .wait (.kwait _) => true
  | .wait (.cbuf n _) => (w.cb n).filled == 0
  | _ => false

/-- Whether a workgroup is in barrier deadlock (R226). -/
def WG.deadlocked (w : WG) : Bool :=
  w.threads.any (fun t => t.run != .exited) && w.threads.all (fun t => t.run == .exited || t.deadWait w)
    && w.queues.all (fun q => q.all (fun c => c.cmd == 0 || c.done)) && !w.groups.any (fun g => g.parked)

/-- BARRIER_DEADLOCK, tested in the ck after the condition holds: the trap names the waiting thread with the lowest %tid; the rejoin deadlock takes precedence (R226).
Log 109, DESIGN CHOICE. -/
def execBarrierDeadlock (wid : Nat) (s : State) : Host.Outcome State Fault Refusal :=
  .next (match s.wg? wid with
    | none => s
    | some w =>
      if w.deadlocked && ((s.launch? w.lid).map (fun l => l.runs)).getD false then
        match w.threads.zipIdx.find? (fun p => p.1.run != .exited) with
        | none => s
        | some p => s.raise w.lid w.core 2 8 [s.record w 15 0 true p.2 p.1.gid p.1.lane p.1.pc 0 0]
      else s)

/-! ## Cross-core barriers -/

/-- A cross-core barrier at launch (R227). -/
def XBar.reset : XBar := ⟨0, BitVec.allOnes 256, none, 0, 0, none⟩

/-- Barrier x of a launch. -/
def Launch.xbar (l : Launch) (x : Nat) : XBar := l.xbars.getD x XBar.reset

def Launch.setXbar (l : Launch) (x : Nat) (b : XBar) : Launch :=
  { l with xbars := ((List.range 16).map l.xbar).mapIdx (fun i c => if i = x then b else c) }

/-- The number of a logical core as %ncore gives it. -/
def Path.ncore (x : Path) : Nat := x.w.core % 256

/-- The highest and the lowest member of a set of logical cores. -/
def highBit (m : BitVec 256) : Nat := ((setBits 256 m.toNat).getLast?).getD 0
def lowBit (m : BitVec 256) : Nat := ((setBits 256 m.toNat).head?).getD 0

/-- The core that has the role among the last arrivals: of several in one ck the highest (R47, R228). Log 32, DEDUCED. -/
def XBar.latest (b : XBar) (now core : Nat) : Nat :=
  match b.last with
  | some e => if e.1 = now then max e.2 core else core
  | none => core

/-- An arrival of a logical core, with the completion of the generation where ARRIVED = MEMBER (R47, R228). Log 32, DEDUCED. -/
def XBar.arrive (b : XBar) (det : Bool) (now core : Nat) : XBar :=
  let a := b.arrived ||| BitVec.ofNat 256 (2 ^ core)
  if a = b.member then
    { gen := (b.gen + 1) % 2 ^ 22, member := b.next.getD b.member, next := none, arrived := 0,
      role := if det then highBit a else b.latest now core, last := none }
  else { b with arrived := a, last := some (now, b.latest now core) }

/-- The checks of a cross-core word: the number is uniform (R429). -/
def xbarChecks (w : FWord) (more : List (Nat × (Lane → Nat))) (x : Path) : Checks :=
  { lane := fun ln => if 16 ≤ barNum x w ln then [14] else [], uniform := (1, barNum x w) :: more }

/-- XBARV: the logical core arrives (R228, R430); the workgroup is no longer fit for a relaunch (R265). Log 32, DEDUCED. -/
def execXbarv (w : FWord) (s : State) : Host.Outcome State Fault Refusal :=
  s.word (.xbarv w) (xbarChecks w []) (fun x s =>
    match x.exec w.hd with
    | [] => s
    | ln :: ls =>
      let n := barNum x w ln
      let b := x.l.xbar n
      let c := if !b.member.getLsbD x.ncore then 5 else if b.arrived.getLsbD x.ncore then 6 else 0
      match x.barTrap s n ((ln :: ls).map (fun l => (l, c))) with
      | some t => t
      | none =>
        (x.finish s w.hd.hold (fun _ => x.next) (fun _ t => t)
          (fun g => { g.setS x.g.gid w.d [BitVec.ofNat 32 b.gen] with noRelaunch := true })).modLaunch x.l.lid
            (fun l => l.setXbar n (b.arrive x.l.isDet s.ck x.ncore)))

/-- What XBWAIT gives (R228). -/
def XBar.role? (b : XBar) (core tok : Nat) : Nat :=
  bit1 (core == b.role && tokGen tok == (b.gen + 2 ^ 22 - 1) % 2 ^ 22)

/-- A result of a cross-core wait, to a v register of a thread. -/
def Thread.xresult (t : Thread) (d : Opnd) (r : Nat) : Thread :=
  match d with
  | .v v => t.setV v.toNat [BitVec.ofNat 32 r]
  | _ => t

/-- XBWAIT blocks the path while its generation runs (R228, R430). It passes on no knowledge of flags (R132). Log 19, DEDUCED. -/
def execXbwait (w : FWord) (s : State) : Host.Outcome State Fault Refusal :=
  s.word (.xbwait w) (fun x => xbarChecks w [(2, fun ln => x.read32 ln w.b)] x) (fun x s =>
    match x.exec w.hd with
    | [] => s
    | ln :: _ =>
      let n := barNum x w ln
      let b := x.l.xbar n
      let tok := x.read32 ln w.b
      if b.gen = tokGen tok then x.block s w.hd (fun _ => .xbar n tok w.d)
      else
        let r := b.role? x.ncore tok
        (x.finish s w.hd.hold (fun _ => x.next) (fun l t => if l.t.executes w.hd then t.xresult w.d r else t)
          (fun g => g.setS x.g.gid w.d [BitVec.ofNat 32 r])).switchPoint x)

/-- XBSET reads a set of logical cores from the scratchpad: NEXT, or MEMBER at once where none has arrived (R228, R429). -/
def execXbset (w : FWord) (s : State) : Host.Outcome State Fault Refusal :=
  s.word (.xbset w) (fun x => xbarChecks w [(2, fun ln => x.read32 ln w.b)] x) (fun x s =>
    match x.exec w.hd with
    | [] => s
    | ln :: ls =>
      let n := barNum x w ln
      let b := x.l.xbar n
      let a := x.read32 ln w.b
      let bytes := (List.range 32).map (a + ·)
      match scrTrap x s (fun _ => scrFault x.window bytes (a % 32 == 0) false) (fun _ => a) (ln :: ls) with
      | some t => t
      | none =>
        let m : BitVec 256 := BitVec.ofNat 256 (natOfBytes (x.w.win.getN 0 a 32))
        let c := if m = 0 || lowBit b.member ≠ x.ncore then 7 else 0
        match x.barTrap s n ((ln :: ls).map (fun l => (l, c))) with
        | some t => t
        | none =>
          (x.advance s w.hd.hold).modLaunch x.l.lid (fun l =>
            l.setXbar n (if b.arrived = 0 then { b with member := m, next := none } else { b with next := some m })))

/-- The groups with a thread that waits for a generation of barrier x that is over, with their tokens and destinations. -/
def WG.xreleased (w : WG) (x gen : Nat) : List (Nat × Nat × Opnd) :=
  w.threads.filterMap (fun t => match t.run with
    | .wait (.xbar y tok d) => if y = x ∧ tokGen tok ≠ gen then some (t.gid, tok, d) else none
    | _ => none)

/-- XBAR_RELEASE: the release reaches a logical core; its waiting threads go on (R228), none under a thermal halt (R296). Log 32, DEDUCED. -/
def execXbarRelease (lid x core : Nat) (s : State) : Host.Outcome State Fault Refusal :=
  .next (match s.launch? lid with
    | none => s
    | some l =>
      if s.lodge.therm then s
      else
      let b := l.xbar x
      let free := fun (w : WG) =>
        let w := (w.xreleased x b.gen).foldl (fun (g : WG) e => g.setS e.1 e.2.2 [BitVec.ofNat 32 (b.role? (w.core % 256) e.2.1)]) w
        w.modThreads (fun _ t => match t.run with
          | .wait (.xbar y tok d) =>
            if y = x ∧ tokGen tok ≠ b.gen then (t.xresult d (b.role? (w.core % 256) tok)).release else t
          | _ => t)
      let wgs : List WG := s.wgs.map (fun w => if w.lid = lid ∧ w.core % 256 = core then free w else w)
      { s with wgs := wgs })

end Sys2Proof.Machine
end

