-- ==== Sys2Proof/Machine/Keccak.lean ====
section
/-! DEFINITION. SHA3-256 and SHA3-512, which the spec names for digests (R70, R249, R291 to R294), and SHAKE128 and SHAKE256, which
ML-KEM and ML-DSA use; the functions are those of FIPS 202. -/

namespace Sys2Proof.Machine

/-- Rotation offsets of the 25 lanes, lane x + 5y. -/
def keccakRot : List Nat :=
  [0, 1, 62, 28, 27, 36, 44, 6, 55, 20, 3, 10, 43, 25, 39, 41, 45, 15, 21, 8, 18, 2, 61, 56, 14]

/-- The round constants. -/
def keccakRc : List DWord :=
  [0x0000000000000001#64, 0x0000000000008082#64, 0x800000000000808A#64, 0x8000000080008000#64, 0x000000000000808B#64,
   0x0000000080000001#64, 0x8000000080008081#64, 0x8000000000008009#64, 0x000000000000008A#64, 0x0000000000000088#64,
   0x0000000080008009#64, 0x000000008000000A#64, 0x000000008000808B#64, 0x800000000000008B#64, 0x8000000000008089#64,
   0x8000000000008003#64, 0x8000000000008002#64, 0x8000000000000080#64, 0x000000000000800A#64, 0x800000008000000A#64,
   0x8000000080008081#64, 0x8000000000008080#64, 0x0000000080000001#64, 0x8000000080008008#64]

/-- Lane x + 5y of a state. -/
def laneAt (a : List DWord) (x y : Nat) : DWord := a.getD (x % 5 + 5 * (y % 5)) 0

/-- One round. -/
def keccakRound (a : List DWord) (rc : DWord) : List DWord :=
  let c := (List.range 5).map (fun x =>
    laneAt a x 0 ^^^ laneAt a x 1 ^^^ laneAt a x 2 ^^^ laneAt a x 3 ^^^ laneAt a x 4)
  let d := (List.range 5).map (fun x => c.getD ((x + 4) % 5) 0 ^^^ (c.getD ((x + 1) % 5) 0).rotateLeft 1)
  let t := (List.range 25).map (fun i => a.getD i 0 ^^^ d.getD (i % 5) 0)
  -- rho and pi: B[y, 2x + 3y] := rot(A[x, y])
  let b := (List.range 25).map (fun i =>
    let x' := i % 5
    let y' := i / 5
    let x := (x' + 3 * y') % 5
    let y := x'
    (laneAt t x y).rotateLeft (keccakRot.getD (x + 5 * y) 0))
  (List.range 25).map (fun i =>
    let x := i % 5
    let y := i / 5
    (laneAt b x y ^^^ (~~~ laneAt b (x + 1) y &&& laneAt b (x + 2) y)) ^^^ (if i = 0 then rc else 0))

/-- Keccak-f[1600]. -/
def keccakF (a : List DWord) : List DWord := keccakRc.foldl keccakRound a

/-- Eight bytes as a lane. -/
def laneOf (bs : List Byte) : DWord := BitVec.ofNat 64 (natOfBytes bs)

/-- Absorbs whole blocks of `rate` bytes; `fuel` bounds their number. -/
def absorb (rate : Nat) : Nat → List DWord → List Byte → List DWord
  | 0, a, _ => a
  | n + 1, a, bs =>
    if bs.isEmpty then a
    else
      let blk := bs.take rate
      let a := (List.range 25).map (fun i => a.getD i 0 ^^^ laneOf ((blk.drop (8 * i)).take 8))
      absorb rate n (keccakF a) (bs.drop rate)

/-- The padded message: the first byte with the domain bits, zeros, and 0x80 in the last byte of the block. -/
def padKeccak (dom : Byte) (rate : Nat) (bs : List Byte) : List Byte :=
  let n := rate - bs.length % rate
  if n = 1 then bs ++ [dom ||| 0x80#8] else bs ++ [dom] ++ List.replicate (n - 2) 0 ++ [0x80#8]

/-- The state after a padded message. -/
def sponge (dom : Byte) (rate : Nat) (bs : List Byte) : List DWord :=
  let m := padKeccak dom rate bs
  absorb rate (m.length / rate + 1) (List.replicate 25 0) m

/-- The first n bytes of the digest. -/
def sha3 (rate n : Nat) (bs : List Byte) : List Byte :=
  ((sponge 0x06#8 rate bs).flatMap (fun l => bytesOf 8 l.toNat)).take n

/-- n blocks squeezed out of a state. -/
def squeeze (rate : Nat) : Nat → List DWord → List Byte
  | 0, _ => []
  | n + 1, a => (a.flatMap (fun l => bytesOf 8 l.toNat)).take rate ++ squeeze rate n (keccakF a)

/-- n bytes of SHAKE128. Log 115, PRESUMED. -/
def shake128 (n : Nat) (bs : List Byte) : List Byte := (squeeze 168 ((n + 167) / 168) (sponge 0x1F#8 168 bs)).take n

/-- n bytes of SHAKE256. Log 115, PRESUMED. -/
def shake256 (n : Nat) (bs : List Byte) : List Byte := (squeeze 136 ((n + 135) / 136) (sponge 0x1F#8 136 bs)).take n

/-- SHA3-256, as the 32 bytes of the digest. Log 89, PRESUMED. -/
def sha3Bytes (bs : List Byte) : List Byte := sha3 136 32 bs

/-- SHA3-256 as a number, byte 0 lowest. Log 89, PRESUMED. -/
def sha3d (bs : List Byte) : BitVec 256 := BitVec.ofNat 256 (natOfBytes (sha3Bytes bs))

/-- SHA3-512, as the 64 bytes of the digest. -/
def sha3w (bs : List Byte) : List Byte := sha3 72 64 bs

end Sys2Proof.Machine
end

