-- ==== Sys2Proof/Machine/CopyData.lean ====
section
/-! DEFINITION. The copy descriptor, the elements of a command, its destination sectors and the bytes that it writes in one
sector (R17, R81, R121, R217 to R219, R232). -/

namespace Sys2Proof.Machine

/-! ## The descriptor -/

/-- The 256 bits of a copy descriptor (R217). -/
def descNum (ws : List Word) : Nat := numOf ws

def dGbase (d : Nat) : Nat := bitsOf d 0 56
def dGpitch (d : Nat) : Nat := bitsOf d 64 32
def dGrows (d : Nat) : Nat := bitsOf d 96 16
def dGcols (d : Nat) : Nat := bitsOf d 112 16
def dOrg (d : Nat) : Nat := bitsOf d 128 32
def dY0 (d : Nat) : Int := signedOf 16 (bitsOf d 128 16)
def dX0 (d : Nat) : Int := signedOf 16 (bitsOf d 144 16)
/-- Rows and columns of the tile. -/
def dRows (d : Nat) : Nat := bitsOf d 160 8 + 1
def dCols (d : Nat) : Nat := bitsOf d 168 12 + 1
def dStype (d : Nat) : Ty := tyOfCode (BitVec.ofNat 5 (bitsOf d 180 5))
def dDtype (d : Nat) : Ty := tyOfCode (BitVec.ofNat 5 (bitsOf d 185 5))
def dSat (d : Nat) : Bool := bitOf d 190
def dSaddr (d : Nat) : Nat := bitsOf d 192 21
def dCben (d : Nat) : Bool := bitOf d 213
def dCbuf (d : Nat) : Nat := bitsOf d 214 4
def dSpitch (d : Nat) : Nat := bitsOf d 224 16
def dBarn (d : Nat) : Nat := bitsOf d 240 10
def dBen (d : Nat) : Bool := bitOf d 250
def dMode (d : Nat) : Nat := bitsOf d 251 2
/-- The scratchpad address of an index or page list, OP and TAG of a domain reduction (R218). -/
def dIndex (d : Nat) : Nat := bitsOf d 128 21
def dOp (d : Nat) : Nat := bitsOf d 128 4
def dTag (d : Nat) : Nat := bitsOf d 144 16

/-- Size of an element in bytes. -/
def sizeOf' (t : Ty) : Nat := widthOf t / 8

/-- The types that STYPE and DTYPE name (R217). -/
def copyTypes : List Ty :=
  [.n8, .n16, .n32, .n64, .i8, .i16, .i32, .i64, .b32, .b64, .h16, .bf16, .f32, .f64, .e4m3, .e5m2]

/-- Whether OP and type form a domain reduction (R232). -/
def domainOp (op : Nat) (t : Ty) : Bool :=
  if op ≤ 2 then floatTypes.contains t else if op ≤ 5 then intTypes.contains t else false

/-- The reserved fields and limits common to every command (R217). -/
def descBad (cbufs d : Nat) : Bool :=
  bitsOf d 56 8 != 0 || bitOf d 191 || bitsOf d 218 6 != 0 || bitsOf d 253 3 != 0
  || (if dCben d then cbufs ≤ dCbuf d else dCbuf d != 0)
  || !copyTypes.contains (dStype d) || !copyTypes.contains (dDtype d)
  || (dStype d != dDtype d && (isBit (dStype d) || isBit (dDtype d)))

/-- A gather or scatter list: ORG[159:149] zero, the address aligned (R218). -/
def listBad (d align : Nat) : Bool := bitsOf d 149 11 != 0 || dIndex d % align != 0

/-- What the mode of a command asks of its descriptor besides (R218). -/
def modeBad (cmd d : Nat) : Bool :=
  match cmd, dMode d with
  | 2, 2 => dRows d != 1 || dStype d != dDtype d || bitsOf d 132 12 != 0 || !domainOp (dOp d) (dDtype d)
      || 4096 < dCols d * sizeOf' (dDtype d)
  | 3, 0 | 4, 0 => listBad d 4
  | 3, 1 => listBad d 8 || dGbase d % 64 != 0 || dGpitch d != 0 || dGrows d != 0 || dGcols d != 0 || bitsOf d 168 12 != 0
      || bitsOf d 180 10 != 0 || dSaddr d != 0 || dSpitch d != 0 || dCben d || dCbuf d != 0
  | 5, 0 => dStype d != dDtype d
  | 5, 1 => dStype d != dDtype d || dGbase d != 0 || dGpitch d != 0 || dGrows d != 0 || dGcols d != 0 || dOrg d != 0
  | _, _ => false

/-! ## Elements -/

/-- Where an element's bytes come from. -/
inductive CSrc where
  | zero
  | glob (va : Nat)
  | scr (a : Nat)
  | pat
  /-- element i of a domain reduction, the member's own at an address of the window -/
  | reduce (i a : Nat)
  /-- a manifest entry for a page -/
  | manifest (page : Nat)
  deriving DecidableEq, Repr

/-- An element: its source and its destination, n bytes from `dst` on. -/
structure CElem where
  src : CSrc
  dst : Nat
  n : Nat
  deriving DecidableEq, Repr

/-- Whether the destination of a command is global memory (R218). -/
def destGlobal (cmd mode : Nat) : Bool :=
  match cmd with
  | 1 => false
  | 2 | 4 => true
  | 3 => mode == 1
  | _ => mode == 0

/-- The first scratchpad byte of the tile, D0, for a slot (R218). -/
def dD0 (d slot : Nat) : Nat := dSaddr d + (if dCben d then slot * dSpitch d * dRows d else 0)

/-- Element (r, c) at the scratchpad. -/
def scrAt (d slot size r c : Nat) : Nat := dD0 d slot + r * dSpitch d + c * size

/-- Global row gy and column gx, where they lie inside (R218). Log 36, DEDUCED. -/
def insideAt (d r c : Nat) : Option (Nat × Nat) :=
  let gy := dY0 d + (r : Int)
  let gx := dX0 d + (c : Int)
  if 0 ≤ gy ∧ gy < (dGrows d : Int) ∧ 0 ≤ gx ∧ gx < (dGcols d : Int) then some (gy.toNat, gx.toNat) else none

def globAt (d size gy gx : Nat) : Nat := dGbase d + gy * dGpitch d + gx * size

/-- Row r of an index list, where row and column lie inside (R218). -/
def indexAt (d : Nat) (idx : List Nat) (r c : Nat) : Option (Nat × Nat) :=
  let i := idx.getD r 0
  if i < dGrows d && c < dGcols d then some (i, c) else none

/-- Element (r, c) of a command, where it writes one (R218). Log 36, DEDUCED. -/
def elemAt (cmd d slot : Nat) (idx : List Nat) (r c : Nat) : Option CElem :=
  let ss := sizeOf' (dStype d)
  let ds := sizeOf' (dDtype d)
  match cmd, dMode d with
  | 1, _ => some ⟨match insideAt d r c with | some g => .glob (globAt d ss g.1 g.2) | none => .zero, scrAt d slot ds r c, ds⟩
  | 2, 2 => some ⟨.reduce c (scrAt d slot ds 0 c), dGbase d + c * ds, ds⟩
  | 2, _ => (insideAt d r c).map (fun g => ⟨.scr (scrAt d slot ss r c), globAt d ds g.1 g.2, ds⟩)
  | 3, 1 => if c = 0 then some ⟨.manifest (idx.getD r 0), dGbase d + 64 * r, 64⟩ else none
  | 3, _ => some ⟨match indexAt d idx r c with | some g => .glob (globAt d ss g.1 g.2) | none => .zero, scrAt d slot ds r c, ds⟩
  | 4, _ => (indexAt d idx r c).map (fun g => ⟨.scr (scrAt d slot ss r c), globAt d ds g.1 g.2, ds⟩)
  | 5, 0 => (insideAt d r c).map (fun g => ⟨.pat, globAt d ds g.1 g.2, ds⟩)
  | 5, _ => some ⟨.pat, scrAt d slot ds r c, ds⟩
  | _, _ => none

/-- The elements of a command in the listing of R219: r ascending, then c. -/
def elemsOf (cmd d slot : Nat) (idx : List Nat) : List CElem :=
  (List.range (dRows d)).flatMap (fun r => (List.range (dCols d)).filterMap (elemAt cmd d slot idx r))

/-- The aligned pieces of a size that n bytes from an address lie in. -/
def piecesOf (size a n : Nat) : List Nat := (List.range ((a + n - 1) / size + 1 - a / size)).map (a / size + ·)

/-- The 32-byte sectors of an element. -/
def CElem.sectors (e : CElem) : List Nat := piecesOf 32 e.dst e.n

/-- The destination sector order: sectors as they first appear (R219). -/
def sectorsOf (es : List CElem) : List Nat := (es.flatMap CElem.sectors).eraseDups

/-- The elements that write in a sector. -/
def inSector (sec : Nat) (es : List CElem) : List CElem := es.filter (fun e => e.sectors.contains sec)

/-! ## Scratchpad ranges at issue -/

/-- The last tile row and column that a command touches at the scratchpad side: for tile modes that skip outside elements,
of those inside (R218, R318). -/
def lastInside (d : Nat) : Option (Nat × Nat) :=
  let rs := (List.range (dRows d)).filter (fun (r : Nat) => 0 ≤ dY0 d + (r : Int) && dY0 d + (r : Int) < (dGrows d : Int))
  let cs := (List.range (dCols d)).filter (fun (c : Nat) => 0 ≤ dX0 d + (c : Int) && dX0 d + (c : Int) < (dGcols d : Int))
  match rs.getLast?, cs.getLast? with
  | some r, some c => some (r, c)
  | _, _ => none

/-- The last tile row and column that a scatter can read: no column at or above GCOLS, and nothing where every index drops its row
(R218). Log 36, DEDUCED. -/
def lastScattered (d : Nat) : Option (Nat × Nat) :=
  if dGrows d = 0 || dGcols d = 0 then none else some (dRows d - 1, min (dCols d) (dGcols d) - 1)

/-- The last scratchpad byte of the tile that the command can read or write, if any, over every slot it can take. -/
def tileLast (cmd d slots : Nat) : Option Nat :=
  let size := sizeOf' (if cmd = 2 || cmd = 4 then dStype d else dDtype d)
  let all := (dRows d - 1, dCols d - 1)
  let rc : Option (Nat × Nat) := match cmd, dMode d with
    | 2, 2 => some all
    | 2, _ => lastInside d
    | 4, _ => lastScattered d
    | 3, 1 | 5, 0 => none
    | _, _ => some all
  rc.map (fun p => scrAt d (if dCben d then slots - 1 else 0) size p.1 p.2 + size - 1)

/-- The last byte of the index or page list. -/
def listLast (cmd d : Nat) : Option Nat :=
  match cmd, dMode d with
  | 3, 1 => some (dIndex d + 8 * dRows d - 1)
  | 3, _ | 4, _ => some (dIndex d + 4 * dRows d - 1)
  | _, _ => none

/-- Whether the command writes the scratchpad. -/
def writesScr (cmd d : Nat) : Bool := !destGlobal cmd (dMode d)

/-- The scratchpad fault at issue: the cause, the first byte that the command may not touch, and the last that it touches (R144, R216,
R318). Log 36, DEDUCED. -/
def copyScrFault (size cmd d slots : Nat) : Option (Nat × Nat × Nat) :=
  let tile := tileLast cmd d slots
  let out := fun (o : Option Nat) => o.filter (fun b => size ≤ b)
  match out tile, out (listLast cmd d) with
  | some b, _ => some (1, size, b)
  | none, some b => some (1, size, b)
  | none, none =>
    if writesScr cmd d then (tile.filter (fun b => bermOf size ≤ b)).map (fun b => (3, bermOf size, b)) else none

/-! ## Global ranges at issue -/

/-- The index or page list of a command as the window holds it (R218). Log 40, DEDUCED. -/
def readList (win : SMap Byte) (cmd d : Nat) : List Nat :=
  match cmd, dMode d with
  | 3, 1 => (List.range (dRows d)).map (fun r => natOfBytes (win.getN 0 (dIndex d + 8 * r) 8))
  | 3, _ | 4, _ => (List.range (dRows d)).map (fun r => natOfBytes (win.getN 0 (dIndex d + 4 * r) 4))
  | _, _ => []

/-- The global bytes that the elements read and write, as runs; a page of a digest whose address is not aligned is a fatal cause where
the command reaches it, and no run (R194, R218). Log 35, DEDUCED. -/
def readRuns (d : Nat) (es : List CElem) : List (Nat × Nat) :=
  es.filterMap (fun e => match e.src with
    | .glob va => some (va, sizeOf' (dStype d))
    | .manifest p => if p % 65536 = 0 then some (p, 65536) else none
    | _ => none)

def writeRuns (cmd d : Nat) (es : List CElem) : List (Nat × Nat) :=
  if destGlobal cmd (dMode d) then es.map (fun e => (e.dst, e.n)) else []

/-- Whether two runs of bytes meet. -/
def runsMeet (a b : List (Nat × Nat)) : Bool := a.any (fun x => b.any (fun y => x.1 < y.1 + y.2 && y.1 < x.1 + x.2))

/-! ## The bytes of a sector -/

/-- What reading the sources of a sector comes to. -/
inductive CRead where
  | ok (bytes : List Byte) (fl : Nat)
  | page (p va : Nat)
  | cause (c va : Nat)
  | poison (line seq : Nat)

/-- Converts one element, raw where the types are equal (R121, R217). -/
def copyConvert (d x : Nat) : Nat × Nat :=
  if dStype d = dDtype d then (x, 0) else convert false (dDtype d) (dStype d) .rn (dSat d) false x

/-- A global read of n bytes in a context (R173, R192). -/
def State.copyLoad (s : State) (ctx va n : Nat) : CRead :=
  match s.access ctx va n 1 true false false with
  | .error c => if c = 3 then .page (s.faultPage ctx va n) va else .cause c va
  | .ok ts =>
    let pas := placeBytes va n ts
    match pas.findSome? (fun p => s.poisoned p.1 1) with
    | some e => .poison e.1 e.2
    | none => .ok (pas.map (fun p => s.mem.read p.2 p.1)) 0

/-- The members of the domain set (R232, R285). -/
def State.domainSet (s : State) : List Nat :=
  (s.domain.filter (fun e => e.2.getLsbD 0 && e.2.getLsbD 1)).map (·.1)

/-- The contributions of the other members under a tag. Log 39, DESIGN CHOICE. -/
def State.contributions (s : State) (tag : Nat) : List Contribution :=
  ((s.reductions.find? (fun r => r.tag == tag)).map (fun r => r.contribs)).getD []

/-- The Combine of a domain reduction (R232). Log 39, DESIGN CHOICE. -/
def domainCombine (op : Nat) (t : Ty) (x y : Nat) : Nat × Nat :=
  if op = 0 || op = 3 then combineOp 0 t .rn false false x y
  else if op = 1 || op = 4 then combineOp 1 t .rn false false x y
  else combineOp 2 t .rn false false x y

/-- Element i of a domain reduction, of which this member gives `own`: the tree over the D members in ascending order of their domain
numbers, with 2^⌈log2 D⌉ leaves, absent ones passed over (R17, R128, R232). Log 39, DESIGN CHOICE. -/
def State.reduceElem (s : State) (d own i : Nat) : Nat × Nat :=
  let t := dDtype d
  let cs := s.contributions (dTag d)
  let members := unionSet [s.lodge.domain] s.domainSet
  let levels := ((List.range 9).find? (fun k => members.length ≤ 2 ^ k)).getD 8
  let leaf := fun (n : Nat) => if n = s.lodge.domain then some (own, 0)
    else (cs.find? (fun c => c.device == n)).map (fun c => ((c.elems.getD i 0).toNat, 0))
  ((treeOf (domainCombine (dOp d) t) levels ((List.range (2 ^ levels)).map (fun k => (members[k]?).bind leaf))).getD (own, 0))

/-- The manifest entry of a page (R81, R218): its address, the DGEN of its leaf entry, the digest of its 64 KiB. -/
def State.manifestOf (s : State) (ctx page : Nat) : CRead :=
  if page % 65536 ≠ 0 then .cause 1 page
  else match s.checkPage ctx page true false false with
    | .cause c => if c = 3 then .page (pageOf page) page else .cause c page
    | .ok t =>
      match s.poisoned t.pa 65536 with
      | some e => .poison e.1 e.2
      | none => .ok (bytesOf 8 page ++ bytesOf 8 t.dgen ++ sha3Bytes (s.mem.readN t.key t.pa 65536) ++ bytesOf 16 0) 0

/-! Each sector of global memory, each 64-byte unit of the window and each page of a manifest is read once in a command, so that the
command reads it wholly old or wholly new (R137, R194). -/

/-- The places that a source of n bytes lies in: sectors, units of the window, a page. -/
def CSrc.places (n : Nat) : CSrc → List Nat
  | .glob va => (piecesOf 32 va n).map (3 * ·)
  | .scr a | .reduce _ a => (piecesOf 64 a n).map (3 * · + 1)
  | .manifest p => [3 * p + 2]
  | .zero | .pat => []

/-- What a place holds now; nothing where the context may not read it. -/
def State.placeNow (s : State) (win : SMap Byte) (ctx k : Nat) : List Byte :=
  match k % 3 with
  | 0 => match s.checkPage ctx (32 * (k / 3)) true false false with
    | .ok t => s.mem.readN t.key t.pa 32
    | .cause _ => []
  | 1 => win.getN 0 (64 * (k / 3)) 64
  | _ => match s.manifestOf ctx (k / 3) with
    | .ok bs _ => bs
    | _ => []

/-- An address in each line of M that a place lies in, with the key it is read under; none where the context may not read it, or for the
window. -/
def State.placeLines (s : State) (ctx k : Nat) : List (Nat × Nat) :=
  let read := fun (va lines : Nat) => match s.checkPage ctx va true false false with
    | .ok t => (List.range lines).map (fun i => (t.pa + 128 * i, t.key))
    | .cause _ => []
  match k % 3 with
  | 0 => read (32 * (k / 3)) 1
  | 1 => []
  | _ => if k / 3 % 65536 = 0 then read (k / 3) 512 else []

/-- The lines of the places of some elements that the command has not read yet, fetched at their home slices (R178, R192). -/
def State.fetchSources (s : State) (ctx : Nat) (c : CopyCmd) (es : List CElem) : State :=
  s.fetchLines ((((es.flatMap (fun e => e.src.places (sizeOf' (dStype (descNum c.desc))))).filter
    (fun k => (c.srcs.get [] k).isEmpty)).dedup).flatMap (s.placeLines ctx))

/-- A command that has read the places of some elements. -/
def CopyCmd.readPlaces (c : CopyCmd) (s : State) (win : SMap Byte) (ctx : Nat) (es : List CElem) : CopyCmd :=
  let n := sizeOf' (dStype (descNum c.desc))
  { c with srcs := (es.flatMap (fun e => e.src.places n)).foldl (fun m k =>
      if (m.get [] k).isEmpty then m.put [] k (s.placeNow win ctx k) else m) c.srcs }

/-- A number of n bytes from address a on, as the command has read it: `kind` 0 global, 1 at the window. -/
def CopyCmd.srcNat (c : CopyCmd) (kind size a n : Nat) : Nat :=
  natOfBytes ((List.range n).map (fun i => (c.srcs.get [] (3 * ((a + i) / size) + kind)).getD ((a + i) % size) 0))

/-- The bytes of one element and the flags of making them, from what the command has read. -/
def State.elemBytes (s : State) (ctx : Nat) (c : CopyCmd) (e : CElem) : CRead :=
  let d := descNum c.desc
  let n := sizeOf' (dStype d)
  let conv := fun (x : Nat) => let r := copyConvert d x; CRead.ok (bytesOf e.n r.1) r.2
  match e.src with
  | .zero => .ok (bytesOf e.n 0) 0
  | .pat => .ok (bytesOf e.n c.pat.toNat) 0
  | .scr a => conv (c.srcNat 1 64 a n)
  | .glob va => match s.copyLoad ctx va n with
    | .ok _ _ => conv (c.srcNat 0 32 va n)
    | r => r
  | .reduce i a => let r := s.reduceElem d (c.srcNat 1 64 a n) i; .ok (bytesOf e.n r.1) r.2
  | .manifest p => match s.manifestOf ctx p with
    | .ok _ _ => .ok (c.srcs.get [] (3 * p + 2)) 0
    | r => r

/-- The bytes that elements write in a sector, in the listing's order, a later one standing; with the flags. -/
def gather (sec : Nat) : List (CElem × CRead) → List Host.Cell × Nat
  | [] => ([], 0)
  | (e, r) :: rest =>
    let (cells, fl) := gather sec rest
    match r with
    | .ok bs f =>
      (((cellsAt e.dst bs).filter (fun c => c.1 / 32 == sec && !cells.any (fun x => x.1 == c.1))) ++ cells, f ||| fl)
    | _ => (cells, fl)

/-- What a sector of a command comes to: its cells in the destination space and the flags, or what stops it: a fatal cause
first, then a page that is absent, then a poisoned source. -/
inductive SecRes where
  | ok (cells : List Host.Cell) (fl : Nat)
  | page (p va : Nat)
  | cause (c va : Nat)
  | poison (line seq : Nat)

def secRes (sec : Nat) (rs : List (CElem × CRead)) : SecRes :=
  match rs.findSome? (fun p => match p.2 with | .cause c va => some (c, va) | _ => none) with
  | some e => .cause e.1 e.2
  | none => match rs.findSome? (fun p => match p.2 with | .page q va => some (q, va) | _ => none) with
    | some q => .page q.1 q.2
    | none => match rs.findSome? (fun p => match p.2 with | .poison l n => some (l, n) | _ => none) with
      | some e => .poison e.1 e.2
      | none => let g := gather sec rs; .ok g.1 g.2

end Sys2Proof.Machine
end

