-- ==== Sys2Proof/Decode.lean ====
section
/-! DEFINITION. The decoder of instruction words, total on every 64-bit word, and the encoder from the same tables
(R86 to R101). -/

namespace Sys2Proof

open Machine

/-- Bits [lo + len - 1 : lo] of a word. -/
def fld (w : DWord) (lo len : Nat) : BitVec len := w.extractLsb' lo len

/-- The operand of an operand code (R95). -/
def opndOf (c : BitVec 8) : Opnd :=
  if c.toNat < 0x80 then .v (c.extractLsb' 0 7)
  else if c.toNat < 0xC0 then .s (c.extractLsb' 0 6)
  else if c.toNat < 0xE0 then .imm (c.extractLsb' 0 5)
  else if c.toNat < 0xE4 then .latch (c.extractLsb' 0 2)
  else if c.toNat < 0xF0 then .const (c.extractLsb' 0 4)
  else if c.toNat < 0xFF then .rsv (c.extractLsb' 0 4)
  else .none

/-- The operand code of an operand (R95). -/
def codeOf : Opnd → BitVec 8
  | .v r => 0#1 ++ r
  | .s r => 0b10#2 ++ r
  | .imm x => 0b110#3 ++ x
  | .latch i => 0b111000#6 ++ i
  | .const k => 0b1110#4 ++ k
  | .rsv k => 0b1111#4 ++ k
  | .none => 0xFF#8

/-- A one-bit field as a truth value. -/
def flag (w : DWord) (n : Nat) : Bool := w.getLsbD n

/-- H, N and the predicate of a full, immediate or memory word (R87). -/
def headOf (w : DWord) : Head := { hold := flag w 62, neg := flag w 53, pred := fld w 50 3 }

/-- The fields of a full word (R87, R88). -/
def fword (w : DWord) : FWord :=
  { hd := headOf w, wbx := flag w 49, d := opndOf (fld w 41 8), a := opndOf (fld w 33 8), b := opndOf (fld w 25 8),
    c := opndOf (fld w 17 8), ty := tyOfCode (fld w 12 5), mods := fld w 0 12 }

/-- The fields of an immediate-form word (R90). -/
def iword (w : DWord) : IWord :=
  { hd := headOf w, wbx := flag w 49, d := opndOf (fld w 41 8), a := opndOf (fld w 33 8), rsv32 := flag w 32,
    imm := fld w 0 32 }

/-- The fields of a memory-form word (R91). -/
def mword (w : DWord) : MWord :=
  { hd := headOf w, wbx := flag w 49, d := opndOf (fld w 41 8), a := opndOf (fld w 33 8), ofs := fld w 19 14,
    width := fld w 16 3, space := fld w 13 3, ori := flag w 12, ew := fld w 10 2, sx := flag w 9, cp := fld w 7 2,
    low := fld w 0 7 }

/-- The fields of REGROUP (R406). -/
def regroupWord (w : DWord) : RegroupWord :=
  { hd := headOf w, wbx := flag w 49, d := opndOf (fld w 41 8), n := fld w 33 8, rsv32 := flag w 32, imm := fld w 0 32 }

/-- The fields of MSPAN (R389). -/
def spanWord (w : DWord) : SpanWord :=
  { hd := headOf w, wbx := flag w 49, d := opndOf (fld w 41 8), a := opndOf (fld w 33 8), ext := fld w 17 16,
    ty := tyOfCode (fld w 12 5), mods := fld w 0 12 }

/-- One half of a paired word, whose bit 0 is bit `lo` of the word (R93). -/
def halfAt (w : DWord) (lo : Nat) : Half :=
  { g := flag w (lo + 30), minor := fld w (lo + 24) 6, wbx := flag w (lo + 23), d := fld w (lo + 16) 7,
    a := opndOf (fld w (lo + 8) 8), b := opndOf (fld w lo 8) }

/-- The fields of a paired word (R93). -/
def pword (w : DWord) : PWord := { hold := flag w 62, h0 := halfAt w 31, h1 := halfAt w 0 }

/-- The instruction of a full, immediate or memory word by its major (R100); `none` where the major is unassigned. -/
def parseMajor (w : DWord) : Nat → Option Instr
  | 0x00 => some (.nop (fword w))
  | 0x01 => some (.iadd (fword w))
  | 0x02 => some (.isub (fword w))
  | 0x03 => some (.iaddc (fword w))
  | 0x04 => some (.isubb (fword w))
  | 0x05 => some (.imul (fword w))
  | 0x06 => some (.imulhi (fword w))
  | 0x07 => some (.imad (fword w))
  | 0x08 => some (.imin (fword w))
  | 0x09 => some (.imax (fword w))
  | 0x0A => some (.iabs (fword w))
  | 0x0B => some (.ineg (fword w))
  | 0x0C => some (.icmp (fword w))
  | 0x0D => some (.ipopc (fword w))
  | 0x0E => some (.iclz (fword w))
  | 0x0F => some (.ibrev (fword w))
  | 0x10 => some (.ibfe (fword w))
  | 0x11 => some (.ibfi (fword w))
  | 0x12 => some (.lea (fword w))
  | 0x13 => some (.lop (fword w))
  | 0x14 => some (.shl (fword w))
  | 0x15 => some (.shr (fword w))
  | 0x16 => some (.sar (fword w))
  | 0x17 => some (.sel (fword w))
  | 0x18 => some (if (fword w).a = .none then .movSpecial (fword w) else .mov (fword w))
  | 0x19 => some (.plop (fword w))
  | 0x1A => some (if pmovForm (fword w) = 1 then .pmovFromReg (fword w)
      else if pmovForm (fword w) = 2 then .pmovPred (fword w) else .pmovToReg (fword w))
  | 0x20 => some (.movi (iword w))
  | 0x21 => some (.iaddImm (iword w))
  | 0x22 => some (.isubImm (iword w))
  | 0x23 => some (.imulImm (iword w))
  | 0x24 => some (.iminImm (iword w))
  | 0x25 => some (.imaxImm (iword w))
  | 0x26 => some (.imulhiImm (iword w))
  | 0x27 => some (.leaImm (iword w))
  | 0x28 => some (.shlImm (iword w))
  | 0x29 => some (.shrImm (iword w))
  | 0x2A => some (.sarImm (iword w))
  | 0x2B => some (.faddImm (iword w))
  | 0x2C => some (.fmulImm (iword w))
  | 0x2D => some (.fminImm (iword w))
  | 0x2E => some (.fmaxImm (iword w))
  | 0x30 => some (.fadd (fword w))
  | 0x31 => some (.fsub (fword w))
  | 0x32 => some (.fmul (fword w))
  | 0x33 => some (.ffma (fword w))
  | 0x34 => some (.fmin (fword w))
  | 0x35 => some (.fmax (fword w))
  | 0x36 => some (.fabs (fword w))
  | 0x37 => some (.fneg (fword w))
  | 0x38 => some (.fcmp (fword w))
  | 0x39 => some (.fclass (fword w))
  | 0x3A => some (.frnd (fword w))
  | 0x3B => some (.fcvt (fword w))
  | 0x40 => some (.frcp (fword w))
  | 0x41 => some (.frsq (fword w))
  | 0x42 => some (.fsqrt (fword w))
  | 0x43 => some (.fexp2 (fword w))
  | 0x44 => some (.flog2 (fword w))
  | 0x45 => some (.ftanh (fword w))
  | 0x48 => some (.npack (fword w))
  | 0x49 => some (.nunpk (fword w))
  | 0x4A => some (.nscale (fword w))
  | 0x50 => some (.gshfl (fword w))
  | 0x51 => some (.gbfly (fword w))
  | 0x52 => some (.gred (fword w))
  | 0x53 => some (.gscan (fword w))
  | 0x54 => some (.gvote (fword w))
  | 0x55 => some (.gmatch (fword w))
  | 0x56 => some (.grank (fword w))
  | 0x58 => some (.join (fword w))
  | 0x59 => some (.leave (fword w))
  | 0x5A => some (.kwait (fword w))
  | 0x5B => some (.kmov (fword w))
  | 0x5C => some (.kand (fword w))
  | 0x5D => some (.kor (fword w))
  | 0x5E => some (.krd (fword w))
  | 0x5F => some (.kset (fword w))
  | 0x60 => some (.bra (iword w))
  | 0x61 => some (.brx (fword w))
  | 0x62 => some (.call (iword w))
  | 0x63 => some (.ret (fword w))
  | 0x64 => some (.switch (fword w))
  | 0x65 => some (.regroup (regroupWord w))
  | 0x66 => some (.yield (fword w))
  | 0x67 => some (.exit (fword w))
  | 0x68 => some (.trap (fword w))
  | 0x69 => some (.trapret (fword w))
  | 0x6A => some (.bkpt (fword w))
  | 0x6B => some (.sysrd (fword w))
  | 0x6C => some (.syswr (fword w))
  | 0x6D => some (if stampForm (fword w) = 1 then .stampMma (fword w)
      else if stampForm (fword w) = 2 then .stampOut (fword w) else .stampIn (fword w))
  | 0x6E => some (.time (fword w))
  | 0x70 => some (if ldForm (mword w) = 3 then .ldb (mword w) else if ldForm (mword w) = 1 then .lds (mword w)
      else if ldForm (mword w) = 2 then .lda (mword w) else .ld (mword w))
  | 0x71 => some (if stForm (mword w) = 2 then .stb (mword w) else if stForm (mword w) = 1 then .sts (mword w)
      else .st (mword w))
  | 0x72 => some (.pref (mword w))
  | 0x73 => some (if bitOf (fword w).mods.toNat 5 then .atomScr (fword w) else .atom (fword w))
  | 0x74 => some (.lrcall (fword w))
  | 0x75 => some (.lrdef (fword w))
  | 0x76 => some (.lrdrop (fword w))
  | 0x77 => some (.waitv (fword w))
  | 0x78 => some (.wake (fword w))
  | 0x79 => some (if phaseForm (fword w) = 1 then .phasePub (fword w)
      else if phaseForm (fword w) = 2 then .phaseRef (fword w) else .phase (fword w))
  | 0x7A => some (.fence (fword w))
  | 0x80 => some (.bar (fword w))
  | 0x81 => some (.bararv (fword w))
  | 0x82 => some (.barwait (fword w))
  | 0x83 => some (.bartx (fword w))
  | 0x84 => some (.barinit (fword w))
  | 0x85 => some (.xbarv (fword w))
  | 0x86 => some (.xbwait (fword w))
  | 0x87 => some (.xbset (fword w))
  | 0x88 => some (.cpin (fword w))
  | 0x89 => some (.cpout (fword w))
  | 0x8A => some (.cpgath (fword w))
  | 0x8B => some (.cpscat (fword w))
  | 0x8C => some (.cpfill (fword w))
  | 0x8D => some (.qfence (fword w))
  | 0x8E => some (.qwait (fword w))
  | 0x90 => some (.cbacq (fword w))
  | 0x91 => some (if bitOf (fword w).mods.toNat 0 then .cbrelCfg (fword w) else .cbrel (fword w))
  | 0x98 => some (.cvput (fword w))
  | 0x99 => some (.cvseal (fword w))
  | 0x9A => some (.launch (fword w))
  | 0xA0 => some (.mldb (fword w))
  | 0xA1 => some (.mswap (fword w))
  | 0xA2 => some (.mma (fword w))
  | 0xA3 => some (.mmaw (fword w))
  | 0xA4 => some (.mspan (spanWord w))
  | 0xA5 => some (.mcommit (fword w))
  | 0xA6 => some (.mzero (fword w))
  | 0xA7 => some (.mlda (fword w))
  | 0xA8 => some (.msta (fword w))
  | _ => none

/-- The instruction that a word's fields name, legal or not; `none` where the major is unassigned (R86, R100). -/
def parse (w : DWord) : Option Instr :=
  if flag w 63 then some (.pairedWord (pword w)) else parseMajor w (fld w 54 8).toNat

/-- What a word decodes to: an instruction, or the lowest cause of R102 that its bits alone decide. -/
inductive Decoded where
  | ok (i : Instr)
  | illegal (cause : Nat)
  deriving DecidableEq, Repr

/-- The decoder, total on every word; assembly text is outside the model. Log 91, DESIGN CHOICE. -/
def decode (w : DWord) : Decoded :=
  match parse w with
  | none => .illegal 1
  | some i => match minOf (causesOf i) with
    | none => .ok i
    | some c => .illegal c

/-- The word of eight bytes, lowest address first (R4, R86); `none` where there are fewer. -/
def wordOfBytes (bs : List Byte) : Option DWord :=
  if bs.length = 8 then some (BitVec.ofNat 64 (natOfBytes bs)) else none

/-- The instruction that the decoder reads from an instruction whose bits are w. -/
def decodeTableWord (nbits w : Nat) : Option Instr :=
  match wordOfBytes (bytesOf 8 (w % 2 ^ nbits)) with
  | none => none
  | some x => match decode x with
    | .ok i => some i
    | .illegal _ => none

/-- A truth value as one bit. -/
def bitV (b : Bool) : BitVec 1 := BitVec.ofBool b

/-- The bits of a full word (R87, R88). -/
def fbits (major : BitVec 8) (w : FWord) : DWord :=
  0#1 ++ bitV w.hd.hold ++ major ++ bitV w.hd.neg ++ w.hd.pred ++ bitV w.wbx ++ codeOf w.d ++ codeOf w.a ++ codeOf w.b
    ++ codeOf w.c ++ codeOfTy w.ty ++ w.mods

/-- The bits of an immediate-form word (R90). -/
def ibits (major : BitVec 8) (w : IWord) : DWord :=
  0#1 ++ bitV w.hd.hold ++ major ++ bitV w.hd.neg ++ w.hd.pred ++ bitV w.wbx ++ codeOf w.d ++ codeOf w.a
    ++ bitV w.rsv32 ++ w.imm

/-- The bits of a memory-form word (R91). -/
def mbits (major : BitVec 8) (w : MWord) : DWord :=
  0#1 ++ bitV w.hd.hold ++ major ++ bitV w.hd.neg ++ w.hd.pred ++ bitV w.wbx ++ codeOf w.d ++ codeOf w.a
    ++ w.ofs ++ w.width ++ w.space ++ bitV w.ori ++ w.ew ++ bitV w.sx ++ w.cp ++ w.low

/-- The bits of REGROUP (R406). -/
def rbits (major : BitVec 8) (w : RegroupWord) : DWord :=
  0#1 ++ bitV w.hd.hold ++ major ++ bitV w.hd.neg ++ w.hd.pred ++ bitV w.wbx ++ codeOf w.d ++ w.n
    ++ bitV w.rsv32 ++ w.imm

/-- The bits of MSPAN (R389). -/
def sbits (major : BitVec 8) (w : SpanWord) : DWord :=
  0#1 ++ bitV w.hd.hold ++ major ++ bitV w.hd.neg ++ w.hd.pred ++ bitV w.wbx ++ codeOf w.d ++ codeOf w.a
    ++ w.ext ++ codeOfTy w.ty ++ w.mods

/-- The bits of one half (R93). -/
def hbits (h : Half) : BitVec 31 :=
  bitV h.g ++ h.minor ++ bitV h.wbx ++ h.d ++ codeOf h.a ++ codeOf h.b

/-- The bits of a paired word (R93). -/
def pbits (w : PWord) : DWord := 1#1 ++ bitV w.hold ++ hbits w.h0 ++ hbits w.h1

/-- The word of an instruction (R87 to R101); `none` for the moves of the other agents. -/
def encode : Instr → Option DWord
  | .pairedWord w => some (pbits w)
  | .nop w => some (fbits 0x00 w)
  | .iadd w => some (fbits 0x01 w)
  | .isub w => some (fbits 0x02 w)
  | .iaddc w => some (fbits 0x03 w)
  | .isubb w => some (fbits 0x04 w)
  | .imul w => some (fbits 0x05 w)
  | .imulhi w => some (fbits 0x06 w)
  | .imad w => some (fbits 0x07 w)
  | .imin w => some (fbits 0x08 w)
  | .imax w => some (fbits 0x09 w)
  | .iabs w => some (fbits 0x0A w)
  | .ineg w => some (fbits 0x0B w)
  | .icmp w => some (fbits 0x0C w)
  | .ipopc w => some (fbits 0x0D w)
  | .iclz w => some (fbits 0x0E w)
  | .ibrev w => some (fbits 0x0F w)
  | .ibfe w => some (fbits 0x10 w)
  | .ibfi w => some (fbits 0x11 w)
  | .lea w => some (fbits 0x12 w)
  | .lop w => some (fbits 0x13 w)
  | .shl w => some (fbits 0x14 w)
  | .shr w => some (fbits 0x15 w)
  | .sar w => some (fbits 0x16 w)
  | .sel w => some (fbits 0x17 w)
  | .mov w => some (fbits 0x18 w)
  | .movSpecial w => some (fbits 0x18 w)
  | .plop w => some (fbits 0x19 w)
  | .pmovToReg w => some (fbits 0x1A w)
  | .pmovFromReg w => some (fbits 0x1A w)
  | .pmovPred w => some (fbits 0x1A w)
  | .movi w => some (ibits 0x20 w)
  | .iaddImm w => some (ibits 0x21 w)
  | .isubImm w => some (ibits 0x22 w)
  | .imulImm w => some (ibits 0x23 w)
  | .iminImm w => some (ibits 0x24 w)
  | .imaxImm w => some (ibits 0x25 w)
  | .imulhiImm w => some (ibits 0x26 w)
  | .leaImm w => some (ibits 0x27 w)
  | .shlImm w => some (ibits 0x28 w)
  | .shrImm w => some (ibits 0x29 w)
  | .sarImm w => some (ibits 0x2A w)
  | .faddImm w => some (ibits 0x2B w)
  | .fmulImm w => some (ibits 0x2C w)
  | .fminImm w => some (ibits 0x2D w)
  | .fmaxImm w => some (ibits 0x2E w)
  | .fadd w => some (fbits 0x30 w)
  | .fsub w => some (fbits 0x31 w)
  | .fmul w => some (fbits 0x32 w)
  | .ffma w => some (fbits 0x33 w)
  | .fmin w => some (fbits 0x34 w)
  | .fmax w => some (fbits 0x35 w)
  | .fabs w => some (fbits 0x36 w)
  | .fneg w => some (fbits 0x37 w)
  | .fcmp w => some (fbits 0x38 w)
  | .fclass w => some (fbits 0x39 w)
  | .frnd w => some (fbits 0x3A w)
  | .fcvt w => some (fbits 0x3B w)
  | .frcp w => some (fbits 0x40 w)
  | .frsq w => some (fbits 0x41 w)
  | .fsqrt w => some (fbits 0x42 w)
  | .fexp2 w => some (fbits 0x43 w)
  | .flog2 w => some (fbits 0x44 w)
  | .ftanh w => some (fbits 0x45 w)
  | .npack w => some (fbits 0x48 w)
  | .nunpk w => some (fbits 0x49 w)
  | .nscale w => some (fbits 0x4A w)
  | .gshfl w => some (fbits 0x50 w)
  | .gbfly w => some (fbits 0x51 w)
  | .gred w => some (fbits 0x52 w)
  | .gscan w => some (fbits 0x53 w)
  | .gvote w => some (fbits 0x54 w)
  | .gmatch w => some (fbits 0x55 w)
  | .grank w => some (fbits 0x56 w)
  | .join w => some (fbits 0x58 w)
  | .leave w => some (fbits 0x59 w)
  | .kwait w => some (fbits 0x5A w)
  | .kmov w => some (fbits 0x5B w)
  | .kand w => some (fbits 0x5C w)
  | .kor w => some (fbits 0x5D w)
  | .krd w => some (fbits 0x5E w)
  | .kset w => some (fbits 0x5F w)
  | .bra w => some (ibits 0x60 w)
  | .brx w => some (fbits 0x61 w)
  | .call w => some (ibits 0x62 w)
  | .ret w => some (fbits 0x63 w)
  | .switch w => some (fbits 0x64 w)
  | .regroup w => some (rbits 0x65 w)
  | .yield w => some (fbits 0x66 w)
  | .exit w => some (fbits 0x67 w)
  | .trap w => some (fbits 0x68 w)
  | .trapret w => some (fbits 0x69 w)
  | .bkpt w => some (fbits 0x6A w)
  | .sysrd w => some (fbits 0x6B w)
  | .syswr w => some (fbits 0x6C w)
  | .stampIn w => some (fbits 0x6D w)
  | .stampMma w => some (fbits 0x6D w)
  | .stampOut w => some (fbits 0x6D w)
  | .time w => some (fbits 0x6E w)
  | .ld w => some (mbits 0x70 w)
  | .lds w => some (mbits 0x70 w)
  | .lda w => some (mbits 0x70 w)
  | .ldb w => some (mbits 0x70 w)
  | .st w => some (mbits 0x71 w)
  | .sts w => some (mbits 0x71 w)
  | .stb w => some (mbits 0x71 w)
  | .pref w => some (mbits 0x72 w)
  | .atom w => some (fbits 0x73 w)
  | .atomScr w => some (fbits 0x73 w)
  | .lrcall w => some (fbits 0x74 w)
  | .lrdef w => some (fbits 0x75 w)
  | .lrdrop w => some (fbits 0x76 w)
  | .waitv w => some (fbits 0x77 w)
  | .wake w => some (fbits 0x78 w)
  | .phasePub w => some (fbits 0x79 w)
  | .phaseRef w => some (fbits 0x79 w)
  | .phase w => some (fbits 0x79 w)
  | .fence w => some (fbits 0x7A w)
  | .bar w => some (fbits 0x80 w)
  | .bararv w => some (fbits 0x81 w)
  | .barwait w => some (fbits 0x82 w)
  | .bartx w => some (fbits 0x83 w)
  | .barinit w => some (fbits 0x84 w)
  | .xbarv w => some (fbits 0x85 w)
  | .xbwait w => some (fbits 0x86 w)
  | .xbset w => some (fbits 0x87 w)
  | .cpin w => some (fbits 0x88 w)
  | .cpout w => some (fbits 0x89 w)
  | .cpoutDomainReduction w => some (fbits 0x89 w)
  | .cpgath w => some (fbits 0x8A w)
  | .cpgathDigest w => some (fbits 0x8A w)
  | .cpscat w => some (fbits 0x8B w)
  | .cpfill w => some (fbits 0x8C w)
  | .cpfillScratchpad w => some (fbits 0x8C w)
  | .qfence w => some (fbits 0x8D w)
  | .qwait w => some (fbits 0x8E w)
  | .cbacq w => some (fbits 0x90 w)
  | .cbrel w => some (fbits 0x91 w)
  | .cbrelCfg w => some (fbits 0x91 w)
  | .cvput w => some (fbits 0x98 w)
  | .cvseal w => some (fbits 0x99 w)
  | .launch w => some (fbits 0x9A w)
  | .mldb w => some (fbits 0xA0 w)
  | .mswap w => some (fbits 0xA1 w)
  | .mma w => some (fbits 0xA2 w)
  | .mmaw w => some (fbits 0xA3 w)
  | .mspan w => some (sbits 0xA4 w)
  | .mcommit w => some (fbits 0xA5 w)
  | .mzero w => some (fbits 0xA6 w)
  | .mlda w => some (fbits 0xA7 w)
  | .msta w => some (fbits 0xA8 w)
  | _ => none

end Sys2Proof
end

