-- ==== Sys2Proof/Machine/Masks.lean ====
section
/-! DEFINITION. The mask words and the tests of R39 and R40 (R38 to R40, R360 to R363). -/

namespace Sys2Proof.Machine

/-- The mask that an operand names: codes 0xD0 to 0xDB (R360). -/
def maskNum : Opnd → Nat
  | .imm k => k.toNat - 16
  | _ => 0

/-- A mask as the ck found it (R363). -/
def Path.mask (x : Path) (o : Opnd) : BitVec 64 := x.old.k.get 0 (maskNum o)

/-- A mask of a group written. -/
def WG.setK (w : WG) (gid k : Nat) (f : BitVec 64 → BitVec 64) : WG :=
  w.modGroup gid (fun g => { g with k := SMap.put 0 g.k k (f (g.k.get 0 k)) })

/-- A bit pattern of lanes. -/
def laneBits (ls : List Lane) : BitVec 64 := ls.foldl (fun b ln => b ||| BitVec.ofNat 64 (2 ^ ln.lane)) 0

/-- A word that writes mask k of its group and advances; the KWAIT test of the ck sees it (R39). -/
def State.maskWrite (s : State) (i : Instr) (hd : Head) (k : Nat) (decl : Path → List Nat)
    (uni : Path → List (Nat × (Lane → Nat))) (f : Path → BitVec 64 → BitVec 64) : Host.Outcome State Fault Refusal :=
  s.word i (fun x => { decl := decl x, uniform := uni x }) (fun x s =>
    (x.finish s hd.hold (fun _ => x.next) (fun _ t => t) (fun w => w.setK x.g.gid k (f x))).oweAll
      [.kwait x.w.wid x.g.gid, .rejoin x.w.wid x.g.gid])

/-- JOIN sets the bits of the executing lanes (R38). -/
def execJoin (w : FWord) (s : State) : Host.Outcome State Fault Refusal :=
  s.maskWrite (.join w) w.hd (maskNum w.a) (fun _ => []) (fun _ => []) (fun x k => k ||| laneBits (x.exec w.hd))

/-- LEAVE clears them (R38). -/
def execLeave (w : FWord) (s : State) : Host.Outcome State Fault Refusal :=
  s.maskWrite (.leave w) w.hd (maskNum w.a) (fun _ => []) (fun _ => []) (fun x k => k &&& ~~~ laneBits (x.exec w.hd))

/-- KWAIT blocks the executing lanes (R38, R361). -/
def execKwait (w : FWord) (s : State) : Host.Outcome State Fault Refusal :=
  s.word (.kwait w) (fun _ => {}) (fun x s =>
    (x.block s w.hd (fun _ => .kwait (maskNum w.a))).owe (.kwait x.w.wid x.g.gid))

def execKmov (w : FWord) (s : State) : Host.Outcome State Fault Refusal :=
  s.maskWrite (.kmov w) w.hd (maskNum w.c) (fun _ => []) (fun _ => []) (fun x _ => x.mask w.a)

def execKand (w : FWord) (s : State) : Host.Outcome State Fault Refusal :=
  s.maskWrite (.kand w) w.hd (maskNum w.c) (fun _ => []) (fun _ => []) (fun x _ => x.mask w.a &&& x.mask w.b)

def execKor (w : FWord) (s : State) : Host.Outcome State Fault Refusal :=
  s.maskWrite (.kor w) w.hd (maskNum w.c) (fun _ => []) (fun _ => []) (fun x _ => x.mask w.a ||| x.mask w.b)

/-- TYPE .b32 with G = 64 (R362). -/
def narrowMask (w : FWord) (x : Path) : List Nat := if w.ty == .b32 && x.gsz == 64 then [14] else []

/-- KRD reads a mask into a register (R363). -/
def execKrd (w : FWord) (s : State) : Host.Outcome State Fault Refusal :=
  s.alu (.krd w) w.d (narrowMask w) (fun _ x _ =>
    resultIn w.d (regsOf w.ty) ((x.mask w.a).toNat % 2 ^ x.gsz) 0 [])

/-- The lanes of a group that are neither empty nor exited, as bits. -/
def liveBits (w : WG) (g : Group) : Nat := (liveLanes w g).foldl (fun b n => b ||| 2 ^ n) 0

/-- KSET: the value of a, without the bits at and above G and those of empty lanes (R363). -/
def execKset (w : FWord) (s : State) : Host.Outcome State Fault Refusal :=
  s.maskWrite (.kset w) w.hd (maskNum w.c) (narrowMask w) (fun x => [(1, fun ln => x.read ln w.ty w.a)])
    (fun x _ =>
      match x.exec w.hd with
      | ln :: _ => BitVec.ofNat 64 (x.read ln w.ty w.a &&& liveBits x.w x.g)
      | [] => 0)

/-! ## The tests -/

/-- The threads of a group that have not exited, by %tid (a lane of the group stands for each). -/
def groupTids (w : WG) (g : Group) : List Nat :=
  (liveLanes w g).filterMap (fun n => match g.lanes[n]? with | some (some t) => some t | _ => none)

/-- The mask a thread waits on. -/
def Thread.kwaits (t : Thread) : Option Nat :=
  match t.run with
  | .wait (.kwait k) => some k
  | _ => none

/-- The mask that a thread of a workgroup waits on. -/
def WG.kwaitOf (w : WG) (tid : Nat) : Option Nat := (w.threads[tid]?).bind Thread.kwaits

/-- Whether the KWAIT on a mask is satisfied: every member is blocked on that same mask (R38). -/
def kSatisfied (w : WG) (g : Group) (k : Nat) : Bool :=
  (List.range g.lanes.length).all (fun n =>
    !(g.k.get 0 k).getLsbD n ||
      (match g.lanes[n]? with | some (some tid) => w.kwaitOf tid == some k | _ => false))

/-- KWAIT_RELEASE: every mask of the group is tested as it stands, and the threads of the satisfied ones go on (R39). -/
def execKwaitRelease (wid gid : Nat) (s : State) : Host.Outcome State Fault Refusal :=
  .next (match s.wg? wid with
    | none => s
    | some w => match w.group? gid with
      | none => s
      | some g =>
        let sat := (List.range 12).filter (kSatisfied w g)
        s.modWG wid (fun w => w.modThreads (fun i t =>
          if (groupTids w g).contains i && (t.kwaits).any (fun k => sat.contains k) then t.release else t)))

/-- The group is stuck: every thread that has not exited is blocked at a KWAIT and no condition holds (R40). A parked
workgroup does not raise it (R277). -/
def rejoinStuck (w : WG) (g : Group) : Bool :=
  let ts := groupTids w g
  !ts.isEmpty && ts.all (fun t => (w.kwaitOf t).isSome) && !w.groups.any (fun g => g.parked)
    && ts.all (fun t => !(w.kwaitOf t).any (fun k => kSatisfied w g k))

/-- REJOIN_DEADLOCK, tested in the ck after a word of the group blocked: attributed to the waiting thread with the lowest %tid, the mask index as its detail (R40, R252). -/
def execRejoinDeadlock (wid gid : Nat) (s : State) : Host.Outcome State Fault Refusal :=
  .next (match s.wg? wid with
    | none => s
    | some w => match w.group? gid with
      | none => s
      | some g =>
        if rejoinStuck w g then
          match minOf (groupTids w g) with
          | none => s
          | some tid => match w.threads[tid]? with
            | none => s
            | some t =>
              s.raise w.lid w.core 2 8 [s.record w 6 0 true tid gid t.lane t.pc 0 ((t.kwaits).getD 0)]
        else s)

end Sys2Proof.Machine
end

