-- ==== Sys2Proof/Machine/Control.lean ====
section
/-! DEFINITION. The control words and the forming of groups (R37, R41 to R43, R105, R309 to R313, R328, R406 to R408, R420,
R425, R426, R431). -/

namespace Sys2Proof.Machine

/-- A word that moves each executing lane to its target (R311): a target that is no multiple of 8 is cause 13, one with
bits [63:56] set is class 9, cause 2; `link` writes the return address to a pair. -/
def State.branch (s : State) (i : Instr) (hd : Head) (link : Opnd) (target : Path → Lane → Nat) :
    Host.Outcome State Fault Refusal :=
  s.word i
    (fun x => { lane := fun ln => if target x ln % 8 ≠ 0 then [13] else [], target := some (target x) })
    (fun x s =>
      let bad := (x.exec hd).filter (fun ln => 2 ^ 56 ≤ target x ln)
      if !bad.isEmpty then x.trap s 9 (bad.map (fun ln => (ln, 2, target x ln, 0)))
      else x.finish s hd.hold (fun ln => if ln.t.executes hd then target x ln else x.next)
        (fun ln t => if ln.t.executes hd then
          match link with
          | .v r => t.setV r.toNat (wordsOf 2 x.next)
          | _ => t
          else t) id)

/-- PC + Sext(offset, 64) (R90). -/
def offsetTo (pc : Nat) (imm : BitVec 32) : Nat := wrapTo 64 ((pc : Int) + imm.toInt)

def execBra (w : IWord) (s : State) : Host.Outcome State Fault Refusal :=
  s.branch (.bra w) w.hd .none (fun x _ => offsetTo x.cur.pc w.imm)

def execBrx (w : FWord) (s : State) : Host.Outcome State Fault Refusal :=
  s.branch (.brx w) w.hd w.d (fun x ln => x.pair ln w.a)

def execCall (w : IWord) (s : State) : Host.Outcome State Fault Refusal :=
  s.branch (.call w) w.hd w.d (fun x _ => offsetTo x.cur.pc w.imm)

/-- RET acts as BRX without a link (R408). -/
def execRet (w : FWord) (s : State) : Host.Outcome State Fault Refusal :=
  s.branch (.ret w) w.hd .none (fun x ln => x.pair ln w.a)

/-! ## SWITCH -/

/-- The m table words of a SWITCH as they are fetched (R420). -/
def State.switchTable (s : State) (x : Path) (m : Nat) : List Fetched :=
  (List.range m).map (fun i => s.fetch x.l (x.cur.pc + 8 * (i + 1)))

/-- Table words as (immediate, offset). -/
def tableEntries (ts : List Fetched) : List (Nat × BitVec 32) :=
  ts.filterMap (fun f => match f with
    | .word w => some (bitsOf w.toNat 32 32, w.setWidth 32)
    | _ => none)

/-- The lowest cause that fetching the table meets, if any. -/
def tableCause (ts : List Fetched) : Option Nat :=
  minOf (ts.filterMap (fun f => match f with | .cause c => some c | _ => none))

/-- The poisoned line that fetching the table meets, with its SEQ. -/
def tablePoison (ts : List Fetched) : Option (Nat × Nat) :=
  (ts.filterMap (fun f => match f with | .poison l q => some (l, q) | _ => none)).head?

/-- The page of the first table word that is not present. -/
def tablePage (x : Path) (ts : List Fetched) : Nat :=
  pageOf (x.cur.pc + 8 * ((ts.findIdx (fun f => f == .cause 3)) + 1))

/-- Where a value goes: the lowest entry that equals it, else past the table (R37, R420). -/
def switchTarget (pc m : Nat) (es : List (Nat × BitVec 32)) (v : Nat) : Nat :=
  match es.find? (fun e => e.1 == v) with
  | some e => offsetTo pc e.2
  | none => pc + 8 * (m + 1)

/-- SWITCH: m - 1 in SPEC[2:0] (R419, R420). Its table words are fetched with it, and their offsets are checked whether or not a lane
selects them. A fault on a table word names the SWITCH's PC as its address too (R256). Log 117, DESIGN CHOICE. -/
def execSwitch (w : FWord) (s : State) : Host.Outcome State Fault Refusal :=
  let m := FSpec w % 8 + 1
  s.word (.switch w)
    (fun x => { decl :=
      if (tableEntries (s.switchTable x m)).any (fun e => e.2.toNat % 8 != 0) then [13] else [] })
    (fun x s =>
      let ts := s.switchTable x m
      let es := tableEntries ts
      match tableCause ts, tablePoison ts with
      | some 3, _ => x.pageWait s .fetch (tablePage x ts) (x.lanes.map (fun ln => (ln, x.cur.pc)))
      | some c, _ => x.trap s 9 (x.lanes.map (fun ln => (ln, c, x.cur.pc, 0)))
      | none, some e => (x.trap s 22 (x.lanes.map (fun ln => (ln, 0, x.cur.pc, e.2)))).retirePage e.1
      | none, none =>
        if es.any (fun e => 2 ^ 56 ≤ offsetTo x.cur.pc e.2) && !(x.exec w.hd).isEmpty then
          x.trap s 9 ((x.exec w.hd).map (fun ln => (ln, 2, ((es.find? (fun e => 2 ^ 56 ≤ offsetTo x.cur.pc e.2)).map
            (fun e => offsetTo x.cur.pc e.2)).getD 0, 0)))
        else
          x.finish s w.hd.hold
            (fun ln => if ln.t.executes w.hd then switchTarget x.cur.pc m es (x.read32 ln w.a) else x.cur.pc + 8 * (m + 1))
            (fun _ t => t) id)

/-! ## REGROUP and the forming of groups -/

/-- A lane's bits cleared in every mask of its group (R39). -/
def Group.clearBits (g : Group) (b : BitVec 64) : Group :=
  { g with k := (List.range 12).foldl (fun m n => SMap.put 0 m n (m.get 0 n &&& ~~~ b)) g.k }

/-- A thread as a continuation: it keeps the PC, p0 to p6, its stage, its counts and v0 to v(n - 1) (R41). -/
def Thread.deposit (t : Thread) (pc n : Nat) : Thread :=
  { t with run := .pool, pc := pc, v := t.v.filter (fun e => e.1 < n), nlive := n, gid := 0xFFFFFFFF, lane := 0,
           hold := 0, l0 := none, l1 := none, l2 := none, l3 := none, age := 0, skip := false, resumed := none }

/-- The tests that a thread leaving its group makes owed (R39, R40, R42, R226). Log 75, DEDUCED. -/
def State.oweLeave (s : State) (x : Path) : State :=
  s.oweAll [.kwait x.w.wid x.g.gid, .rejoin x.w.wid x.g.gid, .deadlock x.w.wid]

/-- REGROUP: each executing lane deposits its continuation and leaves its group (R41, R406, R407). -/
def execRegroup (w : RegroupWord) (s : State) : Host.Outcome State Fault Refusal :=
  s.word (.regroup w)
    (fun x => { decl := if x.l.hdr.regs < w.n.toNat then [10] else [] })
    (fun x s =>
      let target := offsetTo x.cur.pc w.imm
      let ex := x.exec w.hd
      if 2 ^ 56 ≤ target then x.trap s 9 (ex.map (fun ln => (ln, 2, target, 0)))
      else
        let s := x.finish s w.hd.hold (fun _ => x.next) (fun _ t => t) id
        (s.modWG x.w.wid (fun g =>
          (g.modThreads (fun i t =>
            if ex.any (fun ln => ln.tid == i) then { t.deposit target w.n.toNat with stage := x.g.stage } else t)).modGroup x.g.gid (fun g =>
              { g.clearBits (laneBits ex) with lanes := g.lanes.mapIdx (fun n o => if ex.any (fun ln => ln.lane == n) then none else o) }))).oweLeave x)

/-- A group as it is formed: lanes in ascending %tid, empty masks and latches, the argument words in s0 to s15 (R42). -/
def newGroup (gid stage gsz : Nat) (args : List Word) (tids : List Nat) : Group :=
  { gid := gid, stage := stage, lanes := (List.range gsz).map (fun n => tids[n]?), s := SMap.putAll 0 [] 0 args, k := [],
    span := none, struck := false, parked := false, stops := none, stepping := false, lastStep := false, ready := 0, entry := gid, gathers := [] }

/-- The argument words of a launch record, ARGS in bits [1023:512] (R27, R236). -/
def argWords (record : List DWord) : List Word :=
  (record.drop 8).flatMap (fun (d : DWord) => [BitVec.setWidth 32 d, BitVec.setWidth 32 (d >>> 32)])

/-- A pooled thread placed in a lane of a formed group. -/
def Thread.placed (t : Thread) (gid lane : Nat) : Thread := { t with run := .ready, gid := gid, lane := lane }

/-- Groups whose threads have all gone give up their entry (R328, R72). -/
def WG.dropEmpty (w : WG) : WG :=
  { w with groups := w.groups.filter (fun g => g.lanes.any (fun o =>
      match o with
      | some tid => (w.threads[tid]?).any (fun t => t.run != .exited)
      | none => false)) }

/-- One group formed from pooled threads, taking the formation counter (R42). -/
def WG.form (w : WG) (stage gsz : Nat) (args : List Word) (tids : List Nat) : WG :=
  let g := newGroup w.formation stage gsz args tids
  { w with
    formation := w.formation + 1
    groups := w.groups ++ [g]
    threads := w.threads.mapIdx (fun i t => if tids.contains i then t.placed g.gid (tids.idxOf i) else t) }

/-- The pool records of a workgroup: %tid and thread, ascending. -/
def WG.pool (w : WG) : List (Nat × Thread) :=
  (w.threads.zipIdx.filter (fun p => p.1.run == .pool)).map (fun p => (p.2, p.1))

/-- The bins in ascending PC order, and among equal PCs in ascending stage, each with its %tids (R42). Log 97, DESIGN CHOICE. -/
def WG.bins (w : WG) : List ((Nat × Nat) × List Nat) :=
  let ps := w.pool
  let stages := (List.range 8).flatMap (fun st => ps.filterMap (fun p => if p.2.stage = st then some (p.2.pc, st) else none))
  let keys := (unionSet (stages.map (fun k => k.1 * 8 + k.2)) []).map (fun n => (n / 8, n % 8))
  keys.map (fun k => (k, (ps.filter (fun p => p.2.pc == k.1 && p.2.stage == k.2)).map (·.1)))

/-- A list cut into runs of n, the last one partial; the fuel is the list's length. -/
def chunks {α : Type} (n : Nat) : Nat → List α → List (List α)
  | 0, _ => []
  | k + 1, xs => if xs.isEmpty then [] else xs.take n :: chunks n k (xs.drop n)

/-- Forms the groups in order, parked where an all-stop is in force (R276); the formation that would take 2^32 - 1 raises the group-count-overflow trap instead, at the
lowest thread of that group (R42, R252). -/
def State.formAll (s : State) (wid gsz : Nat) (args : List Word) : List (Nat × List Nat) → State
  | [] => s
  | (stage, tids) :: rest =>
    match s.wg? wid with
    | none => s
    | some w =>
      if 2 ^ 32 - 1 ≤ w.formation then
        match minOf tids with
        | none => s
        | some tid =>
          s.raise w.lid w.core 2 8
            [s.record w 7 0 true tid 0xFFFFFFFF 0 (((w.threads[tid]?).map (fun t => t.pc)).getD 0) 0 0]
      else
        let s1 := s.modWG wid (fun w => w.form stage gsz args tids)
        (if (s.launch? w.lid).any (fun l => l.allStop) then s1.parkGroup wid w.formation else s1).formAll wid gsz args rest

/-- Whether a thread keeps the pool from quiescence: outside the pool, not exited, not parked and not blocked at a wait of
kinds 1 to 5 (R42, R73). -/
def Thread.busy (t : Thread) : Bool :=
  match t.run with
  | .ready => true
  | .wait (.kwait _) | .wait (.bar _ _ _) | .wait (.waitv _) | .wait (.cbuf _ _) | .wait (.xbar _ _ _) => false
  | .wait (.qwait _ _) | .wait (.page _ _ _) => true
  | .pool | .exited => false

/-- A thread that stands parked (R55, R276). -/
def WG.parkedTid (w : WG) (t : Thread) : Bool := w.groups.any (fun g => g.gid == t.gid && g.parked) && !t.inHold

/-- The workgroup has no runnable thread outside the pool (R42). -/
def WG.quiet (w : WG) : Bool := w.threads.all (fun t => !t.busy || (t.run != .pool && w.parkedTid t))

/-- GROUP_FORMATION_FULL_BIN: a bin that holds G records forms one group from the lowest, where the launch is not
deterministic (R42, R43). -/
def execGroupFormationFullBin (wid pc stage : Nat) (s : State) : Host.Outcome State Fault Refusal :=
  .next (match s.wg? wid with
    | none => s
    | some w => match s.launch? w.lid with
      | none => s
      | some l =>
        let tids := (w.pool.filter (fun p => p.2.pc == pc && p.2.stage == stage)).map (·.1)
        if !l.isDet && l.runs && s.coreUp w.core && l.hdr.g ≤ tids.length then
          (s.formAll wid l.hdr.g (argWords l.record) [(stage, tids.take l.hdr.g)]).modWG wid WG.dropEmpty
        else s)

/-- GROUP_FORMATION_QUIESCENCE: with no runnable thread outside the pool, groups are formed from all bins in ascending PC
order, each in ascending %tid (R42, R43). -/
def execGroupFormationQuiescence (wid : Nat) (s : State) : Host.Outcome State Fault Refusal :=
  .next (match s.wg? wid with
    | none => s
    | some w => match s.launch? w.lid with
      | none => s
      | some l =>
        if l.runs && s.coreUp w.core && w.quiet && !w.pool.isEmpty then
          let gs := w.bins.flatMap (fun b => (chunks l.hdr.g b.2.length b.2).map (fun c => (b.1.2, c)))
          (s.formAll wid l.hdr.g (argWords l.record) gs).modWG wid WG.dropEmpty
        else s)

/-! ## YIELD, EXIT, TRAP, TRAPRET, BKPT -/

/-- YIELD advances every lane; in a deterministic launch it is a switch point (R431). -/
def execYield (w : FWord) (s : State) : Host.Outcome State Fault Refusal :=
  s.word (.yield w) (fun _ => {}) (fun x s =>
    let s := (x.advance s w.hd.hold).giveWay x
    { s with issue := s.issue.filter (fun c => !(c.wid == x.w.wid && c.gid == x.g.gid)) })

end Sys2Proof.Machine
end

