-- ==== Sys2Proof/Machine/Scheduler.lean ====
section
/-! DEFINITION. The choice of groups and paths at an issue opportunity, ageing and starvation, deterministic issue, and what a
path fetches (R29 to R36, R46, R53, R55, R63, R86, R102, R273, R277). -/

namespace Sys2Proof.Machine

/-! ## Paths -/

/-- The threads of a group that can issue, with their lanes: runnable, and neither parked nor at a stop but for a path inside a hold region (R29,
R55, R276). -/
def issuable (w : WG) (g : Group) : List Lane :=
  (lanesOf w g (liveLanes w g)).filter (fun ln => ln.t.run == .ready && ((!g.parked && g.stops.isNone) || ln.t.hold != 0))

/-- The identity of a lane's path: its PC, and whether it holds latch state (R29, R32). -/
def Lane.pathKey (ln : Lane) : Nat := 2 * ln.t.pc + bit1 (ln.t.hold == 0)

/-- A path of a group: its lanes. The PC orders paths, and among equal PCs the path that holds latch state comes first (R29,
R32). -/
def pathsOfGroup (w : WG) (g : Group) : List (List Lane) :=
  let ls := issuable w g
  (unionSet (ls.map Lane.pathKey) []).map (fun k => ls.filter (fun ln => ln.pathKey == k))

/-- The path of some lanes as the path that executes a word. -/
def curOf (w : WG) (g : Group) (unit : Nat) (second : Bool) (ls : List Lane) : Cur :=
  { core := w.core, unit := unit, wid := w.wid, gid := g.gid, lanes := ls.map (fun ln => ln.lane),
    pc := ((ls.head?).map (fun ln => ln.t.pc)).getD 0, second := second }

/-- The word that a path stands at, with its info, where it can be fetched and its major is assigned. -/
def State.wordAt (s : State) (l : Launch) (pc : Nat) : Option (Instr × Info) :=
  match s.fetch l pc with
  | .word d => match parse d with
    | some i => (info i).map (fun n => (i, n))
    | none => none
  | _ => none

/-- Whether a path's next word can issue now (R35); a word that cannot be fetched or has no meaning issues to its trap. -/
def State.pathReady (s : State) (c : Cur) : Bool :=
  match ({ s with cur := some c } : State).path with
  | none => false
  | some x => match s.wordAt x.l c.pc with
    | some (i, n) => s.readyWord i n x
    | none => true

/-- A path's word that may go through the second port only (R30). -/
def State.firstPort (s : State) (l : Launch) (pc : Nat) : Bool :=
  match s.wordAt l pc with
  | some (_, n) => n.port1
  | none => false

/-- A path's ageing counter, the largest of its lanes' (R34). -/
def ageOf (ls : List Lane) : Nat := ls.foldl (fun a ln => max a ln.t.age) 0

def holds (ls : List Lane) : Bool := ls.any (fun ln => ln.t.hold != 0)

/-- What an issue unit issues for a group: the primary path and, where one is allowed, the secondary. -/
structure Pick where
  w : WG
  g : Group
  first : List Lane
  second : Option (List Lane)

/-- The primary path among a group's paths, in PC order (R29, R31, R34, R46): in a deterministic launch the first path alone;
a path that holds the unit; a promoted path; the first path whose word is ready. -/
def primaryPath (det : Bool) (ready : List Lane → Bool) (ps : List (List Lane)) : Option (List Lane) :=
  match ps.find? holds with
  | some p => if ready p then some p else none
  | none =>
    if det then (match ps with | p :: _ => if ready p then some p else none | [] => none)
    else match ps.find? (fun p => 256 ≤ ageOf p && ready p) with
      | some p => some p
      | none => ps.find? ready

/-- Whether a workgroup's issue stops but for open hold regions, and a STEP that outlives its right: its launch is being stopped, or its physical
core leaves service (R62, R63, R266, R280). -/
def State.issueStops (s : State) (l : Launch) (w : WG) : Bool :=
  !l.runs || s.service .core (s.pcoreOf w) == .draining

/-- The paths that a group issues with a given primary path (R29, R30, R46). -/
def State.pickWith (s : State) (u : Nat) (w : WG) (g : Group) (l : Launch) (p : List Lane) : Pick :=
  let pc := fun (q : List Lane) => ((q.head?).map (fun ln => ln.t.pc)).getD 0
  let rest := (pathsOfGroup w g).find? (fun q => pc q != pc p)
  { w := w, g := g, first := p,
    second := if l.isDet || g.stepping || s.issueStops l w then none
      else rest.filter (fun q => s.pathReady (curOf w g u true q) && !s.firstPort l (pc q)) }

/-- What a group would issue on its unit, none where it has no ready word. Log 11, DEDUCED. -/
def State.pick (s : State) (u : Nat) (w : WG) (g : Group) : Option Pick :=
  match s.launch? w.lid with
  | none => none
  | some l =>
    let ps := (pathsOfGroup w g).filter (fun p => !s.issueStops l w || ((l.runs || l.phase == .draining) && (holds p || g.lastStep)))
    (primaryPath l.isDet (fun p => s.pathReady (curOf w g u false p)) ps).map (s.pickWith u w g l)

/-! ## Groups -/

/-- The issue unit of a group: its entry modulo four. Log 10, DESIGN CHOICE. -/
def Group.unit (g : Group) : Nat := g.entry % 4

/-- The place of a group in the order of group entries. Log 10, DESIGN CHOICE. -/
def entryKey (w : WG) (g : Group) : Nat := w.wid * 2 ^ 32 + g.entry

/-- Every group of a logical core with its workgroup. -/
def State.groupsOn (s : State) (key : Nat) : List (WG × Group) :=
  (s.wgs.filter (fun w => w.core == key)).flatMap (fun w => w.groups.map (fun g => (w, g)))

/-- A thread that waits at a CBACQ for a buffer that has filled slots (R146). -/
def Thread.canAcquire (w : WG) (t : Thread) : Bool :=
  match t.run with
  | .wait (.cbuf n _) => 0 < (w.cb n).filled
  | _ => false

/-- A group that is runnable under R46: it does not stand parked, and some thread of it is runnable, waits for no switch point, or
finds a filled slot at its CBACQ (R53, R55, R146, R277). -/
def runnableGroup (w : WG) (g : Group) : Bool :=
  !w.isParked g && (lanesOf w g (liveLanes w g)).any (fun ln => ln.t.busy || ln.t.canAcquire w)

/-- The runnable group of a logical core's deterministic launches with the lowest (%wgid, %gid) (R46); of two launches'
groups with the same pair, the first in the list of workgroups. Log 12, DEDUCED. -/
def State.detLowest (s : State) (key : Nat) : Option (Nat × Nat) :=
  let gs := (s.groupsOn key).filter (fun p => ((s.launch? p.1.lid).map (fun l => l.isDet && l.runs)).getD false && runnableGroup p.1 p.2)
  let best := minOf (gs.map (fun p => p.1.wgid * 2 ^ 32 + p.2.gid))
  (gs.find? (fun p => some (p.1.wgid * 2 ^ 32 + p.2.gid) == best)).map (fun p => (p.1.wid, p.2.gid))

/-- The group of a deterministic launch that may issue on a logical core: the running group while it is runnable, else the lowest
one (R46, R277). Log 12, DEDUCED. -/
def State.detTurn (s : State) (key : Nat) : Option (Nat × Nat) :=
  match (s.core key).running with
  | some p => if (s.groupsOn key).any (fun q => (q.1.wid, q.2.gid) == p && runnableGroup q.1 q.2) then some p else s.detLowest key
  | none => s.detLowest key

/-- Whether a group may be selected as far as R46 goes. Log 12, DEDUCED. -/
def State.mayRun (s : State) (key : Nat) (w : WG) (g : Group) : Bool :=
  match s.launch? w.lid with
  | none => false
  | some l => !l.isDet || s.detTurn key == some (w.wid, g.gid)

/-- The groups of a unit that have a ready word, with what they issue. -/
def State.ready (s : State) (key u : Nat) : List Pick :=
  ((s.groupsOn key).filter (fun p => p.2.unit == u && s.mayRun key p.1 p.2)).filterMap (fun p => s.pick u p.1 p.2)

/-- A group that has had a ready word for 256 ck without being selected (R35). -/
def State.starved (s : State) (g : Group) : Bool := g.ready != 0 && g.ready + 256 ≤ s.ck + 1

/-- The first of some groups after a round-robin place. -/
def afterPlace (place : Nat) (ps : List Pick) : Option Pick :=
  let next := minOf ((ps.map (fun p => entryKey p.w p.g)).filter (fun k => place < k))
  let best := next <|> minOf (ps.map (fun p => entryKey p.w p.g))
  ps.find? (fun p => some (entryKey p.w p.g) == best)

/-- The choice of an issue unit among its ready groups (R31, R35): a unit that is held waits for its path; of several starved groups it
takes the first, and of several ready groups of stage 0 the first after the round-robin place, which those do not move. Log 108, DESIGN
CHOICE. -/
def State.choose (s : State) (key u : Nat) (ps : List Pick) : Option Pick :=
  match (s.core key).held.getD u none with
  | some h => ps.find? (fun p => (p.w.wid, p.g.gid) == h)
  | none =>
    let place := (s.core key).rr.getD u 0
    match ps.find? (fun p => s.starved p.g) with
    | some p => some p
    | none => match afterPlace place (ps.filter (fun p => p.g.stage == 0)) with
      | some p => some p
      | none => afterPlace place ps

/-- What an opportunity does to the waiting counters of a unit's groups (R34, R35): the selected group's paths age, every
other ready group waits. -/
def WG.waited (w : WG) (now : Nat) (ready : List (Nat × Nat)) (sel : Option (Nat × Nat)) (u : Nat) : WG :=
  let w := { w with groups := w.groups.map (fun (g : Group) =>
    if g.unit ≠ u then g
    else if some (w.wid, g.gid) = sel then { g with ready := 0 }
    else if ready.contains (w.wid, g.gid) then { g with ready := if g.ready = 0 then now + 1 else g.ready }
    else { g with ready := 0 }) }
  w.modThreads (fun _ t => if some (w.wid, t.gid) = sel && t.run == .ready then { t with age := t.age + 1 } else t)

/-- The waiting counters of a unit's groups after an opportunity (R35). -/
def State.countWaits (s : State) (key u : Nat) (ps : List Pick) (sel : Option (Nat × Nat)) : State :=
  { s with wgs := s.wgs.map (fun w =>
      if w.core = key then w.waited s.ck (ps.map (fun q => (q.w.wid, q.g.gid))) sel u else w) }

/-- A selection: the paths join the words that this ck issues. Every selection of a group whose stage is not 0, a held or a starved one among
them, moves the round-robin place (R35). Log 11, DEDUCED. Log 108, DESIGN CHOICE. -/
def State.select (s : State) (key u : Nat) (ps : List Pick) (p : Pick) : State :=
  let det := ((s.launch? p.w.lid).map (fun l => l.isDet)).getD false
  let sel := (p.w.wid, p.g.gid)
  let s2 := (s.countWaits key u ps (some sel)).modCore key (fun c =>
    { c with rr := c.rr.mapIdx (fun i x => if i = u && p.g.stage ≠ 0 then entryKey p.w p.g else x),
             running := if det then some sel else c.running })
  let s3 : State := { s2 with issue := s2.issue ++ [curOf p.w p.g u false p.first]
    ++ (match p.second with | some q => [curOf p.w p.g u true q] | none => []) }
  s3.oweAll ((if p.g.stops.isSome then [.stops p.w.wid p.g.gid] else []) ++ (if p.g.stepping then [.stepEnd p.w.wid p.g.gid] else []))

/-- Whether an issue unit has selected in this ck already (R29). -/
def State.unitTaken (s : State) (key u : Nat) : Bool := s.issue.any (fun c => c.core == key && c.unit == u)

/-- Whether an issue unit may select now: its core issues, and it has not selected in this ck (R29). -/
def State.unitFree (s : State) (key u : Nat) : Bool := s.coreUp key && !s.unitTaken key u

/-- One issue unit's opportunity (R29, R35), one in a ck: where no group is chosen, those with a ready word wait on. -/
def State.opportunity (s : State) (sel : UnitSel) : State :=
  if !s.unitFree sel.core sel.unit then s
  else
    let ps := s.ready sel.core sel.unit
    match s.choose sel.core sel.unit ps with
    | none => s.countWaits sel.core sel.unit ps none
    | some p => s.select sel.core sel.unit ps p

/-- The place of a word among what acts in its ck: BARINIT (R224), then the releases of buffers (R147); copy sectors and completions are at
place 2, slot takes at 3; then BARTX (R224), the other words, and the acquires (R147). -/
def ckPlace : Instr → Nat
  | .barinit _ => 0
  | .cbrel _ | .cbrelCfg _ => 1
  | .bartx _ => 4
  | .cbacq _ => 6
  | _ => 5

/-- The place of the word that a selected path stands at. -/
def State.placeOf (s : State) (c : Cur) : Nat :=
  match (s.wg? c.wid).bind (fun w => s.launch? w.lid) with
  | none => 5
  | some l => ((s.wordAt l c.pc).map (fun p => ckPlace p.1)).getD 5

/-- The key of a word among what acts in its ck: its place, then its issue unit, the primary path's first (R29, R141, R147, R149, R224). -/
def State.wordPlace (s : State) (c : Cur) : Nat := 16 * s.placeOf c + 2 * c.unit + bit1 c.second

/-- A word put among the words of a ck, before the first whose key is not less. -/
def insertWord (e : (Nat × Nat) × Cur) : List ((Nat × Nat) × Cur) → List ((Nat × Nat) × Cur)
  | [] => [e]
  | q :: qs =>
    if e.1.1 < q.1.1 || (e.1.1 == q.1.1 && e.1.2 ≤ q.1.2) then e :: q :: qs else q :: insertWord e qs

/-- The words of a ck in the order in which they act, whichever of the ck's moves selected them: by place and issue unit, then by core
(R29, R141, R147, R149, R224). Log 10, DESIGN CHOICE. -/
def State.ordered (s : State) : State :=
  { s with issue := ((s.issue.map (fun c => ((s.wordPlace c, c.core), c))).foldr insertWord []).map (·.2) }

/-- The selected units, by core and then by unit, each once. Log 10, DESIGN CHOICE. -/
def sortUnits (sel : List UnitSel) : List UnitSel :=
  (unionSet ((sel.filter (fun x => x.unit < 4)).map (fun x => 4 * x.core + x.unit)) []).map (fun n => ⟨n / 4, n % 4⟩)

/-- ISSUE_OPPORTUNITY: the given issue units select their groups and paths; the words then act one step each (R29, R141). -/
def execIssueOpportunity (sel : List UnitSel) (s : State) : Host.Outcome State Fault Refusal :=
  .next (((sortUnits sel).foldl State.opportunity s).ordered)

/-- AGEING_PROMOTION: a path whose counter has reached 256 issues as primary, where its unit is not held; of several the one with the
lowest PC (R34). -/
def execAgeingPromotion (wid gid tid : Nat) (s : State) : Host.Outcome State Fault Refusal :=
  .next (match s.wg? wid with
    | none => s
    | some w => match w.group? gid, s.launch? w.lid with
      | some g, some l =>
        let u := g.unit
        match (pathsOfGroup w g).find? (fun p => p.any (fun ln => ln.tid == tid)) with
        | none => s
        | some p =>
          if l.isDet || s.issueStops l w || !s.unitFree w.core u || ((s.core w.core).held.getD u none).isSome || ageOf p < 256
            || primaryPath false (fun q => s.pathReady (curOf w g u false q)) (pathsOfGroup w g) != some p then s
          else (s.select w.core u (s.ready w.core u) (s.pickWith u w g l p)).ordered
      | _, _ => s)

/-- GROUP_STARVATION_SELECT: a group that has waited 256 ck with a ready word is taken next, but for a held unit (R35). -/
def execGroupStarvationSelect (wid gid : Nat) (s : State) : Host.Outcome State Fault Refusal :=
  .next (match s.wg? wid with
    | none => s
    | some w => match w.group? gid with
      | none => s
      | some g =>
        let ps := s.ready w.core g.unit
        match ps.find? (fun p => p.w.wid == wid && p.g.gid == gid) with
        | none => s
        | some p =>
          if !s.unitFree w.core g.unit || !s.starved g || ((s.core w.core).held.getD g.unit none).isSome then s
          else (s.select w.core g.unit ps p).ordered)

/-! ## The word that a path fetches -/

/-- What a path finds when it comes to issue. -/
inductive Fetching where
  /-- the instruction to execute, legal or not -/
  | run (i : Instr)
  /-- the state in which the path stands instead: a trap, a wait for a page -/
  | stays (s : State)

/-- A word of an unassigned major: cause 1 for every thread of the path (R102), after the breakpoint before it (R273). -/
def Path.unassigned (x : Path) (s : State) : State :=
  let b := s.breakStop x false
  if b.2.isEmpty then b.1 else { x with lanes := b.2 }.trap b.1 1 (b.2.map (fun ln => (ln, 1, 0, 0)))

/-- The fetch of the word at the path's PC (R86, R102, R173, R260, R313). -/
def Path.fetchWord (x : Path) (s : State) : Fetching :=
  match s.fetch x.l x.cur.pc with
  | .cause c =>
    if c = 3 then .stays (x.pageWait s .fetch (pageOf x.cur.pc) (x.lanes.map (fun ln => (ln, x.cur.pc))))
    else .stays (x.trap s 9 (x.lanes.map (fun ln => (ln, c, x.cur.pc, 0))))
  | .poison l q => .stays ((x.trap s 22 (x.lanes.map (fun ln => (ln, 0, x.cur.pc, q)))).retirePage l)
  | .word d => match parse d with
    | none => .stays (x.unassigned s)
    | some i => .run i

/-- The events of a STEP that is done: one for each thread of its group (R277, R281). -/
def stepEvents (w : WG) (g : Group) : List DbgEv :=
  (lanesOf w g (liveLanes w g)).map (fun ln =>
    { kind := 4, index := 0, defer := false, all := false, tid := ln.tid, wgid := w.wgid, gid := g.gid, lane := ln.lane,
      ncore := w.core % 256, pc := ln.t.pc, fva := 0, lid := w.lid })

/-- The end of a STEP: outside a hold region the group parks again, with an event for each of its threads (R277, R281); where the debug
right has ended meanwhile, its events go to the ring of that right, and the group runs on (R280). -/
def State.endStep (s : State) (wid gid : Nat) : State :=
  match s.wg? wid with
  | none => s
  | some w => match w.group? gid, s.launch? w.lid with
    | some g, some l =>
      let ls := lanesOf w g (liveLanes w g)
      if !g.stepping || ls.any (fun ln => ln.t.hold != 0) then s
      else
        let s1 := if g.lastStep && (s.ctx l.ctx).dbg.holder.isSome then s else s.debugEvents l.ctx (stepEvents w g)
        let s2 := s1.modWG wid (fun w => w.modGroup gid (fun g => { g with stepping := false, lastStep := false }))
        if g.lastStep then s2 else s2.parkGroup wid gid
    | _, _ => s

end Sys2Proof.Machine
end

