-- ==== Sys2Proof/Machine/Integer.lean ====
section
/-! DEFINITION. The integer, bit, shift, select, move and predicate words, NOP and the paired word (R94, R101, R348 to R359,
R375, R376, R387, R388, R393, R398, R399, R409 to R411). -/

namespace Sys2Proof.Machine

/-- A word of two sources in one type whose result and flags an operation gives. -/
def State.binary (s : State) (i : Instr) (w : FWord) (n : Nat) (op : Nat → Nat → Nat × Nat) :
    Host.Outcome State Fault Refusal :=
  s.alu i w.d (fun _ => []) (fun _ x ln =>
    let r := op (x.read ln w.ty w.a) (x.read ln w.ty w.b)
    resultIn w.d n r.1 r.2 [])

/-- An immediate-form word: source a in a type, and the immediate sign-extended to its width (R90, R352). -/
def State.binaryImm (s : State) (i : Instr) (w : IWord) (t : Ty) (op : Nat → Nat → Nat × Nat) :
    Host.Outcome State Fault Refusal :=
  s.alu i w.d (fun _ => []) (fun _ x ln =>
    let r := op (x.read ln t w.a) (wrapTo (widthOf t) w.imm.toInt)
    resultIn w.d (regsOf t) r.1 r.2 [])

/-- NOP: every lane advances, and no latch is written (R393). -/
def execNop (w : FWord) (s : State) : Host.Outcome State Fault Refusal :=
  s.word (.nop w) (fun _ => {}) (fun x s => x.advance s w.hd.hold)

def execIadd (w : FWord) (s : State) : Host.Outcome State Fault Refusal :=
  s.binary (.iadd w) w (regsOf w.ty) (intOp .add w.ty (FSat w))

def execIaddImm (w : IWord) (s : State) : Host.Outcome State Fault Refusal :=
  s.binaryImm (.iaddImm w) w .i32 (intOp .add .i32 false)

def execIsub (w : FWord) (s : State) : Host.Outcome State Fault Refusal :=
  s.binary (.isub w) w (regsOf w.ty) (intOp .sub w.ty (FSat w))

/-- The immediate form subtracts source a from the immediate (R352). -/
def execIsubImm (w : IWord) (s : State) : Host.Outcome State Fault Refusal :=
  s.binaryImm (.isubImm w) w .i32 (fun x y => intOp .sub .i32 false y x)

/-- IADDC and ISUBB (R354): CI in SPEC[5:3], CO in SPEC[2:0]. -/
def State.carry (s : State) (i : Instr) (w : FWord) (sub : Bool) : Host.Outcome State Fault Refusal :=
  s.alu i w.d (fun _ => []) (fun _ x ln =>
    let r := carryOp sub w.ty (x.read ln w.ty w.a) (x.read ln w.ty w.b) (ln.t.pred (bitsOf (FSpec w) 3 3) false)
    resultIn w.d (regsOf w.ty) r.1 0 [(FSpec w % 8, r.2)])

def execIaddc (w : FWord) (s : State) : Host.Outcome State Fault Refusal := s.carry (.iaddc w) w false

def execIsubb (w : FWord) (s : State) : Host.Outcome State Fault Refusal := s.carry (.isubb w) w true

def execImul (w : FWord) (s : State) : Host.Outcome State Fault Refusal :=
  s.binary (.imul w) w (regsOf w.ty) (intOp .mul w.ty (FSat w))

def execImulImm (w : IWord) (s : State) : Host.Outcome State Fault Refusal :=
  s.binaryImm (.imulImm w) w .i32 (intOp .mul .i32 false)

def execImulhi (w : FWord) (s : State) : Host.Outcome State Fault Refusal :=
  s.binary (.imulhi w) w (regsOf w.ty) (intOp .mulhi w.ty false)

def execImulhiImm (w : IWord) (s : State) : Host.Outcome State Fault Refusal :=
  s.binaryImm (.imulhiImm w) w .i32 (intOp .mulhi .i32 false)

def execImad (w : FWord) (s : State) : Host.Outcome State Fault Refusal :=
  s.alu (.imad w) w.d (fun _ => []) (fun _ x ln =>
    let r := imadOp w.ty (FSat w) (x.read ln w.ty w.a) (x.read ln w.ty w.b) (x.read ln w.ty w.c)
    resultIn w.d (regsOf w.ty) r.1 r.2 [])

def execImin (w : FWord) (s : State) : Host.Outcome State Fault Refusal :=
  s.binary (.imin w) w (regsOf w.ty) (intOp .imin w.ty false)

def execIminImm (w : IWord) (s : State) : Host.Outcome State Fault Refusal :=
  s.binaryImm (.iminImm w) w .i32 (intOp .imin .i32 false)

def execImax (w : FWord) (s : State) : Host.Outcome State Fault Refusal :=
  s.binary (.imax w) w (regsOf w.ty) (intOp .imax w.ty false)

def execImaxImm (w : IWord) (s : State) : Host.Outcome State Fault Refusal :=
  s.binaryImm (.imaxImm w) w .i32 (intOp .imax .i32 false)

def execIabs (w : FWord) (s : State) : Host.Outcome State Fault Refusal :=
  s.binary (.iabs w) w (regsOf w.ty) (fun x _ => intOp .abs w.ty (FSat w) x 0)

def execIneg (w : FWord) (s : State) : Host.Outcome State Fault Refusal :=
  s.binary (.ineg w) w (regsOf w.ty) (fun x _ => intOp .neg w.ty (FSat w) x 0)

/-- A comparison: the mask 0xFFFFFFFF or 0 and the predicate PD (R334, R357). -/
def compareIn (d : Opnd) (pd : Nat) (holds : Bool) (fl : Nat) : LaneRes :=
  resultIn d 1 (if holds then 0xFFFFFFFF else 0) fl [(pd, holds)]

def execIcmp (w : FWord) (s : State) : Host.Outcome State Fault Refusal :=
  s.alu (.icmp w) w.d (fun _ => []) (fun _ x ln =>
    compareIn w.d (FSpec w % 8) (iccHolds (bitsOf (FSpec w) 3 4) w.ty (x.read ln w.ty w.a) (x.read ln w.ty w.b)) 0)

def execIpopc (w : FWord) (s : State) : Host.Outcome State Fault Refusal :=
  s.binary (.ipopc w) w 1 (fun x _ => (popCount (widthOf w.ty) x, 0))

def execIclz (w : FWord) (s : State) : Host.Outcome State Fault Refusal :=
  s.binary (.iclz w) w 1 (fun x _ => (leadZeros (widthOf w.ty) x, 0))

def execIbrev (w : FWord) (s : State) : Host.Outcome State Fault Refusal :=
  s.binary (.ibrev w) w (regsOf w.ty) (fun x _ => (ibrevOp w.ty x, 0))

/-- IBFE: position and length come from source b, one register (R355). -/
def execIbfe (w : FWord) (s : State) : Host.Outcome State Fault Refusal :=
  s.alu (.ibfe w) w.d (fun _ => []) (fun _ x ln =>
    resultIn w.d (regsOf w.ty) (ibfeOp w.ty (x.read ln w.ty w.a) (x.read ln w.ty w.b)) 0 [])

/-- IBFI: position and length come from source c (R355). -/
def execIbfi (w : FWord) (s : State) : Host.Outcome State Fault Refusal :=
  s.alu (.ibfi w) w.d (fun _ => []) (fun _ x ln =>
    resultIn w.d (regsOf w.ty) (ibfiOp w.ty (x.read ln w.ty w.a) (x.read ln w.ty w.b) (x.read ln w.ty w.c)) 0 [])

/-- LEA: SX in SPEC[3], SH in SPEC[2:0] (R375). -/
def execLea (w : FWord) (s : State) : Host.Outcome State Fault Refusal :=
  s.alu (.lea w) w.d (fun _ => []) (fun _ x ln =>
    resultIn w.d 2 (leaOp (x.pair ln w.a) (x.read32 ln w.b) (bitOf (FSpec w) 3) (FSpec w % 8)) 0 [])

/-- LEA's immediate form (R352). -/
def execLeaImm (w : IWord) (s : State) : Host.Outcome State Fault Refusal :=
  s.binaryImm (.leaImm w) w .b64 (fun x y => ((x + y) % 2 ^ 64, 0))

def execLop (w : FWord) (s : State) : Host.Outcome State Fault Refusal :=
  s.alu (.lop w) w.d (fun _ => []) (fun _ x ln =>
    resultIn w.d (regsOf w.ty)
      (lopOp (widthOf w.ty) (FSpec w) (x.read ln w.ty w.a) (x.read ln w.ty w.b) (x.read ln w.ty w.c)) 0 [])

/-- A shift: the count is source b as an unsigned 32-bit value (R409, R410). -/
def State.shift (s : State) (i : Instr) (w : FWord) (op : ShiftOp) : Host.Outcome State Fault Refusal :=
  s.alu i w.d (fun _ => []) (fun _ x ln =>
    resultIn w.d (regsOf w.ty) (shiftOp op (widthOf w.ty) (x.read ln w.ty w.a) (x.read32 ln w.b)) 0 [])

def execShl (w : FWord) (s : State) : Host.Outcome State Fault Refusal := s.shift (.shl w) w .shl

def execShr (w : FWord) (s : State) : Host.Outcome State Fault Refusal := s.shift (.shr w) w .shr

def execSar (w : FWord) (s : State) : Host.Outcome State Fault Refusal := s.shift (.sar w) w .sar

def execShlImm (w : IWord) (s : State) : Host.Outcome State Fault Refusal :=
  s.binaryImm (.shlImm w) w .b32 (fun x k => (shiftOp .shl 32 x k, 0))

def execShrImm (w : IWord) (s : State) : Host.Outcome State Fault Refusal :=
  s.binaryImm (.shrImm w) w .b32 (fun x k => (shiftOp .shr 32 x k, 0))

def execSarImm (w : IWord) (s : State) : Host.Outcome State Fault Refusal :=
  s.binaryImm (.sarImm w) w .b32 (fun x k => (shiftOp .sar 32 x k, 0))

/-- SEL: PS in SPEC[2:0], NEG in SPEC[3] (R411). -/
def execSel (w : FWord) (s : State) : Host.Outcome State Fault Refusal :=
  s.alu (.sel w) w.d (fun _ => []) (fun _ x ln =>
    let a := x.read ln w.ty w.a
    let b := x.read ln w.ty w.b
    resultIn w.d (regsOf w.ty) (if ln.t.pred (FSpec w % 8) false != bitOf (FSpec w) 3 then a else b) 0 [])

/-- MOV, register form: the bits of a (R387). -/
def execMov (w : FWord) (s : State) : Host.Outcome State Fault Refusal :=
  s.binary (.mov w) w (regsOf w.ty) (fun x _ => (x, 0))

/-- The ck counter of a core: it is reset when the partition starts (R246). Log 3, DESIGN CHOICE. -/
def State.coreClock (s : State) (core : Nat) : Nat := s.ck - (s.part (core / 256)).ckStart

/-- The flag word as a thread reads it: every flag it knows to have been raised, and of the others those that the free
choices show (R132). Log 19, DEDUCED. -/
def State.flagRead (s : State) (w : WG) (t : Thread) : Nat :=
  ofBits (fun b => w.flags.getLsbD b && (t.vc.get 0 (w.flagKey b) != 0 || Config.choose (s.free + b))) 7

/-- A special register in a lane (R26, R85). -/
def State.special (s : State) (x : Path) (ln : Lane) (n : Nat) : Nat :=
  let h := x.l.hdr
  match n with
  | 0x00 => ln.tid
  | 0x01 => ln.tid % h.dx
  | 0x02 => ln.tid / h.dx % h.dy
  | 0x03 => ln.tid / h.dx / h.dy
  | 0x04 => ln.lane
  | 0x05 => x.g.gid
  | 0x06 => x.gsz
  | 0x07 => x.w.wgid
  | 0x08 => x.w.wgid % x.l.gx
  | 0x09 => x.w.wgid / x.l.gx % x.l.gy
  | 0x0A => x.w.wgid / x.l.gx / x.l.gy
  | 0x0B => x.w.core % 256
  | 0x0C => x.g.stage
  | 0x0D => s.coreClock x.w.core % 2 ^ 32
  | 0x0E => h.n
  | 0x0F => x.l.gx
  | 0x10 => x.l.gy
  | 0x11 => x.l.gz
  | 0x12 => h.level
  | 0x13 => s.flagRead x.w ln.t
  | 0x14 => (s.core x.w.core).phase % 2 ^ 32
  | _ => 0


/-- MOV, special form: the register whose number is in SPEC (R387); a read of %flags uses seven free choices (R132). -/
def execMovSpecial (w : FWord) (s : State) : Host.Outcome State Fault Refusal :=
  match info (.movSpecial w) with
  | none => .fault .noPath
  | some nfo =>
    let f := fun (x : Path) (ln : Lane) => resultIn w.d 1 (s.special x ln (FSpec w)) 0 []
    s.word (.movSpecial w) (fun x => { uniform := sDest w.d (f x) })
      (fun x s' => x.commit (s'.spend (if FSpec w = 0x13 then 7 else 0)) (.movSpecial w) nfo w.d (f x))

def execMovi (w : IWord) (s : State) : Host.Outcome State Fault Refusal :=
  s.alu (.movi w) w.d (fun _ => []) (fun _ _ _ => resultIn w.d 1 w.imm.toNat 0 [])

/-- The predicate that a PLOP source names: codes 0xD0 + i, 7 being always true (R398). -/
def predSrcOf (t : Thread) (o : Opnd) : Bool :=
  match o with
  | .imm k => t.pred (k.toNat - 16) true
  | _ => false

/-- PLOP: PD in modifier bits [10:8], the table in [7:0] (R398). -/
def execPlop (w : FWord) (s : State) : Host.Outcome State Fault Refusal :=
  s.alu (.plop w) .none (fun _ => []) (fun _ _ ln =>
    let n := 4 * bit1 (predSrcOf ln.t w.a) + 2 * bit1 (predSrcOf ln.t w.b) + bit1 (predSrcOf ln.t w.c)
    ⟨[], [], [], [(bitsOf w.mods.toNat 8 3, bitOf w.mods.toNat n)], 0⟩)

/-- PMOV to a register: the predicates of MASK (R399). -/
def execPmovToReg (w : FWord) (s : State) : Host.Outcome State Fault Refusal :=
  s.alu (.pmovToReg w) w.d (fun _ => []) (fun _ _ ln =>
    resultIn w.d 1 (ofBits (fun i => bitOf w.mods.toNat i && ln.t.p.getLsbD i) 7) 0 [])

/-- PMOV from a register: the predicates of MASK take the bits of a (R399). -/
def execPmovFromReg (w : FWord) (s : State) : Host.Outcome State Fault Refusal :=
  s.alu (.pmovFromReg w) .none (fun _ => []) (fun _ x ln =>
    let a := x.read32 ln w.a
    ⟨[], [], [], (setBits 7 w.mods.toNat).map (fun i => (i, bitOf a i)), 0⟩)

/-- PMOV of one predicate (R399). -/
def execPmovPred (w : FWord) (s : State) : Host.Outcome State Fault Refusal :=
  s.alu (.pmovPred w) w.d (fun _ => []) (fun _ _ ln =>
    resultIn w.d 1 (bit1 (ln.t.pred (bitsOf w.mods.toNat 7 3) false)) 0 [])

/-! ## The paired word -/

/-- The type of a paired minor (R101). -/
def minorTy (m : Nat) : Ty :=
  if m ≤ 0x05 || m = 0x0F then .i32 else if m = 0x06 || m = 0x07 || m = 0x10 then .n32
  else if m ≤ 0x0E then .b32 else if m ≤ 0x15 then .f32 else if m ≤ 0x17 then .h16 else .bf16

/-- What a paired minor computes (R101). -/
def minorOp (m x y : Nat) : Nat × Nat :=
  let t := minorTy m
  match m with
  | 0x01 => intOp .add t false x y
  | 0x02 => intOp .sub t false x y
  | 0x03 => intOp .mul t false x y
  | 0x04 | 0x06 => intOp .imin t false x y
  | 0x05 | 0x07 => intOp .imax t false x y
  | 0x08 => (lopOp 32 0xC0 x y 0, 0)
  | 0x09 => (lopOp 32 0xFC x y 0, 0)
  | 0x0A => (lopOp 32 0x3C x y 0, 0)
  | 0x0B => (shiftOp .shl 32 x y, 0)
  | 0x0C => (shiftOp .shr 32 x y, 0)
  | 0x0D => (shiftOp .sar 32 x y, 0)
  | 0x0E => (x, 0)
  | 0x0F | 0x10 => intOp .mulhi t false x y
  | 0x11 | 0x16 | 0x18 => floatOp .add t .rn false false x y 0
  | 0x12 => floatOp .sub t .rn false false x y 0
  | 0x13 | 0x17 | 0x19 => floatOp .mul t .rn false false x y 0
  | 0x14 => floatOp .fmin t .rn false false x y 0
  | 0x15 => floatOp .fmax t .rn false false x y 0
  | _ => (0, 0)

/-- The result of one half in a thread (R94); a NOP half leaves nothing. -/
def halfRes (x : Path) (t : Thread) (h : Half) : LaneRes :=
  if h.minor = 0 then ⟨[], [], [], [], 0⟩
  else
    let m := h.minor.toNat
    let r := minorOp m (readOpnd x.old.s t (minorTy m) h.a) (readOpnd x.old.s t (minorTy m) h.b)
    ⟨if h.wbx then [] else [(h.d.toNat, wordsOf 1 r.1)], [], [BitVec.ofNat 64 r.1], [], r.2⟩

/-- A paired word: registers and predicates are read as they stood before the word, the latches of half 1 after half 0's
result has shifted in (R94). -/
def execPairedWord (w : PWord) (s : State) : Host.Outcome State Fault Refusal :=
  s.alu (.pairedWord w) .none (fun _ => []) (fun _ x ln =>
    let r0 := halfRes x ln.t w.h0
    let t1 := r0.shifts.foldl (fun t y => t.shiftIn (some y)) ln.t
    let r1 := halfRes x t1 w.h1
    ⟨r0.v ++ r1.v, [], r0.shifts ++ r1.shifts, [], r0.fl ||| r1.fl⟩)

end Sys2Proof.Machine
end

