-- ==== Sys2Proof/Machine/System.lean ====
section
/-! DEFINITION. EXIT, the traps of a program, conformance mode, the system registers, TIME and STAMP (R105, R106, R168, R309,
R328, R417, R418, R421 to R426). -/

namespace Sys2Proof.Machine

/-- A thread that has exited: its lane is empty and no register of it is live; it keeps the PC of its EXIT (R328). -/
def Thread.exit (t : Thread) (pc : Nat) : Thread := { t with run := .exited, pc := pc }

/-- The executing lanes that an EXIT takes at one issue: each waits in its turn for its return slot, so those before the first that
still waits (R7, R328). -/
def Path.exiting (x : Path) (hd : Head) : List Lane := (x.exec hd).takeWhile Lane.mayExit

/-- The executing lanes that stay at an EXIT: their turn has not come (R328). -/
def Path.staying (x : Path) (hd : Head) : List Lane := (x.exec hd).dropWhile Lane.mayExit

/-- EXIT: each executing lane's thread exits in its turn, its bits leave every mask, and a group without threads gives up its entry; the
lanes that still wait for a reply stay at the word, which has issued for them; once all are gone it is a switch point of a deterministic
launch (R328). Log 112, DEDUCED. -/
def execExit (w : FWord) (s : State) : Host.Outcome State Fault Refusal :=
  s.word (.exit w) (fun _ => {}) (fun x s =>
    let ex := x.exiting w.hd
    let late := x.staying w.hd
    let gone := fun (n : Nat) => ex.any (fun ln => ln.lane == n)
    let y := { x with lanes := x.lanes.filter (fun ln => !late.contains ln) }
    let s := y.finish s w.hd.hold (fun _ => x.next)
      (fun _ t => t)
      (fun g => g.modGroup x.g.gid (fun g =>
        { g.clearBits (laneBits ex) with lanes := g.lanes.mapIdx (fun n o => if gone n then none else o) }))
    let s := s.modWG x.w.wid (fun g =>
      (g.modThreads (fun i t => if ex.any (fun ln => ln.tid == i) then t.exit x.cur.pc
        else if late.any (fun ln => ln.tid == i) then { t with skip := true } else t)).dropEmpty)
    let s := s.exitPoison x.w.wid (2 * x.cur.unit)
    ((if late.isEmpty then s.giveWay x else s).oweLeave x).owe (.finish x.w.wid))

/-- TRAP: each executing lane raises the program trap with its code; the other lanes advance (R425). -/
def execTrap (w : FWord) (s : State) : Host.Outcome State Fault Refusal :=
  s.word (.trap w) (fun _ => {}) (fun x s =>
    { x with lanes := x.lanes.filter (fun ln => !ln.t.executes w.hd) }.advance
      (x.trap s 17 ((x.exec w.hd).map (fun ln => (ln, 0, 0, x.read32 ln w.a)))) w.hd.hold)

/-! ## Conformance mode -/

/-- A lane in conformance mode (R426). -/
def Lane.conf? (ln : Lane) : Option Conf := ln.t.conf

/-- The destination of the trapped word that TRAPRET writes: d, wbx and TYPE of R87 to R89. -/
def confResult (c : Conf) : LaneRes :=
  let d := opndOf (c.word.extractLsb' 41 8)
  let t := tyOfCode (c.word.extractLsb' 12 5)
  resultIn d (regsOf t) c.res.toNat c.flags.toNat []

/-- TRAPRET: the result of the routine goes to the trapped word's destination or into the latches, its flags into the flag
word, and the lane moves to the word after the trapped one (R426). Outside conformance mode it is cause 14. Log 17, DEDUCED. Log 113, DEDUCED. -/
def execTrapret (w : FWord) (s : State) : Host.Outcome State Fault Refusal :=
  s.word (.trapret w) (fun x => { decl := if x.lanes.all (fun ln => ln.t.conf.isNone) then [14] else [] })
    (fun x s =>
      let fl := flagsOf (x.exec w.hd) (fun ln => ((ln.t.conf).map confResult).getD ⟨[], [], [], [], 0⟩)
      x.finish s (x.lanes.any (fun ln => (ln.t.conf).any (fun c => c.word.getLsbD 62)))
        (fun ln => ((ln.t.conf).map (fun c => c.pc + 8)).getD x.next)
        (fun ln t => match ln.t.conf with
          | some c =>
            let r := confResult c
            { ((r.apply (!isS (opndOf (c.word.extractLsb' 41 8))) t).knows x.w fl) with conf := none }
          | none => t)
        (fun g =>
          let g := g.orFlags fl
          match (x.exec w.hd).findSome? (fun ln => ln.t.conf) with
          | some c => g.setS x.g.gid (opndOf (c.word.extractLsb' 41 8)) (confResult c).s
          | none => g))

/-- BKPT stops its path where an agent holds the debug right: a stop with events for the executing lanes; on the path's
first issue after a stop, and where nobody holds the right, it only advances (R309). -/
def execBkpt (w : FWord) (s : State) : Host.Outcome State Fault Refusal :=
  s.word (.bkpt w) (fun _ => {}) (fun x s =>
    if (s.ctx x.ctx).dbg.holder.isNone || x.lanes.any (fun ln => ln.t.skip) then x.advance s w.hd.hold
    else
      let s := s.stopGroup x.w.wid x.g.gid false ((x.exec w.hd).map (fun ln => x.event 2 8 false false ln 0))
      s.modWG x.w.wid (fun g => x.onLanes (fun _ t => { t with skip := true }) g))

/-! ## System registers -/

/-- The number of SYSRD and SYSWR: SPEC, or the s register of field a (R421). -/
def sysNum (x : Path) (w : FWord) (ln : Lane) : Nat := if w.a = .none then FSpec w else x.read32 ln w.a

/-- A conformance register of a thread (R422). -/
def confReg (c : Conf) (n : Nat) : Nat :=
  let half := fun (d : DWord) (hi : Bool) => if hi then d.toNat / 2 ^ 32 else d.toNat % 2 ^ 32
  let hi := n % 2 = 1
  if n ≤ 0x51 then half c.word hi else if n ≤ 0x53 then half c.a hi else if n ≤ 0x55 then half c.b hi
  else if n ≤ 0x57 then half c.c hi else if n ≤ 0x59 then half c.res hi else c.flags.toNat

/-- A system register in a lane (R422). -/
def State.sysReg (s : State) (x : Path) (ln : Lane) (n : Nat) : Nat :=
  if n ≤ 0x14 then s.special x ln n
  else if n = 0x40 then s.flagRead x.w ln.t
  else if n = 0x41 then s.coreClock x.w.core / 2 ^ 32 % 2 ^ 32
  else if n = 0x42 then (s.core x.w.core).phase / 2 ^ 32 % 2 ^ 32
  else if n = 0x43 then (s.ctx x.ctx).ckgen
  else if n = 0x44 then if x.l.isDet then 0 else x.l.lid % 2 ^ 32
  else if n = 0x45 then if x.l.isDet then 0 else x.l.lid / 2 ^ 32 % 2 ^ 32
  else match ln.t.conf with
    | some c => confReg c n
    | none => 0

/-- Numbers 0x50 to 0x5A outside conformance mode (R422). -/
def confOnly (ln : Lane) (n : Nat) : List Nat := if 0x50 ≤ n && n ≤ 0x5A && ln.t.conf.isNone then [14] else []

/-- The checks of SYSRD and SYSWR (R421, R422). Log 17, DEDUCED. -/
def sysChecks (w : FWord) (wr : Bool) (x : Path) : Checks :=
  { decl := if w.a = .none && 0x50 ≤ FSpec w && FSpec w ≤ 0x5A && x.lanes.all (fun ln => ln.t.conf.isNone) then [14] else [],
    lane := fun ln => if w.a = .none then confOnly ln (FSpec w) else sysCauses wr (sysNum x w ln) ++ confOnly ln (sysNum x w ln),
    uniform := if w.a = .none then [] else [(1, sysNum x w)] }

/-- SYSRD (R421 to R423). -/
def execSysrd (w : FWord) (s : State) : Host.Outcome State Fault Refusal :=
  match info (.sysrd w) with
  | none => .fault .noPath
  | some nfo =>
    let f := fun (x : Path) (ln : Lane) => resultIn w.d 1 (s.sysReg x ln (sysNum x w ln)) 0 []
    s.word (.sysrd w) (fun x => { sysChecks w false x with uniform := (sysChecks w false x).uniform ++ sDest w.d (f x) })
      (fun x s' =>
        let flags := (x.exec w.hd).any (fun ln => sysNum x w ln == 0x13 || sysNum x w ln == 0x40)
        x.commit (s'.spend (if flags then 7 else 0)) (.sysrd w) nfo w.d (f x))

/-- A conformance register written (R422). -/
def Conf.write (c : Conf) (n v : Nat) : Conf :=
  if n = 0x58 then { c with res := BitVec.ofNat 64 (putBits c.res.toNat 0 32 v) }
  else if n = 0x59 then { c with res := BitVec.ofNat 64 (putBits c.res.toNat 32 32 v) }
  else if n = 0x5A then { c with flags := BitVec.ofNat 7 v } else c

/-- SYSWR: FLAGS is cleared by ones, over the OR of the executing lanes; the conformance registers are written in each lane
(R423). -/
def execSyswr (w : FWord) (s : State) : Host.Outcome State Fault Refusal :=
  s.word (.syswr w) (sysChecks w true) (fun x s =>
    let ex := x.exec w.hd
    let isFlags := ex.any (fun ln => sysNum x w ln == 0x40)
    let ones := ex.foldl (fun a ln => a ||| x.read32 ln w.b) 0
    x.finish s w.hd.hold (fun _ => x.next)
      (fun ln t => if ln.t.executes w.hd then { t with conf := t.conf.map (fun c => c.write (sysNum x w ln) (x.read32 ln w.b)) } else t)
      (fun g => if isFlags then g.clearFlags (ones % 128) else g))

/-- TIME: device time read once, to every executing lane (R424). -/
def execTime (w : FWord) (s : State) : Host.Outcome State Fault Refusal :=
  s.alu (.time w) w.d (fun _ => []) (fun s _ _ => resultIn w.d 2 s.now 0 [])

/-! ## STAMP -/

/-- A free stamp entry. -/
def Stamp.free : Stamp := ⟨false, 0, 0, 0, none, none, none, none, 0, 0, 0, 0, 0, 0⟩

/-- Entry e of a workgroup's stamps. -/
def WG.stamp (w : WG) (e : Nat) : Stamp := w.stamps.getD e Stamp.free

def WG.modStamp (w : WG) (e : Nat) (f : Stamp → Stamp) : WG :=
  { w with stamps := ((List.range 16).map (fun i => w.stamp i)).mapIdx (fun i x => if i = e then f x else x) }

/-- The stamp record of an entry (R169). -/
def Stamp.bytes (e : Stamp) (w : WG) (n : Nat) (intr lost : Bool) : List Byte :=
  bytesOf 64 (packBits [(32, e.tag), (32, w.wgid), (8, w.core % 256), (4, n), (1, bit1 intr), (1, bit1 lost), (50, 0),
    (64, e.t1), (64, e.t2), (64, e.t3), (64, e.t4), (64, e.t5), (64, e.t6)])

/-- A command without its attachment to entry n. -/
def CopyCmd.detach (n : Nat) (c : CopyCmd) : CopyCmd :=
  { c with stampIn := c.stampIn.filter (· != n), stampOut := c.stampOut.filter (· != n) }

/-- Writes the record of entry n and closes the entry; a record whose address faults is dropped (R169). -/
def State.writeStamp (s : State) (wid n : Nat) (intr lost : Bool) : State :=
  match s.wg? wid with
  | none => s
  | some w =>
    let ctx := ((s.launch? w.lid).map (fun l => l.ctx)).getD 0
    (s.lodgeWrite ctx (w.stamp n).addr ((w.stamp n).bytes w n intr lost)).1.modWG wid (fun w =>
      { w.modStamp n (fun _ => Stamp.free) with queues := w.queues.map (fun q => q.map (CopyCmd.detach n)) })

/-- Every open entry of a workgroup written, in ascending entry number (R168, R169). Log 122, DESIGN CHOICE. -/
def State.writeStamps (s : State) (wid : Nat) (intr : Bool) : State :=
  (List.range 16).foldl (fun s n =>
    if ((s.wg? wid).map (fun w => (w.stamp n).isOpen)).getD false then s.writeStamp wid n intr false else s) s

/-- The checks of STAMP (R417): Q at or above .queues, e above 15, addr with bits [5:0] set; e, tag and addr are uniform. -/
def stampChecks (w : FWord) (form : Nat) (x : Path) : Checks :=
  { decl := if form != 1 && x.l.hdr.queues ≤ bitsOf (FSpec w) 2 3 then [14] else [],
    lane := fun ln => (if 15 < x.read32 ln w.a then [14] else [])
      ++ (if form = 0 && x.pair ln w.c % 64 ≠ 0 then [14] else []) }

/-- A STAMP word acts once for its path: `f` changes the entry that it names (R168, R299, R418). -/
def State.stampWord (s : State) (i : Instr) (w : FWord) (form : Nat) (f : Path → Lane → Nat → State → State) :
    Host.Outcome State Fault Refusal :=
  s.word i (stampChecks w form) (fun x s =>
    match x.exec w.hd with
    | ln :: _ => x.advance (f x ln (x.read32 ln w.a) s) w.hd.hold
    | [] => x.advance s w.hd.hold)

/-- stamp.in: an open entry is written with LOST; then the entry opens afresh (R168). -/
def execStampIn (w : FWord) (s : State) : Host.Outcome State Fault Refusal :=
  s.stampWord (.stampIn w) w 0 (fun x ln e s =>
    let s := if (x.w.stamp e).isOpen then s.writeStamp x.w.wid e false true else s
    s.modWG x.w.wid (fun g => g.modStamp e (fun _ =>
      { Stamp.free with isOpen := true, openCk := s.ck, tag := x.read32 ln w.b, addr := x.pair ln w.c, inQ := some (bitsOf (FSpec w) 2 3) })))

/-- stamp.mma: the next MSPAN of the group attaches to an open entry (R168). -/
def execStampMma (w : FWord) (s : State) : Host.Outcome State Fault Refusal :=
  s.stampWord (.stampMma w) w 1 (fun x _ e s =>
    s.modWG x.w.wid (fun g => g.modStamp e (fun z => if z.isOpen then { z with mmaG := some x.g.gid } else z)))

/-- stamp.out: the next copy on the queue attaches to an open entry (R168). -/
def execStampOut (w : FWord) (s : State) : Host.Outcome State Fault Refusal :=
  s.stampWord (.stampOut w) w 2 (fun x _ e s =>
    s.modWG x.w.wid (fun g => g.modStamp e (fun z => if z.isOpen then { z with outQ := some (bitsOf (FSpec w) 2 3) } else z)))

end Sys2Proof.Machine
end

