-- ==== Sys2Proof/Machine/Copies.lean ====
section
/-! DEFINITION. The copy commands, their running sector by sector, QFENCE and QWAIT, and the circular buffers (R145 to R147, R168,
R192 to R194, R216 to R221, R232, R314 to R320, R403 to R405). -/

namespace Sys2Proof.Machine

/-! ## Issue -/

/-- A trap of a group-once word: every executing lane is named (R216, R254). -/
def Path.onceTrap (x : Path) (s : State) (hd : Head) (cls cause fva detail : Nat) : State :=
  x.trap s cls ((x.exec hd).map (fun ln => (ln, cause, fva, detail)))

/-- A run of bytes cut at the page that it crosses into. -/
def pageParts (r : Nat × Nat) : List (Nat × Nat) :=
  let k := 65536 - r.1 % 65536
  if r.2 ≤ k then [r] else [(r.1, k), (r.1 + k, r.2 - k)]

/-- The attributes of the pages that some runs touch, read or written: the first address on an absent page, and the parts of the runs that
lie on DET pages (R194). A fatal cause, the missing permission among them, counts as DET = 0. Log 35, DEDUCED. -/
def State.detRuns (s : State) (ctx : Nat) (wr : Bool) (runs : List (Nat × Nat)) : Option Nat × List (Nat × Nat) :=
  (runs.flatMap pageParts).foldl (fun acc r =>
    match s.checkPage ctx r.1 (!wr) wr false with
    | .ok t => if t.det then (acc.1, acc.2 ++ [r]) else acc
    | .cause c => if c = 3 then (acc.1 <|> some r.1, acc.2) else acc) (none, [])

/-- Whether a command's ranges meet open ranges of other queues that no fence covers (R194). Log 34, DEDUCED. -/
def rangeClash (open_ : List OpenRange) (q : Nat) (rd wr : List (Nat × Nat)) : Bool :=
  open_.any (fun o => o.q != q && o.fence.isNone && (runsMeet wr o.runs || (o.wr && runsMeet rd o.runs)))

/-- The open ranges that a command adds; one that reads and writes DET pages, as a digest may, holds two. Log 35, DEDUCED. -/
def newRanges (q : Nat) (rd wr : List (Nat × Nat)) : List OpenRange :=
  (if rd.isEmpty then [] else [⟨q, false, rd, none⟩]) ++ (if wr.isEmpty then [] else [⟨q, true, wr, none⟩])

/-- Appends a command to queue q. -/
def WG.enqueue (w : WG) (q : Nat) (c : CopyCmd) : WG :=
  let put := fun (i : Nat) => if i = q then w.queues.getD i [] ++ [c] else w.queues.getD i []
  { w with queues := (List.range 8).map put, serial := w.serial + 1 }

/-- A command as it enters queue q. -/
def CopyCmd.fresh (serial cmd q mask pc : Nat) (desc : List Word) (pat : DWord) : CopyCmd :=
  { serial := serial, cmd := cmd, q := q, mask := mask, pc := pc, desc := desc, pat := pat, taken := none,
    started := false, done := false, sectors := 0, idx := none, clk := [], fl := 0, stampIn := [], stampOut := [],
    dests := [], srcs := [] }

/-- A fence entry in every queue of a mask, under one serial number; it covers the open ranges of those queues (R194, R404). Log 34,
DEDUCED. -/
def WG.fence (w : WG) (m pc : Nat) : WG :=
  let put := fun (i : Nat) =>
    if m.testBit i then w.queues.getD i [] ++ [CopyCmd.fresh w.serial 0 i m pc [] 0] else w.queues.getD i []
  { w with
    queues := (List.range 8).map put
    ranges := w.ranges.map (fun o => if m.testBit o.q && o.fence.isNone then { o with fence := some w.serial } else o)
    serial := w.serial + 1 }

/-- The stamp entries that wait for the next command on queue q and were armed before this ck; one opened afresh in this ck was not (R168,
R418). Log 61, DEDUCED. -/
def WG.waitingStamps (w old : WG) (ck q : Nat) (out : Bool) : List Nat :=
  (List.range 16).filter (fun n =>
    let z := fun (v : WG) => if out then (v.stamp n).outQ else (v.stamp n).inQ
    z w == some q && z old == some q && (w.stamp n).openCk != ck)

/-- A command enters its queue; waiting stamps attach (R168, R318). -/
def Path.enqueue (x : Path) (s : State) (cmd q : Nat) (desc : List Word) (pat : DWord) (ranges : List OpenRange) (w : WG) :
    WG :=
  let old := (s.before.find? (fun v => v.wid == x.w.wid)).getD x.w
  let ins := w.waitingStamps old s.ck q false
  let outs := w.waitingStamps old s.ck q true
  let w := ins.foldl (fun (w : WG) n => w.modStamp n (fun z => { z with t1 := s.now, inQ := none })) w
  let w := outs.foldl (fun (w : WG) n => w.modStamp n (fun z => { z with outQ := none })) w
  { w with ranges := w.ranges ++ ranges }.enqueue q
    { CopyCmd.fresh w.serial cmd q 0 x.cur.pc desc pat with stampIn := ins, stampOut := outs }

/-- The checks of R216 from the descriptor on: a state that a trap leaves, or none. Log 107, DESIGN CHOICE. -/
def Path.copyChecks (x : Path) (s : State) (hd : Head) (cmd : Nat) (modes : List Nat) (q d : Nat) : Option State :=
  let slots := (x.w.cb (dCbuf d)).slots
  if descBad x.l.hdr.cbufs d || !modes.contains (dMode d) || modeBad cmd d then some (x.onceTrap s hd 12 0 0 q)
  else match copyScrFault x.window cmd d slots with
    | some (c, lo, hi) =>
      let a := lo + Config.copyFault s.free % (hi + 1 - lo)
      some ((x.onceTrap s hd 8 c a a).spend 1)
    | none =>
      if dCben d && slots = 0 then some (x.onceTrap s hd 11 0 0 (dCbuf d))
      else if dBen d && (x.w.bar x.window (dBarn d)).expect = 0 then some (x.onceTrap s hd 13 1 0 (dBarn d))
      else none

/-- How many ranges are open: those that no QFENCE covers yet (R194). Log 34, DEDUCED. -/
def WG.openRanges (w : WG) : Nat := (w.ranges.filter (fun o => o.fence.isNone)).length

/-- The last step of a copy word: the determinism check, the wait for room in the queue, and the enqueueing; a 65th range fences every
queue first (R194, R318). -/
def Path.copyEnd (x : Path) (s : State) (i : Instr) (hd : Head) (cmd q : Nat) (desc : List Word) (pat : DWord) : State :=
  let d := descNum desc
  let es := elemsOf cmd d 0 (readList x.w.win cmd d)
  let rd := s.detRuns x.ctx false (readRuns d es)
  let wr := s.detRuns x.ctx true (writeRuns cmd d es)
  match rd.1 <|> wr.1 with
  | some va =>
    x.pageWait s (if rd.1.isSome then .load else .store) (pageOf va) ((x.exec hd).map (fun ln => (ln, va)))
  | none =>
    let new := newRanges q rd.2 wr.2
    let put := fun (w : WG) => x.enqueue s cmd q desc pat new w
    if 64 < x.w.openRanges + new.length then
      if (List.range x.l.hdr.queues).any (fun i => 31 ≤ ((x.w.queues.getD i []).filter (fun c => !c.done)).length) then s
      else x.finish s hd.hold (fun _ => x.next) (fun _ t => t) (fun w => put { w.fence (2 ^ x.l.hdr.queues - 1) x.cur.pc with ranges := [] })
    else if rangeClash x.w.ranges q rd.2 wr.2 then x.onceTrap s hd 10 0 0 q
    else if !queuesRoom x.w i then s
    else x.finish s hd.hold (fun _ => x.next) (fun _ t => t) put

/-- A copy word (R216, R318, R319): CMD as R447 numbers it, and the modes that the word accepts. A queue at or above .queues is
cause 14 after the other traps of R103, and it is raised also where no lane executes (R102). -/
def State.copyWord (s : State) (i : Instr) (w : FWord) (cmd : Nat) (modes : List Nat) :
    Host.Outcome State Fault Refusal :=
  let q := FSpec w % 8
  s.word i (fun x => { decl := if x.l.hdr.queues ≤ q && (x.exec w.hd).isEmpty then [14] else [] }) (fun x s =>
    match x.exec w.hd with
    | [] => s
    | ln :: _ =>
      if x.l.hdr.queues ≤ q then x.trap s 1 (x.lanes.map (fun l => (l, 14, 0, 0)))
      else
      let desc := wordsOf 8 (readRegs x.old.s ln.t w.a 8)
      let pat := if cmd = 5 then BitVec.ofNat 64 (x.pair ln w.b) else 0
      match x.copyChecks s w.hd cmd modes q (descNum desc) with
      | some t => t
      | none => x.copyEnd s i w.hd cmd q desc pat)

def execCpin (w : FWord) (s : State) : Host.Outcome State Fault Refusal := s.copyWord (.cpin w) w 1 [0]

def execCpout (w : FWord) (s : State) : Host.Outcome State Fault Refusal := s.copyWord (.cpout w) w 2 [0, 2]

/-- CPOUT whose descriptor holds MODE 2, a domain reduction (R232). Log 57, DEDUCED. -/
def execCpoutDomainReduction (w : FWord) (s : State) : Host.Outcome State Fault Refusal :=
  s.copyWord (.cpoutDomainReduction w) w 2 [2]

def execCpgath (w : FWord) (s : State) : Host.Outcome State Fault Refusal := s.copyWord (.cpgath w) w 3 [0, 1]

/-- CPGATH whose descriptor holds MODE 1, digest mode (R81, R218). Log 57, DEDUCED. -/
def execCpgathDigest (w : FWord) (s : State) : Host.Outcome State Fault Refusal :=
  s.copyWord (.cpgathDigest w) w 3 [1]

def execCpscat (w : FWord) (s : State) : Host.Outcome State Fault Refusal := s.copyWord (.cpscat w) w 4 [0]

def execCpfill (w : FWord) (s : State) : Host.Outcome State Fault Refusal := s.copyWord (.cpfill w) w 5 [0, 1]

/-- CPFILL whose descriptor holds MODE 1, the scratchpad fill (R218). -/
def execCpfillScratchpad (w : FWord) (s : State) : Host.Outcome State Fault Refusal :=
  s.copyWord (.cpfillScratchpad w) w 5 [1]

/-! ## Queues -/

/-- The command at the head of a queue: the first that has not completed. -/
def WG.head? (w : WG) (q : Nat) : Option CopyCmd := (w.queues.getD q []).find? (fun c => !c.done)

/-- The command with a serial number changed. -/
def WG.modCmd (w : WG) (q serial : Nat) (f : CopyCmd → CopyCmd) : WG :=
  { w with queues := w.queues.mapIdx (fun i cs => if i = q then cs.map (fun c => if c.serial = serial then f c else c) else cs) }

/-- The command with a serial number taken away. -/
def WG.dropCmd (w : WG) (q serial : Nat) : WG :=
  { w with queues := w.queues.mapIdx (fun i cs => if i = q then cs.filter (fun c => c.serial != serial) else cs) }

/-- A queue mask with a bit at or above .queues is cause 14 (R403). -/
def maskCauses (x : Path) (w : FWord) : List Nat := if 2 ^ x.l.hdr.queues ≤ FSpec w then [14] else []

/-- QFENCE waits for room and places a fence entry in each queue of its mask (R404). -/
def execQfence (w : FWord) (s : State) : Host.Outcome State Fault Refusal :=
  s.word (.qfence w) (fun x => { decl := maskCauses x w }) (fun x s =>
    if !queuesRoom x.w (.qfence w) then s
    else x.finish s w.hd.hold (fun _ => x.next) (fun _ t => t)
      (fun g => if FSpec w = 0 then g else g.fence (FSpec w) x.cur.pc))

/-- Whether a command below a serial number, on a queue of a mask, has not completed. Log 83, DEDUCED. -/
def WG.pendingBelow (w : WG) (m upto : Nat) : Bool :=
  w.queues.zipIdx.any (fun p => m.testBit p.2 && p.1.any (fun c => c.cmd != 0 && !c.done && c.serial < upto))

/-- The completed commands that a queue wait covers: their sectors and flags. -/
def WG.covered (w : WG) (m upto : Nat) : List Nat × Nat :=
  (w.qdone.filter (fun e => m.testBit (e.1 % 8) && e.1 / 8 < upto)).foldl (fun a e => (a.1 ++ e.2.1, a.2 ||| e.2.2)) ([], 0)

/-- The threads of finished queue waits go on, with the snapshot refreshed for the commands' sectors (R192, R405). Log 83, DEDUCED. -/
def State.releaseQwaits (s : State) (wid : Nat) : State :=
  match s.wg? wid with
  | none => s
  | some w =>
    let ends := fun (t : Thread) => match t.run with
      | .wait (.qwait m upto) => if w.pendingBelow m upto then none else some (m, upto)
      | _ => none
    let secs := (w.threads.filterMap ends).flatMap (fun p => (w.covered p.1 p.2).1)
    let s := s.modWG wid (fun g => g.modThreads (fun _ t => match ends t with
      | some p => (t.knows w (w.covered p.1 p.2).2).release
      | none => t))
    s.refreshSectors w.core secs.eraseDups

/-- QWAIT blocks the path until the earlier commands of its mask have completed (R220, R405); it closes their open ranges
(R194). It is no switch point. Log 34, DEDUCED. Log 83, DEDUCED. -/
def execQwait (w : FWord) (s : State) : Host.Outcome State Fault Refusal :=
  s.word (.qwait w) (fun x => { decl := maskCauses x w }) (fun x s =>
    let m := FSpec w
    let s := x.finish s w.hd.hold (fun ln => if ln.t.executes w.hd then x.cur.pc else x.next) (fun _ t => t)
      (fun g => { g with ranges := g.ranges.filter (fun o => !m.testBit o.q) })
    (x.hold s (x.exec w.hd) (fun _ => .qwait m x.w.serial)).releaseQwaits x.w.wid)

/-- FENCE_ENTRY_HEAD: the fence entries of every queue of the mask stand at the heads: they close the open ranges that the fence covers,
and leave (R404). Log 34, DEDUCED. -/
def execFenceEntryHead (wid q : Nat) (s : State) : Host.Outcome State Fault Refusal :=
  .next (match s.wg? wid with
    | none => s
    | some w => match w.head? q with
      | none => s
      | some c =>
        let qs := setBits 8 c.mask
        if c.cmd = 0 && s.coreUp w.core && qs.all (fun i => ((w.head? i).map (fun e => e.serial)) == some c.serial) then
          (s.modWG wid (fun g => { qs.foldl (fun (g : WG) i => g.dropCmd i c.serial) g with
            ranges := g.ranges.filter (fun o => o.fence != some c.serial) })).owe (.finish wid)
        else s)

/-! ## Running -/

/-- DETAIL of a copy's trap (R252): queue, sectors written, cause. Log 37, DEDUCED. -/
def copyDetail (c : CopyCmd) (cause : Nat) : Nat := packBits [(8, c.q), (32, c.sectors), (8, cause)]

/-- A trap of a copy: %tid 0, GID 0, LANE 0, the PC of the command (R221, R254). Log 37, DEDUCED. -/
def State.copyTrap (s : State) (w : WG) (c : CopyCmd) (cls cause fva detail : Nat) : State :=
  s.raise w.lid w.core 1 c.q [s.record w cls cause false 0 0 0 c.pc fva detail]

/-- The end of a command that has an error: its barrier is poisoned, or the copy-error trap is raised (R221). Log 38, DEDUCED. -/
def State.copyFails (s : State) (w : WG) (c : CopyCmd) : State :=
  let d := descNum c.desc
  let s := s.modWG w.wid (fun g =>
    { g.dropCmd c.q c.serial with qerr := if g.qerr.contains c.q then g.qerr else g.qerr ++ [c.q] })
  let s := if dBen d then s.poisonBar w.wid (dBarn d) else s.copyTrap w c 19 0 0 (copyDetail c 0)
  ((s.releaseQwaits w.wid).owe (.deadlock w.wid)).owe (.finish w.wid)

/-- The copy-error trap of a member of a domain reduction whose members disagree: on every member, whatever BEN is (R232). -/
def State.reductionClash (s : State) (w : WG) (c : CopyCmd) : State :=
  ((((s.modWG w.wid (fun g => g.dropCmd c.q c.serial)).copyTrap w c 19 0 0 (copyDetail c 0)).releaseQwaits w.wid).owe
    (.deadlock w.wid)).owe (.finish w.wid)

/-- Whether the members of a domain reduction agree with the command, once all have issued theirs (R232). Members whose OP alone
disagrees clash too. Log 110, DESIGN CHOICE. -/
inductive RedRes where
  | waits
  | clash
  | ready

def State.reduceReady (s : State) (d : Nat) : RedRes :=
  let cs := s.contributions (dTag d)
  let others := s.domainSet.filter (fun n => n != s.lodge.domain)
  if cs.any (fun c => c.elems.length != dCols d || c.ty != dDtype d || c.op != dOp d) then .clash
  else if others.all (fun n => cs.any (fun c => c.device == n)) then .ready else .waits

/-- The bytes lowered from a barrier's PEND by a sector; below -2^55 the barrier trap is raised, imprecise (R220, R223). -/
def State.lowerPend (s : State) (w : WG) (c : CopyCmd) (n : Nat) (secs : List Nat) : State :=
  let d := descNum c.desc
  if !dBen d then s
  else
    let size := s.windowOf w
    let b := dBarn d
    match s.wg? w.wid with
    | none => s
    | some g =>
      let o := g.bar size b
      let p := o.pend - (n : Int)
      if p < -(2 ^ 55 : Int) then s.copyTrap w c 13 4 0 b
      else
        (s.modWG w.wid (fun g =>
          { g.setBar size b { o with pend := p } with
            bsec := SMap.put [] g.bsec b (g.bsec.get [] b ++ secs)
            bclk := SMap.put [] g.bclk b (Clock.join (g.bclk.get [] b) c.clk) })).owe (.bar w.wid b)

/-- A sector written: to global memory under R174 and R192, or to the window. -/
def State.putSector (s : State) (w : WG) (ctx : Nat) (c : CopyCmd) (t : Option Trans) (cells : List Host.Cell) (fl : Nat) :
    State :=
  match t with
  | some tr =>
    let lo := (cells.headD (0, 0)).1
    let pas := cells.map (fun x => (tr.pa + x.1 - lo, x.2))
    let s := (s.setDgen ctx tr).writeM ctx tr.key pas
    let sec := (pas.headD (0, 0)).1 / 32
    s.modWG w.wid (fun g => g.modCmd c.q c.serial (fun c =>
      { c with sectors := c.sectors + 1, fl := c.fl ||| BitVec.ofNat 7 fl, started := true, dests := c.dests ++ [sec] }))
  | none =>
    s.modWG w.wid (fun g =>
      { (g.modCmd c.q c.serial (fun c => { c with sectors := c.sectors + 1, fl := c.fl ||| BitVec.ofNat 7 fl, started := true }))
        with win := cells.foldl (fun m x => SMap.put 0 m x.1 x.2) g.win })

/-- The next sector of a command (R219, R221): it is written, or waits for a page, or ends the command. Log 38, DEDUCED. -/
def State.runSector (s : State) (w : WG) (ctx : Nat) (c : CopyCmd) (es : List CElem) (sec : Nat) : State :=
  let d := descNum c.desc
  let here := inSector sec es
  let s := s.fetchSources ctx c here
  let c := c.readPlaces s w.win ctx here
  let s := s.modWG w.wid (fun g => g.modCmd c.q c.serial (fun _ => c))
  match secRes sec (here.map (fun e => (e, s.elemBytes ctx c e))) with
  | .cause k va => (s.modWG w.wid (fun g => g.dropCmd c.q c.serial)).copyTrap w c 18 0 va (copyDetail c k)
  | .page p va => s.sendFault ctx (if pageOf va = p then va else 65536 * p) .load (.copy w.wid c.q va)
  | .poison l _ => (s.retirePage l).copyFails w c
  | .ok cells fl =>
    let lo := cells.foldl (fun m x => min m x.1) (sec * 32 + 31)
    let sorted := (List.range 32).filterMap (fun i => cells.find? (fun x => x.1 == sec * 32 + i))
    if destGlobal c.cmd (dMode d) then
      match s.checkPage ctx lo false true false with
      | .cause k => if k = 3 then s.sendFault ctx lo .store (.copy w.wid c.q lo)
        else (s.modWG w.wid (fun g => g.dropCmd c.q c.serial)).copyTrap w c 18 0 lo (copyDetail c k)
      | .ok t => (s.putSector w ctx c (some t) sorted fl).lowerPend w c cells.length [t.pa / 32]
    else (s.putSector w ctx c none sorted fl).lowerPend w c cells.length []

/-- The elements of a command that stands ready at the head of its queue: none where it waits for a slot, or for the other
members of a domain reduction. The index list is read when the command starts (R218). -/
def CopyCmd.elems (c : CopyCmd) (w : WG) : List CElem :=
  let d := descNum c.desc
  elemsOf c.cmd d (c.taken.getD 0) (c.idx.getD (readList w.win c.cmd d))

/-- A command's slot of its buffer: taken, or the buffer unused. -/
def CopyCmd.hasSlot (c : CopyCmd) : Bool := !dCben (descNum c.desc) || c.taken.isSome

/-- A domain reduction. -/
def CopyCmd.isReduction (c : CopyCmd) : Bool := c.cmd = 2 && dMode (descNum c.desc) = 2

/-- A copy queue waits for the answer to a page fault (R221, R258). -/
def State.copyStalled (s : State) (wid q : Nat) : Bool :=
  s.faults.any (fun f => f.srcs.any (fun x => match x with | .copy v p _ => v == wid && p == q | _ => false))

/-- The command at a queue's head may run: the launch runs, the command has its slot; a command behind an error is discarded
(R221). `act` gets the state, the workgroup, the context and the command, its index list read. Log 33, DEDUCED. Log 40, DEDUCED. -/
def State.runHead (s : State) (wid q : Nat) (act : State → WG → Nat → CopyCmd → State) : State :=
  match s.wg? wid with
  | none => s
  | some w => match w.head? q, s.launch? w.lid with
    | some c, some l =>
      if !l.runs || !s.coreUp w.core || c.cmd = 0 || s.copyStalled wid q then s
      else if w.qerr.contains q then s.copyFails w c
      else if !c.hasSlot then s
      else
        let c' := { c with idx := some (c.idx.getD (readList w.win c.cmd (descNum c.desc))) }
        let s := s.modWG wid (fun g => g.modCmd q c.serial (fun _ => c'))
        if c.isReduction then
          match s.reduceReady (descNum c.desc) with
          | .waits => s
          | .clash => s.reductionClash w c'
          | .ready => act s w l.ctx c'
        else act s w l.ctx c'
    | _, _ => s

/-- COPY_SLOT_TAKE: the head command takes the next slot of its buffer, where one is free (R146); what was released with the
slot precedes the copy (R147). -/
def execCopySlotTake (wid q : Nat) (s : State) : Host.Outcome State Fault Refusal :=
  .next (match s.wg? wid with
    | none => s
    | some w => match w.head? q with
      | none => s
      | some c =>
        let d := descNum c.desc
        let b := w.cb (dCbuf d)
        if c.cmd = 0 || !dCben d || c.taken.isSome || b.free = 0 || !s.coreUp w.core
          || !((s.launch? w.lid).map (fun l => l.runs)).getD false then s
        else s.modWG wid (fun g =>
          (g.modCmd q c.serial (fun c => { c with taken := some b.widx, clk := g.sclk.get [] (256 * dCbuf d + b.widx) })).modCb (dCbuf d)
            (fun b => { b with free := b.free - 1, widx := (b.widx + 1) % b.slots })))

/-- COPY_SECTOR_WRITE: the next sector but the last, which COPY_COMPLETE writes (R219, R220). Log 8, DESIGN CHOICE. Log 33, DEDUCED. -/
def execCopySectorWrite (wid q : Nat) (s : State) : Host.Outcome State Fault Refusal :=
  .next (s.runHead wid q (fun s w ctx c =>
    let es := c.elems w
    let secs := sectorsOf es
    if secs.length ≤ c.sectors + 1 then s
    else match secs[c.sectors]? with
      | none => s
      | some sec => s.runSector w ctx c es sec))

/-- The completion of the copy of a slot: FILLED counts it and each next slot that has completed (R146); the fuel is SLOTS. -/
def WG.countSlots (n : Nat) : Nat → WG → WG
  | 0, w => w
  | k + 1, w =>
    let b := w.cb n
    let next := if b.slots = 0 then 0 else (b.ridx + b.filled) % b.slots
    match w.queues.flatten.find? (fun c => c.done && dCben (descNum c.desc) && dCbuf (descNum c.desc) == n && c.taken == some next) with
    | none => w
    | some c =>
      WG.countSlots n k (((w.dropCmd c.q c.serial).modCb n (fun b => { b with filled := b.filled + 1 })))

/-- A completed command: its flags, its stamps, its buffer slot, what a queue wait will find, and the waits that it ends
(R131, R146, R168, R192, R220). -/
def State.completeCmd (s : State) (wid : Nat) (c : CopyCmd) : State :=
  let d := descNum c.desc
  let fl := c.fl.toNat
  let s := c.stampIn.foldl (fun (s : State) n => s.modWG wid (fun g => g.modStamp n (fun z => { z with t2 := s.now }))) s
  let s := c.stampOut.foldl (fun (s : State) n =>
    (s.modWG wid (fun g => g.modStamp n (fun z => { z with t6 := s.now }))).writeStamp wid n false false) s
  let s := s.modWG wid (fun g =>
    let g := g.orFlags fl
    let clk := g.flagClock fl c.clk
    let g := { g with qdone := SMap.put ([], 0) g.qdone (8 * c.serial + c.q) (c.dests.eraseDups, fl) }
    let g := if dBen d then { g with bclk := SMap.put [] g.bclk (dBarn d) (Clock.join (g.bclk.get [] (dBarn d)) clk) } else g
    if dCben d then
      let k := 256 * dCbuf d + c.taken.getD 0
      let g := { g with sclk := SMap.put [] g.sclk k clk, ssec := SMap.put [] g.ssec k c.dests.eraseDups }
      (g.modCmd c.q c.serial (fun c => { c with done := true })).countSlots (dCbuf d) 256
    else g.dropCmd c.q c.serial)
  let s := if c.isReduction then { s with reductions := s.reductions.filter (fun r => r.tag != dTag d) } else s
  ((s.releaseQwaits wid).owe (.deadlock wid)).owe (.finish wid)

/-- COPY_COMPLETE: the last sector, if one is left, and the completion (R220). Log 33, DEDUCED. -/
def execCopyComplete (wid q : Nat) (s : State) : Host.Outcome State Fault Refusal :=
  .next (s.runHead wid q (fun s w ctx c =>
    let es := c.elems w
    let secs := sectorsOf es
    if c.sectors + 1 < secs.length then s
    else
      let s1 := match secs[c.sectors]? with
        | none => s
        | some sec => s.runSector w ctx c es sec
      match ((s1.wg? wid).bind (fun g => g.head? q)).filter (fun e => e.serial == c.serial && secs.length ≤ e.sectors) with
      | some e => s1.completeCmd wid e
      | none => s1))

/-- DOMAIN_REDUCTION_ARRIVAL: another member's contribution (R232). Log 39, DESIGN CHOICE. -/
def execDomainReductionArrival (c : Contribution) (s : State) : Host.Outcome State Fault Refusal :=
  .next (
    let add := fun (r : Reduction) => { r with contribs := r.contribs.filter (fun o => o.device != c.device) ++ [c] }
    if s.reductions.any (fun r => r.tag == c.tag) then
      { s with reductions := s.reductions.map (fun r => if r.tag = c.tag then add r else r) }
    else { s with reductions := s.reductions ++ [⟨c.tag, [c]⟩] })

/-! ## Circular buffers -/

/-- The buffer number of a word in a lane (R314). -/
def cbNum (x : Path) (w : FWord) (ln : Lane) : Nat := x.read32 ln w.a

/-- The checks of a buffer word (R314). -/
def cbChecks (w : FWord) (more : List (Nat × (Lane → Nat))) (x : Path) : Checks :=
  let bad := fun (ln : Lane) => if x.l.hdr.cbufs ≤ cbNum x w ln then [14] else []
  match w.a with
  -- the word and the declared counts decide (R102)
  | .imm _ => { decl := ((x.lanes.head?).map bad).getD [], uniform := (1, cbNum x w) :: more }
  | _ => { lane := bad, uniform := (1, cbNum x w) :: more }

/-- A thread that has acquired a slot: d written; what the copy wrote precedes (R147, R315). -/
def Thread.acquired (t : Thread) (g : WG) (n slot : Nat) (d : Opnd) : Thread :=
  let t := { t with vc := Clock.join t.vc (g.sclk.get [] (256 * n + slot)) }
  match d with
  | .v r => t.setV r.toNat [BitVec.ofNat 32 slot]
  | _ => t

/-- The acquire of a filled slot by some threads of a group (R146). -/
def State.acquire (s : State) (w : WG) (gid n : Nat) (d : Opnd) (tids : List Nat) : State :=
  let slot := (w.cb n).ridx
  let s := s.modWG w.wid (fun g =>
    let g := g.modCb n (fun b => { b with filled := b.filled - 1, held := b.held + 1, ridx := (b.ridx + 1) % b.slots })
    (g.modThreads (fun i t => if tids.contains i then t.acquired w n slot d else t)).setS gid d [BitVec.ofNat 32 slot])
  s.refreshSectors w.core (w.ssec.get [] (256 * n + slot))

/-- CBACQ (R146, R315): a filled slot is acquired at once; else the executing threads block. Log 82, DEDUCED. -/
def execCbacq (w : FWord) (s : State) : Host.Outcome State Fault Refusal :=
  s.word (.cbacq w) (cbChecks w []) (fun x s =>
    match x.exec w.hd with
    | [] => s
    | ln :: ls =>
      let n := cbNum x w ln
      let b := x.w.cb n
      if b.slots = 0 then x.onceTrap s w.hd 11 0 0 n
      else if b.filled = 0 then x.block s w.hd (fun _ => .cbuf n w.d)
      else x.advance (s.acquire x.w x.g.gid n w.d ((ln :: ls).map (fun l => l.tid))) w.hd.hold)

/-- CBREL frees the oldest held slot; what the releasing threads have done precedes the next copy into it (R146, R147). -/
def execCbrel (w : FWord) (s : State) : Host.Outcome State Fault Refusal :=
  s.word (.cbrel w) (cbChecks w []) (fun x s =>
    match x.exec w.hd with
    | [] => s
    | ln :: ls =>
      let n := cbNum x w ln
      let b := x.w.cb n
      if b.slots = 0 || b.held = 0 then x.onceTrap s w.hd 11 0 0 n
      else
        let slot := (b.ridx + b.slots - b.held % b.slots) % b.slots
        let k := 256 * n + slot
        x.finish s w.hd.hold (fun _ => x.next) (fun _ t => t) (fun g =>
          { g.modCb n (fun b => { b with held := b.held - 1, free := b.free + 1 }) with
            sclk := SMap.put [] g.sclk k ((ln :: ls).foldl (fun c l => Clock.join c (l.t.clock (x.uid l))) (g.sclk.get [] k)) }))

/-- CBREL.CFG configures a buffer with a count of 1 to 255 slots (R146, R316). -/
def execCbrelCfg (w : FWord) (s : State) : Host.Outcome State Fault Refusal :=
  s.word (.cbrelCfg w) (fun x => cbChecks w [(2, fun ln => x.read32 ln w.b)] x) (fun x s =>
    match x.exec w.hd with
    | [] => s
    | ln :: _ =>
      let n := cbNum x w ln
      let c := x.read32 ln w.b
      if (x.w.cb n).slots ≠ 0 || c = 0 || 255 < c then x.onceTrap s w.hd 11 0 0 n
      else x.finish s w.hd.hold (fun _ => x.next) (fun _ t => t)
        (fun g => g.modCb n (fun _ => { CBuf.reset with slots := c, free := c })))

/-- The buffer and the destination of a thread that waits at a CBACQ. -/
def Thread.cbufWait (t : Thread) : Option (Nat × Opnd) :=
  match t.run with
  | .wait (.cbuf n d) => some (n, d)
  | _ => none

/-- Whether a thread waits at a CBACQ. -/
def Thread.onCbuf (t : Thread) : Bool := t.cbufWait.isSome

/-- The paths of a group that wait at a CBACQ, the lowest PC first: PC, buffer and destination (R315). -/
def WG.cbufPaths (w : WG) (gid : Nat) : List (Nat × Nat × Opnd) :=
  let ts := w.threads.filter (fun t => t.gid == gid && t.onCbuf)
  (unionSet (ts.map (fun t => t.pc)) []).flatMap (fun pc =>
    (((ts.filter (fun t => t.pc == pc)).filterMap Thread.cbufWait).dedup).map (fun e => (pc, e)))

/-- A path that waits at a CBACQ tries again: it acquires where its buffer has a filled slot (R146, R315). -/
def State.retryPath (wid gid : Nat) (s : State) (k : Nat × Nat × Opnd) : State :=
  match s.wg? wid with
  | none => s
  | some w =>
    let tids := (w.threads.zipIdx.filter (fun p => p.1.gid == gid && p.1.pc == k.1 && p.1.cbufWait == some k.2)).map (·.2)
    if (w.cb k.2.1).slots = 0 || (w.cb k.2.1).filled = 0 then s
    else (s.acquire w gid k.2.1 k.2.2 tids).modWG wid (fun v => v.modThreads (fun i t => if tids.contains i then t.release else t))

/-- CBACQ_RETRY: every path of a group that waits at a CBACQ tries again, the one with the lowest PC first (R146, R315); in a
deterministic launch only the group whose turn it is (R46, R147). Log 82, DEDUCED. -/
def execCbacqRetry (wid gid : Nat) (s : State) : Host.Outcome State Fault Refusal :=
  .next (match s.wg? wid with
    | none => s
    | some w => match w.group? gid, s.launch? w.lid with
      | some g, some l =>
        if !l.runs || g.parked || !s.coreUp w.core || !s.mayRun w.core w g then s
        else (w.cbufPaths gid).foldl (State.retryPath wid gid) s
      | _, _ => s)

end Sys2Proof.Machine
end

