-- ==== Sys2Proof/Machine/Phase.lean ====
section
/-! DEFINITION. PHASE in its three modes, and FENCE (R180, R182 to R186, R191). -/

namespace Sys2Proof.Machine

/-- SCOPE of a PHASE word (R184). -/
def phaseScope (w : FWord) : Nat := bitsOf (FSpec w) 2 2

/-- The publish of a path: the stores of its executing threads and what precedes them (R183). -/
def Path.publishes (x : Path) (s : State) (ls : List Lane) : State :=
  s.publish x.w.core (fun u => ls.any (fun ln => u.precedes (x.uid ln) ln.t.vc))

/-- A PHASE word (R184, R185): the publish, then the refresh in the scope; the phase ordinal counts publishes, and each
executing thread counts the word (R191). The publish and the refresh complete within the step. Log 22, DESIGN CHOICE. -/
def State.phaseWord (s : State) (i : Instr) (w : FWord) (pub ref : Bool) : Host.Outcome State Fault Refusal :=
  s.word i (fun _ => {}) (fun x s =>
    let ex := x.exec w.hd
    let s := if pub then x.publishes s ex else s
    let s := if ref then s.refresh x.w.core (phaseScope w) else s
    let s := if pub then s.modCore x.w.core (fun c => { c with phase := c.phase + 1 }) else s
    x.finish s w.hd.hold (fun _ => x.next) (fun ln t => if ln.t.executes w.hd then { t with phc := t.phc + 1 } else t) id)

def execPhasePub (w : FWord) (s : State) : Host.Outcome State Fault Refusal := s.phaseWord (.phasePub w) w true false

def execPhaseRef (w : FWord) (s : State) : Host.Outcome State Fault Refusal := s.phaseWord (.phaseRef w) w false true

def execPhase (w : FWord) (s : State) : Host.Outcome State Fault Refusal := s.phaseWord (.phase w) w true true

/-- FENCE orders each executing thread's earlier accesses before its later ones; it neither publishes nor refreshes
(R186). -/
def execFence (w : FWord) (s : State) : Host.Outcome State Fault Refusal :=
  s.word (.fence w) (fun _ => {}) (fun x s =>
    x.finish s w.hd.hold (fun _ => x.next) (fun ln t => if ln.t.executes w.hd then t.fence (x.uid ln) else t) id)

end Sys2Proof.Machine
end

