-- ==== Sys2Proof/Machine/CodeVersions.lean ====
section
/-! DEFINITION. CVPUT, CVSEAL and LAUNCH, the kernel headers and the launch records (R24, R44, R235 to R237, R245, R248, R249,
R321 to R324, R364 to R366). -/

namespace Sys2Proof.Machine

/-! ## Images and headers -/

/-- The 512 bits of kernel header k (R248). -/
def headerBits (img : List Byte) (k : Nat) : Nat := natOfBytes ((img.drop (64 + 64 * k)).take 64)

/-- Kernel header k as its fields (R248). -/
def headerOf (img : List Byte) (k : Nat) : Hdr :=
  let x := headerBits img k
  { entry := bitsOf x 0 32, gsz := bitsOf x 32 2, dx := bitsOf x 34 11, dy := bitsOf x 45 11, dz := bitsOf x 56 11,
    regs := bitsOf x 67 8, scr := bitsOf x 75 9, acc := bitsOf x 84 9, stat := bitsOf x 93 3, queues := bitsOf x 96 4,
    cbufs := bitsOf x 100 5, stages := (List.range 8).map (fun i => bitsOf x (105 + 7 * i) 7), pin := bitOf x 161,
    det := bitOf x 162, idem := bitOf x 163, level := bitsOf x 164 2 }

/-- The stage counts keep R44. -/
def Hdr.stagesOk (h : Hdr) : Bool := h.stages.headD 0 = 1 && h.stages.sum * h.g = h.n

/-- The conditions of R323 on one header of an image of a size. -/
def headerOk (img : List Byte) (k : Nat) : Bool :=
  let h := headerOf img k
  bitsOf (headerBits img k) 166 346 = 0 && h.gsz ≠ 3
  && 1 ≤ h.n && h.n ≤ 1024 && h.n % h.g = 0
  && h.regs % 2 = 0 && 2 ≤ h.regs && h.regs ≤ 128 && 2 ≤ h.scr && h.scr ≤ 256
  && h.acc ≤ 256 && h.stat ≤ 4 && h.queues ≤ 8 && h.cbufs ≤ 16
  && h.stagesOk && (h.level = 1 || h.level = 2)
  && h.entry % 8 = 0 && h.entry < img.length

/-- Whether an image passes every check of R323. -/
def imageOk (img : List Byte) : Bool :=
  let n := kernelCount img
  1 ≤ n && 64 + 64 * n ≤ img.length && (List.range n).all (headerOk img)

/-- The digest CODEDIG of a version (R70, R248). -/
def CodeVer.digest (v : CodeVer) : BitVec 256 := sha3d v.image

/-! ## CVPUT, CVSEAL -/

/-- The sealed version of a context with a number (R248). -/
def State.version (s : State) (ctx num : Nat) : Option CodeVer := s.codes.find? (fun v => v.ctx == ctx && v.num == num)

/-- Size(base) (R322). -/
def State.baseSize (s : State) (ctx base : Nat) : Nat := ((s.version ctx base).map (fun v => v.image.length)).getD 0

/-- Eight bytes written into an open image, which grows with zeros where it must (R322). -/
def putImage (img : List Byte) (o : Nat) (x : Nat) : List Byte :=
  let img := img ++ List.replicate (o + 8 - img.length) 0
  img.take o ++ bytesOf 8 x ++ img.drop (o + 8)

/-- Handle h of a context. -/
def Ctx.handle (c : Ctx) (h : Nat) : Option Handle := c.handles.getD h none

def Ctx.setHandle (c : Ctx) (h : Nat) (v : Option Handle) : Ctx :=
  { c with handles := ((List.range 4).map c.handle).mapIdx (fun i x => if i = h then v else x) }

/-- The image that a CVPUT writes into: an open handle on the same base, or a fresh image of a sealed base; none where the
code-version trap is raised (R322). -/
def State.openImage (s : State) (ctx h base : Nat) : Option (List Byte) :=
  match (s.ctx ctx).handle h with
  | some v => if v.base = base then some v.image else none
  | none => if base = 0 then some [] else (s.version ctx base).map (fun v => v.image)

/-- CVPUT (R322). -/
def execCvput (w : FWord) (s : State) : Host.Outcome State Fault Refusal :=
  s.word (.cvput w) (fun x => { uniform := [(1, fun ln => x.pair ln w.a)] }) (fun x s =>
    match x.exec w.hd with
    | [] => s
    | ln :: ls =>
      let h := FSpec w % 4
      let base := x.pair ln w.a
      let ofs := fun (l : Lane) => x.read32 l w.b
      let bad := (ln :: ls).filter (fun l => ofs l % 8 ≠ 0 || s.baseSize x.ctx base + 1048576 ≤ ofs l)
      match s.openImage x.ctx h base with
      | none => x.onceTrap s w.hd 16 0 0 h
      | some img =>
        if !bad.isEmpty then x.trap s 16 (bad.map (fun l => (l, 0, 0, h)))
        else
          let img := (ln :: ls).foldl (fun m l => putImage m (ofs l) (x.pair l w.c)) img
          (x.finish s w.hd.hold (fun _ => x.next) (fun _ t => t) (fun g => { g with noRelaunch := true })).modCtx x.ctx
            (fun c => c.setHandle h (some ⟨base, img⟩)))

/-- The end of CVSEAL: d takes a number (R323). Log 7, DESIGN CHOICE. -/
def Path.sealed (x : Path) (s : State) (w : FWord) (n : Nat) : State :=
  x.finish s w.hd.hold (fun _ => x.next) (fun _ t => t) (fun g => g.setS x.g.gid w.d (wordsOf 2 n))

/-- Where the image of a newly sealed version is mapped: a multiple of 8 below 2^55, as every PC is (R85, R86, R173, R313). Log 4, DESIGN
CHOICE. -/
def codeBaseOf (ctx n size : Nat) : Nat := Config.codeBase ctx n size % 2 ^ 52 * 8

/-- CVSEAL: the image becomes a sealed version under the context's next number, or stays open where a header fails (R323);
T_seal is time only. -/
def execCvseal (w : FWord) (s : State) : Host.Outcome State Fault Refusal :=
  s.word (.cvseal w) (fun _ => {}) (fun x s =>
    let h := FSpec w % 4
    match (s.ctx x.ctx).handle h with
    | none => x.sealed s w 0
    | some v =>
      if !imageOk v.image then x.sealed s w 0
      else
        let n := (s.ctx x.ctx).nextVer
        let s1 := (x.sealed s w n).modCtx x.ctx (fun c => { c.setHandle h none with nextVer := n + 1 })
        { s1 with codes := s1.codes ++ [⟨x.ctx, n, v.image, codeBaseOf x.ctx n v.image.length⟩] })

/-! ## Launch records -/

/-- The 128 bytes of a launch record as one number (R236). -/
def recNum (r : List DWord) : Nat := natOfBytes (r.flatMap (fun d => bytesOf 8 d.toNat))

/-- Sixteen 64-bit words of 128 bytes. -/
def recWords (n : Nat) : List DWord := (List.range 16).map (fun i => BitVec.ofNat 64 (bitsOf n (64 * i) 64))

/-- A queue's ring: where packet i lies, and its capacity (R234, R235). -/
def QDesc.capacity (q : QDesc) : Nat := 2 ^ (q.size + 4)
def QDesc.packetVa (q : QDesc) (i : Nat) : Nat := q.ring + 128 * (i % q.capacity)

/-- The ring of a queue is full. -/
def QDesc.full (q : QDesc) : Bool := q.capacity ≤ (q.wr + 2 ^ 32 - q.rd) % 2 ^ 32

/-- The record that reaches the ring: PARENT and LID filled in (R365). -/
def childRecord (n parent lid : Nat) : Nat := putBits (putBits n 384 64 parent) 448 64 lid

/-- LAUNCH's last step: the record reaches the ring, WR advances, and d takes the child's LID, or 0 in a deterministic
launch (R365). -/
def Path.handOver (x : Path) (s : State) (w : FWord) (q : Nat) (record : Nat) (t : Trans) : State :=
  let lid := s.lidNext
  let s := (s.setDgen x.ctx t).writeM x.ctx t.key (cellsAt t.pa (bytesOf 128 (childRecord record x.l.lid lid)))
  let s := s.modQueue q (fun d => { d with wr := (d.wr + 1) % 2 ^ 32, devRecs := d.devRecs ++ [(d.wr, x.l.lid, lid)] })
  let s := s.modLaunch x.l.lid (fun l => { l with children := l.children ++ [lid] })
  x.finish { s with lidNext := lid + 1 } w.hd.hold (fun _ => x.next) (fun _ t => { t with launchAt := none })
    (fun g => { g.setS x.g.gid w.d (wordsOf 2 (if x.l.isDet then 0 else lid)) with noRelaunch := true })

/-- How far the LAUNCH of some lanes has come, where they have come as far together (R365). -/
def launchStage (ls : List Lane) : Option (Option Nat) :=
  match ls with
  | ln :: _ => if ls.all (fun l => l.t.launchAt == ln.t.launchAt) then ln.t.launchAt else none
  | [] => none

/-- The LAUNCH of some lanes has come so far. -/
def Path.stageAt (x : Path) (s : State) (ls : List Lane) (z : Option (Option Nat)) : State :=
  s.modWG x.w.wid (fun g => g.modThreads (fun i t => if ls.any (fun l => l.tid == i) then { t with launchAt := z } else t))

/-- The last step of LAUNCH: the wait for room in the ring, and the hand-over of a record (R365). -/
def Path.intoRing (x : Path) (s : State) (w : FWord) (q record : Nat) : State :=
  let d := s.queue q
  let va := d.packetVa d.wr
  let ls := x.exec w.hd
  if d.full then s
  else match s.access x.ctx va 128 1 false true false with
    | .error c => if c = 3 then x.pageWait s .store (s.faultPage x.ctx va 128) (ls.map (fun l => (l, va))) else x.onceTrap s w.hd 9 c va 0
    | .ok us => x.handOver s w q record (oneTrans us)

/-- LAUNCH (R245, R365): the checks, the publish of the core, the reading of the record, the wait for room, the hand-over. A full ring
or an absent page keeps the path at the word; what has been done by then is not done again. Log 30, DEDUCED. -/
def execLaunch (w : FWord) (s : State) : Host.Outcome State Fault Refusal :=
  s.word (.launch w)
    (fun x => { lane := fun ln =>
      let q := x.read32 ln w.a
      if 4096 ≤ q || (s.queue q).ctx ≠ x.ctx then [14] else [] })
    (fun x s =>
      match x.exec w.hd with
      | [] => s
      | ln :: _ =>
        let q := x.read32 ln w.a
        let ra := x.pair ln w.b
        let ls := x.exec w.hd
        if ra % 128 ≠ 0 then x.onceTrap s w.hd 9 1 ra 0
        else match launchStage ls with
          | some (some r) => x.intoRing s w q r
          | stage =>
            let s := if stage.isSome then s else x.stageAt (x.publishes s ls) ls (some none)
            match s.access x.ctx ra 128 128 true false false with
            | .error c =>
              if c = 3 then x.pageWait s .load (s.faultPage x.ctx ra 128) (ls.map (fun l => (l, ra))) else x.onceTrap s w.hd 9 c ra 0
            | .ok ts =>
              let t := oneTrans ts
              match s.poisoned t.pa 128 with
              | some e => (x.onceTrap s w.hd 22 0 ra e.2).retirePage e.1
              | none =>
                let r := natOfBytes (s.mem.readN t.key t.pa 128)
                x.intoRing (x.stageAt s ls (some (some r))) w q r)

end Sys2Proof.Machine
end

