-- ==== Sys2Proof/Machine/Collective.lean ====
section
/-! DEFINITION. The group collectives (R128, R129, R340 to R347). -/

namespace Sys2Proof.Machine

/-- A collective: `f` gives a participant's result from its lane and the list of participants; every source is read before
any lane writes (R340). -/
def State.collective (s : State) (i : Instr) (w : FWord) (hd : Head) (decl : Path → List Nat)
    (f : Path → List Lane → Lane → LaneRes) : Host.Outcome State Fault Refusal :=
  s.alu i w.d decl (fun _ x ln => f x (x.exec hd) ln)

/-- A participant by its %lane. -/
def atLane (ps : List Lane) (j : Nat) : Option Lane := ps.find? (fun ln => ln.lane == j)

/-- GSHFL: MODE in SPEC[4:3], PV in SPEC[2:0] (R346). -/
def execGshfl (w : FWord) (s : State) : Host.Outcome State Fault Refusal :=
  s.collective (.gshfl w) w w.hd (fun _ => []) (fun x ps ln =>
    let j := ln.lane
    let k := x.read32 ln w.b
    let src : Option Nat := match bitsOf (FSpec w) 3 2 with
      | 0 => some k
      | 1 => if k ≤ j then some (j - k) else none
      | 2 => some (j + k)
      | _ => some (j ^^^ k)
    let from? := src.bind (fun m => if m < x.gsz then atLane ps m else none)
    resultIn w.d (regsOf w.ty) (x.read (from?.getD ln) w.ty w.a) 0 [(FSpec w % 8, from?.isSome)])

/-- GBFLY: PV in SPEC[5:3], LM in SPEC[2:0] (R341). -/
def execGbfly (w : FWord) (s : State) : Host.Outcome State Fault Refusal :=
  s.collective (.gbfly w) w w.hd (fun x => if x.gsz ≤ 2 ^ (FSpec w % 8) then [14] else []) (fun x ps ln =>
    let p := ln.lane ^^^ 2 ^ (FSpec w % 8)
    let r := match atLane ps p with
      | some q => x.read q w.ty (if p.testBit (FSpec w % 8) then w.a else w.b)
      | none => x.read ln w.ty w.a
    resultIn w.d (regsOf w.ty) r 0 [(bitsOf (FSpec w) 3 3, (atLane ps p).isSome)])

/-- The leaves of the tree: the participants' values by %lane, others absent (R128); .ftz flushes a value as it is read
(R345). -/
def leaves (x : Path) (w : FWord) (ps : List Lane) : List RVal :=
  (List.range x.gsz).map (fun j => (atLane ps j).map (fun ln =>
    let v := x.read ln w.ty w.a
    (if isFloat w.ty then flushIn (fmtOf w.ty) (FFtz w) v else v, 0)))

/-- The Combine that OP in SPEC[2:0], the type and the modifiers name (R344). -/
def combineOf (w : FWord) : Nat → Nat → Nat × Nat :=
  combineOp (FSpec w % 8) w.ty (rndOf (FRnd w)) (FSat w) (FFtz w)

/-- log2 of a group size. -/
def logG (g : Nat) : Nat := Nat.log2 g

/-- A reduction value, or the identity where nothing was combined (R345). -/
def redResult (w : FWord) (v : RVal) : LaneRes :=
  let r := v.getD (identityOp (FSpec w % 8) w.ty, 0)
  resultIn w.d (regsOf w.ty) r.1 r.2 []

/-- GRED: the root of the tree to every participant (R345). -/
def execGred (w : FWord) (s : State) : Host.Outcome State Fault Refusal :=
  s.collective (.gred w) w w.hd (fun _ => []) (fun x ps _ =>
    redResult w (treeOf (combineOf w) (logG x.gsz) (leaves x w ps)))

/-- GSCAN: the prefix to each participant, EX in SPEC[3] (R345). -/
def execGscan (w : FWord) (s : State) : Host.Outcome State Fault Refusal :=
  s.collective (.gscan w) w w.hd (fun _ => []) (fun x ps ln =>
    redResult w (prefixOf (combineOf w) (logG x.gsz) (leaves x w ps)
      (if bitOf (FSpec w) 3 then ln.lane else ln.lane + 1) none))

/-- GVOTE: MODE in SPEC[1:0], PD in SPEC[4:2] (R347). -/
def execGvote (w : FWord) (s : State) : Host.Outcome State Fault Refusal :=
  s.collective (.gvote w) w w.hd
    (fun x => if FSpec w % 4 = 3 && w.ty == .b32 && x.gsz == 64 then [14] else [])
    (fun x ps _ =>
      let vs := ps.map (fun p => x.read32 p w.a)
      let truth := match FSpec w % 4 with
        | 0 => vs.all (fun v => v != 0)
        | 1 => vs.any (fun v => v != 0)
        | _ => vs.all (fun v => v == vs.headD 0)
      let ballot := ofBits (fun i => (atLane ps i).any (fun p => x.read32 p w.a != 0)) 64
      if FSpec w % 4 = 3 then resultIn w.d (regsOf w.ty) ballot 0 []
      else resultIn w.d 1 (bit1 truth) 0 [(bitsOf (FSpec w) 2 3, truth)])

/-- GMATCH: the mask of equal participants (R342). -/
def execGmatch (w : FWord) (s : State) : Host.Outcome State Fault Refusal :=
  s.collective (.gmatch w) w w.hd (fun x => if FSpec w % 2 = 0 && x.gsz == 64 then [14] else []) (fun x ps ln =>
    let v := x.read ln w.ty w.a
    resultIn w.d (FSpec w % 2 + 1) (ofBits (fun i => (atLane ps i).any (fun p => x.read p w.ty w.a == v)) 64) 0 [])

/-- GRANK: how many equal participants, below the lane or at all (R342). -/
def execGrank (w : FWord) (s : State) : Host.Outcome State Fault Refusal :=
  s.collective (.grank w) w w.hd (fun _ => []) (fun x ps ln =>
    let v := x.read ln w.ty w.a
    resultIn w.d 1 ((ps.filter (fun p =>
      x.read p w.ty w.a == v && (FSpec w % 2 = 1 || decide (p.lane < ln.lane)))).length) 0 [])

end Sys2Proof.Machine
end

