-- ==== Sys2Proof/Machine/Launches.lean ====
section
/-! DEFINITION. Partitions and bindings, bind records, placement, residency, completion and the completion signal (R18 to R22, R24 to
R28, R44, R50, R51, R148, R237 to R244, R247, R250). -/

namespace Sys2Proof.Machine

/-! ## The group binding table -/

/-- Lodge firmware acts only once it is ready (R268). Log 85, DEDUCED. -/
def State.up (s : State) : Bool := s.lodge.ready

/-- ST of a group binding entry set by the device (R18). -/
def State.setSt (s : State) (key st : Nat) : State :=
  { s with gbt := s.gbt.put 0 key (BitVec.ofNat 64 (putBits (s.gbe key).toNat 61 2 st)) }

/-- A physical core is out of service for the entries that name it: it has left service and has not passed its test (R18, R266). -/
def State.coreOut (s : State) (pcore : Nat) : Bool :=
  match s.service .core pcore with
  | .inService | .draining => false
  | .outOfService | .underTest | .retired => true

/-- ST of an entry as a write leaves it: target out of service where it binds its logical core to a core that is, else as it stood (R18). Log
42, DEDUCED. -/
def State.newSt (s : State) (key e : Nat) : Nat := if bitOf e 63 && s.coreOut (gbPcore e) then 3 else s.gbSt key

/-- GROUP_BINDING_ENTRY_WRITE (R18, R19): a write that a field rejects, or one to an entry that is neither idle nor saved, sets the
binding-error bit; reserved bits are not stored. A TURN of 2^MUXL or more is stored as it is. Log 42, DEDUCED. Log 101, DESIGN CHOICE. -/
def execGroupBindingEntryWrite (index : Nat) (entry : DWord) (s : State) : Host.Outcome State Fault Refusal :=
  .next (
    let e := entry.toNat
    if !s.up || 4096 ≤ index then s
    else if gbPart e ≠ index / 256 || 5 ≤ gbMuxl e || 272 ≤ gbPcore e || s.gbSt index % 2 = 1 then s.bindError
    else
      let keep := putBits (putBits (putBits e 61 2 (s.newSt index e)) 52 9 0) 46 2 0
      { s with gbt := s.gbt.put 0 index (BitVec.ofNat 64 keep) })

/-- Two group binding entries at most 256 apart, for the checks of R20. -/
def pairsOk (ok : Nat → Nat → Bool) : List Nat → Bool
  | [] => true
  | e :: es => es.all (ok e) && pairsOk ok es

/-- The physical cores that the entries of a partition name, each once. -/
def State.partCores (s : State) (p : Nat) : List Nat :=
  unionSet ((List.range 256).map (fun i => gbPcore (s.gbe (256 * p + i)).toNat)) []

/-- The cores of a polder that serve (R23). -/
def State.serving (s : State) (polder : Nat) : Nat :=
  ((List.range 68).filter (fun c => s.service .core (68 * polder + c) == .inService)).length

/-- The conditions of R20, R21 and R23 on a partition's entries; a TURN of 2^MUXL or more breaks none of them. Log 101, DESIGN CHOICE. -/
def State.partOk (s : State) (p : Nat) : Bool :=
  let es := (List.range 256).map (fun i => (s.gbe (256 * p + i)).toNat)
  let cs := s.partCores p
  let c := cs.length
  let polders := unionSet (cs.map (· / 68)) []
  es.all (fun e => bitOf e 63)
  && cs.all (fun k => s.service .core k == .inService
      && (List.range 16).all (fun q => q = p || !(s.part q).started || !(s.partCores q).contains k))
  && [16, 32, 64, 128, 256].contains c
  && es.all (fun e => c * 2 ^ gbMuxl e = 256)
  && (if c ≤ 64 then polders.length = 1 else polders.length = c / 64)
  && (c < 64 || polders.all (fun k => 64 ≤ s.serving k))
  && (c ≠ 256 || (List.range 256).all (fun i => gbPcore (es.getD i 0) / 68 = i / 64))
  && pairsOk (fun a b => gbPcore a ≠ gbPcore b || gbTurn a ≠ gbTurn b) es
  && pairsOk (fun a b => gbSave a ≠ gbSave b) es

/-- A partition with the trace ring that the lodge names for it; SPER lies from 8 to 20 (R282). Log 73, DESIGN CHOICE. -/
def Part.traced (p : Part) : Option (Nat × Nat × Nat) → Part
  | some (sper, base, n) =>
    if 8 ≤ sper && sper ≤ 20 && n ≠ 0 then { p with trace := true, sper := sper, traceBase := base, traceSize := n, traceCount := 0 } else p
  | none => p

/-- PARTITION_START (R20, R246): the start is rejected with the binding-error bit, or the partition starts, its ck counter is reset, and
the lodge names its trace ring (R282). Its power state is POWER's to change, or a bind's (R296). Log 85, DEDUCED. -/
def execPartitionStart (part : Nat) (s : State) : Host.Outcome State Fault Refusal :=
  .next (
    if !s.up || 16 ≤ part || (s.part part).started then s
    else if !s.partOk part then s.bindError
    else s.modPart part (fun p =>
      { p with started := true, cores := (s.partCores part).length, ckStart := s.ck, nextPlace := s.ck }.traced (Config.traceRing part)))

/-- Whether some launch of a partition is bound (R247). -/
def Launch.binds (l : Launch) (p : Nat) : Bool := l.part == p && l.slot.isSome

/-- LOCKED_CLOCK_MODE (R247). -/
def execLockedClockMode (part : Nat) (on : Bool) (s : State) : Host.Outcome State Fault Refusal :=
  .next (
    if !s.up || 16 ≤ part then s
    else if s.launches.any (fun l => l.binds part) then s.bindError
    else s.modPart part (fun p => { p with locked := on }))

/-! ## Trace records of launches and workgroups -/

/-- The trace record of a launch event: kind 3 begun, 4 ended, 5 stopped, 6 resumed (R282). -/
def State.traceLaunch (s : State) (l : Launch) (kind : Nat) : State :=
  s.trace l.part kind (Config.unstated 0) 0xFFFFFFFF (Config.unstated 1) 0 (Config.unstated 2) (Config.unstated 3)
    (Config.unstated 4)

/-- The trace record of a workgroup event: kind 1 placed, 2 complete (R282). -/
def State.traceGroup (s : State) (l : Launch) (kind wgid key : Nat) : State :=
  s.trace l.part kind wgid (Config.unstated 5) (key % 256) 0 (Config.unstated 2) (Config.unstated 3) (Config.unstated 4)

/-! ## The completion signal -/

/-- What the signal word holds when it is next stored (R239): the reported count; at completion with bit 63, after a fatal trap
with bits 63 and 62. Log 43, DEDUCED. -/
def Launch.sigValue (l : Launch) : Nat :=
  if l.phase = .complete then (if l.traps.isEmpty then 2 ^ 63 + l.base else 0xC000000000000000 + l.base) else l.base

/-- The store of the count to SIGADDR, as an EXCH.b64 at the home slice (R239): a page fault waits for its answer, every other
failure drops the store, and with it a count held back. Log 43, DEDUCED. -/
def State.storeSignal (s : State) (lid : Nat) : State :=
  match s.launch? lid with
  | none => s
  | some l =>
    if l.sig = 0 then s
    else match s.access l.ctx l.sig 8 8 false true false with
      | .error c =>
        if c = 3 then s.sendFault l.ctx l.sig .store (.signal lid) else s.modLaunch lid (fun l => { l with heldSig := false })
      | .ok _ =>
        (s.lodgeExch l.ctx l.sig l.sigValue).1.modLaunch lid (fun l => { l with lastSig := some s.ck, heldSig := false })

/-- The signal of a launch waits for a page (R239, R258). -/
def State.signalWaits (s : State) (lid : Nat) : Bool := s.faults.any (fun f => f.srcs.contains (.signal lid))

/-- An advance of the reported count is stored, or held back within 256 ck of the last store (R239). Log 43, DEDUCED. -/
def State.reportCount (s : State) (lid : Nat) : State :=
  match s.launch? lid with
  | none => s
  | some l =>
    if (match l.lastSig with | none => true | some c => c + 256 ≤ s.ck) then s.storeSignal lid
    else s.modLaunch lid (fun l => { l with heldSig := true })

/-- SIGNAL_INTERVAL_EXPIRY: the interval ends, and a held-back count is stored as it then stands (R239). -/
def execSignalIntervalExpiry (lid : Nat) (s : State) : Host.Outcome State Fault Refusal :=
  .next (match s.launch? lid with
    | none => s
    | some l =>
      if !l.heldSig || l.phase = .complete || (match l.lastSig with | none => false | some c => s.ck < c + 256) then s
      else s.storeSignal lid)

/-! ## Bind records -/

def bindV (r : Nat) : Bool := bitOf r 0
def bindSt (r : Nat) : Nat := bitsOf r 1 2
def bindCtx (r : Nat) : Nat := bitsOf r 3 9
def bindPart (r : Nat) : Nat := bitsOf r 12 4
def bindPrio (r : Nat) : Nat := bitsOf r 16 2
def bindLid (r : Nat) : Nat := bitsOf r 32 32

/-- Bind record n of the slot table (R241). -/
def State.bind (s : State) (n : Nat) : Nat := (s.slots.get 0 n).toNat

def State.setBind (s : State) (n r : Nat) : State := { s with slots := s.slots.put 0 n (BitVec.ofNat 64 r) }

/-- The launch that a bind record names (R241). -/
def State.bindLaunch (s : State) (r : Nat) : Option Launch :=
  s.launches.find? (fun l => l.lid % 2 ^ 32 == bindLid r && l.ctx == bindCtx r && l.phase != .complete)

/-- The polder of a logical core (R15). -/
def State.polderOf (s : State) (key : Nat) : Nat := gbPcore (s.gbe key).toNat / 68

/-- The code lines of a kernel of a version (R250, R312). -/
def State.kernelLines (s : State) (ctx num entry : Nat) : List Nat :=
  match s.version ctx num with
  | some v =>
    let lo := (v.base + entry) / 128
    (List.range (ceilDiv (v.base + extentEnd v.image entry) 128 - lo)).map (lo + ·)
  | none => []

/-- The lines that a context holds pinned in a polder's instruction cache (R250). Log 86, DEDUCED. -/
def State.pinnedIn (s : State) (ctx polder : Nat) : Nat :=
  min 2048 ((((s.ctx ctx).pins.filter (fun p => p.1 == polder)).flatMap (fun p => s.kernelLines ctx p.2.1 p.2.2)).dedup.length)

/-- PINQ: the largest count of pinned lines of a polder (R240). Log 86, DEDUCED. -/
def State.repin (s : State) (ctx : Nat) : State :=
  s.modCtx ctx (fun c => { c with pinq := ((List.range 4).map (s.pinnedIn ctx)).foldl max 0 })

/-- A kernel with PIN set, of a bound launch, pins its lines in the polder that runs its workgroup (R250). -/
def State.pinKernel (s : State) (l : Launch) (key : Nat) : State :=
  if !l.hdr.pin || l.slot.isNone then s
  else
    let p := (s.polderOf key, l.codever, l.hdr.entry)
    (s.modCtx l.ctx (fun c => if c.pins.contains p then c else { c with pins := c.pins ++ [p] })).repin l.ctx

/-- Some workgroups come to run, and their kernels pin their lines (R250). -/
def State.pinGroups (s : State) (of : WG → Bool) : State :=
  (s.wgs.filter of).foldl (fun s w => match s.launch? w.lid with | some l => s.pinKernel l w.core | none => s) s

/-- The lines of versions that no bound launch of the context uses are unpinned (R250). -/
def State.unpin (s : State) (ctx : Nat) : State :=
  let used := fun (v : Nat) => s.launches.any (fun l => l.ctx == ctx && l.slot.isSome && l.codever == v)
  (s.modCtx ctx (fun c => { c with pins := c.pins.filter (fun p => used p.2.1) })).repin ctx

/-- A launch gives up its bind record, which is free again (R241, R255). -/
def State.unbind (s : State) (lid : Nat) : State :=
  match s.launch? lid with
  | none => s
  | some l =>
    let s1 := match l.slot with
      | some n => s.setBind n 0
      | none => s
    (s1.modLaunch lid (fun l => { l with slot := none })).unpin l.ctx

/-- Lane 0 of the producer group of the lowest-indexed resident workgroup, as a trap without a word names it; a launch with no
resident workgroup gets one record with TID, WGID and GID all ones, and LANE, NCORE and PC 0 (R253). Log 52, DEDUCED. -/
def State.laneRecord (s : State) (l : Launch) (cls cause fva detail : Nat) : Nat × TrapRec :=
  let ws := s.wgs.filter (fun w => w.lid == l.lid)
  let none_ : TrapRec :=
    { cls := cls, cause := cause, prec := false, relaunch := false, tid := 0xFFFFFFFF, wgid := 0xFFFFFFFF,
      gid := 0xFFFFFFFF, lane := 0, ncore := 0, pc := 0, fva := fva, lid := l.lid, time := s.now, detail := detail }
  match (minOf (ws.map (fun w => w.wgid))).bind (fun m => ws.find? (fun w => w.wgid == m)) with
  | none => (0, none_)
  | some w =>
    let pc := match w.threads.head? with | some t => t.pc | none => 0
    (w.core, { none_ with tid := 0, wgid := w.wgid, gid := 0, lane := 0, ncore := w.core % 256, pc := pc })

/-- A trap that no word of the ck raised (R253, R254). Log 13, DEDUCED. -/
def State.raiseAlone (s : State) (l : Launch) (cls cause fva detail : Nat) : State :=
  let r := s.laneRecord l cls cause fva detail
  s.raise l.lid r.1 4 cls [r.2]

/-- The limit of a launch has been reached (R244). -/
def Launch.overTime (l : Launch) : Bool := l.tlimit ≠ 0 && l.placed && l.tlimit * 65536 ≤ l.ckUsed

/-- TIME_LIMIT: the time-limit trap (R244, R252). -/
def execTimeLimit (lid : Nat) (s : State) : Host.Outcome State Fault Refusal :=
  .next (match s.launch? lid with
    | none => s
    | some l => if (l.phase = .bound || l.phase = .draining) && l.overTime then s.raiseAlone l 21 0 0 l.tlimit else s)

/-- A launch bound by a record: one that waits for its binding runs from here on, its workgroups' lines pinned; a limit reached before is
raised at once (R241, R244, R250). -/
def State.bindTo (s : State) (n part : Nat) (l : Launch) : State :=
  let go := l.phase = .queued
  let s0 := if (s.part part).power = .idle then s.modPart part (fun p => { p with power := .active }) else s
  let s1 := (s0.modLaunch l.lid (fun l => { l with slot := some n, part := part, phase := if go then .bound else l.phase,
                                                    stopping := false })).pinGroups (fun w => w.lid == l.lid)
  match s1.launch? l.lid with
  | some m => if go && m.overTime then s1.raiseAlone m 21 0 0 m.tlimit else s1
  | none => s1

/-- No launch names a bind record any more; lines of versions that no bound launch uses now are unpinned (R250). Log 44, DEDUCED. -/
def State.freeSlot (s : State) (n : Nat) : State :=
  (s.launches.filter (fun l => l.slot == some n)).foldl (fun s l => s.unpin l.ctx)
    { s with launches := s.launches.map (fun (l : Launch) => if l.slot = some n then { l with slot := none } else l) }

/-- A launch needs its bind record: it is neither stopped nor does it wait, restored, behind a record with ST = stopped (R241,
R243). Log 44, DEDUCED. -/
def State.needsSlot (s : State) (l : Launch) : Bool :=
  match l.slot with
  | some n => l.phase != .stopped && bindSt (s.bind n) != 3
  | none => false

/-- A write to the record of a launch that needs it: the same binding again, whose PRIO alone can differ; STALL stays (R241). -/
def State.rebind (s : State) (slot r : Nat) (l : Launch) : State :=
  if bindV r && bindSt (s.bind slot) = 1 && bindLid r = l.lid % 2 ^ 32 && bindCtx r = l.ctx && bindPart r = l.part then
    s.setBind slot (putBits r 18 1 (bitsOf (s.bind slot) 18 1))
  else s

/-- BIND_RUN: the lodge writes a bind record with ST = run (R241). A partition other than the context's rejects the write;
a record with V = 0 frees the slot; reserved bits and STALL are not stored. Log 44, DEDUCED. -/
def execBindRun (slot : Nat) (record : DWord) (s : State) : Host.Outcome State Fault Refusal :=
  .next (
    let r := putBits (putBits record.toNat 18 1 0) 19 13 0
    if !s.up || 512 ≤ slot || bindSt r ≠ (if bindV r then 1 else 0) then s
    else if bindPart r ≠ (s.ctx (bindCtx r)).part then s.bindError
    else match s.launches.find? (fun l => l.slot == some slot && s.needsSlot l) with
      | some m => s.rebind slot r m
      | none =>
        if !bindV r then (s.freeSlot slot).setBind slot r
        else match s.bindLaunch r with
          | none => s
          | some l =>
            if (s.ctx l.ctx).dead || s.needsSlot l || (l.phase = .queued && l.placed && l.part ≠ bindPart r) then s
            else
              let s0 := match l.slot with | some n => s.setBind n 0 | none => s
              ((s0.freeSlot slot).setBind slot r).bindTo slot (bindPart r) l)

/-- The launch of a bind record holds nothing on the cores: its image stands, or it waits behind the record (R243). -/
def State.atRest (s : State) (slot : Nat) : Bool :=
  s.launches.any (fun l => l.slot == some slot && (l.phase == .stopped || l.phase == .queued))

/-- BIND_STOP_REQUEST: the lodge writes ST = stop requested, and dispatch places nothing more of the launch; where nothing of it stands on the
cores, the dispatcher writes ST = stopped at once (R243). Log 44, DEDUCED. -/
def execBindStopRequest (slot : Nat) (s : State) : Host.Outcome State Fault Refusal :=
  .next (
    let r := s.bind slot
    if !s.up || !bindV r || bindSt r ≠ 1 || (s.ctx (bindCtx r)).dead then s
    else s.setBind slot (putBits r 1 2 (if s.atRest slot then 3 else 2)))

/-- REORDER_STALL: the frontier has not moved for 2^20 ck while the window holds a request (R191, R241). -/
def execReorderStall (lid : Nat) (s : State) : Host.Outcome State Fault Refusal :=
  .next (match s.launch? lid with
    | none => s
    | some l => match l.slot with
      | none => s
      | some n => if l.window.isEmpty || s.ck < l.frontierCk + 2 ^ 20 then s else s.setBind n (putBits (s.bind n) 18 1 1))

/-! ## Placement -/

/-- The resources that a kernel takes from a core (R28): threads, registers, tiles, slots, queues, buffers. -/
def Hdr.takes (h : Hdr) : List Nat := [h.n, h.n * (ceilDiv h.regs 8 * 8), h.acc, h.stat, h.queues, h.cbufs]

/-- The core's pools (R12, R28). -/
def corePools : List Nat := [2048, 196608, 256, 4, 64, 128]

/-- The kernel header of a resident workgroup's launch. -/
def State.hdrOf (s : State) (w : WG) : Option Hdr := (s.launch? w.lid).map (fun l => l.hdr)

/-- The panels of a physical core that are being zeroed, whichever of its logical cores held them (R148). -/
def State.zeroingOn (s : State) (pcore : Nat) : List (Nat × Nat) :=
  s.cores.flatMap (fun c => (c.zeroing.filter (fun z => z.1 == pcore)).map (·.2))

/-- The panels that are taken on a logical core, or being zeroed on its physical core: first panel and count (R28, R148). -/
def State.panelsTaken (s : State) (key : Nat) : List (Nat × Nat) :=
  s.zeroingOn (gbPcore (s.gbe key).toNat) ++ (s.wgs.filter (fun w => w.core == key)).map (fun w => (w.base, ((s.hdrOf w).map (fun h => h.scr)).getD 0))

/-- Whether panels [base, base + n) of a core lie outside those that are taken. -/
def panelsIn (taken : List (Nat × Nat)) (base n : Nat) : Bool :=
  base + n ≤ 256 && taken.all (fun p => base + n ≤ p.1 || p.1 + p.2 ≤ base)

/-- Whether the counted resources of a kernel are left beside those of some others (R28). -/
def Hdr.besides (h : Hdr) (used : List Hdr) : Bool :=
  ((h.takes.zip corePools).mapIdx (fun i p => decide (p.1 + (used.map (fun u => u.takes.getD i 0)).sum ≤ p.2))).all id

/-- The lowest panels on which a kernel's workgroup fits beside taken panels and other kernels. -/
def Hdr.baseBeside (h : Hdr) (taken : List (Nat × Nat)) (used : List Hdr) : Option Nat :=
  if h.besides used then (List.range 257).find? (fun b => panelsIn taken b h.scr) else none

/-- The kernels of the workgroups on a logical core. -/
def State.hdrsOn (s : State) (key : Nat) : List Hdr := (s.wgs.filter (fun w => w.core == key)).filterMap s.hdrOf

/-- Whether panels [base, base + n) of a core are free. -/
def State.panelsFree (s : State) (key base n : Nat) : Bool := panelsIn (s.panelsTaken key) base n

/-- Whether the counted resources of a kernel are free on a core (R28). -/
def State.countsFree (s : State) (key : Nat) (h : Hdr) : Bool := h.besides (s.hdrsOn key)

/-- The lowest panels on which a workgroup of a kernel can become resident on a logical core: all resources are free at once
(R28). -/
def State.freeBase (s : State) (key : Nat) (h : Hdr) : Option Nat := h.baseBeside (s.panelsTaken key) (s.hdrsOn key)

/-- Whether R28 holds on a logical core for one workgroup more, beside those that have been placed there and fit (R242). Log 41,
DESIGN CHOICE. -/
def State.takesMore (s : State) (key : Nat) (h : Hdr) : Bool :=
  let placed := s.launches.flatMap (fun m => (m.pending.filter (fun p => p.2 == key)).map (fun _ => m.hdr))
  let r := placed.foldl (fun (acc : List (Nat × Nat) × List Hdr) u => match u.baseBeside acc.1 acc.2 with
    | some b => (acc.1 ++ [(b, u.scr)], acc.2 ++ [u])
    | none => acc) (s.panelsTaken key, s.hdrsOn key)
  (h.baseBeside r.1 r.2).isSome

/-- A logical core that is bound, and whose target and its polder are in service (R18, R266). -/
def State.usable (s : State) (key : Nat) : Bool :=
  (s.gbe key).getLsbD 63 && s.gbSt key != 3 && s.service .core (gbPcore (s.gbe key).toNat) == .inService
    && s.service .polder (s.polderOf key) == .inService
/-- A launch counts as completed for the order of its queue: one that a fatal trap ended once its signal has been stored or dropped
(R238, R255). -/
def State.over (s : State) (l : Launch) : Bool := l.phase == .complete && (l.traps.isEmpty || !s.signalWaits l.lid)

/-- Earlier launches of the queue of a launch, in ring order (R238). -/
def State.earlier (s : State) (l : Launch) : List Launch :=
  (s.launches.takeWhile (fun m => m.lid != l.lid)).filter (fun m => m.q == l.q)

/-- Whether a launch may begin (R238): in ring order, and with OVL = 0 after every earlier launch of its queue has completed. Log 41, DESIGN CHOICE. -/
def State.mayBegin (s : State) (l : Launch) : Bool :=
  l.placed || (s.earlier l).all (fun m => s.over m || (l.ovl && m.placed))

/-- Whether the next workgroup of a launch is allowed by R51, R238, R243 and R276. -/
def State.nextAllowed (s : State) (l : Launch) : Bool :=
  l.phase == .bound && !l.allStop && (s.part l.part).started && (s.part l.part).power == .active && s.mayBegin l
  && (if l.count = 0 then l.base = 0 else l.next < l.count && l.next < l.base + 256)

/-- The logical core on which the next workgroup of a launch is placed, if there is one (R242). Log 41, DESIGN CHOICE. -/
def State.placeCore (s : State) (l : Launch) : Option Nat :=
  if l.isDet then
    let key := 256 * l.part + l.next % 256
    if s.usable key then some key else none
  else
    (List.range 256).find? (fun c =>
      let key := 256 * l.part + c
      s.usable key && s.takesMore key l.hdr)
    |>.map (fun c => 256 * l.part + c)

/-- The bind records of a partition that may place, highest priority first and then by slot (R242). Log 41, DESIGN CHOICE. -/
def State.placers (s : State) (part : Nat) : List Launch :=
  let rs := s.slots.filter (fun e => bindV e.2.toNat && bindSt e.2.toNat = 1 && bindPart e.2.toNat = part)
  [3, 2, 1, 0].flatMap (fun pr => (rs.filter (fun e => bindPrio e.2.toNat = pr)).filterMap (fun e =>
    s.launches.find? (fun l => l.slot == some e.1 && s.nextAllowed l)))

/-- A launch begins: its trace record, once (R282). -/
def State.begin_ (s : State) (l : Launch) : State :=
  if l.placed then s else (s.modLaunch l.lid (fun l => { l with placed := true })).traceLaunch l 3

/-- A launch's part in the cores ends: its views and its unpublished stores (R180, R255). -/
def State.dropViews (s : State) (lid : Nat) : State :=
  { s with cores := s.cores.map (fun c =>
      { c with views := c.views.filter (fun v => v.lid ≠ lid), ulist := c.ulist.filter (fun u => u.pub || u.lid ≠ lid) }) }

/-- The bind record of a completed launch is free once its final signal has been stored or dropped (R239, R255). That a launch which
completes without a trap frees its record too is the model's choice. Log 102, DESIGN CHOICE. -/
def State.freeBound (s : State) (lid : Nat) : State :=
  match s.launch? lid with
  | none => s
  | some l => if l.phase = .complete && !s.signalWaits lid then s.unbind lid else s

/-- A launch has completed (R238, R239, R282): the final signal is stored at once, and then the record is free. Log 102, DESIGN CHOICE. -/
def State.endLaunch (s : State) (lid : Nat) : State :=
  match s.launch? lid with
  | none => s
  | some l =>
    let s := (s.modLaunch lid (fun l => { l with phase := .complete, heldSig := false })).dropViews lid
    ((s.storeSignal lid).freeBound lid).traceLaunch l 4

/-- WORKGROUP_PLACEMENT: the next workgroup of the chosen record goes to a logical core; at most one every 4 ck (R242). A launch
without workgroups completes as it begins (R24). -/
def execWorkgroupPlacement (part : Nat) (s : State) : Host.Outcome State Fault Refusal :=
  .next (
    if s.ck < (s.part part).nextPlace || s.lodge.therm then s
    else match (s.placers part).find? (fun l => l.count = 0 || (s.placeCore l).isSome) with
      | none => s
      | some l =>
        if l.count = 0 then (s.begin_ l).endLaunch l.lid
        else match s.placeCore l with
          | none => s
          | some key =>
            let s1 := (s.begin_ l).modPart part (fun p => { p with nextPlace := s.ck + 4 })
            let s2 := s1.modLaunch l.lid (fun l => { l with next := l.next + 1, pending := l.pending ++ [(l.next, key)] })
            s2.traceGroup l 1 l.next key)

/-! ## Residency -/

/-- The stage of launch group g (R44). -/
def stageOf (stages : List Nat) (g : Nat) : Nat :=
  ((List.range 8).find? (fun k => g < ((stages.take (k + 1)).sum))).getD 0

/-- A thread as a launch places it (R27). -/
def Thread.fresh (gid lane stage pc nlive : Nat) : Thread :=
  { gid := gid, lane := lane, stage := stage, pc := pc, v := [], p := 0, l0 := none, l1 := none, l2 := none, l3 := none,
    hold := 0, age := 0, run := .ready, nlive := nlive, phc := 0, detc := 0, slot := none, loads := [], seq := 0, vc := [],
    fvc := [], acq := [], obs := [], skip := false, resumed := none, launchAt := none, conf := none }

/-- A workgroup in which nothing has run (R27, R145, R155, R168). -/
def WG.fresh (wid lid wgid core base : Nat) (h : Hdr) : WG :=
  { wid := wid, lid := lid, wgid := wgid, core := core, base := base, tileAt := 0, slotAt := 0, formation := 0, flags := 0, cleared := [], win := [], wrel := [],
    tiles := [], commit := [], slots := [], smap := [0, 1, 2, 3], descs := List.replicate 4 ⟨0, 0, 0, false, false⟩,
    cbs := List.replicate h.cbufs CBuf.reset, queues := List.replicate 8 [], qerr := [], serial := 0, qdone := [],
    ranges := [], stamps := [], relaunched := false, noRelaunch := false, threads := [], groups := [], bclk := [],
    bdone := [], bsec := [], sclk := [], ssec := [] }

/-- The lowest place of n of a pool's items beside those that others take (R28): 0 where they lie too scattered. Log 53, DEDUCED. -/
def lowestPlace (size n : Nat) (taken : List (Nat × Nat)) : Nat :=
  ((List.range (size + 1 - n)).find? (fun b => taken.all (fun p => b + n ≤ p.1 || p.1 + p.2 ≤ b))).getD 0

/-- A workgroup takes its tiles and its slots of its core (R12, R28). Log 53, DEDUCED. -/
def State.placed (s : State) (h : Hdr) (w : WG) : WG :=
  let others := fun (f : WG → Hdr → Nat × Nat) => (s.wgs.filter (fun v => v.core == w.core)).filterMap (fun v => (s.hdrOf v).map (f v))
  { w with tileAt := lowestPlace 256 h.acc (others (fun v k => (v.tileAt, k.acc)))
           slotAt := lowestPlace 4 h.stat (others (fun v k => (v.slotAt, k.stat))) }

/-- The workgroup as a launch starts it: groups in launch order, lanes by %tid, s0 to s15 the arguments (R27, R44); its groups are parked
where an all-stop is in force (R276). -/
def State.launchGroup (s : State) (l : Launch) (wgid core base : Nat) : WG :=
  let h := l.hdr
  let pc := ((s.codeOf l).map (fun v => v.base)).getD 0 + h.entry
  let ng := h.n / h.g
  { s.placed h (WG.fresh s.widNext l.lid wgid core base h) with
    formation := ng
    relaunched := l.relaunched.contains wgid
    threads := (List.range h.n).map (fun t => Thread.fresh (t / h.g) (t % h.g) (stageOf h.stages (t / h.g)) pc h.regs)
    groups := (List.range ng).map (fun g => { newGroup g (stageOf h.stages g) h.g (argWords l.record)
      ((List.range h.g).map (fun i => g * h.g + i)) with parked := l.allStop }) }

/-- A logical core becomes resident; its TURN is the last one of its physical core (R22), and the lines of its workgroups' kernels are pinned
in the polder that now runs them (R250). -/
def State.enter (s : State) (key : Nat) : State :=
  let e := (s.gbe key).toNat
  ({ s.setSt key 1 with turns := s.turns.put 15 (gbPcore e) (gbTurn e) } : State).pinGroups (fun w => w.core == key)

/-- A logical core comes to hold work: resident where no other logical core of its physical core holds work, else saved until its turn
(R18, R22). Log 42, DEDUCED. -/
def State.occupy (s : State) (key : Nat) : State :=
  let pc := gbPcore (s.gbe key).toNat
  let st := fun (e : Nat × DWord) => bitsOf e.2.toNat 61 2
  if s.gbSt key ≠ 0 then s
  else if s.gbt.any (fun e => e.1 != key && gbPcore e.2.toNat = pc && (st e = 1 || st e = 2)) then s.setSt key 2
  else s.enter key

/-- A logical core without work is idle (R18); one that still holds work of another launch keeps its turn when a preemption takes a launch
off it (R22). Log 42, DEDUCED. Log 51, DEDUCED. -/
def State.vacate (s : State) (key : Nat) : State :=
  if s.wgs.any (fun w => w.core == key) || s.gbSt key = 3 || s.gbSt key = 0 then s else s.setSt key 0

/-- Cores without work made idle. -/
def State.vacateAll (s : State) (keys : List Nat) : State := keys.foldl State.vacate s

/-- Another relaunched workgroup of a logical core goes first (R265). -/
def State.behindRelaunch (s : State) (lid wgid key : Nat) : Bool :=
  s.launches.any (fun m => m.pending.any (fun p => p.2 == key && m.relaunched.contains p.1 && !(m.lid == lid && p.1 == wgid)))
    && !(s.launches.any (fun m => m.lid == lid && m.relaunched.contains wgid))

/-- WORKGROUP_RESIDENCY: a placed workgroup becomes resident on free panels from `base` on, once all of its resources are free
(R27, R28, R148), a relaunched one ahead of the others (R265); nothing under a thermal halt (R296). The snapshot of a logical core that
held no work is M (R180). -/
def execWorkgroupResidency (lid wgid base : Nat) (s : State) : Host.Outcome State Fault Refusal :=
  .next (match s.launch? lid with
    | none => s
    | some l => match l.pending.find? (fun p => p.1 == wgid) with
      | none => s
      | some p =>
        if !l.runs || !s.clocked p.2 || !s.usable p.2 || !s.countsFree p.2 l.hdr || !s.panelsFree p.2 base l.hdr.scr
          || s.behindRelaunch lid wgid p.2 then s
        else
          let w := s.launchGroup l wgid p.2 base
          let s1 : State := { s with wgs := s.wgs ++ [w], widNext := s.widNext + 1 }
          let s2 := s1.modLaunch lid (fun l => { l with pending := l.pending.filter (fun q => q.1 != wgid) })
          (((s2.enterCore p.2 lid).occupy p.2).pinKernel l p.2))

/-! ## Completion -/

/-- Whether a workgroup has completed but for its stores (R50). -/
def WG.finished (w : WG) : Bool :=
  w.threads.all (fun t => t.run == .exited) && w.queues.all (fun q => q.all (fun c => c.done))

/-- The reported count advances over completed indices (R51). -/
def advanceBase : Nat → Nat → List Nat → Nat × List Nat
  | 0, b, d => (b, d)
  | k + 1, b, d => if d.contains b then advanceBase k (b + 1) (d.erase b) else (b, d)

/-- A workgroup's index enters the reorder window; an advance is signalled, and the last one ends the launch (R51, R239). -/
def State.reportDone (s : State) (lid wgid : Nat) : State :=
  match s.launch? lid with
  | none => s
  | some l =>
    let d := insertSet wgid l.done
    let r := advanceBase d.length l.base d
    let s := s.modLaunch lid (fun l => { l with base := r.1, done := r.2 })
    if r.1 = l.count then s.endLaunch lid else if r.1 ≠ l.base then s.reportCount lid else s

/-- A workgroup leaves its core, and its panels are zeroed (R50, R148). -/
def State.release (s : State) (w : WG) : State :=
  let gone := s.panelsGone w.core [w]
  let s1 : State := { s with
    wgs := s.wgs.filter (fun v => v.wid ≠ w.wid)
    before := s.before.filter (fun v => v.wid ≠ w.wid)
    issue := s.issue.filter (fun c => c.wid ≠ w.wid) }
  let s2 := s1.modCore w.core (fun c =>
    { c with zeroing := c.zeroing ++ gone,
             running := if c.running.any (fun p => p.1 == w.wid) then none else c.running,
             mq := c.mq.filter (fun e => e.wid != w.wid),
             held := c.held.map (fun h => if h.any (fun p => p.1 == w.wid) then none else h) })
  s2.vacate w.core

/-- WORKGROUP_COMPLETION (R50, R51, R132, R148, R168): its stores are published, its open stamps written, its resources zeroed and
released, its flag word kept, and its completion enters the reorder window; with a poisoned object in its berm it does not complete (R225), nor while its clock
stands (R296). Log 75, DEDUCED. -/
def execWorkgroupCompletion (wid : Nat) (s : State) : Host.Outcome State Fault Refusal :=
  .next (match s.wg? wid with
    | none => s
    | some w => match s.launch? w.lid with
      | none => s
      | some l =>
        if !w.finished || !s.clocked w.core || l.phase = .dying || (w.poisonedBar (s.windowOf w)).isSome then s
        else
          let s1 := (s.publishAll w.core (fun u => u.uid / 2048 == wid)).writeStamps wid false
          let s2 := (s1.release w).modLaunch l.lid (fun l => { l with flagWords := l.flagWords.put 0 w.wgid w.flags })
          (s2.traceGroup l 2 w.wgid w.core).reportDone l.lid w.wgid)

/-- ZEROING_COMPLETE: the zeroing that began first on a logical core ends (R148, R163), but for a thermal halt (R296). -/
def execZeroingComplete (core : Nat) (s : State) : Host.Outcome State Fault Refusal :=
  .next (if s.lodge.therm || (s.core core).zeroing.isEmpty then s
    else s.modCore core (fun c => { c with zeroing := c.zeroing.drop 1 }))

end Sys2Proof.Machine
end

