-- ==== Sys2Proof/Machine/Matrix.lean ====
section
/-! DEFINITION. The matrix words, the matrix queue, spans and their rollback (R49, R56 to R60, R124 to R127, R149 to R163, R168,
R379 to R392). -/

namespace Sys2Proof.Machine

/-! ## Shapes -/

/-- The type classes of R154: 0 of 16 bits, 1 of 8 bits, 2 of 6 bits, 3 of 4 bits. -/
def matClass : Ty → Option Nat
  | .h16 | .bf16 => some 0
  | .e4m3 | .e5m2 | .i8 | .n8 => some 1
  | .e3m2 => some 2
  | .e2m1 | .q4 => some 3
  | _ => none

/-- Kmin and the chunk length KC of a class (R127, R154). -/
def kMin : Nat → Nat
  | 0 => 16
  | 1 => 32
  | _ => 64

/-- A shape word's fields (R153); K by the class of the given type. -/
structure Shape where
  m : Nat
  n : Nat
  kc : Nat
  at_ : Ty
  bt : Ty
  ao : Bool
  bo : Bool
  sb : Bool
  rsv : Nat
  deriving DecidableEq, Repr

def shapeOf (x : Nat) : Shape :=
  { m := 16 * (bitsOf x 0 4 + 1), n := 16 * 2 ^ bitsOf x 4 2, kc := bitsOf x 6 2, at_ := tyOfCode (BitVec.ofNat 5 (x / 256)),
    bt := tyOfCode (BitVec.ofNat 5 (x / 8192)), ao := bitOf x 18, bo := bitOf x 19, sb := bitOf x 20, rsv := bitsOf x 21 11 }

/-- K of a shape; B's class gives it, which is also A's where the shape is legal. -/
def Shape.k (h : Shape) : Nat := kMin ((matClass h.bt).getD 3) * 2 ^ h.kc

/-- Bytes of a slot image (R155). -/
def slotBytes (k n : Nat) (bt : Ty) (sb : Bool) : Nat := k * n * widthOf bt / 8 + (if sb then k / 64 * n * 2 else 0)

/-- A type that has scaled blocks (R154). -/
def scalable (t : Ty) : Bool := t == .e4m3 || t == .e5m2 || t == .e3m2 || t == .e2m1 || t == .q4

/-- The conditions that MLDB's fields can break (R154, R384). Log 60, DEDUCED. -/
def mldbBad (h : Shape) : Bool :=
  h.rsv != 0 || h.kc = 3 || (matClass h.bt).isNone || (h.k = 256 && matClass h.bt != some 3)
  || (h.bo && (h.bt == .e3m2 || h.sb)) || (h.sb && (h.k = 32 || !scalable h.bt))
  || 16384 < slotBytes h.k h.n h.bt h.sb

/-- The conditions that MMA's fields can break (R154, R385); a legal BO changes nothing (R153). Log 60, DEDUCED. -/
def mmaBad (h : Shape) (win : Option Nat) : Bool :=
  mldbBad h || matClass h.at_ != matClass h.bt || isFloat h.at_ != isFloat h.bt
  || (h.ao && (h.at_ == .e3m2 || h.sb)) || (h.sb && !scalable h.at_)
  || (match win with
      | none => false
      | some w => (h.ao && h.k = 256) || bitsOf w 24 8 != 0 || bitsOf w 8 8 + 1 < bitsOf w 0 8 + 1 + bitsOf w 20 4)

/-- pos(i): the stored row or position that A row i reads (R159). -/
def posOf (win : Option Nat) (i : Nat) : Nat :=
  match win with
  | none => i
  | some w =>
    let wo := bitsOf w 0 8 + 1
    (i / wo + bitsOf w 16 4) * (bitsOf w 8 8 + 1) + i % wo + bitsOf w 20 4

/-- The positions of the A operand: M, or 1 + pos(M − 1) (R159). -/
def positions (h : Shape) (win : Option Nat) : Nat := 1 + posOf win (h.m - 1)

/-! ## Stored arrays -/

/-- A stored array: stored rows and bytes of a stored row (R152). -/
structure Stored where
  rs : Nat
  cs : Nat
  deriving DecidableEq, Repr

/-- Length of a scaled block (R124). -/
def blockLen (t : Ty) : Nat := 2 + 8 * widthOf t

/-- The stored array of an operand of `rows` rows (M or N or positions) and K columns (R152, R159). -/
def storedOf (t : Ty) (k rows : Nat) (colForm sb : Bool) : Stored :=
  if sb then ⟨rows, k / 64 * blockLen t⟩
  else if colForm then ⟨k, ceilDiv (rows * widthOf t) 8⟩
  else ⟨rows, k * widthOf t / 8⟩

/-- B's stored array: in .row it has K rows of N elements, in .col N rows of K (R152). -/
def storedB (h : Shape) : Stored := storedOf h.bt h.k h.n (!h.bo && !h.sb) h.sb

/-- A's stored array (R152, R159). -/
def storedA (h : Shape) (win : Option Nat) : Stored := storedOf h.at_ h.k (positions h win) h.ao h.sb

/-- Byte c of stored row r (R152). -/
def storedAt (base cs r c : Nat) : Nat := base + (r / 128 * ceilDiv cs 64 + c / 64) * 8192 + r % 128 * 64 + c % 64

/-- The scratchpad fault of a stored array (R144, R152). -/
def storedFault (size base : Nat) (a : Stored) : Nat :=
  if size ≤ storedAt base a.cs (a.rs - 1) (a.cs - 1) then 1 else if base % 8192 ≠ 0 then 2 else 0

/-- The bits [at + len - 1 : at] of a stored row, its bytes read as one little-endian string (R152). -/
def storedBits (win : SMap Byte) (base cs r at_ len : Nat) : Nat :=
  let c := at_ / 8
  let n := ceilDiv (at_ % 8 + len) 8
  bitsOf (natOfBytes ((List.range n).map (fun i => win.get 0 (storedAt base cs r (c + i))))) (at_ % 8) len

/-- An element of a stored array by its row and column in the operand's own order: `i` along M, N or the positions, `k` along
K (R152). -/
def storedElem (win : SMap Byte) (base : Nat) (a : Stored) (t : Ty) (colForm sb : Bool) (i k : Nat) : Nat :=
  let w := widthOf t
  if sb then storedBits win base a.cs i (8 * (k / 64 * blockLen t + 2) + w * (k % 64)) w
  else if colForm then storedBits win base a.cs k (w * i) w
  else storedBits win base a.cs i (w * k) w

/-- The header of block kb of stored row i (R124). -/
def storedHeader (win : SMap Byte) (base : Nat) (a : Stored) (t : Ty) (i kb : Nat) : Nat :=
  storedBits win base a.cs i (8 * (kb * blockLen t)) 16

/-! ## Slots -/

/-- Bit n of a slot as MLDB writes it from the stored B array (R155, R156). -/
def slotBit (win : SMap Byte) (base : Nat) (h : Shape) (n : Nat) : Bool :=
  let w := widthOf h.bt
  let k := h.k
  let a := storedB h
  let body := k * h.n * w
  if n < body then
    let e := n / w
    (storedElem win base a h.bt (!h.bo && !h.sb) h.sb (e % h.n) (e / h.n)).testBit (n % w)
  else if h.sb && n < body + 16 * (k / 64 * h.n) then
    let e := (n - body) / 16
    (storedHeader win base a h.bt (e % h.n) (e / h.n)).testBit ((n - body) % 16)
  else false

/-- The bytes of a whole slot (R155). -/
def slotImage (win : SMap Byte) (base : Nat) (h : Shape) : List Byte :=
  (List.range 16384).map (fun b => BitVec.ofNat 8 (ofBits (fun i => slotBit win base h (8 * b + i)) 8))

/-- n bits of a physical slot (R155). -/
def slotBits (slots : SMap Byte) (phys at_ len : Nat) : Nat :=
  bitsOf (natOfBytes (slots.getN 0 (16384 * phys + at_ / 8) (ceilDiv (at_ % 8 + len) 8))) (at_ % 8) len

/-- A slot descriptor that is not loaded (R446). -/
def SlotDesc.empty : SlotDesc := ⟨0, 0, 0, false, false⟩

/-- The descriptor that MLDB sets (R155, R156). -/
def descOf (h : Shape) : SlotDesc := ⟨h.k, h.n, (codeOfTy h.bt).toNat, h.sb, true⟩

/-- The physical slot of a name in a map. Log 59, DEDUCED. -/
def physOf (smap : List Nat) (b : Nat) : Nat := smap.getD b b

/-- The exchange of two names (R157). -/
def swapMap (smap : List Nat) (x y : Nat) : List Nat :=
  (List.range 4).map (fun i => if i = x then physOf smap y else if i = y then physOf smap x else physOf smap i)

/-- Slot map and descriptors, these by physical slot, after one queued entry (R149, R385). Log 59, DEDUCED. -/
def viewAfter (v : List Nat × List SlotDesc) (e : MEntry) : List Nat × List SlotDesc :=
  match e.op with
  | .mswap x y => (swapMap v.1 x y, v.2)
  | .mldb b _ shape =>
    (v.1, (List.range 4).map (fun i =>
      if i = physOf v.1 b then descOf (shapeOf shape) else v.2.getD i SlotDesc.empty))
  | _ => v

/-- The entries of a workgroup in its core's queue. -/
def State.queuedOf (s : State) (w : WG) : List MEntry := (s.core w.core).mq.filter (fun e => e.wid == w.wid)

/-- Slot map and descriptors as queue order leaves them for a word that issues now (R56, R385). Log 59, DEDUCED. -/
def State.slotView (s : State) (w : WG) : List Nat × List SlotDesc := (s.queuedOf w).foldl viewAfter (w.smap, w.descs)

/-! ## The arithmetic -/

/-- Element i of a scaled block with a header (R125). -/
def blockElem (t : Ty) (hdr i x : Nat) : FVal :=
  if hdr % 4 ≠ 0 then (if t = .q4 then .fin false 0 0 else .nan false)
  else scaleV (signedOf 6 (bitsOf hdr 10 6) - (bitsOf hdr (2 + 2 * (i / 16)) 2 : Int)) (elementV t x)

/-- The exact sum of finite values, in units of 2^e, and e. -/
def exactSum (xs : List (Bool × Nat × Int)) : Int × Int :=
  let e := xs.foldl (fun (a : Int) x => if x.2.2 < a then x.2.2 else a) 0
  (xs.foldl (fun (a : Int) x => a + signedMag x.1 (x.2.1 * 2 ^ (x.2.2 - e).toNat)) 0, e)

/-- A product of two values that are finite. -/
def finProd : FVal × FVal → Option (Bool × Nat × Int)
  | (.fin n m e, .fin n' m' e') => some (n != n', m * m', e + e')
  | _ => none

/-- The sign of an infinite product. -/
def infProd : FVal × FVal → Option Bool
  | (.inf a, .inf b) => some (a != b)
  | (.inf a, .fin b _ _) | (.fin b _ _, .inf a) => some (a != b)
  | _ => none

/-- ChunkAdd (R127): the first row of its table that applies, else one rounding to nearest even. -/
def chunkAdd (acc : Nat) (ps : List (FVal × FVal)) : Nat × Nat :=
  let a := decodeF w48 acc
  let infs := ps.filterMap infProd ++ (match a with | .inf n => [n] | _ => [])
  if a.isNan || ps.any (fun p => p.1.isNan || p.2.isNan) then
    (defaultNan w48, if a = .nan true || ps.any (fun p => p.1 = .nan true || p.2 = .nan true) then fIV else 0)
  else if ps.any (fun p => zeroTimesInf p.1 p.2) then (defaultNan w48, fIV)
  else if infs.contains true && infs.contains false then (defaultNan w48, fIV)
  else match infs with
    | n :: _ => (infBits w48 n, 0)
    | [] =>
      let fs := ps.filterMap finProd
      let (sm, se) := exactSum fs
      match a with
      | .fin an am ae =>
        if sm = 0 then
          if am = 0 && an then (signBit w48 (fs.all (fun p => p.1 && p.2.1 = 0)), 0) else (acc, 0)
        else
          let (n, m, e) := addExact .rn an am ae (sm < 0) sm.natAbs se
          let r := roundF w48 .rn false false n m e
          (r.1, r.2 &&& fOF)
      | _ => (acc, 0)

/-- The integer of an int48 pattern. -/
def int48 (x : Nat) : Int := signedOf 48 x

/-- The integer update (R127): the chunk sum rounded to an integer, ties to even, added and clamped to 48 bits. -/
def chunkInt (acc : Nat) (ps : List (FVal × FVal)) : Nat × Nat :=
  let (sm, se) := exactSum (ps.filterMap finProd)
  let r := (roundTo .rn (sm < 0) sm.natAbs se 0).1
  let v := int48 acc + signedMag (sm < 0) r
  let hi : Int := 2 ^ 47 - 1
  let lo : Int := -(2 ^ 47 : Int)
  if hi < v then (wrapTo 48 hi, fSAT) else if v < lo then (wrapTo 48 lo, fSAT) else (wrapTo 48 v, 0)

/-- The chunks of one element in ascending k (R127): `prod k` is the pair of factors at k. -/
def chunksOf (float : Bool) (kc : Nat) (prod : Nat → FVal × FVal) : Nat → Nat → Nat → Nat × Nat
  | 0, _, acc => (acc, 0)
  | n + 1, c, acc =>
    let ps := (List.range kc).map (fun i => prod (c * kc + i))
    let r := if float then chunkAdd acc ps else chunkInt acc ps
    let t := chunksOf float kc prod n (c + 1) r.1
    (t.1, r.2 ||| t.2)

/-! ## Tiles -/

/-- Where element (r, c) of a tile is kept. -/
def tileKey (t r c : Nat) : Nat := 256 * t + 16 * r + c

/-- What an MMA leaves: the tiles and the flags (R158). -/
def runMma (w : WG) (phys tile base : Nat) (h : Shape) (win : Option Nat) : SMap (BitVec 48) × Nat :=
  let k := h.k
  let a := storedA h win
  let aHdr := fun (i kb : Nat) => storedHeader w.win base a h.at_ (posOf win i) kb
  let bHdr := fun (kb j : Nat) => slotBits w.slots phys (8 * (k * h.n * widthOf h.bt / 8 + 2 * (kb * h.n + j))) 16
  let av := fun (i x : Nat) =>
    let e := storedElem w.win base a h.at_ h.ao h.sb (posOf win i) x
    if h.sb then blockElem h.at_ (aHdr i (x / 64)) (x % 64) e else elementV h.at_ e
  let bv := fun (x j : Nat) =>
    let e := slotBits w.slots phys (widthOf h.bt * (x * h.n + j)) (widthOf h.bt)
    if h.sb then blockElem h.bt (bHdr (x / 64) j) (x % 64) e else elementV h.bt e
  let kc := kMin ((matClass h.bt).getD 3)
  let blk := h.sb && ((List.range (k / 64)).any (fun kb =>
    (List.range h.m).any (fun i => aHdr i kb % 4 != 0) || (List.range h.n).any (fun j => bHdr kb j % 4 != 0)))
  (List.range (h.m * h.n)).foldl (fun (acc : SMap (BitVec 48) × Nat) n =>
    let i := n / h.n
    let j := n % h.n
    let key := tileKey (tile + i / 16 * (h.n / 16) + j / 16) (i % 16) (j % 16)
    let r := chunksOf (isFloat h.bt) kc (fun x => (av i x, bv x j)) (k / kc) 0 (w.tiles.get 0 key).toNat
    (SMap.put 0 acc.1 key (BitVec.ofNat 48 r.1), acc.2 ||| r.2)) (w.tiles, if blk then fBLK else 0)

/-- Some tiles of one store replaced by those of another. -/
def copyTiles (src dst : SMap (BitVec 48)) (p : Nat → Bool) : SMap (BitVec 48) :=
  (src.filter (fun e => p (e.1 / 256))).foldl (fun m e => SMap.put 0 m e.1 e.2) (dst.filter (fun e => !p (e.1 / 256)))

/-- MZERO (R160). -/
def WG.zeroTiles (w : WG) (t n : Nat) : WG :=
  let out := fun (e : Nat × BitVec 48) => e.1 / 256 < t || t + n ≤ e.1 / 256
  { w with tiles := w.tiles.filter out, commit := w.commit.filter out }

/-- The tile element of memory element e of stored row q (R161, R382). -/
def oriKey (t : Nat) (col : Bool) (q e : Nat) : Nat := if col then tileKey t e q else tileKey t q e

/-- MLDA's conversion (R161, R382). -/
def toAcc (ty : Ty) (x : Nat) : Nat × Nat :=
  if ty = .i32 then (wrapTo 48 (signedOf 32 x), 0) else toFloatV w48 .rn false false (decodeF (fmtOf ty) x)

/-- MSTA's conversion (R126, R382). -/
def fromAcc (ty : Ty) (r : Rnd) (sat : Bool) (x : Nat) : Nat × Nat :=
  if isFloat ty then toFloatV (fmtOf ty) r sat false (decodeF w48 x)
  else
    let k := int48 x
    if sat && !inRange ty k then (wrapTo (widthOf ty) (clampInt ty k), fSAT) else (wrapTo (widthOf ty) k, 0)

/-- MLDA: one tile and its commit-plane copy (R161). -/
def WG.runMlda (w : WG) (t base : Nat) (ty : Ty) (col : Bool) : WG × Nat :=
  (List.range 256).foldl (fun (a : WG × Nat) n =>
    let q := n / 16
    let e := n % 16
    let b := widthOf ty / 8
    let r := toAcc ty (natOfBytes (w.win.getN 0 (base + 64 * q + b * e) b))
    let k := oriKey t col q e
    ({ a.1 with tiles := SMap.put 0 a.1.tiles k (BitVec.ofNat 48 r.1),
                commit := SMap.put 0 a.1.commit k (BitVec.ofNat 48 r.1) }, a.2 ||| r.2)) (w, 0)

/-- MSTA: one tile's 16 stored rows (R161). -/
def WG.runMsta (w : WG) (t base : Nat) (ty : Ty) (col : Bool) (r : Rnd) (sat : Bool) : WG × Nat :=
  (List.range 16).foldl (fun (a : WG × Nat) q =>
    let vs := (List.range 16).map (fun e => fromAcc ty r sat (w.tiles.get 0 (oriKey t col q e)).toNat)
    let x := packBits (vs.map (fun v => (widthOf ty, v.1)))
    ({ a.1 with win := SMap.putAll 0 a.1.win (base + 64 * q) (bytesOf (2 * widthOf ty) x) },
      vs.foldl (fun f v => f ||| v.2) a.2)) (w, 0)

/-! ## The queue -/

/-- What an entry does to its workgroup, with the flags it raises (R149, R155 to R161). -/
def WG.runEntry (w : WG) (op : MOp) : WG × Nat :=
  match op with
  | .mldb b base shape =>
    let h := shapeOf shape
    let p := physOf w.smap b
    ({ w with slots := SMap.putAll 0 w.slots (16384 * p) (slotImage w.win base h),
              descs := (List.range 4).map (fun i => if i = p then descOf h else w.descs.getD i SlotDesc.empty) }, 0)
  | .mswap x y => ({ w with smap := swapMap w.smap x y }, 0)
  | .mma tile base shape slot win =>
    let r := runMma w (physOf w.smap slot) tile base (shapeOf shape) win
    ({ w with tiles := r.1 }, r.2)
  | .mzero t n => (w.zeroTiles t n, 0)
  | .mlda t base ty ori => w.runMlda t base ty ori
  | .msta t base ty ori rnd sat => w.runMsta t base ty ori rnd sat

/-- The flags of an entry become known to the threads of its group (R131, R132, R158). -/
def WG.entryFlags (w : WG) (gid fl : Nat) : WG :=
  (w.orFlags fl).modThreads (fun _ t => if t.gid = gid then t.knows w fl else t)

/-- The stamps of a group's span changed (R168). Log 61, DEDUCED. -/
def WG.spanStamps (w : WG) (gid : Nat) (f : Stamp → Stamp) : WG :=
  (List.range 16).foldl (fun w n => w.modStamp n (fun z => if z.isOpen && z.spanG = some gid then f z else z)) w

/-- MATRIX_QUEUE_ENTRY: the entry at the head of a core's matrix queue runs (R149). All its unit fetches read the window at the instant
at which it runs. Log 100, DESIGN CHOICE. -/
def execMatrixQueueEntry (core : Nat) (s : State) : Host.Outcome State Fault Refusal :=
  .next (match (s.core core).mq with
    | [] => s
    | e :: rest =>
      if !s.coreUp core then s
      else (s.modCore core (fun c => { c with mq := rest })).modWG e.wid (fun w =>
        let w := if e.first then w.spanStamps e.gid (fun z => { z with t4 := s.now }) else w
        let r := w.runEntry e.op
        r.1.entryFlags e.gid r.2))

/-! ## Rollback -/

/-- The swaps that stay queued, undone in reverse, so that the map is the span's when they have run (R60, R162). -/
def unswap : List MEntry → List Nat → List Nat
  | [], m => m
  | e :: es, m => match e.op with
    | .mswap x y => swapMap (unswap es m) x y
    | _ => unswap es m

/-- A thread put back at its MSPAN (R60). -/
def Thread.rollBack (t : Thread) (sp : Span) (tid : Nat) : Thread :=
  let t := { t with pc := sp.pc, hold := 0, l0 := none, l1 := none, l2 := none, l3 := none,
                    loads := t.loads.filter (fun f => (runOf f.d f.vals.length 1).all (fun r =>
                      !(r.isV && r.base < sp.f + sp.n && sp.f < r.base + r.count))) }
  match sp.saved.find? (fun e => e.1 = tid) with
  | some e => { (t.setV sp.f e.2.1) with p := e.2.2 }
  | none => t

/-- Rollback of a group's open span (R60, R162): its queued entries are discarded, its tiles restored from the commit plane,
its slot map and its threads put back; the span is closed. A stamp stays with the group's next issue of the span (R168). Log 122, DESIGN
CHOICE. -/
def State.rollBack (s : State) (wid gid : Nat) : State :=
  match s.wg? wid with
  | none => s
  | some w => match (w.group? gid).bind (fun g => g.span) with
    | none => s
    | some sp =>
      let s := s.modCore w.core (fun c =>
        { c with mq := c.mq.filter (fun e => !(e.wid == wid && e.gid == gid && e.inSpan)),
                 held := c.held.map (fun h => if h = some (wid, gid) then none else h) })
      let left := s.queuedOf w
      s.modWG wid (fun w =>
        let w := { w with tiles := copyTiles w.commit w.tiles (fun t => sp.wtiles.contains t),
                          smap := unswap left sp.slotmap }
        (w.modThreads (fun i t =>
            if t.gid = gid && t.run != .exited && t.run != .pool then t.rollBack sp i else t)).modGroup gid
          (fun g => { g with span := none }))

/-! ## The words -/

/-- A uniform operand of a matrix word. -/
def Path.num (x : Path) (o : Opnd) : Nat := match x.lanes with | ln :: _ => x.read32 ln o | [] => 0

/-- The s register after the one that a field names. -/
def nextS : Opnd → Opnd
  | .s r => .s (r + 1)
  | o => o

/-- A matrix word enters its core's queue, in queue order (R149). -/
def Path.enter (x : Path) (s : State) (hd : Head) (op : MOp) (first : Bool) (f : WG → WG) : State :=
  (x.finish s hd.hold (fun _ => x.next) (fun _ t => t) f).modCore x.w.core (fun c =>
    { c with mq := c.mq ++ [⟨x.w.wid, x.g.gid, x.g.span.isSome, first, op⟩] })

/-- A matrix word with a scratchpad operand: the fault of R144, named for every executing lane, else `act`. -/
def Path.operand (x : Path) (s : State) (hd : Head) (cause base : Nat) (act : State) : State :=
  if cause = 0 then act else x.onceTrap s hd 8 cause base base

/-- Slot names at or above .stat (R156 to R158). Log 60, DEDUCED. -/
def statCauses (x : Path) (bs : List Nat) : List Nat := if bs.any (fun b => x.l.hdr.stat ≤ b) then [14] else []

/-- A tile number at or above .acc (R380). -/
def accCauses (x : Path) (o : Opnd) : List Nat := if x.l.hdr.acc ≤ x.num o then [14] else []

/-- Whether a field is decided by the word alone. -/
def isLit : Opnd → Bool
  | .imm _ => true
  | _ => false

/-- MLDB (R156, R384). -/
def execMldb (w : FWord) (s : State) : Host.Outcome State Fault Refusal :=
  let b := FSpec w % 4
  s.word (.mldb w)
    (fun x => { decl := statCauses x [b], lane := fun ln => if mldbBad (shapeOf (x.read32 ln w.c)) then [9] else [],
                slot := physOf (s.slotView x.w).1 })
    (fun x s =>
      let base := x.num w.b
      let shape := x.num w.c
      x.operand s w.hd (storedFault x.window base (storedB (shapeOf shape))) base
        (x.enter s w.hd (.mldb b base shape) false id))

/-- MSWAP (R157, R391). -/
def execMswap (w : FWord) (s : State) : Host.Outcome State Fault Refusal :=
  let bx := FSpec w % 4
  let b2 := FSpec w / 4 % 4
  s.word (.mswap w) (fun x => { decl := statCauses x [bx, b2] }) (fun x s => x.enter s w.hd (.mswap bx b2) false id)

/-- The causes of MMA and MMAW that depend on the shape, the tile and the slot's descriptor (R158, R385). -/
def mmaCauses (s : State) (x : Path) (tile : Nat) (h : Shape) (win : Option Nat) (b : Nat) : List Nat :=
  let v := s.slotView x.w
  (if mmaBad h win then [9] else if v.2.getD (physOf v.1 b) SlotDesc.empty != descOf h then [9] else [])
  ++ (if x.l.hdr.acc < tile + h.m / 16 * (h.n / 16) then [14] else [])

/-- An MMA's destination tiles and its slot join the span's sets; its first MMA starts T3 of the stamps, afresh where a rolled-back span issues
again (R57, R158, R168). Log 58, DEDUCED. Log 122, DESIGN CHOICE. -/
def Path.joinSpan (x : Path) (s : State) (tiles : List Nat) (phys : Nat) (w : WG) : WG :=
  let first := x.g.span.any (fun sp => !sp.begun)
  let w := if first then w.spanStamps x.g.gid (fun z => { z with t3 := s.now }) else w
  w.modGroup x.g.gid (fun g =>
    { g with span := g.span.map (fun sp =>
        { sp with wtiles := unionSet tiles sp.wtiles, rslots := insertSet phys sp.rslots, begun := true }) })

/-- MMA and MMAW (R158, R159, R385). Log 61, DEDUCED. -/
def State.mmaWord (s : State) (i : Instr) (w : FWord) (win : Path → Option Nat) : Host.Outcome State Fault Refusal :=
  let b := FSpec w % 4
  s.word i
    (fun x => { decl := statCauses x [b] ++ (if isLit w.a then accCauses x w.a else []),
                lane := fun ln => mmaCauses s x (x.read32 ln w.a) (shapeOf (x.read32 ln w.c)) (win x) b })
    (fun x s =>
      let tile := x.num w.a
      let base := x.num w.b
      let shape := x.num w.c
      let h := shapeOf shape
      let tiles := (List.range (h.m / 16 * (h.n / 16))).map (tile + ·)
      x.operand s w.hd (storedFault x.window base (storedA h (win x))) base
        (x.enter s w.hd (.mma tile base shape b (win x)) (x.g.span.any (fun sp => !sp.begun))
          (x.joinSpan s tiles (physOf (s.slotView x.w).1 b))))

def execMma (w : FWord) (s : State) : Host.Outcome State Fault Refusal := s.mmaWord (.mma w) w (fun _ => none)

/-- MMAW takes its window word from the upper register of its pair (R159, R379). -/
def execMmaw (w : FWord) (s : State) : Host.Outcome State Fault Refusal :=
  s.mmaWord (.mmaw w) w (fun x => some (x.num (nextS w.c)))

/-- MSPAN takes the checkpoint of R56 and opens the span (R389, R390); waiting stamps attach (R168). -/
def execMspan (w : SpanWord) (s : State) : Host.Outcome State Fault Refusal :=
  s.word (.mspan w) (fun _ => {}) (fun x s =>
    let f := match w.d with | .v r => r.toNat | _ => 0
    let n := spanCount w
    let sp : Span :=
      { pc := x.cur.pc, f := f, n := n, ext := w.ext.toNat,
        saved := x.lanes.map (fun ln => (ln.tid, ln.t.v.getN 0 f n, ln.t.p)),
        slotmap := (s.slotView x.w).1, wtiles := [], rslots := [], begun := false }
    let old := (s.before.find? (fun v => v.wid == x.w.wid)).getD x.w
    x.finish s w.hd.hold (fun _ => x.next) (fun _ t => t) (fun g =>
      ((List.range 16).foldl (fun (g : WG) i =>
        if (g.stamp i).mmaG = some x.g.gid && (old.stamp i).mmaG = some x.g.gid && (g.stamp i).openCk ≠ s.ck then
          g.modStamp i (fun z => { z with mmaG := none, spanG := some x.g.gid })
        else g) g).modGroup x.g.gid (fun g => { g with span := some sp })))

/-- MCOMMIT copies the written tiles to the commit plane and closes the span, so that what it still has queued no later rollback
discards (R59, R162, R381). -/
def execMcommit (w : FWord) (s : State) : Host.Outcome State Fault Refusal :=
  s.word (.mcommit w) (fun _ => {}) (fun x s =>
    let tiles := (x.g.span.map (fun sp => sp.wtiles)).getD []
    let s := s.modCore x.w.core (fun c => { c with mq := c.mq.map (fun e =>
      if e.wid = x.w.wid ∧ e.gid = x.g.gid then { e with inSpan := false } else e) })
    x.finish s w.hd.hold (fun _ => x.next) (fun _ t => t) (fun g =>
      let g := g.spanStamps x.g.gid (fun z => { z with t5 := s.now, spanG := none })
      ({ g with commit := copyTiles g.tiles g.commit (fun t => tiles.contains t) }).modGroup x.g.gid
        (fun g => { g with span := none, struck := false })))

/-- Causes of MZERO (R160, R392). -/
def mzeroCauses (x : Path) (t n : Nat) : List Nat := if n = 0 || 256 < n || x.l.hdr.acc < t + n then [14] else []

/-- MZERO (R160, R392). -/
def execMzero (w : FWord) (s : State) : Host.Outcome State Fault Refusal :=
  s.word (.mzero w)
    (fun x =>
      let cs := mzeroCauses x (x.num w.a) (x.num w.b)
      { decl := (if isLit w.a && isLit w.b then cs else [])
          ++ (if isLit w.a then accCauses x w.a else [])
          ++ (if isLit w.b && (x.num w.b = 0 || 256 < x.num w.b) then [14] else []),
        lane := fun _ => cs })
    (fun x s => x.enter s w.hd (.mzero (x.num w.a) (x.num w.b)) false id)

/-- The scratchpad fault of MLDA and MSTA (R161, R382). -/
def tileFault (size base : Nat) (ty : Ty) (store : Bool) : Nat :=
  let cs := 2 * widthOf ty
  let last := base + 960 + cs - 1
  if size ≤ last then 1 else if 112 < base / 64 % 128 || base % 64 % cs ≠ 0 then 2
  else if store && bermOf size ≤ last then 3 else 0

/-- MLDA and MSTA enter the queue once their address has passed (R161, R382). -/
def State.tileWord (s : State) (i : Instr) (w : FWord) (store : Bool) (op : Nat → Nat → MOp) :
    Host.Outcome State Fault Refusal :=
  s.word i (fun x => { decl := if isLit w.a then accCauses x w.a else [], lane := fun _ => accCauses x w.a })
    (fun x s =>
      let base := x.num w.b
      x.operand s w.hd (tileFault x.window base w.ty store) base (x.enter s w.hd (op (x.num w.a) base) false id))

def execMlda (w : FWord) (s : State) : Host.Outcome State Fault Refusal :=
  s.tileWord (.mlda w) w false (fun t base => .mlda t base w.ty (bitOf (FSpec w) 0))

def execMsta (w : FWord) (s : State) : Host.Outcome State Fault Refusal :=
  s.tileWord (.msta w) w true (fun t base => .msta t base w.ty (bitOf (FSpec w) 0) (rndOf (FRnd w)) (FSat w))

end Sys2Proof.Machine
end

