-- ==== Sys2Proof/Machine/Image.lean ====
section
/-! DEFINITION. The bytes of an Issal image: its workgroup sections, its other sections, directory and header (R65 to R74, R214, R444 to
R447). -/

namespace Sys2Proof.Machine

/-- Zero bytes up to the next multiple of n. -/
def padTo (n : Nat) (bs : List Byte) : List Byte := bs ++ List.replicate ((n - bs.length % n) % n) 0

/-! ## Continuations and groups -/

/-- WAIT and KIDX of a thread's record (R73, R68): a wait outside the five kinds is recorded as runnable at its word, and a wait word that
a restore or a park put back and that has not issued again as the wait that it still is (R307). Every thread of a parked group takes kind 6;
that one has arrived at a BAR is kept beside the image. Log 104, DEDUCED. -/
def waitCode (parked : Bool) (t : Thread) : Nat × Nat :=
  if parked then (6, 0)
  else match t.run with
    | .wait (.kwait k) => (1, k)
    | .wait (.bar _ _ _) => (2, 0)
    | .wait (.waitv _) => (3, 0)
    | .wait (.cbuf _ _) => (4, 0)
    | .wait (.xbar _ _ _) => (5, 0)
    | _ => match t.resumed with
      | some (1, k) => (1, k)
      | some (n, _) => (n, 0)
      | none => (0, 0)

/-- A thread that has arrived at a BAR and waits there, or that a restore has put back at such a wait (R307). -/
def Thread.arrived (t : Thread) : Bool :=
  match t.run with
  | .wait (.bar _ _ _) => true
  | .ready => t.resumed.any (fun r => r.1 == 2)
  | _ => false

/-- A continuation record (R73). -/
def contRecord (w : WG) (regs tid : Nat) (t : Thread) : List Byte :=
  let pool := t.run = .pool
  let parked := !pool && ((w.group? t.gid).map w.isParked).getD false
  let n := if pool then t.nlive else regs
  let c := waitCode parked t
  padTo 8 (bytesOf 40 (packBits [(56, t.pc), (7, t.p.toNat), (1, 0), (32, tid), (32, if pool then 0xFFFFFFFF else t.gid),
    (6, if pool then 0 else t.lane), (3, t.stage), (3, if pool then 0 else c.1), (4, if pool then 0 else c.2), (8, n),
    (40, 0), (64, t.phc), (64, t.detc)]) ++ (t.v.getN 0 0 n).flatMap (fun x => bytesOf 4 x.toNat))

/-- The %tid that a group record's lane map holds: a thread that has not exited, else 0xFFFF (R72). -/
def laneEntry (w : WG) (g : Group) (n : Nat) : Nat :=
  match g.lanes[n]? with
  | some (some tid) => if (w.threads[tid]?).any (fun t => t.run != .exited) then tid else 0xFFFF
  | _ => 0xFFFF

/-- A group record (R72). -/
def groupRecord (w : WG) (gsz : Nat) (g : Group) : List Byte :=
  bytesOf 4 g.gid ++ bytesOf 1 g.stage ++ bytesOf 1 gsz ++ bytesOf 10 0
  ++ (List.range 64).flatMap (fun n => bytesOf 2 (laneEntry w g n))
  ++ (g.s.getN 0 0 64).flatMap (fun x => bytesOf 4 x.toNat)
  ++ (g.k.getN 0 0 12).flatMap (fun x => bytesOf 8 x.toNat) ++ bytesOf 16 0

/-! ## Copies and requests -/

/-- A copy record: position and command (R447). -/
def copyRecord (pos : Nat) (c : CopyCmd) : List Byte :=
  let cmd := c.cmd ≠ 0
  bytesOf 1 c.cmd ++ bytesOf 1 c.q ++ bytesOf 1 (if cmd then bit1 c.done + 2 * bit1 c.taken.isSome else 0)
  ++ bytesOf 1 (if cmd then c.taken.getD 0 else 0) ++ bytesOf 4 pos ++ bytesOf 4 (if cmd then c.sectors else 0)
  ++ bytesOf 1 (if cmd then 0 else c.mask) ++ bytesOf 3 0 ++ bytesOf 8 c.pc ++ bytesOf 8 (if cmd then c.pat.toNat else 0)
  ++ bytesOf 32 (if cmd then descNum c.desc else 0) ++ bytesOf 32 0

/-- The recorded commands of a workgroup, queue by queue, with their positions (R65). -/
def WG.recorded (w : WG) : List (Nat × CopyCmd) := w.queues.flatMap (fun q => q.zipIdx.map (fun p => (p.2, p.1)))

/-- The operand code of a reply's destination (R214). -/
def destCode : Opnd → Nat
  | .v r => r.toNat
  | .s r => 0x80 + r.toNat
  | _ => 0xFF

/-- A line-routine record (R214). -/
def lineRecord (r : Req) : List Byte :=
  let atom := match r.kind with | .atom _ => true | _ => false
  bytesOf 80 (packBits ([(56, r.va), (8, r.r)] ++ ((List.range 4).map (fun i => (64, (r.opnds.getD i 0).toNat)))
    ++ [(32, r.tid), (8, destCode r.d), (3, r.opnds.length), (1, bit1 atom), (20, 0), (64, r.ordinal), (64, r.phc),
        (64, r.detn), (56, r.pc), (8, 0)]))

/-- Atomics and routines, the requests that an image records (R64). -/
def Req.recorded (r : Req) : Bool :=
  match r.kind with
  | .atom _ | .lrcall => true
  | _ => false

/-- The requests of a launch that stand unapplied: at slices, in the reorder window, waiting for a page (R64, R214). Log 50, DEDUCED. -/
def State.unapplied (s : State) (l : Launch) : List Req :=
  ((s.slices.flatMap (fun e => e.2)) ++ l.window
    ++ s.faults.flatMap (fun f => f.srcs.filterMap (fun x => match x with
      | .table _ r => if r.det then none else some r
      | .reissue r => some r
      | _ => none))).filter (fun r => r.lid == l.lid && r.recorded)

/-- Requests in ascending issue ordinal. -/
def insertReq (r : Req) : List Req → List Req
  | [] => [r]
  | q :: qs => if r.ordinal < q.ordinal then r :: q :: qs else q :: insertReq r qs

def sortReqs (rs : List Req) : List Req := rs.foldr insertReq []

/-! ## Sections -/

/-- A slot descriptor (R446). -/
def SlotDesc.num (d : SlotDesc) : Nat :=
  if d.loaded then packBits [(16, d.k), (16, d.n), (5, d.bt), (1, bit1 d.sb), (1, 1)] else 0

/-- The descriptor behind a slot name. -/
def WG.descOf (w : WG) (i : Nat) : SlotDesc := w.descs.getD (w.smap.getD i i) ⟨0, 0, 0, false, false⟩

/-- The groups that have a record, in ascending %gid (R72). -/
def WG.groupRecords (w : WG) : List Group :=
  let gs := w.groups.filter (fun g => !(liveLanes w g).isEmpty)
  (unionSet (gs.map (fun g => g.gid)) []).filterMap (fun n => gs.find? (fun g => g.gid == n))

/-- A workgroup section (R72, R446). -/
def State.groupSection (s : State) (l : Launch) (w : WG) : List Byte :=
  let h := l.hdr
  let v := s.view w.core l.lid
  let gs := w.groupRecords
  let ts := w.threads.zipIdx.filter (fun p => p.1.run != .exited)
  let rs := sortReqs ((s.unapplied l).filter (fun r => r.wid == w.wid))
  bytesOf 4 w.wgid ++ bytesOf 4 (w.core % 256) ++ bytesOf 4 h.n ++ bytesOf 1 h.g ++ bytesOf 3 0 ++ bytesOf 4 w.formation
  ++ bytesOf 4 w.flags.toNat ++ bytesOf 8 (s.core w.core).phase ++ bytesOf 8 v.ordinal ++ [0, 1, 2, 3] ++ bytesOf 4 0
  ++ (List.range 4).flatMap (fun i => bytesOf 8 (if i < h.stat then (w.descOf i).num else 0))
  ++ bytesOf 4 gs.length ++ bytesOf 4 ts.length ++ bytesOf 4 w.recorded.length ++ bytesOf 4 rs.length
  ++ bytesOf 4 h.window ++ bytesOf 2 h.acc ++ bytesOf 1 h.stat ++ bytesOf 1 h.cbufs ++ bytesOf 152 0
  ++ w.win.getN 0 0 h.window
  ++ (w.commit.getN 0 0 (256 * h.acc)).flatMap (fun x => bytesOf 6 x.toNat)
  ++ (List.range h.stat).flatMap (fun i => w.slots.getN 0 (16384 * w.smap.getD i i) 16384)
  ++ (List.range h.cbufs).flatMap (fun n => bytesOf 8 (w.cb n).word)
  ++ gs.flatMap (groupRecord w h.g) ++ ts.flatMap (fun p => contRecord w h.regs p.2 p.1)
  ++ w.recorded.flatMap (fun p => copyRecord p.1 p.2) ++ rs.flatMap lineRecord

/-- The children whose completion has not been reported, in ascending LID (R71, R245). -/
def State.openChildren (s : State) (l : Launch) : List Nat :=
  unionSet (l.children.filter (fun c => !(s.launch? c).any (fun m => m.phase == .complete))) []

/-- The dispatch section (R444). -/
def State.dispatchSection (s : State) (l : Launch) (term : Bool) : List Byte :=
  let cs := s.openChildren l
  bytesOf 8 l.next ++ bytesOf 8 l.base ++ bytesOf 32 (ofBits (fun i => l.done.contains (l.base + i)) 256)
  ++ bytesOf 1 (bit1 term) ++ bytesOf 7 0 ++ bytesOf 8 cs.length ++ cs.flatMap (bytesOf 8)

/-- The word at an offset of a code image. -/
def imageWord (img : List Byte) (o : Nat) : Option Instr :=
  if o + 8 ≤ img.length then parse (BitVec.ofNat 64 (natOfBytes ((img.drop o).take 8))) else none

/-- The word at an address of the sealed version that a launch executes (R248, R313). -/
def State.sealedWord (s : State) (l : Launch) (pc : Nat) : Option Instr :=
  (s.codeOf l).bind (fun v => if v.base ≤ pc then imageWord v.image (pc - v.base) else none)

/-- A record of the cross-core section (R445). -/
def XBar.image (b : XBar) : List Byte :=
  bytesOf 4 (b.gen % 2 ^ 22) ++ bytesOf 1 b.role ++ bytesOf 1 (bit1 b.next.isSome) ++ bytesOf 10 0 ++ bytesOf 32 b.member.toNat
  ++ bytesOf 32 b.arrived.toNat ++ bytesOf 32 (match b.next with | some x => x.toNat | none => 0)

/-- The cross-core section, absent where every barrier stands as at launch (R71, R445). -/
def Launch.crossSection (l : Launch) : Option (List Byte) :=
  let bs := (List.range 16).map l.xbar
  if bs.all (fun b => b == XBar.reset) then none else some (bs.flatMap XBar.image)

/-- A code section: base version, handle, size, and the image with the pages written into it (R67, R71). Log 47, DESIGN CHOICE. -/
def codeSection (h : Nat) (v : Handle) : List Byte :=
  bytesOf 8 v.base ++ bytesOf 1 h ++ bytesOf 7 0 ++ bytesOf 8 v.image.length ++ v.image

/-- The debug section: breakpoints, watchpoints, and the parked groups by %wgid and %gid (R71, R280); absent where no group is
parked. Log 47, DESIGN CHOICE. -/
def State.debugSection (s : State) (l : Launch) : Option (List Byte) :=
  let ps := (s.wgs.filter (fun w => w.lid == l.lid)).flatMap (fun w => (w.groups.filter w.isParked).map (fun g => (w.wgid, g.gid)))
  let d := (s.ctx l.ctx).dbg
  if ps.isEmpty then none
  else some ((List.range 8).flatMap (fun i => bytesOf 8 (d.bps.get 0 i).toNat) ++ (List.range 4).flatMap (fun i => bytesOf 16 (d.wps.get 0 i).toNat)
    ++ bytesOf 8 ps.length ++ ps.flatMap (fun p => bytesOf 4 p.1 ++ bytesOf 4 p.2))

/-! ## The image -/

/-- A word that reads %ncore, or that reads a special register which a register names (R70, R85, R421). Log 105, DESIGN CHOICE. -/
def namesNcore : Instr → Bool
  | .movSpecial w => FSpec w = 0x0B
  | .sysrd w => match w.a with
    | .none => FSpec w = 0x0B
    | .s _ => true
    | _ => false
  | _ => false

/-- Whether every lane executes a word of a predicate field (R87). -/
def alwaysRuns (hd : Head) : Bool := hd.pred = 7#3 && !hd.neg

/-- An offset moved by a word's offset field (R90); none where it leaves the numbers. -/
def offsetFrom (o : Nat) (imm : BitVec 32) : List Nat := if 0 ≤ (o : Int) + imm.toInt then [((o : Int) + imm.toInt).toNat] else []

/-- The offsets that a path may come to after the word at an offset of a code image (R311, R328, R406, R420, R425); none where a
register alone says where it goes (BRX, RET). Log 105, DESIGN CHOICE. -/
def nextOffsets (img : List Byte) (o : Nat) : Instr → Option (List Nat)
  | .bra w => some (offsetFrom o w.imm ++ (if alwaysRuns w.hd then [] else [o + 8]))
  | .call w => some (offsetFrom o w.imm ++ [o + 8])
  | .regroup w => some (offsetFrom o w.imm ++ (if alwaysRuns w.hd then [] else [o + 8]))
  | .switch w =>
    let m := FSpec w % 8 + 1
    some ((List.range m).flatMap (fun i => offsetFrom o (BitVec.ofNat 32 (natOfBytes ((img.drop (o + 8 * (i + 1))).take 4))))
      ++ [o + 8 * (m + 1)])
  | .brx _ => none
  | .ret _ => none
  | .exit w => some (if alwaysRuns w.hd then [] else [o + 8])
  | .trap w => some (if alwaysRuns w.hd then [] else [o + 8])
  | _ => some [o + 8]

/-- Whether a path from some offsets of a code image may come to a word that reads %ncore; where a register says where a path goes,
every word behind the kernel headers counts. The fuel bounds the offsets looked at. Log 105, DESIGN CHOICE. -/
def reachesNcore (img : List Byte) : Nat → List Nat → List Nat → Bool
  | 0, _, _ => false
  | _ + 1, _, [] => false
  | n + 1, seen, o :: todo =>
    if seen.contains o then reachesNcore img n seen todo
    else match imageWord img o with
      | none => reachesNcore img n (o :: seen) todo
      | some i =>
        if namesNcore i then true
        else match nextOffsets img o i with
          | some os => reachesNcore img n (o :: seen) (os ++ todo)
          | none =>
            let first := 8 + 8 * kernelCount img
            ((List.range (img.length / 8 - first)).any (fun k => (imageWord img (8 * (first + k))).any namesNcore))

/-- PARTERRE of the header: the launch is deterministic, or a word that a path of its kernel may come to reads %ncore, whether or not it has
issued (R70). Log 105, DESIGN CHOICE. -/
def State.parterreBit (s : State) (l : Launch) : Bool :=
  l.isDet || (s.codeOf l).any (fun v => reachesNcore v.image (11 * v.image.length + 1) [] [l.hdr.entry])

/-- A directory entry (R71). -/
def dirEntry (ty : Nat) (opt : Bool) (len off : Nat) : List Byte := bytesOf 16 (packBits [(16, ty), (1, bit1 opt), (7, 0), (40, len), (64, off)])

/-- The directory of some sections, the first at an offset. -/
def directory : Nat → List (Nat × List Byte) → List Byte
  | _, [] => []
  | off, e :: es => dirEntry e.1 (e.1 = 5) e.2.length off ++ directory (off + (padTo 256 e.2).length) es

/-- Header, directory and sections put together (R69, R70). Log 47, DESIGN CHOICE. -/
def State.assemble (s : State) (l : Launch) (secs : List (Nat × List Byte)) : List Byte :=
  let dirLen := ceilDiv (16 * secs.length) 256 * 256
  let rest := padTo 256 (directory (256 + dirLen) secs) ++ secs.flatMap (fun e => padTo 256 e.2)
  let dig := match s.codeOf l with | some v => sha3Bytes v.image | none => bytesOf 32 0
  bytesOf 8 (packBits [(32, 0x1551A1E5), (8, 2), (8, 1), (1, bit1 (s.parterreBit l)), (1, bit1 l.isDet), (14, 0)])
  ++ bytesOf 8 (256 + rest.length) ++ bytesOf 8 l.codever ++ dig ++ bytesOf 2 secs.length ++ bytesOf 6 0
  ++ bytesOf 128 (recNum l.record) ++ sha3Bytes rest ++ bytesOf 32 0 ++ rest

/-- The workgroups of a launch in ascending %wgid. -/
def State.groupsOf (s : State) (lid : Nat) : List WG :=
  let ws := s.wgs.filter (fun w => w.lid == lid)
  (unionSet (ws.map (fun w => w.wgid)) []).filterMap (fun n => ws.find? (fun w => w.wgid == n))

/-- The image of a launch (R69 to R72); a terminated one holds its dispatch section alone (R68). -/
def State.imageOf (s : State) (l : Launch) (term : Bool) : List Byte :=
  if term then s.assemble l [(1, s.dispatchSection l true)]
  else
    s.assemble l ([(1, s.dispatchSection l false)]
      ++ ((List.range 4).filterMap (fun h => ((s.ctx l.ctx).handle h).map (fun v => (2, codeSection h v))))
      ++ (s.groupsOf l.lid).map (fun w => (3, s.groupSection l w))
      ++ (match l.crossSection with | some b => [(4, b)] | none => [])
      ++ (match s.debugSection l with | some b => [(5, b)] | none => []))

/-- The flags of recorded commands (R66). Log 48, DEDUCED. -/
def State.copyFlagsOf (s : State) (lid : Nat) : List (Nat × Nat × Nat × Nat) :=
  (s.groupsOf lid).flatMap (fun w => (w.recorded.filter (fun p => p.2.fl != 0)).map (fun p => (w.wgid, p.2.q, p.1, p.2.fl.toNat)))

/-- The key ID under which the data of a context's owner is written: the lowest of its set (R69, R177, R240). Log 49, DESIGN CHOICE. -/
def State.ownerKey (s : State) (ctx : Nat) : Nat := ((setBits 1024 (s.ctx ctx).kset.toNat).head?).getD 0

/-- What is known beside the image of a launch that stands with some size at the next place: the flags of copies that write on, the
workgroups that may not be relaunched, groups with a struck tile, threads of parked groups that have arrived, open ranges, and the running
groups (R46, R66, R194, R261, R265, R307). Log 48, DEDUCED. -/
def State.imageInfo (s : State) (l : Launch) (size : Nat) : Image :=
  let ws := s.groupsOf l.lid
  { lid := l.lid, ctx := l.ctx, addr := s.imageBase, size := size, copyFlags := s.copyFlagsOf l.lid,
    bound := (ws.filter (fun w => w.noRelaunch)).map (fun w => w.wgid)
    struck := ws.flatMap (fun w => (w.groups.filter (fun g => g.struck)).map (fun g => (w.wgid, g.gid)))
    arrived := ws.flatMap (fun w => (w.threads.zipIdx.filter (fun p => p.1.arrived && ((w.group? p.1.gid).map w.isParked).getD false)).map
      (fun p => (w.wgid, p.2)))
    ranges := ws.flatMap (fun w => (w.ranges.filter (fun o => o.fence.isNone)).map (fun o => (w.wgid, o)))
    running := ws.flatMap (fun w => match (s.core w.core).running with
      | some r => if r.1 = w.wid then [(w.core % 256, w.wgid, r.2)] else []
      | none => []) }

/-- The image stands in memory under the owner's key, at the next place, in place of an older one of the launch (R69). Log 49, DESIGN
CHOICE. -/
def State.storeImage (s : State) (i : Image) (bs : List Byte) : State :=
  { s.writeM i.ctx (s.ownerKey i.ctx) (cellsAt i.addr bs) with
    images := s.images.filter (fun j => j.lid != i.lid) ++ [i], imageBase := i.addr + (padTo 256 bs).length }

/-- The image of a launch written (R63 step 5, R68, R69). -/
def State.keepImage (s : State) (l : Launch) (term : Bool) : State :=
  let bs := s.imageOf l term
  s.storeImage (s.imageInfo l bs.length) bs

/-- The bytes of a stored image, as the key of its context's owner reads them (R69, R177); none where a line of it is poisoned (R260). -/
def State.imageBytes (s : State) (i : Image) : List Byte :=
  if (s.poisoned i.addr i.size).isSome then []
  else ({ s.mem with bytes := s.mem.bytes.filter (fun e => i.addr / 16 * 16 ≤ e.1 && e.1 < i.addr + i.size + 16) } : Mem).readN
    (s.ownerKey i.ctx) i.addr i.size

/-- The sections of some workgroups written one after another from an address on, each under the key of its launch's owner (R63 step 5, R69). -/
def State.saveGroups (s : State) : Nat → List WG → State
  | _, [] => s
  | a, w :: ws => match s.launch? w.lid with
    | none => s.saveGroups a ws
    | some l =>
      let bs := padTo 256 (s.groupSection l w)
      (s.writeM l.ctx (s.ownerKey l.ctx) (cellsAt a bs)).saveGroups (a + bs.length) ws

/-- The save area of a logical core takes its workgroup sections (R22, R63 step 5). Log 49, DESIGN CHOICE. -/
def State.saveCore (s : State) (key : Nat) : State :=
  s.saveGroups (gbSave (s.gbe key).toNat * 2 ^ 22) (s.wgs.filter (fun w => w.core == key))

end Sys2Proof.Machine
end

