-- ==== Sys2Proof/Machine/Parser.lean ====
section
/-! DEFINITION. The queues: descriptor writes, doorbells, and the packet parser with its rejections and wait packets (R24, R28, R44,
R234 to R237, R260). -/

namespace Sys2Proof.Machine

/-! ## Descriptors -/

/-- A descriptor whose WR has been set: the records of LAUNCH that lie no longer between RD and WR are forgotten (R236). -/
def QDesc.setWr (d : QDesc) (wr : Nat) : QDesc :=
  { d with wr := wr, devRecs := d.devRecs.filter (fun e => (e.1 + 2 ^ 32 - d.rd) % 2 ^ 32 < (wr + 2 ^ 32 - d.rd) % 2 ^ 32) }

/-- A descriptor with the fields of a write (R234): RD and ERRIDX are read-only, STATUS is cleared by ones. -/
def QDesc.written (d : QDesc) (x : Nat) : QDesc :=
  let en := bitOf x 75
  { d.setWr (bitsOf x 128 32) with
    ring := bitsOf x 0 56, size := bitsOf x 56 4, ctx := bitsOf x 64 9, prio := bitsOf x 73 2, en := en,
    dev := bitOf x 76, status := d.status &&& (255 - bitsOf x 160 8),
    holding := if en then d.holding else none, stalled := en && d.stalled }

/-- Whether a write of a descriptor is accepted (R234). -/
def QDesc.accepts (d : QDesc) (x : Nat) : Bool :=
  bitsOf x 0 12 = 0 && bitsOf x 56 4 < 13 && bitsOf x 60 4 = 0 && bitsOf x 77 19 = 0
  && (!d.en || (bitsOf x 0 56 = d.ring && bitsOf x 56 4 = d.size && bitsOf x 64 9 = d.ctx && bitsOf x 73 2 = d.prio
      && bitOf x 76 = d.dev))

/-- The queue-error interrupt of a queue, which stands while its STATUS is not zero (R234, R237). Log 103, DESIGN CHOICE. -/
def State.queueIrqAt (s : State) (q : Nat) : State :=
  { s with lodge := { s.lodge with queueIrq :=
      if (s.queue q).status = 0 then s.lodge.queueIrq.filter (· != q) else insertSet q s.lodge.queueIrq } }

/-- QUEUE_DESCRIPTOR_WRITE (R234): a rejected write leaves the descriptor unchanged and sets the binding-error bit. -/
def execQueueDescriptorWrite (q : Nat) (desc : BitVec 256) (s : State) : Host.Outcome State Fault Refusal :=
  .next (
    if 4096 ≤ q then s
    else if (s.queue q).accepts desc.toNat then (s.modQueue q (fun d => d.written desc.toNat)).queueIrqAt q else s.bindError)

/-! ## Rejection -/

/-- A rejected packet (R237): STATUS, ERRIDX := RD, EN cleared; RD stays; the lodge raises the host's queue-error interrupt. -/
def State.reject (s : State) (q code : Nat) : State :=
  (s.modQueue q (fun d => { d with status := code, erridx := d.rd, en := false, holding := none, stalled := false })).queueIrqAt q

/-- Whether the parser works on a queue at all (R234, R235, R268). -/
def State.parses (s : State) (q : Nat) : Bool :=
  let d := s.queue q
  s.up && q < 4096 && d.en && d.rd ≠ d.wr && d.holding.isNone && !d.stalled

/-- The codes found before a packet is read (R235): 9 for the doorbell, 10 for the context, 0 for none. -/
def State.preCode (s : State) (q : Nat) : Nat :=
  let d := s.queue q
  let c := s.ctx d.ctx
  if d.capacity < (d.wr + 2 ^ 32 - d.rd) % 2 ^ 32 then 9 else if !c.defined || c.dead then 10 else 0

/-- QUEUE_DOORBELL (R235): WR is written; an enabled queue is checked, and its packets are read from then on. -/
def execQueueDoorbell (q : Nat) (wr : Word) (s : State) : Host.Outcome State Fault Refusal :=
  .next (
    if 4096 ≤ q then s
    else
      let s := s.modQueue q (fun d => d.setWr wr.toNat)
      if !s.parses q then s
      else match s.preCode q with
        | 0 => s
        | c => s.reject q c)

/-! ## Packets -/

def pkType (n : Nat) : Nat := bitsOf n 0 8
def pkSig (n : Nat) : Nat := bitsOf n 320 56
def pkCount (n : Nat) : Nat := bitsOf n 192 31 * bitsOf n 224 16 * bitsOf n 240 16
def pkVersion (n : Nat) : Nat := bitsOf n 64 64
def pkKernel (n : Nat) : Nat := bitsOf n 128 16

/-- A reserved field of a launch record is nonzero (R236). -/
def pkReserved (n : Nat) : Bool :=
  bitsOf n 12 20 != 0 || bitsOf n 144 48 != 0 || bitOf n 223 || bitsOf n 291 29 != 0 || bitsOf n 376 8 != 0

/-- The kernel that a record names in a context (R236). -/
def State.kernelOf (s : State) (ctx n : Nat) : Option Hdr :=
  match s.version ctx (pkVersion n) with
  | some v => if pkKernel n < kernelCount v.image then some (headerOf v.image (pkKernel n)) else none
  | none => none

/-- The kernel's resources fit one core, and its shape keeps the limits of R24 (R28). Log 46, DEDUCED. -/
def Hdr.fitsCore (h : Hdr) : Bool :=
  h.gsz ≠ 3 && 1 ≤ h.n && h.n ≤ 1024 && h.n % h.g = 0 && (h.takes.zip corePools).all (fun p => p.1 ≤ p.2) && h.scr ≤ 256

/-- The codes that apply to a launch record (R237); `child` marks a record that LAUNCH placed. Log 46, DEDUCED. -/
def State.launchCodes (s : State) (d : QDesc) (n : Nat) (child : Bool) : List Nat :=
  (if pkReserved n || bitsOf n 256 35 != 0 || pkSig n % 8 != 0 then [2] else [])
  ++ (if 2 ^ 32 ≤ pkCount n then [3] else [])
  ++ (match s.kernelOf d.ctx n with
      | none => [4]
      | some h => (if h.fitsCore then [] else [5]) ++ (if h.stagesOk then [] else [6]))
  ++ (if child && !d.dev then [7] else [])

/-- The codes that apply to a wait packet (R236, R237): every field but TYPE, SIGADDR and ARGS[63:0] is zero, and SIGADDR is an
aligned address. -/
def waitCodes (n : Nat) : List Nat :=
  if bitsOf n 8 312 != 0 || bitsOf n 376 136 != 0 || bitsOf n 576 448 != 0 || pkSig n = 0 || pkSig n % 8 != 0 then [2] else []

/-- What the parser finds at RD. -/
inductive Packet where
  /-- the queue goes on as this state: rejected, stalled, or nothing to read -/
  | none_ (s : State)
  | packet (n : Nat)

/-- The packet at RD, read through the context's translation (R235, R260). -/
def State.readPacket (s : State) (q : Nat) : Packet :=
  if !s.parses q then .none_ s
  else
    let d := s.queue q
    if s.preCode q ≠ 0 then .none_ (s.reject q (s.preCode q))
    else
      let va := d.packetVa d.rd
      match s.access d.ctx va 128 1 true false false with
      | .error c =>
        if c = 3 then .none_ ((s.modQueue q (fun d => { d with stalled := true })).sendFault d.ctx va .load (.parser q))
        else .none_ (s.reject q 8)
      | .ok ts =>
        let t := oneTrans ts
        match s.poisoned t.pa 128 with
        | some e => .none_ ((s.retirePage e.1).reject q 8)
        | none => .packet (natOfBytes (s.mem.readN t.key t.pa 128))

/-- A launch record as the parser completes it: PRIO capped, SHAPE, PARENT and LID filled in (R236). -/
def completeRecord (n : Nat) (d : QDesc) (h : Hdr) (parent lid : Nat) : Nat :=
  let n := putBits n 9 2 (min (bitsOf n 9 2) d.prio)
  childRecord (putBits n 256 35 (h.dx + h.dy * 2 ^ 11 + h.dz * 2 ^ 22 + h.gsz * 2 ^ 33)) parent lid

/-- The launch of a completed record (R236, R244). Log 46, DEDUCED. -/
def State.newLaunch (s : State) (q qidx ctx n : Nat) (h : Hdr) : Launch :=
  let c := s.ctx ctx
  { lid := bitsOf n 448 64, record := recWords n, ctx := ctx, part := c.part, hdr := h, gx := bitsOf n 192 31,
    gy := bitsOf n 224 16, gz := bitsOf n 240 16, prio := bitsOf n 9 2, ovl := bitOf n 11, det := bitOf n 8,
    sig := pkSig n, codever := pkVersion n, tlimit := if bitsOf n 32 32 = 0 then c.tlim else bitsOf n 32 32, q := q,
    qidx := qidx, phase := .queued, slot := none, next := 0, base := 0, done := [], placed := false, pending := [],
    relaunched := [], stopping := false, ckUsed := 0, lastSig := none, heldSig := false, children := [], window := [],
    frontier := (0, 0, 0, 0), frontierCk := s.ck, xbars := [], traps := [], recorded := false, nrec := 0, allStop := false, flagWords := [] }

/-- LAUNCH_PACKET (R235 to R237): the packet is rejected with its lowest code, or becomes a launch; a record that LAUNCH placed keeps
the parent and the LID it has. -/
def execLaunchPacket (q : Nat) (s : State) : Host.Outcome State Fault Refusal :=
  .next (match s.readPacket q with
    | .none_ s1 => s1
    | .packet n =>
      let d := s.queue q
      let child := d.devRecs.find? (fun e => e.1 == d.rd)
      if pkType n = 2 then s
      else if pkType n ≠ 1 then s.reject q 1
      else match minOf (s.launchCodes d n child.isSome), s.kernelOf d.ctx n with
        | none, some h =>
          let lid := match child with | some e => e.2.2 | none => s.lidNext
          let parent := match child with | some e => e.2.1 | none => 0
          let l := s.newLaunch q d.rd d.ctx (completeRecord n d h parent lid) h
          let s1 : State := { s with launches := s.launches ++ [l], lidNext := if child.isSome then s.lidNext else lid + 1 }
          s1.modQueue q (fun d => { d with rd := (d.rd + 1) % 2 ^ 32, devRecs := d.devRecs.filter (fun e => e.1 != d.rd) })
        | some c, _ => s.reject q c
        | none, none => s)

/-- WAIT_PACKET (R236): the packet is rejected, or holds the queue. RD advances when the packet releases it. Log 45, DEDUCED. -/
def execWaitPacket (q : Nat) (s : State) : Host.Outcome State Fault Refusal :=
  .next (match s.readPacket q with
    | .none_ s1 => s1
    | .packet n =>
      if pkType n ≠ 2 then s
      else match minOf (waitCodes n) with
        | some c => s.reject q c
        | none => s.modQueue q (fun d => { d with holding := some (pkSig n, bitsOf n 512 64) }))

/-- WAIT_PACKET_RELEASE (R236): the word at SIGADDR is read by LDA; at least the count, and the queue goes on. Log 45, DEDUCED. -/
def execWaitPacketRelease (q : Nat) (s : State) : Host.Outcome State Fault Refusal :=
  .next (
    let d := s.queue q
    match d.holding with
    | none => s
    | some (va, n) =>
      if !s.up || !d.en || d.stalled then s
      else match s.access d.ctx va 8 8 true false false with
        | .error c =>
          if c = 3 then (s.modQueue q (fun d => { d with stalled := true })).sendFault d.ctx va .load (.parser q)
          else s.reject q 8
        | .ok ts =>
          let t := oneTrans ts
          match s.poisoned t.pa 8 with
          | some e => (s.retirePage e.1).reject q 8
          | none =>
            if natOfBytes (s.mem.readN t.key t.pa 8) < n then s
            else s.modQueue q (fun d => { d with rd := (d.rd + 1) % 2 ^ 32, holding := none }))

end Sys2Proof.Machine
end

