-- ==== Sys2Proof/Machine/Restore.lean ====
section
/-! DEFINITION. The loader of Issal images: its checks and the restoring of a launch (R69 to R78, R145, R214, R222, R231, R244, R444
to R447). -/

namespace Sys2Proof.Machine

/-- The number that n bytes at an offset hold. -/
def rd (bs : List Byte) (o n : Nat) : Nat := natOfBytes ((bs.drop o).take n)

/-- Whether n bytes at an offset are zero. -/
def zeros (bs : List Byte) (o n : Nat) : Bool := ((bs.drop o).take n).all (fun b => b == 0)

/-! ## Directory -/

/-- A directory entry as it is read (R71). -/
structure DirEnt where
  ty : Nat
  opt : Bool
  len : Nat
  off : Nat
  deriving DecidableEq, Repr

def dirEntOf (bs : List Byte) (i : Nat) : DirEnt :=
  let x := rd bs (256 + 16 * i) 16
  { ty := bitsOf x 0 16, opt := bitOf x 16, len := bitsOf x 24 40, off := bitsOf x 64 64 }

def dirOf (bs : List Byte) : List DirEnt := (List.range (rd bs 56 2)).map (dirEntOf bs)

/-- The bytes of a section. -/
def sect (bs : List Byte) (e : DirEnt) : List Byte := (bs.drop e.off).take e.len

/-- Types in ascending order, and sections in directory order with zero bytes between them, from an offset on (R69). -/
def dirOrder (bs : List Byte) : Nat → Nat → List DirEnt → Bool
  | _, at_, [] => zeros bs at_ (bs.length - at_)
  | ty, at_, e :: es =>
    ty ≤ e.ty && e.off % 256 = 0 && at_ ≤ e.off && e.off + e.len ≤ bs.length && zeros bs at_ (e.off - at_)
      && dirOrder bs e.ty (e.off + e.len) es

/-- The checks of R69 and R71 on the directory. -/
def dirOk (bs : List Byte) : Bool :=
  let d := dirOf bs
  let n := fun (t : Nat) => (d.filter (fun e => e.ty == t)).length
  (List.range d.length).all (fun i => bitsOf (rd bs (256 + 16 * i) 16) 17 7 = 0)
  && d.all (fun e => (1 ≤ e.ty && e.ty ≤ 5) || e.opt)
  && dirOrder bs 0 (256 + 16 * d.length) d && n 1 = 1 && n 4 ≤ 1 && n 5 ≤ 1

/-- The checks of R70 and R75 on the header. -/
def headOk (bs : List Byte) : Bool :=
  256 ≤ bs.length && rd bs 0 4 = 0x1551A1E5 && rd bs 4 1 ≤ 2 && rd bs 5 1 = 1 && bitsOf (rd bs 0 8) 50 14 = 0
  && zeros bs 58 6 && zeros bs 224 32 && rd bs 8 8 = bs.length && (bs.drop 192).take 32 = sha3Bytes (bs.drop 256)

/-! ## Sections -/

/-- The dispatch section (R444). -/
def dispatchOk (b : List Byte) (count : Nat) : Bool :=
  64 ≤ b.length && b.length = 64 + 8 * rd b 56 8 && zeros b 49 7 && rd b 48 1 = 0
  && (List.range 256).all (fun i => !(rd b 16 32).testBit i || rd b 8 8 + i < count)

/-- A record of the cross-core section (R445). -/
def xbarOk (b : List Byte) : Bool :=
  let member := BitVec.ofNat 256 (rd b 16 32)
  let arrived := BitVec.ofNat 256 (rd b 48 32)
  bitsOf (rd b 0 4) 22 10 = 0 && rd b 5 1 ≤ 1 && zeros b 6 10 && member != 0 && arrived &&& member = arrived
  && (if rd b 5 1 = 1 then rd b 80 32 ≠ 0 else rd b 80 32 = 0)

def xbarOf (b : List Byte) : XBar :=
  { gen := rd b 0 4, member := BitVec.ofNat 256 (rd b 16 32),
    next := if rd b 5 1 = 1 then some (BitVec.ofNat 256 (rd b 80 32)) else none, arrived := BitVec.ofNat 256 (rd b 48 32),
    role := rd b 4 1, last := none }

/-- The records of a section of records of n bytes. -/
def recordsOf (n : Nat) : Nat → List Byte → List (List Byte)
  | 0, _ => []
  | k + 1, b => b.take n :: recordsOf n k (b.drop n)

def crossOk (b : List Byte) : Bool := b.length = 1792 && (recordsOf 112 16 b).all xbarOk

/-- A code section (R67). -/
def codeSectOk (b : List Byte) : Bool := 24 ≤ b.length && rd b 8 1 < 4 && zeros b 9 7 && b.length = 24 + rd b 16 8

/-- Continuation records one after another: each takes as many bytes as its NLIVE says (R73). -/
def contsOf : Nat → List Byte → List (List Byte) × List Byte
  | 0, b => ([], b)
  | k + 1, b =>
    let n := 40 + 4 * rd b 18 1
    let m := ceilDiv n 8 * 8
    let r := contsOf k (b.drop m)
    (b.take m :: r.1, r.2)

/-- The parts of a workgroup section (R72). -/
structure Parts where
  fixed : List Byte
  win : List Byte
  tiles : List Byte
  slots : List Byte
  bufs : List (List Byte)
  groups : List (List Byte)
  conts : List (List Byte)
  copies : List (List Byte)
  reqs : List (List Byte)
  rest : List Byte
  deriving DecidableEq, Repr

def partsOf (h : Hdr) (b : List Byte) : Parts :=
  let f := b.take 256
  let b1 := b.drop 256
  let b2 := b1.drop h.window
  let b3 := b2.drop (1536 * h.acc)
  let b4 := b3.drop (16384 * h.stat)
  let b5 := b4.drop (8 * h.cbufs)
  let ng := rd f 80 4
  let b6 := b5.drop (512 * ng)
  let cs := contsOf (min (rd f 84 4) 2048) b6
  let ncp := rd f 88 4
  let b7 := cs.2.drop (96 * ncp)
  let nl := rd f 92 4
  { fixed := f, win := b1.take h.window, tiles := b2.take (1536 * h.acc), slots := b3.take (16384 * h.stat),
    bufs := recordsOf 8 h.cbufs b4, groups := recordsOf 512 ng b5, conts := cs.1, copies := recordsOf 96 ncp cs.2,
    reqs := recordsOf 80 nl b7, rest := b7.drop (80 * nl) }

/-- The fixed part against the kernel header (R446). -/
def fixedOk (h : Hdr) (f : List Byte) : Bool :=
  f.length = 256 && rd f 4 4 < 256 && rd f 8 4 = h.n && rd f 12 1 = h.g && zeros f 13 3 && rd f 40 4 = 0x03020100 && zeros f 44 4
  && rd f 96 4 = h.window && rd f 100 2 = h.acc && rd f 102 1 = h.stat && rd f 103 1 = h.cbufs && zeros f 104 152
  && (List.range 4).all (fun i =>
    let x := rd f (48 + 8 * i) 8
    bitsOf x 39 25 = 0 && (bitOf x 38 || x = 0) && (i < h.stat || x = 0))

def groupOk (h : Hdr) (b : List Byte) : Bool :=
  b.length = 512 && rd b 4 1 < 8 && rd b 5 1 = h.g && zeros b 6 10 && zeros b 496 16
  && (List.range 64).all (fun n => let t := rd b (16 + 2 * n) 2; t = 0xFFFF || (t < h.n && n < h.g))

/-- A pool record (R73). -/
def pooled (b : List Byte) : Bool := rd b 12 4 = 0xFFFFFFFF

def contOk (h : Hdr) (b : List Byte) : Bool :=
  40 ≤ b.length && b.length = ceilDiv (40 + 4 * rd b 18 1) 8 * 8 && bitsOf (rd b 0 8) 63 1 = 0 && rd b 8 4 < h.n && bitsOf (rd b 16 8) 9 3 ≠ 7 && bitsOf (rd b 16 8) 12 4 ≤ 11
  && rd b 18 1 % 2 = 0 && rd b 18 1 ≤ h.regs && (pooled b || rd b 18 1 = h.regs) && (!pooled b || bitsOf (rd b 16 8) 0 6 = 0) && zeros b 19 5 && zeros b (40 + 4 * rd b 18 1) 4

def copyOk (h : Hdr) (b : List Byte) : Bool :=
  let fl := rd b 2 1
  b.length = 96 && rd b 0 1 ≤ 5 && rd b 1 1 < h.queues && fl ≤ 3 && fl ≠ 1 && (fl ≥ 2 || zeros b 3 1) && zeros b 13 3 && zeros b 23 1
  && zeros b 64 32
  && (if rd b 0 1 = 0 then zeros b 2 2 && zeros b 8 4 && zeros b 24 40
      else zeros b 12 1 && (rd b 0 1 = 5 || zeros b 24 8))

def lineOk (h : Hdr) (b : List Byte) : Bool :=
  b.length = 80 && bitsOf (rd b 0 80) 364 20 = 0 && bitsOf (rd b 0 80) 632 8 = 0 && bitsOf (rd b 0 80) 320 32 < h.n
  && bitsOf (rd b 0 80) 360 3 ≤ 4

/-- A buffer's state word (R145). -/
def bufOf (b : List Byte) : CBuf :=
  { slots := rd b 0 1, free := rd b 1 1, filled := rd b 2 1, widx := rd b 3 1, ridx := rd b 4 1, held := rd b 5 1 }

/-- The slots of a buffer that copies have taken and FILLED has not counted: (RIDX + FILLED) mod SLOTS onward (R145). -/
def CBuf.takenSlots (c : CBuf) : List Nat :=
  if c.slots = 0 then [] else (List.range (c.slots - c.free - c.filled - c.held)).map (fun j => (c.ridx + c.filled + j) % c.slots)

/-- The buffers' state words, and the copy records that account for their taken slots (R145). -/
def bufsOk (p : Parts) : Bool :=
  let cs := p.bufs.map bufOf
  let taken := (p.copies.filter (fun b => rd b 0 1 ≠ 0 && 2 ≤ rd b 2 1)).map (fun b => (rd b 32 32, rd b 3 1))
  (p.bufs.all (fun b => b.length = 8 && zeros b 6 2)) && cs.all (fun c => c.free + c.filled + c.held ≤ c.slots)
  && taken.all (fun t => dCben t.1 && dCbuf t.1 < cs.length)
  && cs.zipIdx.all (fun c =>
    let mine := (taken.filter (fun t => dCbuf t.1 == c.2)).map (fun t => t.2)
    mine.length = c.1.takenSlots.length && c.1.takenSlots.all mine.contains)

/-- The reserved bits of the barrier objects in the berm (R222). -/
def bermOk (h : Hdr) (win : List Byte) : Bool :=
  (List.range 1024).all (fun i => bitsOf (rd win (bermOf h.window + 16 * i + 7) 1) 1 7 = 0)

/-- The parts of fixed size are whole (R446). -/
def partsWhole (h : Hdr) (p : Parts) : Bool :=
  p.win.length = h.window && p.tiles.length = 1536 * h.acc && p.slots.length = 16384 * h.stat && p.bufs.length = h.cbufs

/-- Values in strictly ascending order. -/
def ascending : List Nat → Bool
  | a :: b :: r => a < b && ascending (b :: r)
  | _ => true

/-- The records of a section in their orders, group records in ascending %gid and continuations in ascending %tid, and the lanes of the
group records and the threads that stand in them naming each other (R72, R73, R76 step 3). -/
def recordsOk (p : Parts) : Bool :=
  let lanes := p.groups.flatMap (fun g => (List.range 64).flatMap (fun n =>
    let t := rd g (16 + 2 * n) 2
    if t = 0xFFFF then [] else [(t, rd g 0 4, n, rd g 4 1)]))
  let conts := (p.conts.filter (fun b => !pooled b)).map (fun b =>
    (rd b 8 4, rd b 12 4, bitsOf (rd b 16 8) 0 6, bitsOf (rd b 16 8) 6 3))
  ascending (p.groups.map (fun b => rd b 0 4)) && ascending (p.conts.map (fun b => rd b 8 4))
  && lanes.length = conts.length && lanes.all conts.contains

/-- A whole workgroup section, which its parts fill exactly (R72, R75, R446). -/
def groupSectOk (h : Hdr) (b : List Byte) : Bool :=
  let p := partsOf h b
  recordsOk p && fixedOk h p.fixed && p.rest.isEmpty && p.conts.length = rd p.fixed 84 4 && p.groups.all (groupOk h) && p.conts.all (contOk h)
  && p.copies.all (copyOk h) && p.reqs.all (lineOk h) && bufsOk p && bermOk h p.win && partsWhole h p

/-- Every check of a loader on the bytes of an image, given the kernel that its launch record names (R75). -/
def loadable (h : Hdr) (bs : List Byte) : Bool :=
  let d := dirOf bs
  let n := natOfBytes ((bs.drop 64).take 128)
  headOk bs && dirOk bs && !pkReserved n
  && d.all (fun e => match e.ty with
    | 1 => dispatchOk (sect bs e) (pkCount n)
    | 2 => codeSectOk (sect bs e)
    | 3 => groupSectOk h (sect bs e)
    | 4 => crossOk (sect bs e)
    | _ => true)
  && ascending ((d.filter (fun e => e.ty == 3)).map (fun e => rd bs e.off 4))

/-! ## Restoring -/

/-- A thread of a continuation record (R73): it stands at its word and re-issues it; one that waited carries the mark of its wait, so that a
barrier counts no second arrival; a thread of WAIT 6 stands runnable (R280). -/
def threadOf (b : List Byte) : Nat × Thread :=
  let x := rd b 0 40
  let n := bitsOf x 144 8
  let pool := bitsOf x 96 32 = 0xFFFFFFFF
  let t := Thread.fresh (bitsOf x 96 32) (bitsOf x 128 6) (bitsOf x 134 3) (bitsOf x 0 56) n
  (bitsOf x 64 32,
    { t with p := BitVec.ofNat 7 (bitsOf x 56 7), run := if pool then .pool else .ready, phc := bitsOf x 192 64,
             detc := bitsOf x 256 64, resumed := if bitsOf x 137 3 % 6 = 0 then none else some (bitsOf x 137 3, bitsOf x 140 4),
             v := SMap.putAll 0 [] 0 ((List.range n).map (fun i => BitVec.ofNat 32 (rd b (40 + 4 * i) 4))) })

/-- A thread of a parked group that had arrived at a BAR counts no second arrival (R73, R307). Log 104, DEDUCED. -/
def Thread.rearrived (t : Thread) (had : Bool) : Thread := if had then { t with resumed := some (2, 0) } else t

/-- A group of a group record (R72). -/
def groupOfRec (b : List Byte) : Group :=
  { newGroup (rd b 0 4) (rd b 4 1) (rd b 5 1) [] [] with
    lanes := (List.range (rd b 5 1)).map (fun n => let t := rd b (16 + 2 * n) 2; if t = 0xFFFF then none else some t)
    s := SMap.putAll 0 [] 0 ((List.range 64).map (fun i => BitVec.ofNat 32 (rd b (144 + 4 * i) 4)))
    k := SMap.putAll 0 [] 0 ((List.range 12).map (fun i => BitVec.ofNat 64 (rd b (400 + 8 * i) 8))) }

/-- A command of a copy record. Fence entries of one mask share a serial number by their order in the queues (R404). A gather, scatter or
digest that had begun reads its list and its sources again (R76). Log 48, DEDUCED. -/
def cmdOfRec (fence i : Nat) (b : List Byte) : CopyCmd :=
  let cmd := rd b 0 1
  { CopyCmd.fresh (if cmd = 0 then 256 * fence + rd b 12 1 else 65536 + i) cmd (rd b 1 1) (rd b 12 1) (rd b 16 7)
      (if cmd = 0 then [] else (List.range 8).map (fun j => BitVec.ofNat 32 (rd b (32 + 4 * j) 4))) (BitVec.ofNat 64 (rd b 24 8)) with
    taken := if bitOf (rd b 2 1) 1 then some (rd b 3 1) else none
    done := bitOf (rd b 2 1) 0
    sectors := rd b 8 4
    started := rd b 8 4 ≠ 0 }

/-- The commands of queue q in the order of their positions, with the flags that the image keeps beside them (R66, R76). -/
def queueOf (recs : List (List Byte)) (fl : Nat → Nat → Nat) (q : Nat) : List CopyCmd :=
  let mine := recs.zipIdx.filter (fun p => rd p.1 1 1 = q)
  let byPos := (unionSet (mine.map (fun p => rd p.1 4 4)) []).filterMap (fun n => mine.find? (fun p => rd p.1 4 4 = n))
  byPos.mapIdx (fun j p =>
    let before := (byPos.take j).filter (fun e => rd e.1 0 1 = 0 && rd e.1 12 1 = rd p.1 12 1)
    { cmdOfRec before.length p.2 p.1 with fl := BitVec.ofNat 7 (fl q (rd p.1 4 4)) })

/-- A slot descriptor (R446). -/
def descOfNum (x : Nat) : SlotDesc :=
  { k := bitsOf x 0 16, n := bitsOf x 16 16, bt := bitsOf x 32 5, sb := bitOf x 37, loaded := bitOf x 38 }

/-- A thread put back at the wait of a BAR waits with the token of the restored object (R307); every thread knows the flags that stood
in the flag word at the stop (R66, R132). Log 19, DEDUCED. -/
def State.restored (s : State) (l : Launch) (w : WG) (t : Thread) : Thread :=
  let b := fun (f : FWord) => readOpnd (((w.group? t.gid).map (fun g => g.s)).getD []) t .n32 f.a
  { t.knows w w.flags.toNat with
    resumed := match t.resumed, s.sealedWord l t.pc with
      | some (2, _), some (.bar f) => some (2, (w.bar l.hdr.window (b f)).gen)
      | r, _ => r }

/-- The workgroup of a section (R76 steps 2 to 4). -/
def State.plant (s : State) (l : Launch) (i : Image) (base : Nat) (p : Parts) : WG :=
  let h := l.hdr
  let fl := i.copyFlags
  let f := p.fixed
  let wgid := rd f 0 4
  let ts := p.conts.map threadOf
  let dead : Thread := { Thread.fresh 0 0 0 0 h.regs with run := .exited }
  let tiles := SMap.putAll 0 [] 0 ((List.range (256 * h.acc)).map (fun i => BitVec.ofNat 48 (rd p.tiles (6 * i) 6)))
  let flag := fun (q pos : Nat) => ((fl.find? (fun e => e.1 == wgid && e.2.1 == q && e.2.2.1 == pos)).map (fun e => e.2.2.2)).getD 0
  let w : WG := { s.placed h (WG.fresh s.widNext l.lid wgid (256 * l.part + rd f 4 4) base h) with
    formation := rd f 16 4
    flags := BitVec.ofNat 32 (rd f 20 4)
    win := SMap.putAll 0 [] 0 p.win
    tiles := tiles
    commit := tiles
    slots := SMap.putAll 0 [] 0 p.slots
    descs := (List.range 4).map (fun i => descOfNum (rd f (48 + 8 * i) 8))
    cbs := p.bufs.map bufOf
    queues := (List.range 8).map (queueOf p.copies flag)
    serial := 65536 + p.copies.length
    relaunched := l.relaunched.contains wgid
    noRelaunch := i.bound.contains wgid
    ranges := (i.ranges.filter (fun r => r.1 == wgid)).map (fun r => r.2)
    threads := (List.range h.n).map (fun t => (((ts.find? (fun q => q.1 == t)).map (fun q => q.2)).getD dead).rearrived
      (i.arrived.contains (wgid, t)))
    groups := (p.groups.map groupOfRec).map (fun g => { g with struck := i.struck.contains (wgid, g.gid) }) }
  w.modThreads (fun _ t => s.restored l w t)

/-- The logical core of a section as the restore leaves it: its phase ordinal, the launch's issue ordinal, and its snapshot refreshed (R76
steps 5 and 6). Log 77, DEDUCED. -/
def State.restoreCore (s : State) (l : Launch) (key : Nat) (f : List Byte) : State :=
  ((((s.enterCore key l.lid).modView key l.lid (fun v => { v with ordinal := rd f 32 8 })).modCore key (fun c =>
    { c with phase := rd f 24 8 })).refresh key 0).occupy key

/-- The sections planted one after another on the lowest free panels; none where the resources of a section's core are not free
(R28, R76). -/
def State.plantAll (s : State) (l : Launch) (i : Image) : List Parts → Option State
  | [] => some s
  | p :: ps =>
    let key := 256 * l.part + rd p.fixed 4 4
    match s.usable key, s.freeBase key l.hdr with
    | true, some base =>
      let s1 : State := { s with wgs := s.wgs ++ [s.plant l i base p], widNext := s.widNext + 1 }
      ((s1.restoreCore l key p.fixed).pinKernel l key).plantAll l i ps
    | _, _ => none

/-- The request of a line-routine record (R214). -/
def reqOfRec (l : Launch) (w : WG) (b : List Byte) : Req :=
  let x := rd b 0 80
  let r := bitsOf x 56 8
  let d := bitsOf x 352 8
  { kind := if bitOf x 363 then .atom (!(r % 2 = 0 && r < 92)) else .lrcall, lid := l.lid, wid := w.wid, tid := bitsOf x 320 32,
    core := w.core, ctx := l.ctx, key := 0, va := bitsOf x 0 56, pa := 0, r := r,
    opnds := (List.range (bitsOf x 360 3)).map (fun i => BitVec.ofNat 64 (bitsOf x (64 + 64 * i) 64)),
    d := if d < 0x80 then .v (BitVec.ofNat 7 d) else if d < 0xC0 then .s (BitVec.ofNat 6 (d - 0x80)) else .none,
    pc := bitsOf x 576 56, ordinal := bitsOf x 384 64, phc := bitsOf x 448 64, detn := bitsOf x 512 64, det := false,
    wgid := w.wgid, clk := [], lvl := 3, ea := 0, base := 0 }

/-- The return slot that a reissued request holds (R204, R214). -/
def Req.hold (r : Req) : SlotHold :=
  match r.kind with
  | .atom w64 => ⟨r.d, if w64 then 2 else 1, r.r == 92⟩
  | _ => ⟨r.d, 3, false⟩

/-- Whether a request needs W: an LRCALL, and an ATOM but for its load, routine 92 (R203, R302, R371, R428). -/
def Req.writes (r : Req) : Bool :=
  match r.kind with
  | .atom _ => r.r != 92
  | .lrcall => true
  | .lda _ _ _ | .waitv _ | .wake | .peer _ => false

/-- A request reissued (R76 step 5, R195): it goes to its slice, or to the reorder window where it is of the kinds that have a place there;
an absent page waits for its answer, and a fatal cause is the memory fault at the recorded PC. -/
def State.reissue (s : State) (r : Req) : State :=
  match s.checkPage r.ctx r.va true r.writes false with
  | .ok t => s.dispatchReq { r with key := t.key, pa := t.pa, lvl := t.lvl, ea := t.ea, base := t.base, det := r.recorded && t.det }
  | .cause c =>
    if c = 3 then s.sendFault r.ctx r.va (if r.writes then .update else .load) (.reissue r)
    else match s.wg? r.wid with
      | none => s
      | some w => match w.threads[r.tid]? with
        | none => s
        | some t => s.raise r.lid w.core 3 r.tid [s.record w 9 c true r.tid t.gid t.lane r.pc r.va 0]

/-- The requests of a restored launch reissued in ascending issue ordinal (R76 step 5). Log 77, DEDUCED. -/
def State.reissueAll (s : State) (l : Launch) (ps : List Parts) : State :=
  let rs := sortReqs (ps.flatMap (fun p => match s.wgs.find? (fun w => w.lid == l.lid && w.wgid == rd p.fixed 0 4) with
    | some w => p.reqs.map (reqOfRec l w)
    | none => []))
  rs.foldl (fun (s : State) r =>
    (s.modWG r.wid (fun w => w.modThread r.tid (fun t => { t with slot := some r.hold }))).reissue r) s

/-- The launch of an image (R70, R76 step 1, R444): it keeps its LID, and what the device knows of it. Log 77, DEDUCED. -/
def State.launchOfImage (s : State) (i : Image) (bs : List Byte) (part : Nat) (h : Hdr) (old : Option Launch) : Launch :=
  let n := natOfBytes ((bs.drop 64).take 128)
  let d := dirOf bs
  let secs := fun (t : Nat) => (d.filter (fun e => e.ty == t)).map (sect bs)
  let b := (secs 1).headD []
  let l := s.newLaunch ((old.map (fun l => l.q)).getD 4096) ((old.map (fun l => l.qidx)).getD 0) i.ctx n h
  { l with
    part := part
    slot := old.bind (fun l => l.slot)
    next := rd b 0 8
    base := rd b 8 8
    done := ((List.range 256).filter (fun i => (rd b 16 32).testBit i)).map (fun i => rd b 8 8 + i)
    placed := true
    relaunched := (old.map (fun l => l.relaunched)).getD []
    ckUsed := (old.map (fun l => l.ckUsed)).getD 0
    lastSig := old.bind (fun l => l.lastSig)
    heldSig := (old.map (fun l => l.heldSig)).getD false
    nrec := (old.map (fun l => l.nrec)).getD 0
    flagWords := (old.map (fun l => l.flagWords)).getD []
    children := (List.range (rd b 56 8)).map (fun i => rd b (64 + 8 * i) 8)
    xbars := match secs 4 with | x :: _ => (recordsOf 112 16 x).map xbarOf | [] => [] }

/-- The launches with one put in place of that of its LID, or at the end. -/
def putLaunch (ls : List Launch) (l : Launch) : List Launch :=
  if ls.any (fun m => m.lid == l.lid) then ls.map (fun m => if m.lid = l.lid then l else m) else ls ++ [l]

/-- The open code versions of an image opened again, where their handles are free (R67). -/
def State.openHandles (s : State) (ctx : Nat) (bs : List Byte) : State :=
  ((dirOf bs).filter (fun e => e.ty == 2)).foldl (fun (s : State) e =>
    let b := sect bs e
    s.modCtx ctx (fun c => if (c.handle (rd b 8 1)).isSome then c
      else c.setHandle (rd b 8 1) (some ⟨rd b 0 8, b.drop 24⟩))) s

/-- Whether a bind record with ST = run names the launch already (R241, R243). -/
def State.boundRun (s : State) (l : Launch) : Bool :=
  match l.slot with
  | some n => bindV (s.bind n) && bindSt (s.bind n) = 1
  | none => false

/-- The launch resumes: bound where its record stands, else waiting for one; a limit reached before is raised at once (R76 step
6, R244, R282). Log 77, DEDUCED. -/
def State.resume (s : State) (lid : Nat) : State :=
  match s.launch? lid with
  | none => s
  | some l =>
    let go := s.boundRun l
    let s1 := (s.modLaunch lid (fun l => { l with phase := if go then .bound else .queued })).traceLaunch l 6
    if go && l.overTime then s1.raiseAlone l 21 0 0 l.tlimit else s1

/-- The running groups of a deterministic launch as they stood (R46, R77). Log 77, DEDUCED. -/
def State.restoreRunning (s : State) (l : Launch) (i : Image) : State :=
  i.running.foldl (fun (s : State) r =>
    match s.wgs.find? (fun w => w.lid == l.lid && w.wgid == r.2.1) with
    | some w => s.modCore (256 * l.part + r.1) (fun c => { c with running := some (w.wid, r.2.2) })
    | none => s) s

/-- IMAGE_RESTORE: the loader reads the stored image of a launch, checks it and restores the launch on a partition (R75, R76); an image
that fails a check, as one does that no longer reads under the owner's key (R69, R177), changes nothing. -/
def execImageRestore (lid part : Nat) (s : State) : Host.Outcome State Fault Refusal :=
  .next (match s.images.find? (fun i => i.lid == lid) with
    | none => s
    | some i =>
      let bs := s.imageBytes i
      let n := natOfBytes ((bs.drop 64).take 128)
      let old := s.launch? lid
      match s.kernelOf i.ctx n with
      | none => s
      | some h =>
        if !s.up || !(s.ctx i.ctx).defined || (s.ctx i.ctx).dead || !(s.part part).started || 16 ≤ part
          || old.any (fun l => l.phase != .stopped) || !loadable h bs
          || ((s.version i.ctx (pkVersion n)).map (fun v => sha3Bytes v.image)) ≠ some ((bs.drop 24).take 32) then s
        else
          let l := s.launchOfImage i bs part h old
          let ps := ((dirOf bs).filter (fun e => e.ty == 3)).map (fun e => partsOf h (sect bs e))
          let s1 : State := { s with launches := putLaunch s.launches l }
          match s1.plantAll l i ps with
          | none => s
          | some s2 => ((((s2.openHandles i.ctx bs).restoreRunning l i).reissueAll l ps).resume lid))

end Sys2Proof.Machine
end

