-- ==== Sys2Proof/Machine/Serialiser.lean ====
section
/-! DEFINITION. The serialiser, turns on a shared physical core, job checkpoints, and the end of the debug right (R22, R60 to R66, R80,
R148, R169, R180, R243, R276, R280). -/

namespace Sys2Proof.Machine

/-! ## The end of the debug right -/

/-- The tests that groups which run again make owed: those of R39, R40 and R226 rest while a group of the workgroup is parked (R277). -/
def State.oweUnpark (s : State) (w : WG) : State :=
  s.oweAll (w.groups.flatMap (fun g => [.kwait w.wid g.gid, .rejoin w.wid g.gid]) ++ [.deadlock w.wid])

/-- Every parked group of a context resumes, and all-stops end (R276, R280): RESUMEALL and the end of the right do this, and nothing else
ends an all-stop's hold on dispatch. Log 65, DEDUCED. -/
def State.unparkAll (s : State) (ctx : Nat) : State :=
  let mine := fun (lid : Nat) => s.launches.any (fun l => l.lid == lid && l.ctx == ctx)
  (s.wgs.filter (fun w => mine w.lid && w.groups.any (fun g => g.parked))).foldl State.oweUnpark
    { s with
      wgs := s.wgs.map (fun (w : WG) => if mine w.lid then w.setParked false else w)
      launches := s.launches.map (fun (l : Launch) => if l.ctx = ctx then { l with allStop := false } else l) }

/-- The event that closes a debug session: kind 6 or 7 (R280, R281); it names no lane. Log 50, DEDUCED. -/
def closingEvent (kind : Nat) : DbgEv :=
  { kind := kind, index := Config.unstated 8, defer := false, all := false, tid := Config.unstated 9, wgid := Config.unstated 10,
    gid := Config.unstated 11, lane := Config.unstated 12, ncore := Config.unstated 13, pc := Config.unstated 14,
    fva := Config.unstated 15, lid := Config.unstated 16 }

/-- The debug state once the right has ended (R280): the ring stays only for records whose write waits for a page (R256), and for those of a STEP
in flight. -/
def Dbg.ended (d : Dbg) (steps : Bool) : Dbg := { Dbg.reset with ring := d.ring.filter (fun r => steps || !r.wait.isEmpty) }

/-- A workgroup of a context whose launch still issues. -/
def State.liveIn (s : State) (ctx : Nat) (w : WG) : Bool :=
  (s.launch? w.lid).any (fun l => l.ctx == ctx && (l.runs || l.phase == .draining))

/-- The STEPs in flight of a context are to complete (R280): a group whose launch still issues steps on, and is not parked again; one whose launch
ends with the right has its events written as it stands. Log 65, DEDUCED. -/
def State.endSteps (s : State) (ctx : Nat) : State :=
  let mine := s.wgs.filter (fun w => s.launches.any (fun l => l.lid == w.lid && l.ctx == ctx) && !s.liveIn ctx w)
  let ev := mine.flatMap (fun w => (w.groups.filter (fun g => g.stepping)).map (fun g => stepEvents w g))
  let s1 := ev.foldl (fun (s : State) es => s.debugEvents ctx es) s
  { s1 with wgs := s1.wgs.map (fun (w : WG) =>
      if s.launches.any (fun l => l.lid == w.lid && l.ctx == ctx) then
        { w with groups := w.groups.map (fun g => { g with stepping := g.stepping && s.liveIn ctx w, lastStep := g.stepping && s.liveIn ctx w }) }
      else w) }

/-- Whether a STEP of a context outlives its right (R280). -/
def State.stepsOn (s : State) (ctx : Nat) : Bool :=
  s.wgs.any (fun w => (s.launch? w.lid).any (fun l => l.ctx == ctx) && w.groups.any (fun g => g.lastStep))

/-- The debug right of a context ends (R280): a STEP in flight completes, the overlay is discarded, the registers are cleared, and parked
groups resume. -/
def State.endRight (s : State) (ctx kind : Nat) : State :=
  match (s.ctx ctx).dbg.holder with
  | none => s
  | some _ =>
    let t := s.endSteps ctx
    ((t.debugEvents ctx [closingEvent kind]).modCtx ctx (fun c => { c with dbg := c.dbg.ended (t.stepsOn ctx) })).unparkAll ctx

/-- Whether an overlay entry of a launch's context names one of its workgroups (R280). -/
def State.overlayNames (s : State) (l : Launch) : Bool :=
  (s.ctx l.ctx).dbg.overlay.any (fun e => s.wgs.any (fun w => w.lid == l.lid && w.wgid == e.wgid))

/-- A serialisation of a launch that the overlay names ends the debug right of its context (R280). -/
def State.endNamed (s : State) (l : Launch) : State := if s.overlayNames l then s.endRight l.ctx 6 else s

/-! ## The stop -/

/-- Whether a workgroup is one of a launch's. -/
def Launch.owns (l : Launch) (w : WG) : Bool := w.lid == l.lid

/-- A thread that waits for a page stands at its word again, the access abandoned (R63 step 3). -/
def Thread.abandon (t : Thread) : Thread :=
  match t.run with
  | .wait (.page _ _ _) => { t with run := .ready }
  | _ => t

/-- The page waits of the words and copies of some workgroups end (R63 step 3, R65). -/
def State.abandonWaits (s : State) (of : WG → Bool) : State :=
  let mine := fun (wid : Nat) => (s.wg? wid).any of
  { s with
    wgs := s.wgs.map (fun (w : WG) => if of w then w.modThreads (fun _ t => t.abandon) else w)
    faults := (s.faults.map (fun f => { f with srcs := f.srcs.filter (fun x => match x with
      | .word wid _ | .copy wid _ _ => !mine wid
      | _ => true) })).filter (fun f => !f.srcs.isEmpty) }

/-- A group inside a hold region (R53). -/
def groupHolds (w : WG) (g : Group) : Bool := (lanesOf w g (liveLanes w g)).any (fun ln => ln.t.hold != 0)

/-- The open spans of the groups of some workgroups that stand in no hold region rolled back (R60, R63 step 2). -/
def State.rollBackAll (s : State) (of : WG → Bool) : State :=
  ((s.wgs.filter of).flatMap (fun w =>
    (w.groups.filter (fun g => g.span.isSome && !groupHolds w g)).map (fun g => (w.wid, g.gid)))).foldl
    (fun s p => s.rollBack p.1 p.2) s

/-- SERIALISER_STOP: dispatch and issue stop but for open hold regions, spans roll back, and the drain begins (R62, R63); nothing under a
thermal halt (R296). A stop that arrives while one runs joins it. -/
def execSerialiserStop (lid : Nat) (s : State) : Host.Outcome State Fault Refusal :=
  .next (match s.launch? lid with
    | none => s
    | some l =>
      if !s.up || s.lodge.therm || l.phase ≠ .bound || (s.ctx l.ctx).dead then s
      else
        let s1 := s.endNamed l
        let s2 := match l.slot with | some n => s1.setBind n (putBits (s1.bind n) 1 2 2) | none => s1
        ((s2.modLaunch lid (fun l => { l with phase := .draining, stopping := true })).rollBackAll l.owns).abandonWaits l.owns)

/-! ## The image -/

/-- A reply or a request that must end before the image is written: all but a WAITV's read, which the restored thread makes
again (R63 step 3, R64, R231). -/
def ReqKind.drains : ReqKind → Bool
  | .waitv _ => false
  | _ => true

/-- Whether a workgroup stands at a canonical point, but for open spans: no hold region, no load in flight, no matrix entry outside a span, and
no STEP that can still complete (R52, R63 steps 1 to 3, R280). -/
def State.quietWG (s : State) (w : WG) : Bool :=
  w.threads.all (fun t => t.hold = 0 && t.loads.isEmpty)
  && w.groups.all (fun g => g.gathers.isEmpty && (!g.lastStep || (s.pick g.unit w g).isNone))
  && (s.core w.core).mq.all (fun e => e.wid != w.wid || e.inSpan)

/-- Whether the drain of a launch has ended (R63 steps 1 to 3). -/
def State.drained (s : State) (l : Launch) : Bool :=
  (s.wgs.filter (fun w => w.lid == l.lid)).all s.quietWG
  && s.replies.all (fun r => r.req.lid != l.lid || !r.req.kind.drains)
  && s.slices.all (fun e => e.2.all (fun r => r.lid != l.lid || r.recorded || !r.kind.drains))
  && s.faults.all (fun f => f.srcs.all (fun x => match x with
    | .reissue r => r.lid != l.lid || r.recorded || !r.kind.drains
    | _ => true))

/-- Whether the drain of a logical core has ended (R62, R63 steps 1 to 3): every request outside a reorder window has delivered its reply; those
in a window are withdrawn where they stand (R64). Log 51, DEDUCED. -/
def State.coreDrained (s : State) (key : Nat) : Bool :=
  let done := fun (r : Req) => r.core != key || !r.kind.drains
  (s.wgs.filter (fun w => w.core == key)).all s.quietWG
  && s.replies.all (fun p => done p.req)
  && s.slices.all (fun e => e.2.all done)
  && s.faults.all (fun f => f.srcs.all (fun x => match x with
    | .table _ r | .reissue r => r.det || done r
    | _ => true))

/-- Workgroups placed and not yet resident travel as they would start (R27). Log 48, DEDUCED. -/
def State.placeWaiting (s : State) (l : Launch) : State :=
  let s1 := l.pending.foldl (fun (s : State) p =>
    ({ s with wgs := s.wgs ++ [s.launchGroup l p.1 p.2 0], widNext := s.widNext + 1 } : State).modView p.2 l.lid id) s
  s1.modLaunch l.lid (fun l => { l with pending := [] })

/-- The logical cores on which a launch has workgroups. -/
def State.coresOf (s : State) (lid : Nat) : List Nat := unionSet ((s.wgs.filter (fun w => w.lid == lid)).map (fun w => w.core)) []

/-- The unpublished stores of a launch's context published on each of the launch's cores (R63 step 4, R180). -/
def State.publishLaunch (s : State) (l : Launch) : State :=
  (unionSet ((s.cores.filter (fun c => c.views.any (fun v => v.lid == l.lid) || c.ulist.any (fun u => u.lid == l.lid))).map
    (fun c => c.key)) []).foldl (fun s key => s.publishAll key (fun u => u.ctx == l.ctx)) s

/-- A BAR that a restore put back and that has not issued again (R307): where its generation is over, the thread stands past the word. -/
def State.settleBar (s : State) (l : Launch) (w : WG) (tid : Nat) (t : Thread) : Thread :=
  match t.resumed, s.sealedWord l t.pc with
  | some (2, tok), some (.bar f) =>
    let b := readOpnd (((w.group? t.gid).map (fun g => g.s)).getD []) t .n32 f.a
    let o := w.bar l.hdr.window b
    if o.gen = tokGen tok then t else { (t.pastBar w b o tid tok f.d).past f.hd.hold (t.pc + 8) with run := .ready }
  | _, _ => t

/-- Every such thread of a launch. -/
def State.settleBars (s : State) (l : Launch) : State :=
  { s with wgs := s.wgs.map (fun (w : WG) => if w.lid = l.lid then w.modThreads (s.settleBar l w) else w) }

/-- The open stamps of some workgroups written with INTR (R63 step 4, R169). -/
def State.interruptStamps (s : State) (of : WG → Bool) : State :=
  ((s.wgs.filter of).map (fun w => w.wid)).foldl (fun s wid => s.writeStamps wid true) s

/-- SERIALISER_PUBLISH_WRITE: after the drain, the launch's stores are published, its stamps written, and its image stands; its
workgroups leave the cores, and the dispatcher writes ST = stopped (R63 steps 4 and 5, R148, R243); nothing under a thermal halt (R296).
Log 50, DEDUCED. -/
def execSerialiserPublishWrite (lid : Nat) (s : State) : Host.Outcome State Fault Refusal :=
  .next (match s.launch? lid with
    | none => s
    | some l =>
      if s.lodge.therm || l.phase ≠ .draining || !s.drained l then s
      else
        let s1 := ((((s.abandonWaits l.owns).rollBackAll l.owns).publishLaunch l).settleBars l).interruptStamps l.owns
        let held := l.heldSig || s.signalWaits lid
        let cores := s1.coresOf lid
        let s2 := cores.foldl State.saveCore s1
        match (s2.placeWaiting l).launch? lid with
        | none => s
        | some m =>
          let p := s2.placeWaiting l
          let bs := p.imageOf m false
          let s3 := s2.storeImage (p.imageInfo m bs.length) bs
          let s4 := (((s3.sweepLaunch lid).vacateAll cores).traceLaunch l 5).modLaunch lid (fun l =>
            { l with phase := .stopped, stopping := false, pending := [], window := [], heldSig := held })
          match l.slot with
          | some n => s4.setBind n (putBits (s4.bind n) 1 2 3)
          | none => s4)

/-! ## Turns -/

/-- A thread that runs no word until something wakes it: blocked at one of the five waits, or gone (R22); one in the pool is about to join a
group (R42). -/
def Thread.rests (t : Thread) : Bool :=
  match t.run with
  | .exited => true
  | .wait (.kwait _) | .wait (.bar _ _ _) | .wait (.cbuf _ _) | .wait (.xbar _ _ _) => true
  | .wait (.waitv z) => !z.woken && !z.reading
  | _ => false

/-- Whether every resident thread of a logical core rests, or stands parked (R22, R276). Log 51, DEDUCED. -/
def State.coreRests (s : State) (key : Nat) : Bool :=
  s.wgs.all (fun w => w.core != key || w.threads.all (fun t => t.rests || (t.run != .pool && w.parkedTid t)))

/-- Whether a saved logical core could do nothing in a turn (R22): every thread rests, and no copy and no withdrawn request is left to go on. Log
51, DEDUCED. -/
def State.coreBlocked (s : State) (key : Nat) : Bool :=
  s.coreRests key && s.wgs.all (fun w => w.core != key || w.queues.all (fun q => q.all (fun c => c.done)))
    && s.launches.all (fun l => l.window.all (fun r => r.core != key))

/-- The logical cores of a physical core that hold work, from a TURN on, wrapping (R22). -/
def State.turnOrder (s : State) (pcore after : Nat) : List Nat :=
  let es := s.gbt.filter (fun e => e.2.getLsbD 63 && gbPcore e.2.toNat = pcore && (s.part (e.1 / 256)).started)
  let at_ := fun (t : Nat) => (es.filter (fun e => gbTurn e.2.toNat = t)).map (fun e => e.1)
  (List.range 16).flatMap (fun i => at_ ((after + 1 + i) % 16))

/-- The launches with a workgroup on a logical core. -/
def State.launchesOn (s : State) (key : Nat) : List Launch :=
  s.launches.filter (fun l => s.wgs.any (fun w => w.core == key && w.lid == l.lid))

/-- The end of a turn (R22, R62, R63): page waits are abandoned and open spans rolled back, the stores of the resident logical core are published,
its open stamps written with INTR, it is saved, and the panels that it gives up are zeroed (R148, R169, R180); the serialisation ends a debug right
whose overlay names its workgroups (R280). Log 51, DEDUCED. -/
def State.endTurn (s : State) (key : Nat) : State :=
  let here := fun (w : WG) => w.core == key
  let s0 := (((s.launchesOn key).foldl State.endNamed s).abandonWaits here).rollBackAll here
  let s1 := ((s0.publishAll key (fun _ => true)).interruptStamps here).saveCore key
  (s1.modCore key (fun c => { c with zeroing := c.zeroing ++ s1.panelsGone key (s1.wgs.filter (fun w => w.core == key)) })).setSt key 2

/-- The next logical core of a physical core in TURN order that is saved and can run; one whose state is still blocked is passed over
(R22). -/
def State.nextTurn (s : State) (pcore : Nat) : Option Nat :=
  (s.turnOrder pcore (s.turns.get 15 pcore)).find? (fun key => s.gbSt key = 2 && !s.coreBlocked key)

/-- The resident logical core of a physical core whose turn has ended (R22): one of several that are bound there, once everything on it
rests and its drain has ended (R63). Log 51, DEDUCED. -/
def State.turnOver (s : State) (key : Nat) : Bool := gbMuxl (s.gbe key).toNat ≠ 0 && s.coreRests key && s.coreDrained key

/-- TURN_SWITCH: the resident logical core of a shared physical core, once everything on it rests and its drain has ended, is saved, also where no other one can
run; with none resident, and its panels zeroed, the physical core takes the next one in TURN order after the last that is not blocked, and
idles where all are (R22, R148); nothing under a thermal halt (R296). Log 51, DEDUCED. -/
def execTurnSwitch (pcore : Nat) (s : State) : Host.Outcome State Fault Refusal :=
  .next (if s.lodge.therm then s
    else match (s.turnOrder pcore 15).find? (fun key => s.gbSt key = 1) with
    | some c => if s.turnOver c then s.endTurn c else s
    | none => match s.nextTurn pcore with
      | some n => if (s.zeroingOn pcore).isEmpty && s.service .core pcore == .inService then s.enter n else s
      | none => s)

/-! ## Job checkpoints -/

/-- The indices of the entries of a table of n entries that some written byte belongs to. -/
def State.tableEntries (s : State) (table n : Nat) : List Nat :=
  unionSet ((s.mem.bytes.filter (fun e => table ≤ e.1 && e.1 < table + 8 * n)).map (fun e => (e.1 - table) / 8)) []

/-- The valid leaves below a table, each with the virtual address of its page and its DGEN (R170 to R172). Log 87, DEDUCED. -/
def State.leaves (s : State) : Nat → Nat → Nat → List (Nat × Nat)
  | 0, _, _ => []
  | k + 1, table, va =>
    let lvl := 3 - k
    let shift := match lvl with | 0 => 39 | 1 => 30 | 2 => 21 | _ => 16
    let count := match lvl with | 0 => 131072 | 3 => 32 | _ => 512
    (s.tableEntries table count).flatMap (fun i =>
      let e := s.entry (table + 8 * i)
      let a := va + i * 2 ^ shift
      if !bitOf e 0 then []
      else if bitOf e 1 then (if leafBad lvl e then [] else [(a, bitsOf e 8 8)])
      else if tableBad lvl e then [] else s.leaves k (bitsOf e 8 44 * 256) a)

/-- JOB_CHECKPOINT: the images of the context's launches, which have been stopped, and the pages whose DGEN is g are taken; then
g := g + 1 modulo the field (R80). Log 87, DEDUCED. -/
def execJobCheckpoint (ctx : Nat) (s : State) : Host.Outcome State Fault Refusal :=
  .next (
    let c := s.ctx ctx
    if !s.up || 512 ≤ ctx || !c.defined || c.dead
      || s.launches.any (fun l => l.ctx == ctx && (l.phase == .bound || l.phase == .draining || l.phase == .dying)) then s
    else
      let pages := ((s.leaves 4 (c.root * 2 ^ 20) 0).filter (fun p => p.2 == c.ckgen)).map (fun p => p.1)
      let k : Ckpt := ⟨ctx, c.ckgen, pages⟩
      ({ s with ckpts := s.ckpts ++ [k] } : State).modCtx ctx (fun c => { c with ckgen := (c.ckgen + 1) % 256 }))

end Sys2Proof.Machine
end

