-- ==== Sys2Proof/Machine/Faults.lean ====
section
/-! DEFINITION. Page faults and their answers, invalidations, the end of a launch by a fatal trap, storage errors, and idempotent
relaunch (R68, R195, R252 to R265, R267, R432 to R434). -/

namespace Sys2Proof.Machine

/-! ## Page faults -/

/-- The threads of a context that wait for a page: workgroup, thread, the kind of access, and the address where they met the fault. Log 25,
DEDUCED. -/
def State.pageWaiters (s : State) (ctx page : Nat) : List (WG × Nat × Thread × Access × Option Nat) :=
  (s.wgs.filter (fun w => ((s.launch? w.lid).map (fun l => l.ctx == ctx)).getD false)).flatMap (fun w =>
    w.threads.zipIdx.filterMap (fun p => match p.1.run with
      | .wait (.page q k va) => if q = page then some (w, p.2, p.1, k, va) else none
      | _ => none))

/-- The address in a page at which an access from an address on meets it. -/
def addrIn (page : Nat) (va : Option Nat) : Nat :=
  match va with
  | some a => if pageOf a = page then a else page * 65536
  | none => page * 65536

/-- PAGE_FAULT: the accesses that wait for a page are one merged fault request at the lodge (R258). Log 25, DEDUCED. -/
def execPageFault (ctx page : Nat) (s : State) : Host.Outcome State Fault Refusal :=
  .next ((s.pageWaiters ctx page).foldl (fun s e =>
    s.sendFault ctx (addrIn page e.2.2.2.2) e.2.2.2.1 (.word e.1.wid e.2.1)) s)

/-- The fault request of a context and page. -/
def State.faultReq? (s : State) (ctx page : Nat) : Option FaultReq := s.faults.find? (fun f => f.ctx == ctx && f.page == page)

def State.dropFault (s : State) (ctx page : Nat) : State :=
  { s with faults := s.faults.filter (fun f => !(f.ctx == ctx && f.page == page)) }

/-- A thread that waits for a page tries its word again (R258). -/
def State.retryWord (s : State) (wid tid page : Nat) : State :=
  s.modWG wid (fun w => w.modThread tid (fun t => match t.run with
    | .wait (.page q _ _) => if q = page then { t with run := .ready } else t
    | _ => t))

/-- The records of a ring that wait are written, those on a page that `drop` names are dropped (R256, R281). -/
def State.flushRing (s : State) (ctx : Nat) (dbg : Bool) (drop : Nat → Bool) : State :=
  let c := s.ctx ctx
  match (if dbg then c.dbg.ring else c.errRing) with
  | none => s
  | some r =>
    let q := s.ringFlush ctx dbg drop r r.wait
    q.1.modCtx ctx (fun c => if dbg then { c with dbg := { c.dbg with ring := some q.2 } } else { c with errRing := some q.2 })

/-- What a retry does for one source (R202, R235, R239, R256, R258). -/
def State.retrySrc (page ctx : Nat) (s : State) : FaultSrc → State
  | .word wid tid => s.retryWord wid tid page
  | .copy _ _ _ => s
  | .table _ r => if r.det then s else s.toSlice r
  | .reissue r => s.reissue r
  | .parser q => s.modQueue q (fun d => { d with stalled := false })
  | .signal lid => (s.storeSignal lid).freeBound lid
  | .ring _ dbg => s.flushRing ctx dbg (fun _ => false)

/-- FAULT_ANSWER_RETRY: the resolver answers retry (R258). -/
def execFaultAnswerRetry (ctx page : Nat) (s : State) : Host.Outcome State Fault Refusal :=
  .next (match s.faultReq? ctx page with
    | none => s
    | some f => if !s.up then s else f.srcs.foldl (State.retrySrc page ctx) (s.dropFault ctx page))

/-- The memory fault of the threads of one group that waited at one word, a record for each that met the absent page (R253, R254,
R258). -/
def State.failGroup (s : State) (w : WG) (gid pc : Nat) (who : List (Nat × Thread × Nat)) : State :=
  let unit := ((w.group? gid).map (fun g => g.unit)).getD 0
  s.raise w.lid w.core 2 (2 * unit) (who.map (fun e => s.record w 9 3 true e.1 gid e.2.1.lane pc e.2.2 0))

/-- The failed words of a page: their traps, group by group and word by word, lowest PC first. -/
def State.failWords (s : State) (ctx page : Nat) (ids : List (Nat × Nat)) : State :=
  let ws := (s.pageWaiters ctx page).filter (fun e => ids.contains (e.1.wid, e.2.1))
  let named := ws.filterMap (fun e => e.2.2.2.2.map (fun va => (e.1, e.2.1, e.2.2.1, va)))
  let keys := unionSet (named.map (fun e => (e.1.wid * 2 ^ 32 + e.2.2.1.gid) * 2 ^ 56 + e.2.2.1.pc)) []
  keys.foldl (fun s k =>
    let mine := named.filter (fun e => (e.1.wid * 2 ^ 32 + e.2.2.1.gid) * 2 ^ 56 + e.2.2.1.pc = k)
    match mine with
    | e :: _ => s.failGroup e.1 e.2.2.1.gid e.2.2.1.pc (mine.map (fun e => (e.2.1, e.2.2.1, e.2.2.2)))
    | [] => s) s

/-- What a failed answer does for one source but a word (R202, R221, R235, R239, R256, R258). Log 38, DEDUCED. Log 78, DESIGN CHOICE. -/
def State.failSrc (page ctx : Nat) (s : State) : FaultSrc → State
  | .word _ _ => s
  | .copy wid q va => match s.wg? wid with
    | none => s
    | some w => match w.head? q with
      | none => s
      | some c => (s.modWG wid (fun g => g.dropCmd q c.serial)).copyTrap w c 18 0 va (copyDetail c 3)
  | .table _ r =>
    let s1 := if r.det then s.modLaunch r.lid (fun l => { l with window := l.window.erase r }) else s
    s1.answer r 7 3 0 0 0
  | .reissue r => match s.wg? r.wid with
    | none => s
    | some w => match w.threads[r.tid]? with
      | none => s
      | some t => s.raise r.lid w.core 3 r.tid [s.record w 9 3 true r.tid t.gid t.lane r.pc r.va 0]
  | .parser q => s.reject q 8
  | .signal lid => (s.modLaunch lid (fun l => { l with heldSig := false })).freeBound lid
  | .ring _ dbg => s.flushRing ctx dbg (fun p => p == page)

/-- FAULT_ANSWER_FAIL: the resolver answers fail (R258). -/
def execFaultAnswerFail (ctx page : Nat) (s : State) : Host.Outcome State Fault Refusal :=
  .next (match s.faultReq? ctx page with
    | none => s
    | some f =>
      if !s.up then s
      else
        let ids := f.srcs.filterMap (fun x => match x with | .word wid tid => some (wid, tid) | _ => none)
        (f.srcs.foldl (State.failSrc page ctx) (s.dropFault ctx page)).failWords ctx page ids)

/-- Requests up to the last that `hit` names, and the rest. -/
def splitLast (hit : Req → Bool) : List Req → List Req × List Req
  | [] => ([], [])
  | r :: rs =>
    let p := splitLast hit rs
    if hit r || !p.1.isEmpty then (r :: p.1, p.2) else ([], r :: p.2)

/-- The requests in a range that cannot complete now: in a reorder window, waiting for a table page, or at a paused slice (R195). -/
def State.heldReqs (s : State) (hit : Req → Bool) : List Req :=
  (s.launches.flatMap (fun l => l.window.filter hit)
    ++ s.faults.flatMap (fun f => f.srcs.filterMap (fun x => match x with
      | .table _ r => if hit r && !r.det then some r else none
      | _ => none))
    ++ (s.slices.filter (fun e => s.paused.contains e.1)).flatMap (fun e => e.2.filter hit))

/-- Requests withdrawn from where they wait. -/
def State.dropReqs (s : State) (hit : Req → Bool) : State :=
  { s with
    launches := s.launches.map (fun (l : Launch) => { l with window := l.window.filter (fun r => !hit r) })
    faults := (s.faults.map (fun (f : FaultReq) => { f with srcs := f.srcs.filter (fun x => match x with
      | .table _ r => !hit r
      | _ => true) })).filter (fun f => !f.srcs.isEmpty)
    slices := (s.slices.map (fun e => if s.paused.contains e.1 then (e.1, e.2.filter (fun r => !hit r)) else e)).filter
      (fun e => !e.2.isEmpty) }

/-- PTE_INVALIDATION: the invalidation of a virtual range completes (R195). The requests at the slices that translated through an old
entry complete under it; those that cannot, in a reorder window, behind a table page or at a paused slice, are abandoned and translate
again; every other access of the model translates when it acts. Log 54, DEDUCED. -/
def execPteInvalidation (ctx va len : Nat) (s : State) : Host.Outcome State Fault Refusal :=
  .next (
    let mine := fun (r : Req) => match r.kind with | .peer _ => false | _ => r.ctx == ctx
    let hit := fun (r : Req) => mine r && va / 128 * 128 ≤ r.va && r.va < va + len
    let ks := (s.slices.filter (fun e => e.2.any hit && !s.paused.contains e.1)).map (fun e => e.1)
    let s1 := ks.foldl (fun s k =>
      let p := splitLast hit (s.slices.get [] k)
      p.1.foldl State.runReq { s with slices := s.slices.put [] k p.2 }) s
    (s1.heldReqs hit).foldl State.reissue (s1.dropReqs hit))

/-! ## The end of a launch -/

/-- The order of the trap events of a launch (R254): by ck, logical core, and the order within a core. -/
def TrapEvent.before (a b : TrapEvent) : Bool :=
  a.ck < b.ck || (a.ck == b.ck && (a.core < b.core || (a.core == b.core && (a.rank < b.rank
    || (a.rank == b.rank && a.sub ≤ b.sub)))))

def insertTrap (e : TrapEvent) : List TrapEvent → List TrapEvent
  | [] => [e]
  | f :: fs => if e.before f then e :: f :: fs else f :: insertTrap e fs

def sortTraps (es : List TrapEvent) : List TrapEvent := es.foldr insertTrap []

/-- The records of a launch's events in their order, each with SEC; the primary event comes first (R254, R256). -/
def trapRecords (es : List TrapEvent) : List (TrapRec × Bool) :=
  match sortTraps es with
  | [] => []
  | p :: rest => p.records.map (fun r => (r, false)) ++ rest.flatMap (fun e => e.records.map (fun r => (r, true)))

/-- Records written to the error ring of a context; MORE marks the last where others were dropped (R256). -/
def State.writeRecords (ctx : Nat) (dropped : Bool) : State → List (TrapRec × Bool) → State
  | s, [] => s
  | s, e :: es =>
    match (s.ctx ctx).errRing with
    | none => s
    | some r =>
      let q := s.ringWrite ctx false r (e.1.bytes e.2 (dropped && es.isEmpty))
      State.writeRecords ctx dropped (q.1.modCtx ctx (fun c => { c with errRing := some q.2 })) es

/-! ## Units -/

/-- A RAS record of a change of unit state (R264, R266). -/
def State.unitRecord (s : State) (k : UnitKind) (n : Nat) : State :=
  let unit := match k with
    | .core => Config.unstated 17
    | .slice => 5
    | .polder => Config.unstated 18
    | .farChannel => 7
  -- LOC of a slice is a set and a way, bits [31:14] zero (R433)
  let loc := match k with | .slice => Config.unstated 19 % 2 ^ 14 | _ => Config.unstated 19
  s.ras { kind := 4, unit := unit, index := n, loc := loc, pa := 0, ctx := none, term := false,
          retired := false, quar := false }

/-- A unit enters a service state (R266). -/
def State.setService (s : State) (k : UnitKind) (n : Nat) (v : Service) : State :=
  ({ s with units := s.units.put .inService (unitKey k n) v } : State).unitRecord k n

/-- Whether a workgroup that an error has ended still stands on a physical core: its launch has not left the cores yet (R263). -/
def State.strickenOn (s : State) (n : Nat) : Bool :=
  s.wgs.any (fun w => s.pcoreOf w == n && (s.launch? w.lid).any (fun l => l.phase == .dying))

/-- A physical core with a hard error begins to leave service (R263, R266), once the lodge's firmware runs (R268). -/
def State.coreFails (s : State) (n : Nat) : State :=
  if s.service .core n ≠ .inService || s.repairs.contains (.core n) then s
  else if s.lodge.ready then s.setService .core n .draining
  else { s with repairs := s.repairs ++ [.core n] }

/-- The physical cores with a hard error whose struck workgroups have ended or been relaunched begin to leave service (R263). Log 76,
DEDUCED. -/
def State.settleFailing (s : State) : State :=
  let go := s.failing.filter (fun n => !s.strickenOn n)
  go.foldl State.coreFails { s with failing := s.failing.filter s.strickenOn }

/-- Steps 1 to 5 of R255 up to the records: the launch leaves the cores, its records go to the error ring, and an image that
was under way is terminated (R68). Log 14, DEDUCED. -/
def State.killLaunch (s : State) (l : Launch) : State :=
  let cores := s.coresOf l.lid
  let s1 := ((s.sweepLaunch l.lid).vacateAll cores).modLaunch l.lid (fun l =>
    { l with recorded := true, window := [], pending := [], heldSig := false })
  let rs := trapRecords l.traps
  let room := 256 - l.nrec
  let s2 := (State.writeRecords l.ctx (room < rs.length) s1 (rs.take room)).settleFailing
  if l.stopping then s2.keepImage l true else s2

/-- The records have been written or dropped. -/
def State.recordsOut (s : State) (ctx : Nat) : Bool :=
  match (s.ctx ctx).errRing with
  | none => true
  | some r => r.wait.isEmpty

/-- FATAL_TRAP: a launch that has met its primary event ends (R254, R255, R256). The signal follows the records; where a record
waits for a page, the event comes once more when that is answered. Log 14, DEDUCED. Log 85, DEDUCED. -/
def execFatalTrap (lid : Nat) (s : State) : Host.Outcome State Fault Refusal :=
  .next (match s.launch? lid with
    | none => s
    | some l =>
      if l.phase ≠ .dying then s
      else
        let s1 := if l.recorded then s else s.killLaunch l
        if s1.recordsOut l.ctx then s1.endLaunch lid else s1)

/-! ## Ending a context -/

/-- The lodge ends a context (R257, R280): every launch with class 23, its queues disabled, its routine entries dropped in every slice
(R202), its open handles discarded (R324), the descriptor dead. -/
def State.endContextNow (s : State) (ctx seq : Nat) : State :=
  let s1 := (s.launches.filter (fun l => l.ctx == ctx && l.phase != .complete)).foldl (fun s l => s.raiseAlone l 23 0 0 seq) s
  let s2 : State := { s1 with queues := s1.queues.filterMap (fun e =>
    let d := if e.2.ctx = ctx && e.2.en then { e.2 with en := false, holding := none, stalled := false } else e.2
    if d = QDesc.reset then none else some (e.1, d)) }
  ((s2.uncache (fun c => c.ctx == ctx)).endRight ctx 6).modCtx ctx (fun c => { c with dead := true, handles := [none, none, none, none] })

/-- A context ends, once the lodge's firmware runs (R257, R268). -/
def State.endContext (s : State) (ctx seq : Nat) : State :=
  if s.lodge.ready then s.endContextNow ctx seq else { s with repairs := s.repairs ++ [.context ctx seq] }

/-- A repair that waited for the lodge's firmware (R268). -/
def State.repair (s : State) : Repair → State
  | .retire line => s.retirePage line
  | .core n => s.coreFails n
  | .context ctx seq => s.endContextNow ctx seq

/-! ## Storage errors -/

/-- A storage error's record: kind, unit, physical core or slice, location, address, owner (R264). -/
def rasOf (kind unit index loc pa : Nat) (ctx : Option Nat) (term retired quar : Bool) : Ras :=
  { kind := kind, unit := unit, index := index, loc := loc, pa := pa, ctx := ctx, term := term, retired := retired, quar := quar }

/-- Whether a workgroup may be relaunched (R265). -/
def Launch.canRelaunch (l : Launch) (w : WG) : Bool :=
  l.hdr.idem && !w.noRelaunch && !w.relaunched && l.phase == .bound && !l.stopping

/-- The requests, replies, waits and stores of one workgroup withdrawn (R255 steps 2 and 3, R265). -/
def State.sweepGroup (s : State) (wid : Nat) : State :=
  { s with
    slices := (s.slices.map (fun e => (e.1, e.2.filter (fun r => r.wid ≠ wid)))).filter (fun e => !e.2.isEmpty)
    replies := s.replies.filter (fun r => r.req.wid ≠ wid)
    monitors := (s.monitors.map (fun m => { m with waiters := m.waiters.filter (fun x => x.1 ≠ wid) })).filter
      (fun m => !m.waiters.isEmpty)
    faults := (s.faults.map (fun f => { f with srcs := f.srcs.filter (fun x => match x with
      | .word v _ | .copy v _ _ => v != wid
      | .table _ r | .reissue r => r.wid != wid
      | _ => true) })).filter (fun f => !f.srcs.isEmpty)
    cores := s.cores.map (fun c => { c with ulist := c.ulist.filter (fun u => u.pub || u.uid / 2048 ≠ wid) }) }

/-- The record of a relaunch, one of the launch's 256 (R253, R256, R265). Log 52, DEDUCED. -/
def State.relaunchRecord (s : State) (l : Launch) (seq : Nat) : State :=
  if 256 ≤ l.nrec then s
  else (State.writeRecords l.ctx false s [({ (s.laneRecord l 22 0 0 seq).2 with relaunch := true }, false)]).modLaunch l.lid
    (fun l => { l with nrec := l.nrec + 1 })

/-- A workgroup that a storage error kills (R259, R265): it is placed again on its logical core ahead of any other placement, which a trace
record notes (R282), or its launch ends with class 22. -/
def State.killGroup (s : State) (w : WG) (l : Launch) (seq : Nat) : State :=
  if l.canRelaunch w then
    ((((s.relaunchRecord l seq).sweepGroup w.wid).release w).modLaunch l.lid (fun l =>
      { l with pending := (w.wgid, w.core) :: l.pending, relaunched := insertSet w.wgid l.relaunched })).traceGroup l 1 w.wgid w.core
  else s.raiseAlone l 22 0 0 seq

/-- The core of a hard error leaves service once the struck workgroup has ended or been relaunched (R263). Log 76, DEDUCED. -/
def State.hardCore (s : State) (w : WG) (hard : Bool) : State :=
  if hard then ({ s with failing := insertSet (s.pcoreOf w) s.failing } : State).settleFailing else s

/-- An error that kills the workgroup whose state it strikes (R259, R263 to R265). Log 76, DEDUCED. -/
def State.strikeGroup (s : State) (wid unit loc kind : Nat) (hard : Bool) : State :=
  match s.wg? wid with
  | none => s
  | some w => match s.launch? w.lid with
    | none => s
    | some l =>
      let s1 := s.ras (rasOf kind unit (s.pcoreOf w) loc 0 (some l.ctx) (!l.canRelaunch w) false false)
      (s1.killGroup w l s1.rasSeq).hardCore w hard

/-- The group whose open span has written a tile. -/
def WG.spanOf (w : WG) (tile : Nat) : Option Group :=
  w.groups.find? (fun g => (g.span.map (fun sp => sp.wtiles.contains tile)).getD false)

/-- An error in the accumulator file or the commit plane (R261): repaired from the other copy, or the span rolls back once, or the
workgroup is killed. Log 76, DEDUCED. -/
def State.strikeTile (s : State) (wid tile loc kind : Nat) (commit hard : Bool) : State :=
  match s.wg? wid with
  | none => s
  | some w => match s.launch? w.lid, w.spanOf tile with
    | none, _ => s
    | some l, none =>
      ((s.ras (rasOf kind 3 (s.pcoreOf w) loc 0 (some l.ctx) false false false)).modWG wid (fun g =>
        if commit then { g with commit := copyTiles g.tiles g.commit (fun t => t == tile) }
        else { g with tiles := copyTiles g.commit g.tiles (fun t => t == tile) })).hardCore w hard
    | some l, some g =>
      if commit || g.struck then s.strikeGroup wid 3 loc kind hard
      else
        let s1 := s.ras (rasOf kind 3 (s.pcoreOf w) loc 0 (some l.ctx) false false false)
        ((s1.rollBack wid g.gid).modWG wid (fun w => w.modGroup g.gid (fun g => { g with struck := true }))).hardCore w hard

/-- LOC of a last-level line: set in bits [9:0], way in [13:10] (R176, R433). -/
def llcLoc (line way : Nat) : Nat := line % 1024 + 1024 * (way % 16)

/-- UNIT of a tier line (R264). -/
def tierUnit (pa : Nat) : Nat := if pa < 0x10000000000 then 6 else 7

/-- A line poisoned under the SEQ of the last RAS record, its page retired (R260, R262). Log 53, DEDUCED. -/
def State.poisonLine (s : State) (line : Nat) : State :=
  ({ s with poison := s.poison.put 0 line s.rasSeq, tags := s.tags.put 0 line 0 } : State).retirePage line

/-- The place of a line in the last-level cache: the slice that serves it, and its way (R176). -/
def State.llcAt (s : State) (line : Nat) : Nat × Nat := (s.sliceFor (line * 128), (s.wayOf line).getD 0)

/-- A way of a slice leaves allocation for good (R262); the line in it there is gone from the cache. -/
def State.quarantine (s : State) (slice way line : Nat) : State :=
  { s with
    quarantined := if s.quarantined.contains (slice, way) then s.quarantined else s.quarantined ++ [(slice, way)]
    ways := s.ways.put (List.replicate 16 0) (s.setOf line) ((s.waysAt (s.setOf line)).set way 0) }

/-- The way of a line that an error strikes: out of allocation for good where the error is hard; else empty, and the next fill of the set
takes another (R262, R432). Log 53, DEDUCED. -/
def State.strikeWay (s : State) (line : Nat) (hard : Bool) : State :=
  match s.wayOf line with
  | none => s
  | some way =>
    if hard then s.quarantine (s.llcAt line).1 way line
    else { s with ways := s.ways.put (List.replicate 16 0) (s.setOf line) ((s.waysAt (s.setOf line)).set way 0)
                  struckWays := s.struckWays.put 0 (s.setOf line) (way + 1) }

/-- An error on a dirty last-level line, also where its eviction reads it (R262, R432, R434). The way is struck before the RAS record is
written, and stays struck after it: a ring line that enters the set is not the fill that caused the eviction. -/
def State.strikeDirty (s : State) (line kind : Nat) (hard : Bool) : State :=
  let tag := s.tags.get 0 line
  let at_ := s.llcAt line
  let set := s.setOf line
  if tag = 0 then s
  else
    let s0 := s.strikeWay line hard
    let s1 := (s0.ras (rasOf kind 5 at_.1 (llcLoc line at_.2) (line * 128) (some (tag - 1)) true true hard)).poisonLine line
    ({ s1 with struckWays := s1.struckWays.put 0 set (s0.struckWays.get 0 set) } : State).endContext (tag - 1) s1.rasSeq

/-- The lodge restarts in its running bank; a restart that is under way keeps the bank that it left (R259, R268). -/
def State.lodgeRestart (s : State) : State :=
  { s with lodge := { s.lodge with ready := false }, fw := { s.fw with restart := some (s.fw.restart.getD s.lodge.bank) } }

/-- UNCORRECTABLE_ERROR: a storage read finds an uncorrectable error, classed hard or soft (R259 to R265, R268). Log 53, DEDUCED. -/
def execUncorrectableError (at_ : Struck) (hard : Bool) (s : State) : Host.Outcome State Fault Refusal :=
  .next (
    let kind := if hard then 3 else 2
    match at_ with
    | .registers wid word => s.strikeGroup wid 1 word kind hard
    | .scratchpad wid panel row => s.strikeGroup wid 2 (Config.rasLoc 2 panel row) kind hard
    | .tile wid tile => s.strikeTile wid tile (Config.rasLoc 3 tile 0) kind false hard
    | .commit wid tile => s.strikeTile wid tile (Config.rasLoc 3 tile 1) kind true hard
    | .slot wid slot => s.strikeGroup wid 4 (Config.rasLoc 4 slot 0) kind hard
    | .icache core => s.ras (rasOf kind 8 core (Config.rasLoc 8 core 0) 0 none false false false)
    | .llcClean line =>
      if s.tags.get 0 line ≠ 0 || (s.wayOf line).isNone then s
      else
        (if hard then s.strikeWay line true else s).ras
          (rasOf kind 5 (s.llcAt line).1 (llcLoc line (s.llcAt line).2) (line * 128) none false false hard)
    | .llcDirty line => s.strikeDirty line kind hard
    | .tier line =>
      (s.ras (rasOf kind (tierUnit (line * 128)) (Config.rasLoc 6 line 0) (Config.rasLoc 6 line 1) (line * 128) none false true
        false)).poisonLine line
    | .pageEntry ctx pa =>
      let s1 := (s.ras (rasOf kind (tierUnit pa) (Config.rasLoc 6 (pa / 128) 0) (Config.rasLoc 6 (pa / 128) 1) (pa / 128 * 128)
        (some ctx) true true false)).poisonLine (pa / 128)
      s1.endContext ctx s1.rasSeq
    | .lodgeMemory =>
      (s.ras (rasOf kind 9 (Config.rasLoc 9 0 1) (Config.rasLoc 9 0 0) 0 none false false false)).lodgeRestart
    | .dieLink num => s.ras (rasOf kind 10 num (Config.rasLoc 10 num 0) 0 none false false false))

/-! ## Corrected errors -/

/-- The workgroup whose storage an error strikes. -/
def struckWid : Struck → Option Nat
  | .registers w _ | .scratchpad w _ _ | .tile w _ | .commit w _ | .slot w _ => some w
  | _ => none

/-- A number for each struck location, under which corrections are counted: the locations of a core by that core, whichever workgroup
holds them, and those of the last-level cache by slice, set and way (R263). Log 53, DEDUCED. -/
def State.struckPlace (s : State) (at_ : Struck) : Nat :=
  let w := (struckWid at_).bind s.wg?
  let pcore := (w.map s.pcoreOf).getD 0
  let from_ := fun (f : WG → Nat) => (w.map f).getD 0
  match at_ with
  | .registers _ word => 16 * (word % 2 ^ 18 + 2 ^ 18 * pcore)
  | .scratchpad _ panel row => 1 + 16 * (row % 128 + 128 * ((from_ WG.base + panel) % 256 + 256 * pcore))
  | .tile _ tile => 2 + 16 * ((from_ WG.tileAt + tile) % 256 + 256 * pcore)
  | .commit _ tile => 3 + 16 * ((from_ WG.tileAt + tile) % 256 + 256 * pcore)
  | .slot _ slot => 4 + 16 * ((from_ WG.slotAt + slot) % 4 + 4 * pcore)
  | .icache core => 5 + 16 * core
  | .llcClean line | .llcDirty line => 6 + 16 * ((s.llcAt line).2 + 16 * s.setOf line)
  | .tier line => 8 + 16 * line
  | .pageEntry _ pa => 8 + 16 * (pa / 128)
  | .lodgeMemory => 9
  | .dieLink num => 10 + 16 * num

/-- UNIT, INDEX, LOC and PA of a struck location (R264). -/
def State.struckAt (s : State) (at_ : Struck) : Nat × Nat × Nat × Nat :=
  let pc := (((struckWid at_).bind s.wg?).map s.pcoreOf).getD 0
  match at_ with
  | .registers _ word => (1, pc, word, 0)
  | .scratchpad _ panel row => (2, pc, Config.rasLoc 2 panel row, 0)
  | .tile _ tile => (3, pc, Config.rasLoc 3 tile 0, 0)
  | .commit _ tile => (3, pc, Config.rasLoc 3 tile 1, 0)
  | .slot _ slot => (4, pc, Config.rasLoc 4 slot 0, 0)
  | .icache core => (8, core, Config.rasLoc 8 core 0, 0)
  | .llcClean line | .llcDirty line => (5, (s.llcAt line).1, llcLoc line (s.llcAt line).2, line * 128)
  | .tier line => (tierUnit (line * 128), Config.rasLoc 6 line 0, Config.rasLoc 6 line 1, line * 128)
  | .pageEntry _ pa => (tierUnit pa, Config.rasLoc 6 (pa / 128) 0, Config.rasLoc 6 (pa / 128) 1, pa / 128 * 128)
  | .lodgeMemory => (9, Config.rasLoc 9 0 1, Config.rasLoc 9 0 0, 0)
  | .dieLink num => (10, num, Config.rasLoc 10 num 0, 0)

/-- The context that owns a struck location (R264). -/
def State.struckOwner (s : State) : Struck → Option Nat
  | .llcDirty line => if s.tags.get 0 line = 0 then none else some (s.tags.get 0 line - 1)
  | .pageEntry ctx _ => some ctx
  | st => (((struckWid st).bind s.wg?).bind (fun w => s.launch? w.lid)).map (fun l => l.ctx)

/-- What a location classed hard by its corrections comes to (R262, R263): its core leaves service, its page is retired, its way
is quarantined. -/
def State.wornOut (s : State) : Struck → State
  | .tier line => s.retirePage line
  | .pageEntry _ pa => s.retirePage (pa / 128)
  | .llcClean line | .llcDirty line =>
    let s1 := s.strikeWay line true
    { s1 with tags := s1.tags.put 0 line 0 }
  | st => match (struckWid st).bind s.wg? with
    | some w => s.hardCore w true
    | none => s

/-- Whether a struck location is there: a workgroup that is resident, a line that the last-level cache holds. -/
def State.struckThere (s : State) (at_ : Struck) : Bool :=
  match at_ with
  | .llcClean line => s.tags.get 0 line = 0 && (s.wayOf line).isSome
  | .llcDirty line => s.tags.get 0 line ≠ 0
  | st => (struckWid st).all (fun w => (s.wg? w).isSome)

/-- CORRECTED_ERROR: a correction is counted and reported with KIND 1; the sixteenth within 2^30 ck classes the location hard
(R259, R263, R264). Log 53, DEDUCED. -/
def execCorrectedError (at_ : Struck) (s : State) : Host.Outcome State Fault Refusal :=
  .next (if !s.struckThere at_ then s else
    let k := s.struckPlace at_
    let times := (s.corrected.get [] k).filter (fun t => s.ck < t + 2 ^ 30) ++ [s.ck]
    let worn := 16 ≤ times.length
    let u := s.struckAt at_
    let tier := match at_ with | .tier _ | .pageEntry _ _ => true | _ => false
    let way := match at_ with | .llcClean _ | .llcDirty _ => true | _ => false
    let s1 := ({ s with corrected := s.corrected.put [] k times } : State).ras
      (rasOf 1 u.1 u.2.1 u.2.2.1 u.2.2.2 (s.struckOwner at_) false (worn && tier) (worn && way))
    if worn then s1.wornOut at_ else s1)

/-- SLICE_PAUSE_END: the dirty lines of a paused slice have been written back, and it serves the requests that wait, in arrival order
(R267). -/
def execSlicePauseEnd (slice : Nat) (s : State) : Host.Outcome State Fault Refusal :=
  .next (if s.paused.contains slice then
    { s with paused := s.paused.filter (fun x => x ≠ slice), tags := s.tags.filter (fun e => s.sliceFor (e.1 * 128) != slice) } else s)

end Sys2Proof.Machine
end

