-- ==== Sys2Proof/Machine/FloatWords.lean ====
section
/-! DEFINITION. The float, special-function, conversion and packing words (R105, R106, R329 to R339, R394 to R396). -/

namespace Sys2Proof.Machine

/-- A float word of two or three operands with its modifiers (R330, R331). -/
def State.float (s : State) (i : Instr) (w : FWord) (op : FloatOp) : Host.Outcome State Fault Refusal :=
  s.alu i w.d (fun _ => []) (fun _ x ln =>
    let r := floatOp op w.ty (rndOf (FRnd w)) (FSat w) (FFtz w) (x.read ln w.ty w.a) (x.read ln w.ty w.b)
      (x.read ln w.ty w.c)
    resultIn w.d (regsOf w.ty) r.1 r.2 [])

/-- An immediate float word: .f32, round to nearest, no modifier (R332). -/
def State.floatImm (s : State) (i : Instr) (w : IWord) (op : FloatOp) : Host.Outcome State Fault Refusal :=
  s.alu i w.d (fun _ => []) (fun _ x ln =>
    let r := floatOp op .f32 .rn false false (x.read ln .f32 w.a) w.imm.toNat 0
    resultIn w.d 1 r.1 r.2 [])

def execFadd (w : FWord) (s : State) : Host.Outcome State Fault Refusal := s.float (.fadd w) w .add

def execFaddImm (w : IWord) (s : State) : Host.Outcome State Fault Refusal := s.floatImm (.faddImm w) w .add

def execFsub (w : FWord) (s : State) : Host.Outcome State Fault Refusal := s.float (.fsub w) w .sub

def execFmul (w : FWord) (s : State) : Host.Outcome State Fault Refusal := s.float (.fmul w) w .mul

def execFmulImm (w : IWord) (s : State) : Host.Outcome State Fault Refusal := s.floatImm (.fmulImm w) w .mul

def execFfma (w : FWord) (s : State) : Host.Outcome State Fault Refusal := s.float (.ffma w) w .fma

def execFmin (w : FWord) (s : State) : Host.Outcome State Fault Refusal := s.float (.fmin w) w .fmin

def execFminImm (w : IWord) (s : State) : Host.Outcome State Fault Refusal := s.floatImm (.fminImm w) w .fmin

def execFmax (w : FWord) (s : State) : Host.Outcome State Fault Refusal := s.float (.fmax w) w .fmax

def execFmaxImm (w : IWord) (s : State) : Host.Outcome State Fault Refusal := s.floatImm (.fmaxImm w) w .fmax

def execFabs (w : FWord) (s : State) : Host.Outcome State Fault Refusal :=
  s.binary (.fabs w) w (regsOf w.ty) (fun x _ => (signOp false w.ty x, 0))

def execFneg (w : FWord) (s : State) : Host.Outcome State Fault Refusal :=
  s.binary (.fneg w) w (regsOf w.ty) (fun x _ => (signOp true w.ty x, 0))

/-- FCMP: CC in SPEC[6:3], PD in SPEC[2:0] (R334, R335). -/
def execFcmp (w : FWord) (s : State) : Host.Outcome State Fault Refusal :=
  s.alu (.fcmp w) w.d (fun _ => []) (fun _ x ln =>
    let f := fmtOf w.ty
    let a := flushIn f (FFtz w) (x.read ln w.ty w.a)
    let b := flushIn f (FFtz w) (x.read ln w.ty w.b)
    let cc := bitsOf (FSpec w) 3 4
    compareIn w.d (FSpec w % 8) (fccHolds cc (relF f a b)) (fcmpFlags f cc a b))

def execFclass (w : FWord) (s : State) : Host.Outcome State Fault Refusal :=
  s.binary (.fclass w) w 1 (fun x _ => (fclassOp w.ty x, 0))

def execFrnd (w : FWord) (s : State) : Host.Outcome State Fault Refusal :=
  s.binary (.frnd w) w (regsOf w.ty) (fun x _ => frndOp w.ty (rndOf (FRnd w)) (FFtz w) x)

/-- FCVT: the source type in SPEC[7:3]; into E4M3 in a level-1 code object it is a conformance cell (R105, R336, R337). -/
def execFcvt (w : FWord) (s : State) : Host.Outcome State Fault Refusal :=
  s.alu (.fcvt w) w.d (fun _ => []) (fun _ x ln =>
    let r := convert (x.l.hdr.level == 1) w.ty (cvtSrc w) (rndOf (FRnd w)) (FSat w) (FFtz w) (x.read ln (cvtSrc w) w.a)
    resultIn w.d (regsOf w.ty) r.1 r.2 [])

/-- A special function (R338). -/
def State.specialFn (s : State) (i : Instr) (w : FWord) (op : SpecialFn) : Host.Outcome State Fault Refusal :=
  s.binary i w (regsOf w.ty) (fun x _ => specialF op w.ty (rndOf (FRnd w)) (FFtz w) x)

/-- FRCP: in a level-1 code object the .f32 form is a conformance cell (R105, R122, R338). -/
def execFrcp (w : FWord) (s : State) : Host.Outcome State Fault Refusal :=
  s.alu (.frcp w) w.d (fun _ => []) (fun _ x ln =>
    let a := x.read ln w.ty w.a
    let r := if x.l.hdr.level == 1 && w.ty == .f32 then level1Rcp a else specialF .rcp w.ty (rndOf (FRnd w)) (FFtz w) a
    resultIn w.d (regsOf w.ty) r.1 r.2 [])

def execFrsq (w : FWord) (s : State) : Host.Outcome State Fault Refusal := s.specialFn (.frsq w) w .rsq

def execFsqrt (w : FWord) (s : State) : Host.Outcome State Fault Refusal := s.specialFn (.fsqrt w) w .sqrt

def execFexp2 (w : FWord) (s : State) : Host.Outcome State Fault Refusal := s.specialFn (.fexp2 w) w .exp2

def execFlog2 (w : FWord) (s : State) : Host.Outcome State Fault Refusal := s.specialFn (.flog2 w) w .log2

def execFtanh (w : FWord) (s : State) : Host.Outcome State Fault Refusal := s.specialFn (.ftanh w) w .tanh

/-- The values of a run of n v registers that source a names (R394). -/
def runVals (t : Thread) (o : Opnd) (n : Nat) : List Nat :=
  match o with
  | .v r => (t.v.getN 0 r.toNat n).map BitVec.toNat
  | _ => []

/-- NPACK (R394, R395). -/
def execNpack (w : FWord) (s : State) : Host.Outcome State Fault Refusal :=
  s.alu (.npack w) w.d (fun _ => []) (fun _ x ln =>
    let r := npackOp w.ty (rndOf (FRnd w)) (FSat w) (FFtz w) (signedOf 32 (x.read ln .i32 w.b))
      (runVals ln.t w.a (packCount w.ty))
    resultIn w.d 1 r.1 r.2 [])

/-- NUNPK: v(d) to v(d + n - 1); a latch receives the value of v(d) (R394, R395). A small immediate or a constant as
source is read as a 32-bit integer. Log 120, DESIGN CHOICE. -/
def execNunpk (w : FWord) (s : State) : Host.Outcome State Fault Refusal :=
  s.alu (.nunpk w) w.d (fun _ => []) (fun _ x ln =>
    let rs := nunpkOp w.ty (rndOf (FRnd w)) (FFtz w) (signedOf 32 (x.read ln .i32 w.b)) (x.read32 ln w.a)
    let fl := rs.foldl (fun a r => a ||| r.2) 0
    match w.d with
    | .v r => ⟨[(r.toNat, rs.map (fun p => BitVec.ofNat 32 p.1))], [], [BitVec.ofNat 64 ((rs.headD (0, 0)).1)], [], fl⟩
    | _ => ⟨[], [], [], [], fl⟩)

/-- NSCALE (R396). -/
def execNscale (w : FWord) (s : State) : Host.Outcome State Fault Refusal :=
  s.alu (.nscale w) w.d (fun _ => []) (fun _ _ ln =>
    let r := nscaleOp w.ty (runVals ln.t w.a 4)
    resultIn w.d 1 r.1 r.2 [])

end Sys2Proof.Machine
end

