-- ==== Sys2Proof/Machine/Peers.lean ====
section
/-! DEFINITION. The companion link and the peer fabric (R175, R184, R284 to R287). -/

namespace Sys2Proof.Machine

/-! ## The companion link -/

/-- COMPANION_STORE: a store of the companion translates through a context and enters M at the home slice; a fault changes
nothing (R174, R284). A transaction of no byte or of more than 65,536 bytes fails. Log 84, DEDUCED. -/
def execCompanionStore (ctx va : Nat) (bytes : List Byte) (s : State) : Host.Outcome State Fault Refusal :=
  .next (
    if bytes.isEmpty || 65536 < bytes.length then { s with link := none }
    else match s.access ctx va bytes.length 1 false true false with
      | .error _ => { s with link := none }
      | .ok ts =>
        let s1 := ts.foldl (fun s t => s.setDgen ctx t) s
        let s2 := ((placeBytes va bytes.length ts).zip bytes).foldl (fun (s : State) p => s.writeM ctx p.1.2 [(p.1.1, p.2)]) s1
        { s2 with link := some [] })

/-- COMPANION_LOAD: a load of the companion reads M, as an LDA does; a fault fails the transaction (R284), as a poisoned line
does, which it consumes (R260), and one of no byte or of more than 65,536 bytes. Log 84, DEDUCED. -/
def execCompanionLoad (ctx va n : Nat) (s : State) : Host.Outcome State Fault Refusal :=
  .next (
    if n = 0 || 65536 < n then { s with link := none }
    else match s.access ctx va n 1 true false false with
      | .error _ => { s with link := none }
      | .ok ts =>
        let pas := placeBytes va n ts
        match pas.findSome? (fun p => s.poisoned p.1 1) with
        | some e => { s.retirePage e.1 with link := none }
        | none => { s.fetchLines pas with link := some (pas.map (fun p => s.mem.read p.2 p.1)) })

/-! ## The peer fabric -/

/-- PEER_ACCESS: an access from a peer acts on a physical address of this device under its own key for the key ID (R286). An
atomic or a built-in routine takes its place at the home slice. Log 84, DEDUCED. -/
def execPeerAccess (acc : PeerAccess) (s : State) : Host.Outcome State Fault Refusal :=
  .next (
    let ctx := Config.peerTag acc.device acc.key acc.pa % 512
    if !(isLocal acc.pa && tierOk acc.pa) then { s with link := none }
    else match acc.op with
      | .load n =>
        match s.poisoned acc.pa n with
        | some e => { s.retirePage e.1 with link := none }
        | none => { s.fetchLines ((rangeBytes acc.pa n).map (fun a => (a, acc.key))) with link := some (s.mem.readN acc.key acc.pa n) }
      | .store bytes => { s.writeM ctx acc.key (cellsAt acc.pa bytes) with link := some [] }
      | .routine r operands =>
        s.toSlice { kind := .peer acc.device, lid := 0, wid := 0, tid := 0, core := 0, ctx := ctx, key := acc.key, va := 0, pa := acc.pa,
                    r := r, opnds := operands, d := .none, pc := 0, ordinal := 0, phc := 0, detn := 0, det := false, wgid := 0,
                    clk := [], lvl := 3, ea := 0, base := 0 })

/-- UP of a domain table entry set or cleared (R285). -/
def State.setUp (s : State) (d : Nat) (up : Bool) : State :=
  let e := (s.domain.get 0 d).toNat
  { s with domain := s.domain.put 0 d (BitVec.ofNat 64 (putBits e 2 1 (bit1 up))) }

/-- Whether a physical address lies in a peer's window. -/
def atPeer (d pa : Nat) : Bool := isPeer pa && peerOf pa = d

/-- The class-22 trap of one access in flight to a silent peer (R253, R287). -/
def State.lostAccess (s : State) (wid tid pc va seq : Nat) : State :=
  match s.wg? wid with
  | none => s
  | some w => match w.threads[tid]? with
    | none => s
    | some t => s.raise w.lid w.core 3 tid [s.record w 22 0 false tid t.gid t.lane pc va seq]

/-- The loads in flight to a peer: workgroup, thread, PC and address. -/
def State.peerLoads (s : State) (d : Nat) : List (Nat × Nat × Nat × Nat) :=
  s.wgs.flatMap (fun w =>
    w.threads.zipIdx.flatMap (fun p => (p.1.loads.filter (fun f => f.pas.any (atPeer d))).map (fun f => (w.wid, p.2, f.pc, f.va))))

/-- The requests in flight to a peer: on the fabric, or in a reorder window for a page of the peer. -/
def State.peerReqs (s : State) (d : Nat) : List Req :=
  s.slices.get [] (1000 + d) ++ s.launches.flatMap (fun l => l.window.filter (fun r => atPeer d r.pa))

/-- PEER_TIMEOUT: a peer has answered nothing for 2^20 ck: UP clears, a RAS record of unit 10 is written, and each access in
flight to it ends with class 22, a request of a reorder window too (R287). Log 55, DESIGN CHOICE. -/
def execPeerTimeout (d : Nat) (s : State) : Host.Outcome State Fault Refusal :=
  .next (
    if !(s.domain.get 0 d).getLsbD 2 then s
    else
      let lost := (s.peerReqs d).map (fun r => (r.wid, r.tid, r.pc, r.va)) ++ s.peerLoads d
      let s1 := (s.setUp d false).ras (rasOf (Config.unstated 20) 10 (Config.rasLoc 10 d 1) (Config.rasLoc 10 d 2) 0 none
        (!lost.isEmpty) false false)
      lost.foldl (fun s e => s.lostAccess e.1 e.2.1 e.2.2.1 e.2.2.2 s1.rasSeq)
        { s1 with
          slices := s1.slices.put [] (1000 + d) []
          launches := s1.launches.map (fun (l : Launch) => { l with window := l.window.filter (fun r => !atPeer d r.pa) }) })

/-- PEER_ANSWERS: a peer of the domain answers on the fabric again (R285). Log 55, DESIGN CHOICE. -/
def execPeerAnswers (d : Nat) (s : State) : Host.Outcome State Fault Refusal :=
  .next (if 256 ≤ d then s else s.setUp d true)

/-- PEER_PORT_FAILURE: one of the twelve ports fails; its traffic moves to the others, which changes time only (R287). -/
def execPeerPortFailure (port : Nat) (s : State) : Host.Outcome State Fault Refusal :=
  .next (if 12 ≤ port then s else { s with portsDown := insertSet port s.portsDown })

end Sys2Proof.Machine
end

