-- ==== Sys2Proof/Machine/Lodge.lean ====
section
/-! DEFINITION. The lodge's registers and firmware, the clocks and their halt, units that leave and rejoin service, samples, and the
passing of time (R244, R246, R263, R266 to R268, R282, R288, R290, R292, R296, R297). -/

namespace Sys2Proof.Machine

/-! ## Registers -/

/-- A write to a word of the mailbox's command block (R290): word 0 starts the command; while one runs, nothing is stored, and a
write of word 0 is answered with status 8. -/
def Lodge.writeCmd (d : Lodge) (agent : Nat) (i : Fin 8) (x : DWord) : Lodge :=
  if d.busy then (if i = 0 then { d with busy8 := true } else d)
  else if i = 0 then { d with cmd := d.cmd.set 0 x, busy := true, agent := agent }
  else { d with cmd := d.cmd.set i x }

/-- The response block written: DONE set, MBXBUSY cleared, and the host's mailbox interrupt raised, which stands until DONE is cleared
(R290). Log 103, DESIGN CHOICE. -/
def State.respond (s : State) (op status value : Nat) : State :=
  { s with lodge := { s.lodge with
      busy := false, done := true, mailIrq := true, respStatus := status, respOp := op, value := BitVec.ofNat 64 value } }

/-- The commands of R271 and R289. -/
def listedOp (op : Nat) : Bool := (1 ≤ op && op ≤ 11) || (32 ≤ op && op ≤ 45)

/-- A block whose OP is in no table is an illegal field (R271, R289). Log 63, DEDUCED. -/
def State.answerUnlisted (s : State) : State :=
  let op := bitsOf ((s.lodge.cmd.headD 0).toNat) 0 8
  if s.lodge.ready && s.lodge.busy && !listedOp op then s.respond op 4 0 else s

/-- W1C bits of the response block (R290); the mailbox interrupt goes with DONE. Log 103, DESIGN CHOICE. -/
def Lodge.clearResponse (d : Lodge) (x : DWord) : Lodge :=
  { d with done := d.done && !x.getLsbD 16, mailIrq := d.mailIrq && !x.getLsbD 16, busy8 := d.busy8 && !x.getLsbD 17 }

/-- REGISTER_WRITE: a write to a lodge register by its field map; read-only and reserved bits ignore it (R6, R288, R290). -/
def execRegisterWrite (agent : Nat) (reg : LodgeReg) (value : DWord) (s : State) : Host.Outcome State Fault Refusal :=
  .next (match reg with
    | .status => { s with lodge := { s.lodge with bindErr := s.lodge.bindErr && !value.getLsbD 2 } }
    | .response => { s with lodge := s.lodge.clearResponse value }
    | .command i => ({ s with lodge := s.lodge.writeCmd agent i value } : State).answerUnlisted)

/-! ## Firmware -/

/-- The version in a bank (R288, R292). -/
def Firmware.version (f : Firmware) (bank : Bool) : BitVec 32 := if bank then f.verB else f.verA

/-- Whether a bank holds an accepted image. -/
def Firmware.ok (f : Firmware) (bank : Bool) : Bool := if bank then f.okB else f.okA

/-- The greater of two versions. -/
def verMax (a b : BitVec 32) : BitVec 32 := if a.toNat ≤ b.toNat then b else a

/-- The fused minimum version (R292). -/
def Firmware.min (f : Firmware) : BitVec 32 := verMax Config.minVersion f.minVer

/-- What the boot code accepts: a bank whose digest and signature have been verified, and whose version is at least the fused minimum
(R292). -/
def Firmware.boots (f : Firmware) (bank : Bool) : Bool := f.ok bank && decide (f.min.toNat ≤ (f.version bank).toNat)

/-- Spares of polder P taken out of some of its cores, at free places. -/
def takeSpares (polder : Nat) : Nat → List Nat → List Nat
  | 0, _ => []
  | k + 1, cs =>
    let c := cs.getD (Config.spareCore (4 * polder + k) % cs.length) 0
    c :: takeSpares polder k (cs.erase c)

/-- The spare cores that the fuse map marks, four of the 68 of each polder (R2, R15). Log 93, DESIGN CHOICE. -/
def fuseMap : List Nat := (List.range 4).flatMap (fun p => takeSpares p 4 ((List.range 68).map (68 * p + ·)))

/-- The firmware of a bank runs: it has read the fuse map (R15), and the repairs and the command that waited for it are carried out
(R268). -/
def State.firmwareUp (s : State) : State :=
  let t : State := { s with
    lodge := { s.lodge with ready := true, fwver := s.fw.version s.lodge.bank }
    fw := { s.fw with restart := none }
    spares := fuseMap
    repairs := [] }
  (s.repairs.foldl State.repair t).answerUnlisted

/-- FIRMWARE_READY: the firmware of the running bank has started; the boot code starts no bank that it does not accept (R268, R288, R292). -/
def execFirmwareReady (s : State) : Host.Outcome State Fault Refusal :=
  .next (if s.lodge.ready || s.fw.restart.isNone || !s.fw.boots s.lodge.bank then s else s.firmwareUp)

/-- FIRMWARE_READY_TIMEOUT: ready has not come within 100 ms, or the self-test failed, and the hardware restarts into the bank that
ran before (R268). -/
def execFirmwareReadyTimeout (s : State) : Host.Outcome State Fault Refusal :=
  .next (match s.fw.restart with
    | some b => if s.lodge.ready then s else { s with lodge := { s.lodge with bank := b } }
    | none => s)

/-- The firmware banks as bring-up finds them: those of an earlier bring-up, or the boot images, checked (R268, R292). -/
def Firmware.boot (f : Firmware) : Firmware :=
  if f.okA || f.okB then f
  else { f with digA := Config.bootDigest false, digB := Config.bootDigest true, verA := Config.bootVersion false,
                verB := Config.bootVersion true, okA := Config.bootOk false, okB := Config.bootOk true }

/-- RESET_RELEASE: the machine as State.reset gives it, its key slots clear; the contents of memory with its poison, retired pages and
quarantined ways stay, and so do the firmware banks; the straps give the domain number (R285, R297). Log 72, DESIGN CHOICE. -/
def execResetRelease (straps : BitVec 8) (s : State) : Host.Outcome State Fault Refusal :=
  .next (
    let bank := if s.fw.okA || s.fw.okB then s.lodge.bank else Config.bootBank
    { State.reset with
      mem := { s.mem with slots := [] }
      poison := s.poison
      retired := s.retired
      quarantined := s.quarantined
      free := s.free
      lodge := { Lodge.reset with bank := bank, domain := straps.toNat }
      fw := { s.fw.boot with restart := some bank } })

/-! ## Clocks and power -/

/-- THERMAL_HALT: the clocks of every partition halt (R296). -/
def execThermalHalt (s : State) : Host.Outcome State Fault Refusal := .next { s with lodge := { s.lodge with therm := true } }

/-- THERMAL_RESUME: the junction has cooled (R296). -/
def execThermalResume (s : State) : Host.Outcome State Fault Refusal := .next { s with lodge := { s.lodge with therm := false } }

/-- POWER_CAP_ADJUST: the clock of a partition that is not locked stands a number of steps of 62.5 MHz below 1.25 GHz, ten at most
(R13, R296). -/
def execPowerCapAdjust (part steps : Nat) (s : State) : Host.Outcome State Fault Refusal :=
  .next (if !s.up || 16 ≤ part || 10 < steps || (s.part part).locked then s else s.modPart part (fun p => { p with clockStep := steps }))

/-- A launch whose time runs (R244, R277): placed, on the cores, and without a parked group. Log 74, DESIGN CHOICE. -/
def State.timed (s : State) (l : Launch) : Bool :=
  l.placed && (l.phase == .bound || l.phase == .draining || l.phase == .dying)
  && !s.wgs.any (fun w => w.lid == l.lid && w.groups.any w.isParked)

/-- The frontier of a launch as it stands: where it has moved, STALL is cleared (R213, R241). Log 74, DESIGN CHOICE. -/
def State.moveFrontier (s : State) (lid : Nat) : State :=
  match s.launch? lid with
  | none => s
  | some l => match s.frontierOf l with
    | none => s
    | some f =>
      if f = l.frontier then s
      else
        let s1 := s.modLaunch lid (fun l => { l with frontier := f, frontierCk := s.ck })
        match l.slot with
        | some n => s1.setBind n (putBits (s1.bind n) 18 1 0)
        | none => s1

/-- Time passes: device time always, arithmetic clocks and time limits but under a thermal halt (R244, R246, R296); a new ck finds the
workgroups as they stand (R29, R224). Log 20, DEDUCED. Log 88, DEDUCED. Log 74, DESIGN CHOICE. Log 90, DESIGN CHOICE. -/
def State.tick (s : State) (dck dns : Nat) : State :=
  let s1 : State := { s with ns := s.ns + dns }
  if s.lodge.therm then s1
  else
    let s2 : State := { s1 with
      ck := s1.ck + dck
      before := if dck = 0 then s1.before else s1.wgs
      launches := s1.launches.map (fun l => if s1.timed l then { l with ckUsed := l.ckUsed + dck } else l) }
    (s2.launches.map (fun l => l.lid)).foldl State.moveFrontier s2

/-! ## Units -/

/-- The logical cores that a physical core serves (R18). -/
def State.keysOn (s : State) (pcore : Nat) : List Nat :=
  (s.gbt.filter (fun e => e.2.getLsbD 63 && gbPcore e.2.toNat = pcore)).map (fun e => e.1)

/-- Whether what is resident on a physical core stands where it can be saved: its drain has ended (R23, R61, R63), and its clocks run (R296). -/
def State.saveable (s : State) (pcore : Nat) : Bool :=
  (s.keysOn pcore).all (fun key => s.gbSt key != 1 || (s.clocked key && s.coreDrained key))

/-- A logical core whose target leaves service is brought to its saved state, as at the end of a turn (R22, R23); one without work stays
idle. Its entry may then be rewritten (R19). -/
def State.offCore (s : State) (key : Nat) : State := if s.gbSt key = 1 then s.endTurn key else s

/-- A physical core leaves service (R266): the entries that still name it have a target out of service (R18). -/
def State.leaveService (s : State) (n : Nat) : State :=
  (s.keysOn n).foldl (fun s key => s.setSt key 3) (s.setService .core n .outOfService)

/-- The drain of a physical core (R23, R266): first what is resident there is saved, so that the lodge can rebind it (R19); then the core is
out of service. Log 42, DEDUCED. -/
def State.drainCore (s : State) (n : Nat) : State :=
  if (s.keysOn n).any (fun key => s.gbSt key == 1) then (if s.saveable n then (s.keysOn n).foldl State.offCore s else s)
  else s.leaveService n

/-- The dirty lines of a slice are written back, its ways are empty, and its cached routine entries are gone (R266). -/
def State.emptySlice (s : State) (n : Nat) : State :=
  { s with
    tags := s.tags.filter (fun e => s.sliceFor (e.1 * 128) != n)
    ways := s.ways.filter (fun e => e.1 / 1024 != n)
    rcache := s.rcache.filter (fun e => e.1 != n) }

/-- The requests of a slice's queue go, in order, where their lines are served now (R266). -/
def State.reroute (s : State) (n : Nat) : State :=
  (s.slices.get [] n).foldl State.toSlice { s with slices := s.slices.put [] n [] }

/-- Whether a polder hosts no workgroup. -/
def State.polderEmpty (s : State) (p : Nat) : Bool := s.wgs.all (fun w => s.pcoreOf w / 68 != p)

/-- UNIT_DRAIN_COMPLETE: a draining unit is out of service; a core with resident work has it saved, and is out of service by a further such
event (R23, R266); none is saved under a thermal halt (R296). Log 42, DEDUCED. -/
def execUnitDrainComplete (kind : UnitKind) (num : Nat) (s : State) : Host.Outcome State Fault Refusal :=
  .next (
    if !s.up || s.service kind num ≠ .draining then s
    else match kind with
      | .core => s.drainCore num
      | .slice => if s.paused.contains num then s else ((s.emptySlice num).setService .slice num .outOfService).reroute num
      | .polder => if s.polderEmpty num then s.setService .polder num .outOfService else s
      | .farChannel => s.setService .farChannel num .outOfService)

/-- ST of an entry whose target serves again: saved where its logical core holds work, else idle (R18). Log 42, DEDUCED. -/
def State.backSt (s : State) (key : Nat) : State :=
  if s.gbSt key ≠ 3 then s else s.setSt key (if s.wgs.any (fun w => w.core == key) then 2 else 0)

/-- UNIT_TEST_PASSED: a unit under test has passed and serves again (R263, R266); the entries that name a core are idle or saved
once more (R18); the partner of a slice writes back what it holds and hands on the requests that are the slice's (R176). -/
def execUnitTestPassed (kind : UnitKind) (num : Nat) (s : State) : Host.Outcome State Fault Refusal :=
  .next (
    if !s.up || s.service kind num ≠ .underTest then s
    else match kind with
      | .core => let s1 := s.setService .core num .inService; (s1.keysOn num).foldl State.backSt s1
      | .slice => ((s.emptySlice (num ^^^ 1)).setService .slice num .inService).reroute (num ^^^ 1)
      | k => s.setService k num .inService)

/-! ## Samples -/

/-- Why a group's primary path does not issue, by the codes of R282, and its executing lanes: another path, of the group or of another
one, may hold the unit (R31). -/
def State.stallOf (s : State) (w : WG) (g : Group) (p : List Lane) : Nat × Nat :=
  let cur := curOf w g g.unit false p
  let held := ((s.core w.core).held.getD g.unit none).any (fun h => h != (w.wid, g.gid))
    || (pathsOfGroup w g).any (fun q => holds q && q != p)
  match s.launch? w.lid with
  | none => (8, 0)
  | some l => match s.wordAt l cur.pc with
    | none => (0, p.length)
    | some (i, n) =>
      let act := (p.filter (fun ln => ln.t.executes n.head)).length
      if held then (7, act)
      else if s.pathReady cur then (0, act)
      else if entersMatrix i && 8 ≤ (s.core w.core).mq.length then (5, act)
      else if p.any (fun ln => !ln.t.loads.isEmpty || ln.t.slot.isSome) then (3, act)
      else (1, act)

/-- What a sample says of a group: PC of its primary path, STALL, ACT (R282). Log 73, DESIGN CHOICE. -/
def State.sampleOf (s : State) (w : WG) (g : Group) : Nat × Nat × Nat :=
  let ls := lanesOf w g (liveLanes w g)
  match pathsOfGroup w g with
  | p :: _ =>
    let st := s.stallOf w g p
    (((p.head?).map (fun ln => ln.t.pc)).getD 0, st.1, st.2)
  | [] =>
    let memory := ls.any (fun ln => match ln.t.run with | .wait (.page _ _ _) | .wait (.qwait _ _) => true | _ => false)
    (((ls.head?).map (fun ln => ln.t.pc)).getD 0, if w.isParked g then 6 else if memory then 3 else if ls.isEmpty then 8 else 4, 0)

/-- The sample of one issue unit of a logical core: one resident group, in round robin (R282). -/
def State.sampleUnit (part place : Nat) (s : State) (key u : Nat) : State :=
  let gs := (s.groupsOn key).filter (fun p => p.2.unit = u)
  match gs[place % gs.length]? with
  | none => s
  | some p =>
    let x := s.sampleOf p.1 p.2
    s.trace part 0 p.1.wgid p.2.gid (key % 256) x.1 u x.2.1 x.2.2

/-- TRACE_SAMPLE: at each period, every core of a partition records one resident group per issue unit (R282). Log 73, DESIGN CHOICE. -/
def execTraceSample (part : Nat) (s : State) : Host.Outcome State Fault Refusal :=
  .next (
    let p := s.part part
    if !p.trace || (s.ck - p.ckStart) % 2 ^ p.sper ≠ 0 then s
    else
      let keys := (s.gbt.filter (fun e => e.1 / 256 = part && bitsOf e.2.toNat 61 2 = 1)).map (fun e => e.1)
      let s1 := keys.foldl (fun s key => (List.range 4).foldl (fun s u => State.sampleUnit part p.traceRr s key u) s) s
      s1.modPart part (fun p => { p with traceRr := p.traceRr + 1 }))

end Sys2Proof.Machine
end

