-- ==== Sys2Proof/Machine/Lattice.lean ====
section
/-! DEFINITION. What ML-KEM-768 and ML-DSA-44 share, which the spec names for the keys of a device (R291 to R294): polynomials of 256
coefficients as lists of numbers below a modulus, their values at the roots of a negative cyclic transform, and fields of a fixed width. -/

namespace Sys2Proof.Machine

/-- A polynomial: its coefficients, lowest power first. -/
abbrev Poly := List Nat

/-- The number whose n bits are those of x in reverse. -/
def revBits (n x : Nat) : Nat := (List.range n).foldl (fun a i => 2 * a + x / 2 ^ i % 2) 0

/-- Sum, difference and product, coefficient by coefficient. -/
def addPoly (q : Nat) (a b : Poly) : Poly := List.zipWith (fun x y => (x + y) % q) a b
def subPoly (q : Nat) (a b : Poly) : Poly := List.zipWith (fun x y => (x + q - y % q) % q) a b
def mulPoints (q : Nat) (a b : Poly) : Poly := List.zipWith (fun x y => x * y % q) a b

def scalePoly (q c : Nat) (a : Poly) : Poly := a.map (fun x => c * x % q)

/-- The value of a polynomial at a point. -/
def valueAt (q : Nat) (f : Poly) (x : Nat) : Nat := f.foldr (fun a v => (a + x * v) % q) 0

/-- The values of a polynomial at each of some points. -/
def valuesAt (q : Nat) (points : List Nat) (f : Poly) : Poly := points.map (valueAt q f)

/-- The polynomial of n coefficients that has given values at the n points whose inverses are given; `inv` is the inverse of n. -/
def fromValues (q inv : Nat) (inverses : List Nat) : Nat → Poly → Poly
  | 0, _ => []
  | n + 1, v => inv * (v.foldl (· + ·) 0) % q :: fromValues q inv inverses n (mulPoints q v inverses)

/-- The sum of a list of polynomials of n coefficients. -/
def sumPoly (q n : Nat) (ps : List Poly) : Poly := ps.foldl (addPoly q) (List.replicate n 0)

/-- Fields of w bits as bytes, the first in the lowest bits. -/
def packFields (w : Nat) (xs : List Nat) : List Byte :=
  bytesOf (w * xs.length / 8) (xs.foldr (fun x v => x % 2 ^ w + v * 2 ^ w) 0)

/-- The first n fields of w bits of some bytes. -/
def fieldsOf (w n : Nat) (bs : List Byte) : List Nat :=
  let x := natOfBytes bs
  (List.range n).map (fun i => x / 2 ^ (w * i) % 2 ^ w)

/-- Groups of three bytes. -/
def threes : List Byte → List (Nat × Nat × Nat)
  | a :: b :: c :: r => (a.toNat, b.toNat, c.toNat) :: threes r
  | _ => []

/-- The i-th of some pieces of n bytes. -/
def pieceOf (n i : Nat) (bs : List Byte) : List Byte := (bs.drop (n * i)).take n

end Sys2Proof.Machine
end

