-- ==== Sys2Proof/Machine/Dsa.lean ====
section
/-! DEFINITION. ML-DSA-44, which the spec names for firmware images, the identity of a device and its reports (R291 to R293); the functions
are those of FIPS 204, the message signed as it stands with an empty context string. Log 115, PRESUMED. -/

namespace Sys2Proof.Machine

/-- The modulus. -/
def dsaQ : Nat := 8380417

/-- The roots 1753^(2 BitRev8(i) + 1) and their inverses; 1753 has order 512. -/
def dsaRoots : List Nat := (List.range 256).map (fun i => 1753 ^ (2 * revBits 8 i + 1) % dsaQ)
def dsaInverses : List Nat := (List.range 256).map (fun i => 1753 ^ (511 - 2 * revBits 8 i) % dsaQ)

/-- NTT: the values at the roots. Its inverse; 8347681 is the inverse of 256. -/
def dsaNtt (f : Poly) : Poly := valuesAt dsaQ dsaRoots f
def dsaBack (v : Poly) : Poly := fromValues dsaQ 8347681 dsaInverses 256 v

/-- The number below the modulus that stands for an integer, and the integer of least size for a number modulo m. -/
def dsaMod (x : Int) : Nat := (x % (dsaQ : Int)).toNat
def centred (m x : Nat) : Int := if 2 * (x % m) ≤ m then x % m else (x % m : Nat) - (m : Int)

/-- The largest size of a coefficient. -/
def polySize (f : Poly) : Nat := f.foldl (fun a x => max a (centred dsaQ x).natAbs) 0

/-- RejNTTPoly: the first 256 numbers below the modulus among the 23-bit numbers of the stream, of which 24 blocks are drawn. -/
def dsaSample (seed : List Byte) : Poly :=
  (((threes (shake128 4032 seed)).map (fun p => p.1 + 256 * p.2.1 + 65536 * (p.2.2 % 128))).filter (· < dsaQ)).take 256

/-- RejBoundedPoly: 256 coefficients from -2 to 2, from half-bytes below 15 of the stream, of which 16 blocks are drawn. -/
def dsaSmall (seed : List Byte) : Poly :=
  (((fieldsOf 4 4352 (shake256 2176 seed)).filter (· < 15)).take 256).map (fun b => dsaMod (2 - (b % 5 : Nat)))

/-- The matrix of a public seed, row by row, and its product with a vector; both stand in NTT form. -/
def dsaMatrix (rho : List Byte) : List (List Poly) :=
  (List.range 4).map (fun r => (List.range 4).map (fun c => dsaSample (rho ++ bytesOf 1 c ++ bytesOf 1 r)))

def dsaApply (m : List (List Poly)) (v : List Poly) : List Poly :=
  m.map (fun row => sumPoly dsaQ 256 (List.zipWith (mulPoints dsaQ) row v))

/-- Power2Round: the high part of a coefficient; the low part has 13 bits. -/
def dsaTop (x : Nat) : Nat := ((x : Int) - centred 8192 x).toNat / 8192

/-- Decompose: high and low part for steps of 2 × 95,232. -/
def dsaSplit (x : Nat) : Nat × Int :=
  let lo := centred 190464 x
  if (x : Int) - lo = dsaQ - 1 then (0, lo - 1) else (((x : Int) - lo).toNat / 190464, lo)

def dsaHigh (x : Nat) : Nat := (dsaSplit x).1
def dsaLow (x : Nat) : Int := (dsaSplit x).2

/-- UseHint: the high part that a hint corrects. -/
def dsaUseHint (h : Bool) (x : Nat) : Nat :=
  if h then (dsaHigh x + (if 0 < dsaLow x then 1 else 43)) % 44 else dsaHigh x

/-- A private key: the public seed, the two secret vectors, the seed of signatures, and the vector that the public key rounds. -/
structure DsaKey where
  rho : List Byte
  s1 : List Poly
  s2 : List Poly
  seed : List Byte
  t : List Poly
  deriving DecidableEq, Repr

/-- ML-DSA.KeyGen from a seed. -/
def dsaPair (xi : List Byte) : DsaKey :=
  let h := shake256 128 (xi ++ bytesOf 1 4 ++ bytesOf 1 4)
  let rho := h.take 32
  let small := fun n => dsaSmall ((h.drop 32).take 64 ++ bytesOf 2 n)
  let s1 := (List.range 4).map small
  let s2 := (List.range 4).map (fun i => small (4 + i))
  let t := List.zipWith (addPoly dsaQ) ((dsaApply (dsaMatrix rho) (s1.map dsaNtt)).map dsaBack) s2
  { rho := rho, s1 := s1, s2 := s2, seed := h.drop 96, t := t }

/-- The public key of 1,312 bytes. -/
def DsaKey.pub (k : DsaKey) : List Byte := k.rho ++ k.t.flatMap (fun p => packFields 10 (p.map dsaTop))

/-- The hash that stands for a message under a public key, with an empty context string. -/
def dsaMu (pk msg : List Byte) : List Byte := shake256 64 (shake256 64 pk ++ bytesOf 2 0 ++ msg)

/-- One exchange of SampleInBall: entry j moves to place i, and a sign goes to j. -/
def ballPut (c : Poly) (i j : Nat) (neg : Bool) : Poly := (c.set i (c.getD j 0)).set j (if neg then dsaQ - 1 else 1)

/-- The exchanges for the places from i on, with the signs and the bytes left of the stream; a byte above the place is passed over. -/
def ballFill (signs : Nat) : List Byte → Nat → Poly → Poly
  | [], _, c => c
  | b :: r, i, c =>
    if 256 ≤ i then c
    else if b.toNat ≤ i then ballFill signs r (i + 1) (ballPut c i b.toNat (signs / 2 ^ (i - 217) % 2 = 1))
    else ballFill signs r i c

/-- SampleInBall: 39 coefficients of size 1; 8 blocks of the stream are drawn. -/
def dsaBall (ct : List Byte) : Poly :=
  let s := shake256 1088 ct
  ballFill (natOfBytes (s.take 8)) (s.drop 8) 217 (List.replicate 256 0)

/-- The challenge hash of a message and of the high parts of a vector. -/
def dsaChallenge (mu : List Byte) (w1 : List Poly) : List Byte := shake256 32 (mu ++ w1.flatMap (packFields 6))

/-- HintBitPack: the places of the ones, row by row, zeros up to 80 bytes, and where each row ends. -/
def hintBytes (h : List (List Bool)) : List Byte :=
  let rows := h.map (fun r => (List.range 256).filter (fun j => r.getD j false))
  let places := rows.flatten
  let ends := (List.range 4).map (fun i => ((rows.take (i + 1)).flatten).length)
  (places ++ List.replicate (80 - places.length) 0).map (BitVec.ofNat 8) ++ ends.map (BitVec.ofNat 8)

/-- Whether numbers rise. -/
def rises : List Nat → Bool
  | a :: b :: r => decide (a < b) && rises (b :: r)
  | _ => true

/-- HintBitUnpack: the hints, where the bytes are in the one form that they may have. -/
def hintsOf (bs : List Byte) : Option (List (List Bool)) :=
  let y := bs.map BitVec.toNat
  let ends := (y.drop 80).take 4
  let row := fun i => (y.take (ends.getD i 0)).drop (if i = 0 then 0 else ends.getD (i - 1) 0)
  let ok := (List.range 4).all (fun i =>
    decide (ends.getD i 0 ≤ 80) && (i == 0 || decide (ends.getD (i - 1) 0 ≤ ends.getD i 0)) && rises (row i))
  if ok && ((y.take 80).drop (ends.getD 3 0)).all (· == 0) then
    some ((List.range 4).map (fun i => (List.range 256).map (fun j => (row i).contains j)))
  else none

/-- Coefficients about 2^17 as fields of 18 bits, and back. -/
def maskFields (f : Poly) : List Byte := packFields 18 (f.map (fun x => (131072 - centred dsaQ x).toNat))
def maskOf (bs : List Byte) : Poly := (fieldsOf 18 256 bs).map (fun x => dsaMod (131072 - (x : Int)))

/-- One attempt at a signature, with its counter: no answer where a bound is passed. -/
def dsaAttempt (k : DsaKey) (m : List (List Poly)) (mu rho' : List Byte) (n : Nat) : Option (List Byte) :=
  let y := (List.range 4).map (fun r => maskOf (shake256 576 (rho' ++ bytesOf 2 (n + r))))
  let w := (dsaApply m (y.map dsaNtt)).map dsaBack
  let ct := dsaChallenge mu (w.map (fun p => p.map dsaHigh))
  let c := dsaNtt (dsaBall ct)
  let times := fun (p : Poly) => dsaBack (mulPoints dsaQ c (dsaNtt p))
  let z := List.zipWith (addPoly dsaQ) y (k.s1.map times)
  let r := List.zipWith (subPoly dsaQ) w (k.s2.map times)
  let ct0 := k.t.map (fun p => times (p.map (fun x => dsaMod (centred 8192 x))))
  let h := List.zipWith (fun a b => List.zipWith (fun x y => dsaHigh x != dsaHigh y) a b) (List.zipWith (addPoly dsaQ) r ct0) r
  if z.any (fun p => decide (130994 ≤ polySize p)) || r.any (fun p => p.any (fun x => decide (95154 ≤ (dsaLow x).natAbs))) then none
  else if ct0.any (fun p => decide (95232 ≤ polySize p)) || decide (80 < (h.flatten.filter id).length) then none
  else some (ct ++ z.flatMap maskFields ++ hintBytes h)

/-- The first attempt that succeeds, among as many as the fuel allows. -/
def dsaAttempts (k : DsaKey) (m : List (List Poly)) (mu rho' : List Byte) : Nat → Nat → List Byte
  | 0, _ => List.replicate 2420 0
  | f + 1, n =>
    match dsaAttempt k m mu rho' n with
    | some sig => sig
    | none => dsaAttempts k m mu rho' f (n + 4)

/-- ML-DSA.Sign: the signature of 2,420 bytes by the key of a seed, with 32 random bytes. -/
def mldsaSignature (xi rnd msg : List Byte) : List Byte :=
  let k := dsaPair xi
  let mu := dsaMu k.pub msg
  dsaAttempts k (dsaMatrix k.rho) mu (shake256 64 (k.seed ++ rnd ++ mu)) 814 0

/-- The public key of a seed (R291). -/
def mldsaPublic (xi : List Byte) : List Byte := (dsaPair xi).pub

/-- ML-DSA.Verify. -/
def mldsaVerify (pk msg sig : List Byte) : Bool :=
  let ct := sig.take 32
  let z := (List.range 4).map (fun i => maskOf (pieceOf 576 i (sig.drop 32)))
  let t1 := (List.range 4).map (fun i => fieldsOf 10 256 (pieceOf 320 i (pk.drop 32)))
  let c := dsaNtt (dsaBall ct)
  match hintsOf (sig.drop 2336) with
  | none => false
  | some h =>
    let az := dsaApply (dsaMatrix (pk.take 32)) (z.map dsaNtt)
    let w := List.zipWith (fun a t => dsaBack (subPoly dsaQ a (mulPoints dsaQ c (dsaNtt (scalePoly dsaQ 8192 t))))) az t1
    let w1 := List.zipWith (fun hs p => List.zipWith dsaUseHint hs p) h w
    pk.length = 1312 && sig.length = 2420 && z.all (fun p => decide (polySize p < 130994))
      && decide (dsaChallenge (dsaMu pk msg) w1 = ct)

end Sys2Proof.Machine
end

