-- ==== Sys2Proof/Machine/Kem.lean ====
section
/-! DEFINITION. ML-KEM-768, which the spec names for the provisioning of keys (R291, R294); the functions are those of FIPS 203. Log 115,
PRESUMED. -/

namespace Sys2Proof.Machine

/-- The modulus. -/
def kemQ : Nat := 3329

/-- The roots 17^(2 BitRev7(i) + 1) and their inverses; 17 has order 256. -/
def kemRoots : List Nat := (List.range 128).map (fun i => 17 ^ (2 * revBits 7 i + 1) % kemQ)
def kemInverses : List Nat := (List.range 128).map (fun i => 17 ^ (255 - 2 * revBits 7 i) % kemQ)

/-- The coefficients at even and at odd places. -/
def evens : List Nat → List Nat
  | a :: _ :: r => a :: evens r
  | r => r

def odds : List Nat → List Nat
  | _ :: b :: r => b :: odds r
  | _ => []

/-- Two lists, entry by entry. -/
def weave : List Nat → List Nat → List Nat
  | a :: r, b :: t => a :: b :: weave r t
  | _, _ => []

/-- NTT: the remainders a + b X modulo X^2 less each root, a before b. -/
def kemNtt (f : Poly) : Poly := weave (valuesAt kemQ kemRoots (evens f)) (valuesAt kemQ kemRoots (odds f))

/-- The inverse of NTT; 3303 is the inverse of 128. -/
def kemBack (v : Poly) : Poly :=
  weave (fromValues kemQ 3303 kemInverses 128 (evens v)) (fromValues kemQ 3303 kemInverses 128 (odds v))

/-- MultiplyNTTs: the product of two such lists of remainders. -/
def kemMul (f g : Poly) : Poly :=
  let a := evens f
  let b := odds f
  let c := evens g
  let d := odds g
  weave (addPoly kemQ (mulPoints kemQ a c) (mulPoints kemQ kemRoots (mulPoints kemQ b d)))
    (addPoly kemQ (mulPoints kemQ a d) (mulPoints kemQ b c))

/-- SampleNTT: the first 256 numbers below the modulus among the 12-bit halves of the stream, of which 24 blocks are drawn. -/
def kemSample (seed : List Byte) : Poly :=
  (((threes (shake128 4032 seed)).flatMap (fun p => [p.1 + 256 * (p.2.1 % 16), p.2.1 / 16 + 16 * p.2.2])).filter (· < kemQ)).take 256

/-- SamplePolyCBD of PRF: 2 bits less 2 bits for each coefficient; both parameters are 2. -/
def kemNoise (seed : List Byte) (n : Nat) : Poly :=
  (fieldsOf 4 256 (shake256 128 (seed ++ bytesOf 1 n))).map (fun x => (x % 2 + x / 2 % 2 + kemQ - x / 4 % 2 - x / 8 % 2) % kemQ)

/-- Compress and Decompress to d bits; halves round up. -/
def kemCompress (d : Nat) (f : Poly) : Poly := f.map (fun x => (2 ^ (d + 1) * x + kemQ) / (2 * kemQ) % 2 ^ d)
def kemExpand (d : Nat) (f : Poly) : Poly := f.map (fun y => (2 * kemQ * y + 2 ^ d) / 2 ^ (d + 1))

/-- Entry i, j of the matrix of a public seed. -/
def kemEntry (rho : List Byte) (i j : Nat) : Poly := kemSample (rho ++ bytesOf 1 j ++ bytesOf 1 i)

/-- K-PKE.KeyGen: the encryption key of 1,184 bytes and the secret vector. -/
def kemPair (d : List Byte) : List Byte × List Poly :=
  let g := sha3w (d ++ bytesOf 1 3)
  let rho := g.take 32
  let sigma := g.drop 32
  let secret := (List.range 3).map (fun i => kemNtt (kemNoise sigma i))
  let t := (List.range 3).map (fun i =>
    addPoly kemQ (sumPoly kemQ 256 ((List.range 3).map (fun j => kemMul (kemEntry rho i j) (secret.getD j []))))
      (kemNtt (kemNoise sigma (3 + i))))
  (t.flatMap (packFields 12) ++ rho, secret)

/-- K-PKE.Encrypt of 32 bytes with 32 bytes of randomness: 1,088 bytes. -/
def kemEncrypt (ek m r : List Byte) : List Byte :=
  let t := (List.range 3).map (fun i => fieldsOf 12 256 (pieceOf 384 i ek))
  let rho := ek.drop 1152
  let y := (List.range 3).map (fun i => kemNtt (kemNoise r i))
  let u := (List.range 3).map (fun i =>
    addPoly kemQ (kemBack (sumPoly kemQ 256 ((List.range 3).map (fun j => kemMul (kemEntry rho j i) (y.getD j []))))) (kemNoise r (3 + i)))
  let v := addPoly kemQ (addPoly kemQ (kemBack (sumPoly kemQ 256 (List.zipWith kemMul t y))) (kemNoise r 6))
    (kemExpand 1 (fieldsOf 1 256 m))
  u.flatMap (fun p => packFields 10 (kemCompress 10 p)) ++ packFields 4 (kemCompress 4 v)

/-- K-PKE.Decrypt. -/
def kemDecrypt (secret : List Poly) (c : List Byte) : List Byte :=
  let u := (List.range 3).map (fun i => kemNtt (kemExpand 10 (fieldsOf 10 256 (pieceOf 320 i c))))
  let v := kemExpand 4 (fieldsOf 4 256 (c.drop 960))
  packFields 1 (kemCompress 1 (subPoly kemQ v (kemBack (sumPoly kemQ 256 (List.zipWith kemMul secret u)))))

/-- The public key of the seed d (R291). -/
def mlkemPublic (d : List Byte) : List Byte := (kemPair d).1

/-- Encapsulation of 32 random bytes: the shared secret and the ciphertext (R294). -/
def mlkemEncaps (ek m : List Byte) : List Byte × List Byte :=
  let g := sha3w (m ++ sha3Bytes ek)
  (g.take 32, kemEncrypt ek m (g.drop 32))

/-- Decapsulation by the key of the seeds d and z: the shared secret, or the secret of z where the ciphertext is not what its own message
encrypts to (R294). -/
def mlkemShared (d z c : List Byte) : List Byte :=
  let pair := kemPair d
  let m := kemDecrypt pair.2 c
  let e := mlkemEncaps pair.1 m
  if e.2 = c then e.1 else shake256 32 (z ++ c)

end Sys2Proof.Machine
end

