-- ==== Sys2Proof/Machine/Mailbox.lean ====
section
/-! DEFINITION. The lodge mailbox: how a command is answered, and every command (R177, R240, R256, R264, R266, R268, R270 to R281, R285,
R289 to R296). -/

namespace Sys2Proof.Machine

/-! ## Blocks and answers -/

/-- The eight words of a block. -/
def blockWords (b : MailBlock) : List DWord := [b.w0, b.w1, b.w2, b.w3, b.w4, b.w5, b.w6, b.w7]

/-- A command block taken apart: word 0 of R271, and words 1 to 7 as numbers (R289). -/
structure Cmd where
  agent : Nat
  op : Nat
  ctx : Nat
  index : Nat
  rsv : Bool
  args : List Nat
  deriving DecidableEq, Repr

def cmdOf (agent : Nat) (b : MailBlock) : Cmd :=
  let w := b.w0.toNat
  { agent := agent, op := bitsOf w 0 8, ctx := bitsOf w 8 9, index := bitsOf w 17 4, rsv := bitsOf w 21 43 != 0,
    args := [b.w1, b.w2, b.w3, b.w4, b.w5, b.w6, b.w7].map BitVec.toNat }

/-- Operand word i of a command, from 1 on. -/
def Cmd.arg (c : Cmd) (i : Nat) : Nat := c.args.getD (i - 1) 0

/-- What a command comes to: a status other than done, or the state it leaves and the value that READ returns. -/
abbrev Answer := Except Nat (State × Nat)

/-- A mailbox command executed and answered (R271, R290); one that is not done changes nothing. A block that arrives while another
command runs is answered with status 8 through BUSY8 alone, and one whose OP is in no table with status 4. Firmware that is not ready
answers nothing (R268). Log 63, DEDUCED. -/
def State.command (s : State) (op : Nat) (agent : Nat) (b : MailBlock) (run : Cmd → State → Answer) : State :=
  let c := cmdOf agent b
  if !s.up || (c.op ≠ op && listedOp c.op) then s
  else if s.lodge.busy && !(s.lodge.agent = agent && s.lodge.cmd = blockWords b) then { s with lodge := { s.lodge with busy8 := true } }
  else
    let s0 : State := { s with lodge := { s.lodge with cmd := blockWords b, agent := agent } }
    if c.op ≠ op then s0.respond c.op 4 0
    else match run c s0 with
      | .ok (t, v) => t.respond op 0 v
      | .error e => s0.respond op e 0

/-- A lodge command with n operand words: a reserved bit of word 0 or an unnamed word that is not zero is an illegal field (R289). Log 63, DEDUCED. -/
def State.lodgeCmd (s : State) (op n agent : Nat) (b : MailBlock) (run : Cmd → State → Answer) : State :=
  s.command op agent b (fun c s => if c.rsv || (c.args.drop n).any (· != 0) then .error 4 else run c s)

def okay (s : State) : Answer := .ok (s, 0)

/-! ## The fields of a debug command (R271) -/

def Cmd.wgid (c : Cmd) : Nat := bitsOf (c.arg 1) 0 32
def Cmd.gid (c : Cmd) : Nat := bitsOf (c.arg 1) 32 32
def Cmd.tid (c : Cmd) : Nat := bitsOf (c.arg 2) 0 32
def Cmd.tgt (c : Cmd) : Nat := bitsOf (c.arg 2) 32 8
def Cmd.reg (c : Cmd) : Nat := bitsOf (c.arg 2) 40 8
def Cmd.size (c : Cmd) : Nat := bitsOf (c.arg 2) 48 8
def Cmd.addr (c : Cmd) : Nat := c.arg 3
def Cmd.value (c : Cmd) : Nat := c.arg 4

/-- A debug command: only the holder of the context's right issues one, and reserved fields are zero (R270, R271). Log 63, DEDUCED. Log 64, DEDUCED. -/
def State.debugCmd (s : State) (op agent : Nat) (b : MailBlock) (run : Cmd → State → Answer) : State :=
  s.command op agent b (fun c s =>
    if (s.ctx c.ctx).dbg.holder ≠ some agent then .error 1
    else if c.rsv || bitsOf (c.arg 2) 56 8 ≠ 0 || 6 ≤ c.tgt || (c.args.drop 4).any (· != 0) then .error 4
    else run c s)

/-- A context's groups that a command names (R271). -/
def State.targets (s : State) (c : Cmd) : List (WG × Group) :=
  (s.wgs.filter (fun w => w.wgid == c.wgid && ((s.launch? w.lid).map (fun l => l.ctx == c.ctx)).getD false)).flatMap (fun w =>
    (w.groups.filter (fun g => c.gid = 0xFFFFFFFF || g.gid = c.gid)).map (fun g => (w, g)))

/-- The events of groups that a command parks (R276, R281). Log 65, DEDUCED. -/
def stopEvents (all : Bool) (ps : List (WG × Group)) : List DbgEv :=
  ps.flatMap (fun p => (lanesOf p.1 p.2 (liveLanes p.1 p.2)).map (fun ln =>
    { kind := 5, index := 0, defer := ln.t.hold != 0, all := all, tid := ln.tid, wgid := p.1.wgid, gid := p.2.gid,
      lane := ln.lane, ncore := p.1.core % 256, pc := ln.t.pc, fva := 0, lid := p.1.lid }))

/-! ## Parking and running -/

/-- PARK: each group that neither stands parked nor is about to gets a stop (R55, R276). Log 65, DEDUCED. -/
def execPark (agent : Nat) (b : MailBlock) (s : State) : Host.Outcome State Fault Refusal :=
  .next (s.debugCmd 1 agent b (fun c s =>
    let ts := s.targets c
    if ts.isEmpty then .error 2
    else
      okay ((ts.filter (fun p => !p.2.parked && p.2.stops.isNone)).foldl (fun (s : State) p =>
        s.stopGroup p.1.wid p.2.gid false (stopEvents false [p])) s)))

/-- A parked group runs again, for one word where it steps (R277). -/
def State.unpark (s : State) (step : Bool) (p : WG × Group) : State :=
  s.modWG p.1.wid (fun w => w.modGroup p.2.gid (fun g => { g with parked := false, stops := none, stepping := step }))

/-- RESUME (R277): the tests that rested while the groups were parked are owed (R39, R40, R226). -/
def execResume (agent : Nat) (b : MailBlock) (s : State) : Host.Outcome State Fault Refusal :=
  .next (s.debugCmd 2 agent b (fun c s =>
    let ts := s.targets c
    let parked := ts.filter (fun p => p.2.parked)
    if ts.isEmpty then .error 2 else if parked.isEmpty then .error 3
    else okay (parked.foldl (fun (s : State) p => s.oweUnpark p.1) (parked.foldl (fun (s : State) p => s.unpark false p) s))))

/-- STEP: one group runs for one opportunity of its primary path (R277). -/
def execStep (agent : Nat) (b : MailBlock) (s : State) : Host.Outcome State Fault Refusal :=
  .next (s.debugCmd 3 agent b (fun c s =>
    if c.gid = 0xFFFFFFFF then .error 4
    else match s.targets c with
      | [] => .error 2
      | p :: _ => if p.1.isParked p.2 then okay (s.unpark true p) else .error 3))

/-- The launches of a context that hold a resident workgroup of a %wgid (R271). -/
def State.launchesAt (s : State) (ctx wgid : Nat) : List Nat :=
  unionSet ((s.wgs.filter (fun w => w.wgid == wgid && ((s.launch? w.lid).map (fun l => l.ctx == ctx)).getD false)).map (fun w => w.lid)) []

/-- An all-stop of a launch (R276): every group that neither stands parked nor is about to gets a stop, and dispatch places no workgroup of it. -/
def State.stopLaunch (s : State) (lid : Nat) : State :=
  let gs := (s.wgs.filter (fun w => w.lid == lid)).flatMap (fun w =>
    (w.groups.filter (fun g => !g.parked && g.stops.isNone)).map (fun g => (w, g)))
  (gs.foldl (fun (s : State) p => s.stopGroup p.1.wid p.2.gid false (stopEvents true [p])) s).modLaunch lid
    (fun l => { l with allStop := true })

/-- STOPALL: all-stop of the context's launches that hold the workgroup, also one whose threads all stand in the pool (R271, R276). Log 65,
DEDUCED. -/
def execStopall (agent : Nat) (b : MailBlock) (s : State) : Host.Outcome State Fault Refusal :=
  .next (s.debugCmd 4 agent b (fun c s =>
    let lids := s.launchesAt c.ctx c.wgid
    if lids.isEmpty then .error 2 else okay (lids.foldl State.stopLaunch s)))

/-- RESUMEALL (R271). -/
def execResumeall (agent : Nat) (b : MailBlock) (s : State) : Host.Outcome State Fault Refusal :=
  .next (s.debugCmd 5 agent b (fun c s => okay (s.unparkAll c.ctx)))

/-! ## Reading and editing -/

/-- Whether the register or the bytes that a command names exist; an EDIT does not reach the berm, a READ does (R271, R278). Log 64,
DEDUCED. -/
def State.fieldOk (s : State) (c : Cmd) (w : WG) : Bool :=
  let n := s.windowOf w
  match c.tgt with
  | 0 => c.reg < ((s.hdrOf w).map (fun h => h.regs)).getD 0
  | 1 => c.reg < 64
  | 2 => c.reg < 7
  | 3 => c.reg < 12
  | 4 => 1 ≤ c.size && c.size ≤ 8 && c.addr + c.size ≤ (if c.op = 7 then bermOf n else n)
  | _ => 1 ≤ c.size && c.size ≤ 8

/-- The group that a READ or an EDIT names, with the thread of a v or p target (R271): the first workgroup of the context with that
%wgid. Log 64, DEDUCED. -/
def State.target (s : State) (c : Cmd) : Except Nat (WG × Group) :=
  if c.gid = 0xFFFFFFFF then .error 4
  else match s.targets c with
    | [] => .error 2
    | p :: _ =>
      if !s.fieldOk c p.1 then .error 4
      else if (c.tgt = 0 || c.tgt = 2) && !(groupTids p.1 p.2).contains c.tid then .error 2
      else .ok p

/-- Whether an overlay entry stands for the register that a command names. -/
def Edit.names (e : Edit) (c : Cmd) : Bool :=
  e.tgt = c.tgt && e.wgid = c.wgid && e.gid = c.gid && e.reg = c.reg && (c.tgt = 1 || c.tgt = 3 || e.tid = c.tid)

/-- The byte that the overlay shows at an address of a space, if it edits it (R279). Log 66, DEDUCED. -/
def overlayByte (es : List Edit) (c : Cmd) (a : Nat) : Option Nat :=
  es.foldl (fun r e =>
    if e.tgt = c.tgt && (c.tgt = 5 || e.wgid = c.wgid) && e.addr ≤ a && a < e.addr + e.size then some (bitsOf e.value.toNat (8 * (a - e.addr)) 8)
    else r) none

/-- Width in bits of a register target. -/
def tgtBits (tgt : Nat) : Nat := match tgt with | 2 => 1 | 3 => 64 | _ => 32

/-- A register target as it stands (R271). -/
def regTarget (c : Cmd) (w : WG) (g : Group) : Nat :=
  let t := w.threads[c.tid]?
  match c.tgt with
  | 0 => ((t.map (fun t => (t.v.get 0 c.reg).toNat)).getD 0)
  | 1 => (g.s.get 0 c.reg).toNat
  | 2 => bit1 ((t.map (fun t => t.p.getLsbD c.reg)).getD false)
  | _ => (g.k.get 0 c.reg).toNat

/-- READ: the target as the overlay shows it (R271, R278, R279); global bytes are those of M. Log 66, DEDUCED. -/
def execRead (agent : Nat) (b : MailBlock) (s : State) : Host.Outcome State Fault Refusal :=
  .next (s.debugCmd 6 agent b (fun c s =>
    let es := (s.ctx c.ctx).dbg.overlay
    match s.target c with
    | .error e => .error e
    | .ok (w, g) =>
      let bytes := fun (f : Nat → Byte) =>
        natOfBytes ((List.range c.size).map (fun i => match overlayByte es c (c.addr + i) with
          | some x => BitVec.ofNat 8 x
          | none => f i))
      if c.tgt ≤ 3 then
        match (es.filter (fun e => e.names c)).getLast? with
        | some e => .ok (s, bitsOf e.value.toNat 0 (if c.tgt = 3 then min 64 g.lanes.length else tgtBits c.tgt))
        | none => .ok (s, regTarget c w g)
      else if c.tgt = 4 then .ok (s, bytes (fun i => winByte w.win (c.addr + i)))
      else match s.access c.ctx c.addr c.size 1 true false false with
        | .error _ => .error 6
        | .ok ts =>
          let pas := placeBytes c.addr c.size ts
          if pas.any (fun p => (s.poisoned p.1 1).isSome) then .error 6
          else .ok (s, bytes (fun i => let p := pas.getD i (0, 0); s.mem.read p.2 p.1))))

/-- The overlay entry of a command. -/
def Cmd.edit (c : Cmd) : Edit := ⟨c.wgid, c.gid, c.tid, c.tgt, c.reg, c.size, c.addr, BitVec.ofNat 64 c.value⟩

/-- EDIT: an overlay entry, its target checked (R278). -/
def execEdit (agent : Nat) (b : MailBlock) (s : State) : Host.Outcome State Fault Refusal :=
  .next (s.debugCmd 7 agent b (fun c s =>
    match s.target c with
    | .error e => .error e
    | .ok (w, g) =>
      if c.tgt ≤ 3 && !w.isParked g then .error 3
      else if 4096 ≤ (s.ctx c.ctx).dbg.overlay.length then .error 5
      else if c.tgt = 5 && (match s.access c.ctx c.addr c.size 1 false true false with | .error _ => true | .ok _ => false) then .error 6
      else okay (s.modCtx c.ctx (fun x => { x with dbg := { x.dbg with overlay := x.dbg.overlay ++ [c.edit] } }))))

/-- The group that an overlay entry names. -/
def State.editGroup (s : State) (ctx : Nat) (e : Edit) : Option (WG × Group) :=
  ((s.wgs.filter (fun w => w.wgid == e.wgid && ((s.launch? w.lid).map (fun l => l.ctx == ctx)).getD false)).findSome? (fun w =>
    (w.group? e.gid).map (fun g => (w, g))))

/-- The lowest-%tid thread of a group that has not exited. -/
def firstThread (w : WG) (g : Group) : Option (Nat × Thread) :=
  (minOf (groupTids w g)).bind (fun t => (w.threads[t]?).map (fun x => (t, x)))

/-- Bits of a mask register below the group size. -/
def maskTo (n x : Nat) : BitVec 64 := BitVec.ofNat 64 (x % 2 ^ n)

/-- One overlay entry applied (R279). -/
def State.applyEdit (ctx : Nat) (s : State) (e : Edit) : State :=
  match s.editGroup ctx e with
  | none => s
  | some (w, g) =>
    let x := e.value.toNat
    let thread := fun (f : Thread → Thread) => s.modWG w.wid (fun w => w.modThread e.tid f)
    match e.tgt, firstThread w g with
    | 0, _ => thread (fun t => t.setV e.reg [BitVec.ofNat 32 x])
    | 1, _ => s.modWG w.wid (fun w => w.modGroup e.gid (fun g => { g with s := g.s.put 0 e.reg (BitVec.ofNat 32 x) }))
    | 2, _ => thread (fun t => { t with p := setPred t.p (e.reg, bitOf x 0) })
    | 3, _ => (s.modWG w.wid (fun w => w.modGroup e.gid (fun g => { g with k := g.k.put 0 e.reg (maskTo g.lanes.length x) }))).owe
        (.kwait w.wid e.gid)
    | 4, some (tid, t) => s.modWG w.wid (fun w =>
        { w.modThread tid Thread.count with
          win := w.win.putAll 0 e.addr (bytesOf e.size x)
          wrel := (List.range e.size).foldl (fun m i =>
            SMap.put [] m (e.addr + i) (Clock.join (m.get [] (e.addr + i)) t.fvc)) w.wrel })
    | _, some (tid, t) => match s.access ctx e.addr e.size 1 false true false with
      | .error _ => s
      | .ok ts =>
        let s1 := ts.foldl (fun s tr => s.setDgen ctx tr) s
        (s1.addStore w.core w.lid ctx (uidOf w.wid tid) [] t (placeBytes e.addr e.size ts) (bytesOf e.size x)).modWG w.wid
          (fun w => w.modThread tid Thread.count)
    | _, none => s

/-- The FENCE that follows the stores of a COMMIT orders them before every later word of the group (R279). -/
def State.fenceEdit (ctx : Nat) (s : State) (e : Edit) : State :=
  match s.editGroup ctx e with
  | none => s
  | some (w, g) => match firstThread w g with
    | none => s
    | some (tid, t) =>
      let f := t.fence (uidOf w.wid tid)
      s.modWG w.wid (fun v => v.modThreads (fun i u =>
        if i = tid then f else if (groupTids w g).contains i then { u with vc := Clock.join u.vc f.fvc } else u))

/-- COMMIT: the overlay applied whole, or a status and nothing (R279). Log 66, DEDUCED. -/
def execCommit (agent : Nat) (b : MailBlock) (s : State) : Host.Outcome State Fault Refusal :=
  .next (s.debugCmd 8 agent b (fun c s =>
    let es := (s.ctx c.ctx).dbg.overlay
    let parked := fun (e : Edit) => (s.editGroup c.ctx e).any (fun p => p.1.isParked p.2)
    let stores := es.filter (fun e => 4 ≤ e.tgt)
    if es.any (fun e => e.tgt ≤ 4 && !parked e) then .error 3
    else if es.any (fun e => ((s.editGroup c.ctx e).bind (fun p => firstThread p.1 p.2)).isNone) then .error 2
    else if es.any (fun e => e.tgt = 5 && (match s.access c.ctx e.addr e.size 1 false true false with | .error _ => true | .ok _ => false))
    then .error 6
    else
      let s1 := stores.foldl (State.fenceEdit c.ctx) (es.foldl (State.applyEdit c.ctx) s)
      okay (s1.modCtx c.ctx (fun x => { x with dbg := { x.dbg with overlay := [] } }))))

/-- DISCARD (R271). -/
def execDiscard (agent : Nat) (b : MailBlock) (s : State) : Host.Outcome State Fault Refusal :=
  .next (s.debugCmd 9 agent b (fun c s => okay (s.modCtx c.ctx (fun x => { x with dbg := { x.dbg with overlay := [] } }))))

/-- SETBP: breakpoint INDEX; a word that breaks the field map is rejected (R272). -/
def execSetbp (agent : Nat) (b : MailBlock) (s : State) : Host.Outcome State Fault Refusal :=
  .next (s.debugCmd 10 agent b (fun c s =>
    if 8 ≤ c.index then .error 4
    else if bitsOf c.addr 0 3 ≠ 0 || bitsOf c.addr 58 6 ≠ 0 then .error 7
    else okay (s.modCtx c.ctx (fun x => { x with dbg := { x.dbg with bps := x.dbg.bps.put 0 c.index (BitVec.ofNat 64 c.addr) } }))))

/-- Whether the two words of a watchpoint keep its field map (R272). -/
def watchOk (lo hi : Nat) : Bool :=
  let k := bitsOf hi 5 5
  k ≤ 16 && bitsOf lo 0 56 % 2 ^ k = 0 && bitsOf lo 56 8 = 0 && bitsOf hi 10 54 = 0 && (!bitOf hi 0 || bitOf hi 1 || bitOf hi 2)

/-- SETWP: watchpoint INDEX, ADDR its first word and VALUE its second (R272). -/
def execSetwp (agent : Nat) (b : MailBlock) (s : State) : Host.Outcome State Fault Refusal :=
  .next (s.debugCmd 11 agent b (fun c s =>
    if 4 ≤ c.index then .error 4
    else if !watchOk c.addr c.value then .error 7
    else okay (s.modCtx c.ctx (fun x =>
      { x with dbg := { x.dbg with wps := x.dbg.wps.put 0 c.index (BitVec.ofNat 128 (c.addr + 2 ^ 64 * c.value)) } }))))

/-! ## Contexts and rings -/

/-- CTXDEF: the context descriptor written (R240, R289); KSET is the place of the bitmap that the command names, and the key set is read
there; no slice keeps an entry of the context that had the number (R202). Log 67, DEDUCED. -/
def execCtxdef (agent : Nat) (b : MailBlock) (s : State) : Host.Outcome State Fault Refusal :=
  .next (s.lodgeCmd 32 5 agent b (fun c s =>
    if 2 ^ 32 ≤ c.arg 1 || c.arg 2 % 2 ^ 13 ≠ 0 || 16 ≤ c.arg 4 || 2 ^ 32 ≤ c.arg 5 then .error 4
    else if s.launches.any (fun l => l.ctx == c.ctx && l.slot.isSome) then .error 11
    else okay ((s.uncache (fun e => e.ctx == c.ctx)).modCtx c.ctx (fun x =>
      { x with
        defined := true, dead := false, root := c.arg 1, rtab := c.arg 2
        ksetAddr := c.arg 3 % 2 ^ 32
        kset := BitVec.ofNat 1024 (natOfBytes (s.mem.readN 0 (c.arg 3) 128))
        ckgen := 0, part := c.arg 4, tlim := c.arg 5 }))))

/-- Whether a ring can be named: 4 KiB alignment, an aligned index word, 2^4 to 2^16 records (R256, R264). -/
def ringOk (base index k : Nat) : Bool := base % 4096 = 0 && index % 8 = 0 && 4 ≤ k && k ≤ 16

/-- ERRRING: names a context's error ring, with a count of 0 (R256). A context that is not defined answers 4. Log 67, DEDUCED. -/
def execErrring (agent : Nat) (b : MailBlock) (s : State) : Host.Outcome State Fault Refusal :=
  .next (s.lodgeCmd 33 3 agent b (fun c s =>
    if !ringOk (c.arg 1) (c.arg 2) (c.arg 3) || !(s.ctx c.ctx).defined then .error 4
    else okay (s.modCtx c.ctx (fun x => { x with errRing := some ⟨c.arg 1, some (c.arg 2), c.arg 3, 0, []⟩ }))))

/-- RASRING: names the RAS ring by physical addresses, with a count of 0 (R264). -/
def execRasring (agent : Nat) (b : MailBlock) (s : State) : Host.Outcome State Fault Refusal :=
  .next (s.lodgeCmd 34 3 agent b (fun c s =>
    if !ringOk (c.arg 1) (c.arg 2) (c.arg 3) then .error 4
    else okay { s with rasRing := some ⟨c.arg 1, some (c.arg 2), c.arg 3, 0, []⟩ }))

/-- GRANT: the agent that issues it holds the context's debug right; breakpoints and watchpoints are zero (R270, R272). A context that is
not defined answers 4. Log 67, DEDUCED. -/
def execGrant (agent : Nat) (b : MailBlock) (s : State) : Host.Outcome State Fault Refusal :=
  .next (s.lodgeCmd 35 2 agent b (fun c s =>
    if !ringOk (c.arg 1) 0 (c.arg 2) || !(s.ctx c.ctx).defined then .error 4
    else match (s.ctx c.ctx).dbg.holder with
      | some h => if h = agent then okay (s.modCtx c.ctx (fun x =>
          { x with dbg := ⟨some agent, some ⟨c.arg 1, none, c.arg 2, 0, []⟩, [], [], []⟩ })) else .error 1
      | none => okay (s.modCtx c.ctx (fun x =>
          { x with dbg := ⟨some agent, some ⟨c.arg 1, none, c.arg 2, 0, []⟩, [], [], []⟩ }))))

/-- REVOKE (R280). -/
def execRevoke (agent : Nat) (b : MailBlock) (s : State) : Host.Outcome State Fault Refusal :=
  .next (s.lodgeCmd 36 0 agent b (fun c s => okay (s.endRight c.ctx 7)))

/-! ## Keys -/

/-- The ASCII bytes of the labels of R291. -/
def labelId : List Byte := [0x69, 0x64]
def labelKem : List Byte := [0x6B, 0x65, 0x6D]

/-- The fused device seed as bytes (R291). -/
def seedBytes : List Byte := bytesOf 32 Config.seed.toNat

/-- The key-generation seeds of the identity pair and of the KEM pair (R291). -/
def identitySeed : List Byte := sha3Bytes (seedBytes ++ labelId)
def kemSeeds : List Byte := sha3w (seedBytes ++ labelKem)

/-- The certificate for both public keys that lodge flash holds (R291). -/
def deviceCertificate : List Byte := Config.certificate (mldsaPublic identitySeed) (mlkemPublic (kemSeeds.take 32))

/-- The keys that a blob holds for a key ID, where its wrap is whole: decapsulation, the wrapping key, and the unwrap (R291, R294). -/
def unwrapKeys (k : Nat) (blob : List Byte) : Option (BitVec 512) :=
  let secret := mlkemShared (kemSeeds.take 32) (kemSeeds.drop 32) (blob.take 1088)
  let wrapping := sha3Bytes (secret ++ bytesOf 2 k)
  (keyUnwrap (numsOf wrapping) (numsOf (blob.drop 1088))).map (fun ks => BitVec.ofNat 512 (natOfBytes (bytesOfNums ks)))

/-- Whether a key ID has keys. -/
def State.hasKey (s : State) (k : Nat) : Bool := s.mem.slots.any (fun e => e.1 == k)

/-- KEYLOAD (R294); a blob outside the local tiers is read as unwritten bytes, whose wrap fails. Log 119, DESIGN CHOICE. -/
def execKeyload (agent : Nat) (b : MailBlock) (s : State) : Host.Outcome State Fault Refusal :=
  .next (s.lodgeCmd 37 2 agent b (fun c s =>
    let k := c.arg 1
    if k = 0 || 1024 ≤ k then .error 4
    else if s.hasKey k then .error 10
    else match unwrapKeys k (s.mem.readN 0 (c.arg 2) 1160) with
      | none => .error 9
      | some x => okay { s with mem := { s.mem with slots := s.mem.slots.ins k x } }))

/-- The keys of a key ID erased, its cached lines written back and invalidated; memory keeps what it holds, encrypted (R177, R295). Log 68,
DESIGN CHOICE. -/
def State.eraseKey (s : State) (k : Nat) : State :=
  let mine := fun (line : Nat) => s.mem.keys.get .none line = s.mem.keyOf k
  { s with
    mem := { s.mem with slots := s.mem.slots.filter (fun e => e.1 != k) }
    ways := (s.ways.map (fun e => (e.1, e.2.map (fun x => if x ≠ 0 && mine (x - 1) then 0 else x)))).filter (fun e => e.2.any (· != 0))
    tags := s.tags.filter (fun e => !mine e.1) }

/-- KEYCLEAR (R295). Log 68, DESIGN CHOICE. -/
def execKeyclear (agent : Nat) (b : MailBlock) (s : State) : Host.Outcome State Fault Refusal :=
  .next (s.lodgeCmd 38 1 agent b (fun c s =>
    if c.arg 1 = 0 || 1024 ≤ c.arg 1 then .error 4
    else if s.ctxs.any (fun e => e.2.kset.getLsbD (c.arg 1)) then .error 10
    else okay (s.eraseKey (c.arg 1))))

/-! ## Firmware and attestation -/

/-- The 64 bytes of a context descriptor (R240). Log 67, DEDUCED. -/
def Ctx.bytes (c : Ctx) : List Byte :=
  bytesOf 64 (packBits [(32, c.root), (64, c.rtab), (32, c.ksetAddr), (8, c.ckgen), (4, c.part), (32, c.tlim), (12, c.pinq), (328, 0)])

/-- The group binding table as bytes (R18). -/
def State.gbtBytes (s : State) : List Byte := (List.range 4096).flatMap (fun i => bytesOf 8 (s.gbe i).toNat)

/-- The fields of a report in the order of R293. Log 69, DESIGN CHOICE. -/
def State.report (s : State) (ctx : Nat) (nonce : List Byte) : List Byte :=
  nonce ++ sha3Bytes (mldsaPublic identitySeed)
    ++ bytesOf 32 s.fw.digA.toNat ++ bytesOf 32 s.fw.digB.toNat ++ bytesOf 4 s.fw.min.toNat
    ++ sha3Bytes (s.gbtBytes ++ (s.ctx ctx).bytes) ++ bytesOf 1 s.lodge.domain

/-- The signature of a report: by the identity key, over the report's digest, with the random bytes of a free choice
(R293). Log 56, DESIGN CHOICE. -/
def reportSignature (free : Nat) (r : List Byte) : List Byte :=
  mldsaSignature identitySeed (bytesOf 32 (Config.signatureRandom free).toNat) (sha3Bytes r)

/-- Whether physical memory of this device holds some bytes. -/
def placeOk (pa n : Nat) : Bool := isLocal pa && tierOk pa && (n = 0 || tierOk (pa + n - 1))

/-- ATTEST: the report and its signature at the report address (R293). Addresses outside the local tiers answer 4. Log 69, DESIGN CHOICE. -/
def execAttest (agent : Nat) (b : MailBlock) (s : State) : Host.Outcome State Fault Refusal :=
  .next (s.lodgeCmd 39 2 agent b (fun c s =>
    if !placeOk (c.arg 1) 32 || !placeOk (c.arg 2) 2585 then .error 4
    else
      let r := s.report c.ctx (s.mem.readN 0 (c.arg 1) 32)
      okay ((s.writeM 0 0 (cellsAt (c.arg 2) (r ++ reportSignature s.free r))).spend 1)))

/-- Whether the security engine accepts an image (R292). Log 70, DESIGN CHOICE. -/
def State.imageAccepted (s : State) (img : List Byte) : Bool :=
  let d := Config.fwDigest img
  decide (sha3d (Config.fwBody img) = d) && mldsaVerify Config.signingKey (bytesOf 32 d.toNat) (Config.fwSignature img) && decide (s.fw.min.toNat ≤ (Config.fwVersion img).toNat)

/-- A bank with a new image. Log 70, DESIGN CHOICE. -/
def Firmware.stage (f : Firmware) (bank : Bool) (img : List Byte) : Firmware :=
  if bank then { f with digB := Config.fwDigest img, verB := Config.fwVersion img, okB := true }
  else { f with digA := Config.fwDigest img, verA := Config.fwVersion img, okA := true }

/-- FWSTAGE: an image verified and written to the inactive bank (R292). An address outside the local tiers answers 4. Log 70, DESIGN
CHOICE. -/
def execFwstage (agent : Nat) (b : MailBlock) (s : State) : Host.Outcome State Fault Refusal :=
  .next (s.lodgeCmd 40 2 agent b (fun c s =>
    if !placeOk (c.arg 1) (c.arg 2) then .error 4
    else
      let img := s.mem.readN 0 (c.arg 1) (c.arg 2)
      if !s.imageAccepted img then .error 9
      else okay { s with fw := s.fw.stage (!s.lodge.bank) img }))

/-- FWSWITCH: the lodge restarts into the other bank, and the fused minimum rises to the version that runs (R268, R292). -/
def execFwswitch (agent : Nat) (b : MailBlock) (s : State) : Host.Outcome State Fault Refusal :=
  .next (s.lodgeCmd 41 0 agent b (fun _ s =>
    let old := s.lodge.bank
    if !s.fw.ok (!old) then .error 9
    else okay { s with
      lodge := { s.lodge with bank := !old, ready := false }
      fw := { s.fw with minVer := verMax s.fw.min (s.fw.version old), restart := some old } }))

/-! ## Units, the domain and power -/

/-- Unit kinds and target states by their numbers in a UNIT command. -/
def unitKindOf : Nat → Option (UnitKind × Nat)
  | 0 => some (.core, 272)
  | 1 => some (.slice, 128)
  | 2 => some (.polder, 4)
  | 3 => some (.farChannel, 64)
  | _ => none

def serviceOf : Nat → Option Service
  | 0 => some .inService
  | 1 => some .draining
  | 2 => some .outOfService
  | 3 => some .underTest
  | 4 => some .retired
  | _ => none

/-- The moves between service states that a command makes (R266); draining and testing end by themselves. Log 71, DEDUCED. -/
def moveOk (a b : Service) : Bool :=
  match a, b with
  | .inService, .draining | .outOfService, .underTest | .outOfService, .retired | .underTest, .outOfService => true
  | _, _ => false

/-- Whether a unit's partner lets it leave service: it must itself be in service, and for a polder of fewer than 16 such cores the three
others (R266). Log 71, DEDUCED. -/
def State.partnerOk (s : State) (k : UnitKind) (n : Nat) : Bool :=
  let serves := fun (m : Nat) => ((List.range 68).filter (fun c => s.service .core (68 * m + c) == .inService)).length
  match k with
  | .slice => s.service .slice (n ^^^ 1) == .inService
  | .polder => 16 ≤ serves n || (List.range 4).all (fun m => m = n || s.service .polder m == .inService)
  | _ => true

/-- What draining does to running work as it begins (R230, R266, R267). Log 71, DEDUCED. -/
def State.beginDrain (s : State) (k : UnitKind) (n : Nat) : State :=
  match k with
  | .slice =>
    let ms := s.monitors.filter (fun m => m.slice == n)
    let s1 := ms.foldl (fun (s : State) m => s.wakeLine m.line m.ctx) s
    { s1 with paused := insertSet n s1.paused }
  | .polder =>
    (s.slots.filter (fun e => bindV e.2.toNat && bindSt e.2.toNat = 1
      && (s.partCores (bindPart e.2.toNat)).any (fun c => c / 68 = n))).foldl (fun (s : State) e => s.setBind e.1 (putBits (s.bind e.1) 1 2 2)) s
  | _ => s

/-- UNIT: a unit moves to a target state (R266). Log 71, DEDUCED. -/
def execUnit (agent : Nat) (b : MailBlock) (s : State) : Host.Outcome State Fault Refusal :=
  .next (s.lodgeCmd 42 3 agent b (fun c s =>
    match unitKindOf (c.arg 1), serviceOf (c.arg 3) with
    | some (k, n), some v =>
      if n ≤ c.arg 2 || !moveOk (s.service k (c.arg 2)) v || (v = .draining && !s.partnerOk k (c.arg 2)) then .error 4
      else
        let s1 := if v = .draining then s.beginDrain k (c.arg 2) else s
        okay (s1.setService k (c.arg 2) v)
    | _, _ => .error 4))

/-- DOMAIN: a domain table entry; UP is not written, reserved bits are ignored (R285). -/
def execDomain (agent : Nat) (b : MailBlock) (s : State) : Host.Outcome State Fault Refusal :=
  .next (s.lodgeCmd 43 2 agent b (fun c s =>
    if 256 ≤ c.arg 1 then .error 4
    else
      let up := bitsOf (s.domain.get 0 (c.arg 1)).toNat 2 1
      okay { s with domain := s.domain.put 0 (c.arg 1) (BitVec.ofNat 64 (c.arg 2 % 4 + 4 * up)) }))

/-- ADMIT: an admission bit (R285). -/
def execAdmit (agent : Nat) (b : MailBlock) (s : State) : Host.Outcome State Fault Refusal :=
  .next (s.lodgeCmd 44 3 agent b (fun c s =>
    let e := (c.arg 1, c.arg 2)
    if 256 ≤ c.arg 1 || 1024 ≤ c.arg 2 || 2 ≤ c.arg 3 then .error 4
    else if c.arg 3 = 0 then okay { s with admitted := s.admitted.filter (fun x => x != e) }
    else if s.admitted.contains e then okay s
    else okay { s with admitted := s.admitted ++ [e] }))

def powerOf : Nat → Option Power
  | 0 => some .active
  | 1 => some .idle
  | 2 => some .off
  | _ => none

/-- Whether a partition may move to a power state (R296). -/
def State.powerOk (s : State) (p : Nat) (v : Power) : Bool :=
  match (s.part p).power, v with
  | .active, .idle => !s.launches.any (fun l => l.binds p)
  | .idle, .active | .off, .active => true
  | .idle, .off => !s.images.any (fun i => (s.launch? i.lid).any (fun l => l.part == p && l.phase == .stopped))
  | _, _ => false

/-- POWER: a partition changes its power state; on entry to off its panels are zeroed (R148, R296). A move
that the table does not list answers 4. Log 72, DESIGN CHOICE. -/
def execPower (agent : Nat) (b : MailBlock) (s : State) : Host.Outcome State Fault Refusal :=
  .next (s.lodgeCmd 45 2 agent b (fun c s =>
    match powerOf (c.arg 2) with
    | none => .error 4
    | some v =>
      if 16 ≤ c.arg 1 || !s.powerOk (c.arg 1) v then .error 4
      else
        let s1 := s.modPart (c.arg 1) (fun p => { p with power := v })
        if v = .off then
          okay { s1 with cores := s1.cores.map (fun k => if k.key / 256 = c.arg 1 then { k with zeroing := [] } else k) }
        else okay s1))

end Sys2Proof.Machine
end

