-- ==== Sys2Proof/Machine/Dispatch.lean ====
section
/-! DEFINITION. The one place where an instruction or a move meets its meaning. -/

namespace Sys2Proof.Machine

/-- One instruction word of the path that `cur` names, or one move of an agent. -/
def exec (i : Instr) (s : State) : Host.Outcome State Fault Refusal :=
  match i with
  | .groupBindingEntryWrite index entry => Sys2Proof.Machine.execGroupBindingEntryWrite index entry s
  | .partitionStart part => Sys2Proof.Machine.execPartitionStart part s
  | .turnSwitch pcore => Sys2Proof.Machine.execTurnSwitch pcore s
  | .issueOpportunity sel => Sys2Proof.Machine.execIssueOpportunity sel s
  | .ageingPromotion wid gid tid => Sys2Proof.Machine.execAgeingPromotion wid gid tid s
  | .groupStarvationSelect wid gid => Sys2Proof.Machine.execGroupStarvationSelect wid gid s
  | .kwaitRelease wid gid => Sys2Proof.Machine.execKwaitRelease wid gid s
  | .rejoinDeadlock wid gid => Sys2Proof.Machine.execRejoinDeadlock wid gid s
  | .groupFormationFullBin wid pc stage => Sys2Proof.Machine.execGroupFormationFullBin wid pc stage s
  | .groupFormationQuiescence wid => Sys2Proof.Machine.execGroupFormationQuiescence wid s
  | .workgroupResidency lid wgid base => Sys2Proof.Machine.execWorkgroupResidency lid wgid base s
  | .workgroupCompletion wid => Sys2Proof.Machine.execWorkgroupCompletion wid s
  | .workgroupPlacement part => Sys2Proof.Machine.execWorkgroupPlacement part s
  | .zeroingComplete core => Sys2Proof.Machine.execZeroingComplete core s
  | .serialiserStop lid => Sys2Proof.Machine.execSerialiserStop lid s
  | .serialiserPublishWrite lid => Sys2Proof.Machine.execSerialiserPublishWrite lid s
  | .imageRestore lid part => Sys2Proof.Machine.execImageRestore lid part s
  | .jobCheckpoint ctx => Sys2Proof.Machine.execJobCheckpoint ctx s
  | .queueDescriptorWrite q desc => Sys2Proof.Machine.execQueueDescriptorWrite q desc s
  | .queueDoorbell q wr => Sys2Proof.Machine.execQueueDoorbell q wr s
  | .launchPacket q => Sys2Proof.Machine.execLaunchPacket q s
  | .waitPacket q => Sys2Proof.Machine.execWaitPacket q s
  | .waitPacketRelease q => Sys2Proof.Machine.execWaitPacketRelease q s
  | .signalIntervalExpiry lid => Sys2Proof.Machine.execSignalIntervalExpiry lid s
  | .bindRun slot rec => Sys2Proof.Machine.execBindRun slot rec s
  | .bindStopRequest slot => Sys2Proof.Machine.execBindStopRequest slot s
  | .reorderStall lid => Sys2Proof.Machine.execReorderStall lid s
  | .timeLimit lid => Sys2Proof.Machine.execTimeLimit lid s
  | .lockedClockMode part on => Sys2Proof.Machine.execLockedClockMode part on s
  | .copySlotTake wid q => Sys2Proof.Machine.execCopySlotTake wid q s
  | .copySectorWrite wid q => Sys2Proof.Machine.execCopySectorWrite wid q s
  | .copyComplete wid q => Sys2Proof.Machine.execCopyComplete wid q s
  | .fenceEntryHead wid q => Sys2Proof.Machine.execFenceEntryHead wid q s
  | .barrierDeadlock wid => Sys2Proof.Machine.execBarrierDeadlock wid s
  | .xbarRelease lid x core => Sys2Proof.Machine.execXbarRelease lid x core s
  | .waitvWake wid tid => Sys2Proof.Machine.execWaitvWake wid tid s
  | .waitvPoll wid tid => Sys2Proof.Machine.execWaitvPoll wid tid s
  | .waitvTimeout wid tid => Sys2Proof.Machine.execWaitvTimeout wid tid s
  | .cbacqRetry wid gid => Sys2Proof.Machine.execCbacqRetry wid gid s
  | .matrixQueueEntry core => Sys2Proof.Machine.execMatrixQueueEntry core s
  | .lineRoutineRun slice => Sys2Proof.Machine.execLineRoutineRun slice s
  | .detRequestApply lid => Sys2Proof.Machine.execDetRequestApply lid s
  | .reply wid tid => Sys2Proof.Machine.execReply wid tid s
  | .loadReturn wid tid => Sys2Proof.Machine.execLoadReturn wid tid s
  | .pageFault ctx page => Sys2Proof.Machine.execPageFault ctx page s
  | .faultAnswerRetry ctx page => Sys2Proof.Machine.execFaultAnswerRetry ctx page s
  | .faultAnswerFail ctx page => Sys2Proof.Machine.execFaultAnswerFail ctx page s
  | .pteInvalidation ctx va len => Sys2Proof.Machine.execPteInvalidation ctx va len s
  | .companionStore ctx va bytes => Sys2Proof.Machine.execCompanionStore ctx va bytes s
  | .companionLoad ctx va n => Sys2Proof.Machine.execCompanionLoad ctx va n s
  | .peerAccess acc => Sys2Proof.Machine.execPeerAccess acc s
  | .peerTimeout d => Sys2Proof.Machine.execPeerTimeout d s
  | .fatalTrap lid => Sys2Proof.Machine.execFatalTrap lid s
  | .correctedError at_ => Sys2Proof.Machine.execCorrectedError at_ s
  | .uncorrectableError at_ hard => Sys2Proof.Machine.execUncorrectableError at_ hard s
  | .slicePauseEnd slice => Sys2Proof.Machine.execSlicePauseEnd slice s
  | .firmwareReadyTimeout => Sys2Proof.Machine.execFirmwareReadyTimeout s
  | .thermalHalt => Sys2Proof.Machine.execThermalHalt s
  | .thermalResume => Sys2Proof.Machine.execThermalResume s
  | .powerCapAdjust part steps => Sys2Proof.Machine.execPowerCapAdjust part steps s
  | .resetRelease straps => Sys2Proof.Machine.execResetRelease straps s
  | .traceSample part => Sys2Proof.Machine.execTraceSample part s
  | .park agent b => Sys2Proof.Machine.execPark agent b s
  | .resume agent b => Sys2Proof.Machine.execResume agent b s
  | .step agent b => Sys2Proof.Machine.execStep agent b s
  | .stopall agent b => Sys2Proof.Machine.execStopall agent b s
  | .resumeall agent b => Sys2Proof.Machine.execResumeall agent b s
  | .read agent b => Sys2Proof.Machine.execRead agent b s
  | .edit agent b => Sys2Proof.Machine.execEdit agent b s
  | .commit agent b => Sys2Proof.Machine.execCommit agent b s
  | .discard agent b => Sys2Proof.Machine.execDiscard agent b s
  | .setbp agent b => Sys2Proof.Machine.execSetbp agent b s
  | .setwp agent b => Sys2Proof.Machine.execSetwp agent b s
  | .ctxdef agent b => Sys2Proof.Machine.execCtxdef agent b s
  | .errring agent b => Sys2Proof.Machine.execErrring agent b s
  | .rasring agent b => Sys2Proof.Machine.execRasring agent b s
  | .grant agent b => Sys2Proof.Machine.execGrant agent b s
  | .revoke agent b => Sys2Proof.Machine.execRevoke agent b s
  | .keyload agent b => Sys2Proof.Machine.execKeyload agent b s
  | .keyclear agent b => Sys2Proof.Machine.execKeyclear agent b s
  | .attest agent b => Sys2Proof.Machine.execAttest agent b s
  | .fwstage agent b => Sys2Proof.Machine.execFwstage agent b s
  | .fwswitch agent b => Sys2Proof.Machine.execFwswitch agent b s
  | .unit agent b => Sys2Proof.Machine.execUnit agent b s
  | .domain agent b => Sys2Proof.Machine.execDomain agent b s
  | .admitPeer agent b => Sys2Proof.Machine.execAdmit agent b s
  | .power agent b => Sys2Proof.Machine.execPower agent b s
  | .registerWrite agent reg value => Sys2Proof.Machine.execRegisterWrite agent reg value s
  | .nop w => Sys2Proof.Machine.execNop w s
  | .pairedWord w => Sys2Proof.Machine.execPairedWord w s
  | .iadd w => Sys2Proof.Machine.execIadd w s
  | .iaddImm w => Sys2Proof.Machine.execIaddImm w s
  | .isub w => Sys2Proof.Machine.execIsub w s
  | .isubImm w => Sys2Proof.Machine.execIsubImm w s
  | .iaddc w => Sys2Proof.Machine.execIaddc w s
  | .isubb w => Sys2Proof.Machine.execIsubb w s
  | .imul w => Sys2Proof.Machine.execImul w s
  | .imulImm w => Sys2Proof.Machine.execImulImm w s
  | .imulhi w => Sys2Proof.Machine.execImulhi w s
  | .imulhiImm w => Sys2Proof.Machine.execImulhiImm w s
  | .imad w => Sys2Proof.Machine.execImad w s
  | .imin w => Sys2Proof.Machine.execImin w s
  | .iminImm w => Sys2Proof.Machine.execIminImm w s
  | .imax w => Sys2Proof.Machine.execImax w s
  | .imaxImm w => Sys2Proof.Machine.execImaxImm w s
  | .iabs w => Sys2Proof.Machine.execIabs w s
  | .ineg w => Sys2Proof.Machine.execIneg w s
  | .icmp w => Sys2Proof.Machine.execIcmp w s
  | .ipopc w => Sys2Proof.Machine.execIpopc w s
  | .iclz w => Sys2Proof.Machine.execIclz w s
  | .ibrev w => Sys2Proof.Machine.execIbrev w s
  | .ibfe w => Sys2Proof.Machine.execIbfe w s
  | .ibfi w => Sys2Proof.Machine.execIbfi w s
  | .lea w => Sys2Proof.Machine.execLea w s
  | .leaImm w => Sys2Proof.Machine.execLeaImm w s
  | .lop w => Sys2Proof.Machine.execLop w s
  | .shl w => Sys2Proof.Machine.execShl w s
  | .shr w => Sys2Proof.Machine.execShr w s
  | .sar w => Sys2Proof.Machine.execSar w s
  | .shlImm w => Sys2Proof.Machine.execShlImm w s
  | .shrImm w => Sys2Proof.Machine.execShrImm w s
  | .sarImm w => Sys2Proof.Machine.execSarImm w s
  | .sel w => Sys2Proof.Machine.execSel w s
  | .mov w => Sys2Proof.Machine.execMov w s
  | .movSpecial w => Sys2Proof.Machine.execMovSpecial w s
  | .movi w => Sys2Proof.Machine.execMovi w s
  | .plop w => Sys2Proof.Machine.execPlop w s
  | .pmovToReg w => Sys2Proof.Machine.execPmovToReg w s
  | .pmovFromReg w => Sys2Proof.Machine.execPmovFromReg w s
  | .pmovPred w => Sys2Proof.Machine.execPmovPred w s
  | .fadd w => Sys2Proof.Machine.execFadd w s
  | .faddImm w => Sys2Proof.Machine.execFaddImm w s
  | .fsub w => Sys2Proof.Machine.execFsub w s
  | .fmul w => Sys2Proof.Machine.execFmul w s
  | .fmulImm w => Sys2Proof.Machine.execFmulImm w s
  | .ffma w => Sys2Proof.Machine.execFfma w s
  | .fmin w => Sys2Proof.Machine.execFmin w s
  | .fminImm w => Sys2Proof.Machine.execFminImm w s
  | .fmax w => Sys2Proof.Machine.execFmax w s
  | .fmaxImm w => Sys2Proof.Machine.execFmaxImm w s
  | .fabs w => Sys2Proof.Machine.execFabs w s
  | .fneg w => Sys2Proof.Machine.execFneg w s
  | .fcmp w => Sys2Proof.Machine.execFcmp w s
  | .fclass w => Sys2Proof.Machine.execFclass w s
  | .frnd w => Sys2Proof.Machine.execFrnd w s
  | .fcvt w => Sys2Proof.Machine.execFcvt w s
  | .frcp w => Sys2Proof.Machine.execFrcp w s
  | .frsq w => Sys2Proof.Machine.execFrsq w s
  | .fsqrt w => Sys2Proof.Machine.execFsqrt w s
  | .fexp2 w => Sys2Proof.Machine.execFexp2 w s
  | .flog2 w => Sys2Proof.Machine.execFlog2 w s
  | .ftanh w => Sys2Proof.Machine.execFtanh w s
  | .npack w => Sys2Proof.Machine.execNpack w s
  | .nunpk w => Sys2Proof.Machine.execNunpk w s
  | .nscale w => Sys2Proof.Machine.execNscale w s
  | .gshfl w => Sys2Proof.Machine.execGshfl w s
  | .gbfly w => Sys2Proof.Machine.execGbfly w s
  | .gred w => Sys2Proof.Machine.execGred w s
  | .gscan w => Sys2Proof.Machine.execGscan w s
  | .gvote w => Sys2Proof.Machine.execGvote w s
  | .gmatch w => Sys2Proof.Machine.execGmatch w s
  | .grank w => Sys2Proof.Machine.execGrank w s
  | .join w => Sys2Proof.Machine.execJoin w s
  | .leave w => Sys2Proof.Machine.execLeave w s
  | .kwait w => Sys2Proof.Machine.execKwait w s
  | .kmov w => Sys2Proof.Machine.execKmov w s
  | .kand w => Sys2Proof.Machine.execKand w s
  | .kor w => Sys2Proof.Machine.execKor w s
  | .krd w => Sys2Proof.Machine.execKrd w s
  | .kset w => Sys2Proof.Machine.execKset w s
  | .bra w => Sys2Proof.Machine.execBra w s
  | .brx w => Sys2Proof.Machine.execBrx w s
  | .call w => Sys2Proof.Machine.execCall w s
  | .ret w => Sys2Proof.Machine.execRet w s
  | .switch w => Sys2Proof.Machine.execSwitch w s
  | .regroup w => Sys2Proof.Machine.execRegroup w s
  | .yield w => Sys2Proof.Machine.execYield w s
  | .exit w => Sys2Proof.Machine.execExit w s
  | .trap w => Sys2Proof.Machine.execTrap w s
  | .trapret w => Sys2Proof.Machine.execTrapret w s
  | .bkpt w => Sys2Proof.Machine.execBkpt w s
  | .sysrd w => Sys2Proof.Machine.execSysrd w s
  | .syswr w => Sys2Proof.Machine.execSyswr w s
  | .stampIn w => Sys2Proof.Machine.execStampIn w s
  | .stampMma w => Sys2Proof.Machine.execStampMma w s
  | .stampOut w => Sys2Proof.Machine.execStampOut w s
  | .time w => Sys2Proof.Machine.execTime w s
  | .ld w => Sys2Proof.Machine.execLd w s
  | .lds w => Sys2Proof.Machine.execLds w s
  | .lda w => Sys2Proof.Machine.execLda w s
  | .ldb w => Sys2Proof.Machine.execLdb w s
  | .st w => Sys2Proof.Machine.execSt w s
  | .sts w => Sys2Proof.Machine.execSts w s
  | .stb w => Sys2Proof.Machine.execStb w s
  | .pref w => Sys2Proof.Machine.execPref w s
  | .atom w => Sys2Proof.Machine.execAtom w s
  | .atomScr w => Sys2Proof.Machine.execAtomScr w s
  | .lrcall w => Sys2Proof.Machine.execLrcall w s
  | .lrdef w => Sys2Proof.Machine.execLrdef w s
  | .lrdrop w => Sys2Proof.Machine.execLrdrop w s
  | .waitv w => Sys2Proof.Machine.execWaitv w s
  | .wake w => Sys2Proof.Machine.execWake w s
  | .phasePub w => Sys2Proof.Machine.execPhasePub w s
  | .phaseRef w => Sys2Proof.Machine.execPhaseRef w s
  | .phase w => Sys2Proof.Machine.execPhase w s
  | .fence w => Sys2Proof.Machine.execFence w s
  | .bar w => Sys2Proof.Machine.execBar w s
  | .bararv w => Sys2Proof.Machine.execBararv w s
  | .barwait w => Sys2Proof.Machine.execBarwait w s
  | .bartx w => Sys2Proof.Machine.execBartx w s
  | .barinit w => Sys2Proof.Machine.execBarinit w s
  | .xbarv w => Sys2Proof.Machine.execXbarv w s
  | .xbwait w => Sys2Proof.Machine.execXbwait w s
  | .xbset w => Sys2Proof.Machine.execXbset w s
  | .cpin w => Sys2Proof.Machine.execCpin w s
  | .cpout w => Sys2Proof.Machine.execCpout w s
  | .cpoutDomainReduction w => Sys2Proof.Machine.execCpoutDomainReduction w s
  | .cpgath w => Sys2Proof.Machine.execCpgath w s
  | .cpgathDigest w => Sys2Proof.Machine.execCpgathDigest w s
  | .cpscat w => Sys2Proof.Machine.execCpscat w s
  | .cpfill w => Sys2Proof.Machine.execCpfill w s
  | .cpfillScratchpad w => Sys2Proof.Machine.execCpfillScratchpad w s
  | .qfence w => Sys2Proof.Machine.execQfence w s
  | .qwait w => Sys2Proof.Machine.execQwait w s
  | .cbacq w => Sys2Proof.Machine.execCbacq w s
  | .cbrel w => Sys2Proof.Machine.execCbrel w s
  | .cbrelCfg w => Sys2Proof.Machine.execCbrelCfg w s
  | .cvput w => Sys2Proof.Machine.execCvput w s
  | .cvseal w => Sys2Proof.Machine.execCvseal w s
  | .launch w => Sys2Proof.Machine.execLaunch w s
  | .mldb w => Sys2Proof.Machine.execMldb w s
  | .mswap w => Sys2Proof.Machine.execMswap w s
  | .mma w => Sys2Proof.Machine.execMma w s
  | .mmaw w => Sys2Proof.Machine.execMmaw w s
  | .mspan w => Sys2Proof.Machine.execMspan w s
  | .mcommit w => Sys2Proof.Machine.execMcommit w s
  | .mzero w => Sys2Proof.Machine.execMzero w s
  | .mlda w => Sys2Proof.Machine.execMlda w s
  | .msta w => Sys2Proof.Machine.execMsta w s
  | .firmwareReady => Sys2Proof.Machine.execFirmwareReady s
  | .peerAnswers d => Sys2Proof.Machine.execPeerAnswers d s
  | .peerPortFailure port => Sys2Proof.Machine.execPeerPortFailure port s
  | .domainReductionArrival c => Sys2Proof.Machine.execDomainReductionArrival c s
  | .unitDrainComplete kind num => Sys2Proof.Machine.execUnitDrainComplete kind num s
  | .unitTestPassed kind num => Sys2Proof.Machine.execUnitTestPassed kind num s

end Sys2Proof.Machine
end

