-- ==== Sys2Proof/Machine/Schedule.lean ====
section
/-! DEFINITION. What a step does around the meaning of an instruction: the word of a selected path, the tests owed at the end of a ck,
the moves that timing or the outside selects, and the model's own choice where nothing is selected. -/

namespace Sys2Proof.Machine

/-! ## The tests at the end of a ck -/

/-- One owed test (R39, R40, R50, R224, R226, R276, R277). -/
def State.runDue (s : State) : Due → Host.Outcome State Fault Refusal
  | .kwait wid gid => execKwaitRelease wid gid s
  | .bar wid b => .next (s.testBar wid b)
  | .rejoin wid gid => execRejoinDeadlock wid gid s
  | .deadlock wid => execBarrierDeadlock wid s
  | .finish wid => execWorkgroupCompletion wid s
  | .stops wid gid => .next (s.takeStops wid gid)
  | .stepEnd wid gid => .next (s.endStep wid gid)

/-! ## Moves of timing and of the outside -/

/-- A write of another owner of the companion or the peer windows: the bytes of those windows change, no other does (R175, R185). -/
def State.outside (s : State) (e : Nat × List Byte) : State :=
  if (isCompanion e.1 && isCompanion (e.1 + e.2.length)) || (isPeer e.1 && isPeer (e.1 + e.2.length)) then
    { s with mem := { s.mem with bytes := s.mem.bytes.putAll unlisted e.1 e.2 } }
  else s

/-- The time before a move passes, and the writes of others in it. -/
def State.reach (s : State) (q : Cue) : State := q.ext.foldl State.outside (s.tick q.dck q.dns)

/-! ## The model's own choice -/

/-- The issue units of every resident logical core. -/
def State.allUnits (s : State) : List UnitSel :=
  (s.gbt.filter (fun e => bitsOf e.2.toNat 61 2 = 1)).flatMap (fun e => (List.range 4).map (fun u => ⟨e.1, u⟩))

/-- Moves that the launches' state calls for. -/
def State.launchMoves (s : State) : List Instr :=
  s.launches.flatMap (fun l =>
    match l.phase with
    | .dying => if !l.recorded || s.recordsOut l.ctx then [.fatalTrap l.lid] else []
    | .draining => [.serialiserPublishWrite l.lid, .timeLimit l.lid]
    | .bound =>
      (if l.slot.any (fun n => bindSt (s.bind n) = 2) then [.serialiserStop l.lid] else [])
      ++ (if l.overTime then [.timeLimit l.lid] else [])
      ++ (if l.window.isEmpty then [] else [.detRequestApply l.lid, .reorderStall l.lid])
      ++ l.pending.filterMap (fun p => (s.freeBase p.2 l.hdr).map (fun b => .workgroupResidency l.lid p.1 b))
      ++ (if l.heldSig then [.signalIntervalExpiry l.lid] else [])
    | _ => [])

/-- Moves that a thread's state calls for. -/
def threadMoves (wid tid : Nat) (t : Thread) : List Instr :=
  (if t.loads.isEmpty then [] else [.loadReturn wid tid])
  ++ (match t.run with
    | .wait (.waitv z) => if z.woken then [.waitvWake wid tid] else if z.mon then [.waitvTimeout wid tid] else [.waitvPoll wid tid]
    | _ => [])

/-- Moves that a workgroup's state calls for. -/
def State.groupMoves (s : State) (w : WG) : List Instr :=
  let ctx := ((s.launch? w.lid).map (fun l => l.ctx)).getD 0
  w.threads.zipIdx.flatMap (fun p => threadMoves w.wid p.2 p.1)
  ++ (unionSet (w.threads.zipIdx.filterMap (fun p => match p.1.run with
      | .wait (.page g _ _) =>
        if (s.faultReq? ctx g).any (fun f => f.srcs.contains (.word w.wid p.2)) then none else some g
      | _ => none)) []).map (fun g => .pageFault ctx g)
  ++ (w.bins.map (fun b => .groupFormationFullBin w.wid b.1.1 b.1.2))
  ++ (if w.pool.isEmpty then [] else [.groupFormationQuiescence w.wid])
  ++ (w.groups.filter (fun g => w.threads.any (fun t => t.gid == g.gid && t.onCbuf))).map (fun g => .cbacqRetry w.wid g.gid)
  ++ (List.range 8).flatMap (fun q => match (w.queues.getD q []).find? (fun c => !c.done) with
      | none => []
      | some c =>
        if c.cmd = 0 then [.fenceEntryHead w.wid q]
        else if c.taken.isNone && !c.started then [.copySlotTake w.wid q, .copySectorWrite w.wid q, .copyComplete w.wid q]
        else [.copySectorWrite w.wid q, .copyComplete w.wid q])
  ++ (unionSet (w.threads.filterMap (fun t => match t.run with | .wait (.xbar x _ _) => some x | _ => none)) []).map (fun x =>
      .xbarRelease w.lid x (w.core % 256))
  ++ (if w.finished then [.workgroupCompletion w.wid] else [])

/-- Moves that a queue's state calls for. -/
def queueMoves (q : Nat) (d : QDesc) : List Instr :=
  if !d.en || d.stalled then []
  else if d.holding.isSome then [.waitPacketRelease q]
  else if d.rd = d.wr then [] else [.launchPacket q, .waitPacket q]

/-- Every move that the state calls for but issue. -/
def State.moves (s : State) : List Instr :=
  s.launchMoves
  ++ s.wgs.flatMap s.groupMoves
  ++ s.replies.map (fun p => .reply p.req.wid p.req.tid)
  ++ (s.slices.filter (fun e => !e.2.isEmpty && !s.paused.contains e.1)).map (fun e => .lineRoutineRun e.1)
  ++ (s.cores.filter (fun c => !c.mq.isEmpty)).map (fun c => .matrixQueueEntry c.key)
  ++ (s.cores.filter (fun c => !c.zeroing.isEmpty)).map (fun c => .zeroingComplete c.key)
  ++ (s.parts.filter (fun e => e.2.started)).map (fun e => .workgroupPlacement e.1)
  ++ s.queues.flatMap (fun e => queueMoves e.1 e.2)
  ++ (unionSet ((s.gbt.filter (fun e => bitsOf e.2.toNat 61 2 = 2 || (bitsOf e.2.toNat 61 2 = 1 && gbMuxl e.2.toNat ≠ 0))).map
      (fun e => gbPcore e.2.toNat)) []).map (fun p => .turnSwitch p)

/-- Where nothing is selected: every issue unit at one ck, and one of the other moves, in turn, at the next. Log 2, DESIGN CHOICE. -/
def State.autoMove (s : State) : Instr :=
  if s.ck % 2 = 0 then .issueOpportunity s.allUnits
  else (s.moves[s.ck / 2 % s.moves.length]?).getD (.issueOpportunity s.allUnits)

/-! ## The order of a ck -/

/-- The moves of the agenda that belong to the running ck. -/
def State.nowMoves (s : State) : List Cue := s.agenda.takeWhile (fun q => q.dck == 0)

/-- The moves by which issue units select. -/
def selects : Instr → Bool
  | .issueOpportunity _ | .ageingPromotion _ _ _ | .groupStarvationSelect _ _ => true
  | _ => false

/-- A key for the place of a move among what acts in its ck: copy sectors and completions, slot takes by queue, and the retries of acquires by
issue unit have a place among the words (R141, R147, R224). The others come after them. Log 2, DESIGN CHOICE. -/
def State.movePlace (s : State) : Instr → Nat
  | .copySectorWrite _ _ | .copyComplete _ _ => 32
  | .copySlotTake _ q => 48 + min q 7
  | .cbacqRetry wid gid => 96 + 2 * ((((s.wg? wid).bind (fun w => w.group? gid)).map (fun g => g.unit)).getD 0)
  | _ => 112

/-- What acts next: the word of a selected path, a move with the rest of the agenda, or nothing more in this ck. -/
inductive Next where
  | word (c : Cur) (rest : List Cur)
  | move (q : Cue) (rest : List Cue)
  | idle
  deriving DecidableEq, Repr

/-- The move at a place of the agenda. -/
def State.moveAt (s : State) (i : Nat) : Next :=
  match s.agenda[i]? with
  | some q => .move q (s.agenda.eraseIdx i)
  | none => .idle

/-- Of some moves, the place of the first whose key is least. -/
def State.leastMove (s : State) (ms : List Cue) : Nat :=
  let ks := ms.map (fun q => s.movePlace q.move)
  ks.findIdx (fun k => some k == minOf ks)

/-- What acts next in the running ck (R141, R147, R224): the moves without a place of their own, in the agenda's order, while one of the ck's
moves still selects; then words and moves by their places, a word first among equals. Log 2, DESIGN CHOICE. -/
def State.pickNext (s : State) : Next :=
  match s.nowMoves, s.issue with
  | [], c :: cs => .word c cs
  | [], [] => .idle
  | q :: qs, cs =>
    if (q :: qs).any (fun m => selects m.move) then s.moveAt ((q :: qs).findIdx (fun m => s.movePlace m.move == 112))
    else
      let i := s.leastMove (q :: qs)
      match cs with
      | [] => s.moveAt i
      | c :: rest => if s.wordPlace c ≤ s.movePlace (((q :: qs).getD i q).move) then .word c rest else s.moveAt i

/-- The agenda's next move is reached: time passes up to it, and it belongs to the running ck. -/
def State.comeTo (s : State) (q : Cue) (qs : List Cue) : State :=
  { s.reach q with agenda := { q with dck := 0, dns := 0, ext := [] } :: qs }

/-- The next move where no word and no test is left, with the state in which it is made: of the ck of the agenda's head, or the model's own
choice one ck on. Log 2, DESIGN CHOICE. -/
def State.nextMove (s : State) : Instr × State :=
  match s.agenda with
  | q :: qs =>
    let t := s.comeTo q qs
    match t.pickNext with
    | .move m rest => (m.move, ({ t with agenda := rest } : State).reach m)
    | _ => (q.move, { t with agenda := qs })
  | [] =>
    let t := s.tick 1 1
    (t.autoMove, t)

end Sys2Proof.Machine
end

