-- ==== Sys2Proof/Machine/Loading.lean ====
section
/-! DEFINITION. A device on which one given instruction word is the next to be executed: a partition, a context whose page table maps
the first GiB of virtual addresses, a sealed code version, and one launch of one workgroup of 16 threads. It stands for bring-up and
the launch of a program from outside. -/

namespace Sys2Proof.Machine

/-- The image: one kernel, its header, and the word at offset 128 with a NOP behind it (R248). -/
def loadImage (word : List Byte) : List Byte :=
  bytesOf 64 1 ++ bytesOf 64 128 ++ word ++ bytesOf 8 0

/-- The kernel header of the placed program: 16 threads, and the largest declared counts that R248 allows. -/
def loadHdr : Hdr :=
  { entry := 128, gsz := 0, dx := 16, dy := 1, dz := 1, regs := 128, scr := 256, acc := 256, stat := 4, queues := 8, cbufs := 16,
    stages := [1, 0, 0, 0, 0, 0, 0, 0], pin := false, det := false, idem := false, level := 2 }

def loadLaunch : Launch :=
  { lid := 1, record := List.replicate 16 0, ctx := 0, part := 0, hdr := loadHdr, gx := 1, gy := 1, gz := 1, prio := 0, ovl := false,
    det := false, sig := 0, codever := 1, tlimit := 0, q := 0, qidx := 0, phase := .bound, slot := some 0, next := 1, base := 0,
    done := [], placed := true, pending := [], relaunched := [], stopping := false, ckUsed := 0, lastSig := none, heldSig := false,
    children := [], window := [], frontier := (0, 0, 0, 0), frontierCk := 0, xbars := [], traps := [], recorded := false,
    nrec := 0, allStop := false, flagWords := [] }

def loadCtx : Ctx := { Ctx.reset with defined := true, root := 1, kset := 2, nextVer := 2 }

/-- The page table of the placed program: level 0 at 2^20 with a table at 2^21, whose first entry maps 1 GiB from physical address 0
with R, W and X under key ID 1 (R170 to R172). -/
def loadTables (m : SMap Byte) : SMap Byte :=
  SMap.putAll unlisted (SMap.putAll unlisted m (2 ^ 20) (bytesOf 8 (1 + 2 ^ 21))) (2 ^ 21) (bytesOf 8 (1 + 2 + 4 + 8 + 16 + 2 ^ 52))

/-- The workgroup's one path at the word. -/
def loadCur : Cur := { core := 0, unit := 0, wid := 1, gid := 0, lanes := List.range 16, pc := 0x10080, second := false }

/-- The device with the word placed, whatever ran before. Log 1, DESIGN CHOICE. -/
def State.place (s : State) (word : List Byte) : State :=
  let s1 : State := { s with
    mem := { s.mem with bytes := loadTables s.mem.bytes }
    ctxs := [(0, loadCtx)]
    gbt := [(0, BitVec.ofNat 64 (2 ^ 63 + 2 ^ 61))]
    parts := [(0, { Part.reset with started := true, cores := 256, power := .active })]
    slots := [(0, BitVec.ofNat 64 (1 + 2 + 2 ^ 32))]
    codes := [⟨0, 1, loadImage word, 0x10000⟩]
    launches := [loadLaunch], lidNext := 2, cores := [], agenda := [], due := [], late := [], poison := [] }
  let w := ({ s1 with widNext := 1 } : State).launchGroup loadLaunch 0 0 0
  { s1 with wgs := [w], before := [w], widNext := 2, issue := [loadCur], cur := none }

end Sys2Proof.Machine
end

