-- ==== Sys2Proof/Machine/Step.lean ====
section
/-! DEFINITION. One step of the machine. -/

namespace Sys2Proof.Machine

/-- The word of the path that `cur` names: fetched and executed, or what the fetch comes to. A path that stands nowhere any more is passed
over. -/
def stepWord (s : State) : Host.Outcome State Fault Refusal :=
  match s.path with
  | none => .next s
  | some x => match x.fetchWord s with
    | .stays t => .next t
    | .run i => exec i s

/-- The agenda with one ck less before its first move. -/
def State.nearer (s : State) : List Cue :=
  match s.agenda with
  | q :: qs => { q with dck := q.dck - 1 } :: qs
  | [] => []

/-- The next ck begins with the tests that the last one has left to it (R40, R226). -/
def State.startCk (s : State) : State :=
  { s.tick 1 (if s.agenda.isEmpty then 1 else 0) with agenda := s.nearer, due := s.late, late := [] }

/-- One step: what acts next in the running ck, a word or a move; else the next test owed at its end, else the next move; before a move of a
later ck come the tests left to the next ck (R224). Log 2, DESIGN CHOICE. -/
def step (s : State) : Host.Outcome State Fault Refusal :=
  match s.pickNext with
  | .word c cs => stepWord { s with issue := cs, cur := some c }
  | .move q qs => exec q.move (({ s with agenda := qs } : State).reach q)
  | .idle => match s.due with
    | d :: ds => ({ s with due := ds } : State).runDue d
    | [] => if s.late.isEmpty then exec s.nextMove.1 s.nextMove.2 else .next s.startCk

/-- The state with an instruction of nbits placed where the step fetches its next word (R86, R248). Log 1, DESIGN CHOICE. -/
def State.withFetchWord (s : State) (nbits w : Nat) : State := s.place (bytesOf 8 (w % 2 ^ nbits))

end Sys2Proof.Machine
end

