-- ==== Sys2Proof/Safety.lean ====
section
/-! DEFINITION. The terms in which claims about the machine are stated: a word that issues, what a word leaves in its lanes and keeps
everywhere else, and the canonical form of memory. -/

namespace Sys2Proof.Machine

/-! ## A word that issues -/

/-- A path stands at word `i`, and the word issues: it is ready, no breakpoint is armed at its PC, none of the five checks of R103 fails,
where `ck` is what its entry adds to them, and a lane executes. -/
structure Issues (s : State) (i : Instr) (nfo : Info) (x : Path) (ck : Checks) : Prop where
  word : info i = some nfo
  path : s.path = some x
  ready : s.readyWord i nfo x = true
  noBreak : (s.ctx x.ctx).dbg.breakAt x.cur.pc = none
  passes : s.firstTrap i x nfo ck = none
  runs : x.exec nfo.head ≠ []

/-- The lane of a path in which a thread stands. -/
def Path.laneOf (x : Path) (tid : Nat) : Option Lane := x.lanes.find? (fun ln => ln.tid == tid)

/-! ## What a word leaves in a lane -/

/-- The four latches of a thread, l0 first (R98). -/
def Thread.latches (t : Thread) : List (Option DWord) := [t.l0, t.l1, t.l2, t.l3]

/-- A v register after runs of registers have been written, from their first numbers on. -/
def regAfter (runs : List (Nat × List Word)) (r : Nat) (old : Word) : Word :=
  runs.foldl (fun a e => if e.1 ≤ r then (e.2[r - e.1]?).getD a else a) old

/-- A predicate after predicates have been written. -/
def predAfter (ps : List (Nat × Bool)) (k : Nat) (old : Bool) : Bool :=
  ps.foldl (fun a e => if e.1 = k then e.2 else a) old

/-- The latches after a word: an H-clear word empties them; a word that writes them shifts its results in, and stale values in a lane
that does not execute (R33, R98). `n` is how often the word shifts. -/
def latchesAfter (hold executes : Bool) (n : Nat) (results : List DWord) (old : List (Option DWord)) : List (Option DWord) :=
  if hold then
    ((if n = 0 then [] else if executes then (results.map some).reverse else List.replicate n none) ++ old).take 4
  else [none, none, none, none]

/-- Nothing of a thread has changed but its place: it stands at `pc`, its ageing counter is 0, and the latches are kept by an H-set word
and emptied by an H-clear one (R33, R34, R98). -/
structure Moved (hold : Bool) (pc : Nat) (a b : Thread) : Prop where
  stands : b.pc = pc
  age : b.age = 0
  count : b.hold = if hold then a.hold + 1 else 0
  kept : b.latches = if hold then a.latches else [none, none, none, none]
  rest : ({ b with pc := a.pc, age := a.age, hold := a.hold, l0 := a.l0, l1 := a.l1, l2 := a.l2, l3 := a.l3, skip := a.skip,
                   resumed := a.resumed } : Thread) = a

/-- What a word that computes leaves in one lane: the results `r` where the lane executes, the latches shifted, the PC past the word, and
nothing else of the thread changed but what its clock knows of the word's flags (`KnowsRaised`). -/
structure LaneDone (hold executes : Bool) (n : Nat) (r : LaneRes) (pc : Nat) (a b : Thread) : Prop where
  v : ∀ k, b.v.get 0 k = if executes then regAfter r.v k (a.v.get 0 k) else a.v.get 0 k
  p : ∀ k, k < 7 → b.p.getLsbD k = if executes then predAfter r.preds k (a.p.getLsbD k) else a.p.getLsbD k
  shifted : b.latches = latchesAfter hold executes n r.shifts a.latches
  stands : b.pc = pc
  age : b.age = 0
  count : b.hold = if hold then a.hold + 1 else 0
  rest : ({ b with v := a.v, p := a.p, l0 := a.l0, l1 := a.l1, l2 := a.l2, l3 := a.l3, pc := a.pc, age := a.age, hold := a.hold,
                   skip := a.skip, resumed := a.resumed, vc := a.vc } : Thread) = a

/-- What the clock of a thread knows after a word whose flags are `raised`: where its lane executes, that each of them is raised, so that a
read of %flags from the next word on sees it (`flagsPermitted`), and else what it knew (R132). -/
def KnowsRaised (w : WG) (raised : Nat → Bool) (executes : Bool) (a b : Clock) : Prop :=
  (∀ f, f < 7 → executes = true → raised f = true → b.get 0 (w.flagKey f) = 1)
  ∧ ∀ k, (∀ f, f < 7 → executes = true → raised f = true → k ≠ w.flagKey f) → b.get 0 k = a.get 0 k

/-! ## What a word keeps -/

/-- Outside a path's workgroup the device is as `m` says: memory, every context, queue, launch, ring and register of the lodge, every other
workgroup, and of the logical cores all but which group holds an issue unit or runs on. (`due`, `late` and `free` are no state of the device: the
tests that the model owes, and the number of the next free choice.) For most words `m` is the state before. -/
structure Keeps (m t : State) (x : Path) : Prop where
  rest : ({ t with wgs := m.wgs, cores := m.cores, due := m.due, late := m.late, free := m.free } : State) = m
  others : ∀ wid, wid ≠ x.w.wid → t.wg? wid = m.wg? wid
  cores : ∀ k, ({ t.core k with held := (m.core k).held, running := (m.core k).running } : LCore) = m.core k

/-- What a word does to a path's workgroup: the workgroup is `w'` but for its threads; the thread of each lane of the path is what `g` says,
moved to `pc`, and no other thread has changed. -/
def Acts (t : State) (x : Path) (hold : Bool) (pc : Lane → Nat) (g : Lane → Thread) (w' : WG) : Prop :=
  ∃ v, t.wg? x.w.wid = some v ∧ ({ v with threads := w'.threads } : WG) = w'
    ∧ (∀ tid, x.laneOf tid = none → v.threads[tid]? = x.w.threads[tid]?)
    ∧ (∀ tid ln, x.laneOf tid = some ln → ∃ b, v.threads[tid]? = some b ∧ Moved hold (pc ln) (g ln) b)

/-- A word that issues completes: outside the path's workgroup the device is as `m` says, and the workgroup and its threads are as
`Acts` says (R33, R48). For most words `m` is the state before. -/
def Does (s : State) (i : Instr) (x : Path) (hold : Bool) (pc : Lane → Nat) (g : Lane → Thread) (m : State) (w' : WG) : Prop :=
  ∃ t, exec i s = .next t ∧ Keeps m t x ∧ Acts t x hold pc g w'

/-- Of a path's workgroup nothing but threads, groups and the flag word has changed. -/
def KeepsGroup (x : Path) (v : WG) : Prop :=
  ({ v with threads := x.w.threads, groups := x.w.groups, flags := x.w.flags } : WG) = x.w

/-- The s registers of the path's group after a word with destination `d`: those that `d` names hold `ws`, and nothing else of any
group has changed (R48, R83). -/
structure GroupDone (x : Path) (d : Opnd) (ws : List Word) (v : WG) : Prop where
  mine : ∃ g, v.group? x.g.gid = some g ∧ ({ g with s := x.g.s } : Group) = x.g
    ∧ ∀ k, g.s.get 0 k = match d with
        | .s r => regAfter [(r.toNat, ws)] k (x.g.s.get 0 k)
        | _ => x.g.s.get 0 k
  others : ∀ gid, gid ≠ x.g.gid → v.group? gid = x.w.group? gid

/-- The whole effect of a word that computes a result in each executing lane and does nothing else: `f` gives the result of a lane, `d`
is the destination field, and `n` how often the word shifts the latches. -/
structure Computes (s t : State) (x : Path) (hd : Head) (n : Nat) (d : Opnd) (f : Lane → LaneRes) : Prop where
  device : Keeps s t x
  group : ∃ v, t.wg? x.w.wid = some v ∧ KeepsGroup x v
    ∧ (∀ b, b < 32 → v.flags.getLsbD b = (x.w.flags.getLsbD b || (x.exec hd).any (fun ln => (f ln).fl.testBit b)))
    ∧ (∀ ln, (x.exec hd).head? = some ln → GroupDone x d (f ln).s v)
    ∧ (∀ tid, x.laneOf tid = none → v.threads[tid]? = x.w.threads[tid]?)
    ∧ (∀ tid ln, x.laneOf tid = some ln → ∃ b, v.threads[tid]? = some b
        ∧ LaneDone hd.hold (ln.t.executes hd) n (f ln) (x.cur.pc + 8) ln.t b
        ∧ KnowsRaised x.w (fun i => (x.exec hd).any (fun q => (f q).fl.testBit i)) (ln.t.executes hd) ln.t.vc b.vc)

/-- A word that issues completes with the whole effect that `d` and `f` say, and nothing else (R33, R48, R97, R98, R131). -/
def Yields (s : State) (i : Instr) (nfo : Info) (x : Path) (d : Opnd) (f : Lane → LaneRes) : Prop :=
  ∃ t, exec i s = .next t ∧ Computes s t x nfo.head (shiftCount i nfo) d f

/-! ## A selection -/

/-- What the selection of paths leaves: the list of the words that issue, the waiting and ageing counters, the round-robin places, the running
groups, and the ends of steps that it owes; nothing else of the device changes (R29, R34, R35, R277). -/
structure Selects (s t : State) : Prop where
  rest : ({ t with wgs := s.wgs, cores := s.cores, issue := s.issue, due := s.due } : State) = s
  cores : ∀ k, ({ t.core k with rr := (s.core k).rr, running := (s.core k).running } : LCore) = s.core k
  count : t.wgs.length = s.wgs.length
  groups : ∀ (i : Nat) (w u : WG), s.wgs[i]? = some w → t.wgs[i]? = some u →
    ({ u with threads := w.threads, groups := w.groups } : WG) = w
    ∧ u.threads.length = w.threads.length ∧ u.groups.length = w.groups.length
    ∧ (∀ (j : Nat) (a b : Thread), w.threads[j]? = some a → u.threads[j]? = some b → ({ b with age := a.age } : Thread) = a)
    ∧ ∀ (j : Nat) (a b : Group), w.groups[j]? = some a → u.groups[j]? = some b → ({ b with ready := a.ready } : Group) = a

/-! ## Exact results -/

/-- The number that a finite value is (R112). -/
def finVal : FVal → ℚ
  | .fin neg m e => (if neg then -1 else 1) * (m : ℚ) * 2 ^ e
  | _ => 0

/-- An exact integer written in a type: modulo 2^n, or with .sat the nearer end of the range, which raises SAT (R111, R351). -/
def writtenInt (t : Ty) (sat : Bool) (e : Int) : Nat × Nat :=
  if sat = true ∧ e < minInt t then ((minInt t % ((2 ^ widthOf t : Nat) : Int)).toNat, fSAT)
  else if sat = true ∧ maxInt t < e then ((maxInt t % ((2 ^ widthOf t : Nat) : Int)).toNat, fSAT)
  else ((e % ((2 ^ widthOf t : Nat) : Int)).toNat, 0)

/-- The integer words of R350 and R359 that write their exact result: the word, whether it accepts .sat, and the exact result of the
sources a, b and c. -/
def exactRows : List ((FWord → Instr) × Bool × (Int → Int → Int → Int)) :=
  [(.iadd, true, fun a b _ => a + b), (.isub, true, fun a b _ => a - b), (.imul, true, fun a b _ => a * b),
   (.imad, true, fun a b c => a * b + c), (.imin, false, fun a b _ => min a b), (.imax, false, fun a b _ => max a b),
   (.iabs, true, fun a _ _ => |a|), (.ineg, true, fun a _ _ => -a)]

/-- The immediate forms of R352 and R409: the word, the type of source a, and the result of a's bits and the sign-extended immediate. -/
def immediateRows : List ((IWord → Instr) × Ty × (Nat → Int → Int)) :=
  [(.iaddImm, .i32, fun a k => a + k), (.isubImm, .i32, fun a k => k - a), (.imulImm, .i32, fun a k => a * k),
   (.iminImm, .i32, fun a k => min (signedOf 32 a) k), (.imaxImm, .i32, fun a k => max (signedOf 32 a) k),
   (.imulhiImm, .i32, fun a k => signedOf 32 a * k / 2 ^ 32), (.leaImm, .b64, fun a k => a + k),
   (.shlImm, .b32, fun a k => if 32 ≤ (k % 2 ^ 32).toNat then 0 else a * 2 ^ (k % 2 ^ 32).toNat),
   (.shrImm, .b32, fun a k => a / 2 ^ (k % 2 ^ 32).toNat),
   (.sarImm, .b32, fun a k => signedOf 32 a / 2 ^ (min 32 (k % 2 ^ 32).toNat))]

/-- The shifts of R410 on n bits: the word and the result of a's bits and the count. -/
def shiftRows : List ((FWord → Instr) × (Nat → Nat → Nat → Nat)) :=
  [(.shl, fun n a k => if k < n then a * 2 ^ k % 2 ^ n else 0),
   (.shr, fun n a k => if k < n then a / 2 ^ k else 0),
   (.sar, fun n a k => if k < n then (signedOf n a / 2 ^ k % 2 ^ n).toNat else if 0 ≤ signedOf n a then 0 else 2 ^ n - 1)]

/-- IADDC and ISUBB (R354): the word, its exact result of a, b and the carry or borrow in, and when the carry or borrow out is set. -/
def carryRows : List ((FWord → Instr) × (Int → Int → Int → Int) × (Int → Int → Bool)) :=
  [(.iaddc, fun a b c => a + b + c, fun n e => n ≤ e), (.isubb, fun a b c => a - b - c, fun _ e => e < 0)]

/-- The float words of R331 and the operation of each. -/
def floatRows : List ((FWord → Instr) × FloatOp) :=
  [(.fadd, .add), (.fsub, .sub), (.fmul, .mul), (.ffma, .fma), (.fmin, .fmin), (.fmax, .fmax)]

/-- Their immediate forms (R332). -/
def floatImmRows : List ((IWord → Instr) × FloatOp) :=
  [(.faddImm, .add), (.fmulImm, .mul), (.fminImm, .fmin), (.fmaxImm, .fmax)]

/-- The special functions of R338 and the operation of each; FRCP.f32 of a level-1 code object has its own cell (R105, R122). -/
def specialFnRows : List ((FWord → Instr) × SpecialFn) :=
  [(.frsq, .rsq), (.fsqrt, .sqrt), (.fexp2, .exp2), (.flog2, .log2), (.ftanh, .tanh)]

/-- The special registers of R26 and R85 but %flags, by number, in a lane of a path. -/
def specialValue (s : State) (x : Path) (ln : Lane) : Nat → Nat
  | 0x00 => ln.tid
  | 0x01 => ln.tid % x.l.hdr.dx
  | 0x02 => ln.tid / x.l.hdr.dx % x.l.hdr.dy
  | 0x03 => ln.tid / (x.l.hdr.dx * x.l.hdr.dy)
  | 0x04 => ln.lane
  | 0x05 => x.g.gid
  | 0x06 => 16 * 2 ^ x.l.hdr.gsz
  | 0x07 => x.w.wgid
  | 0x08 => x.w.wgid % x.l.gx
  | 0x09 => x.w.wgid / x.l.gx % x.l.gy
  | 0x0A => x.w.wgid / (x.l.gx * x.l.gy)
  | 0x0B => x.w.core % 256
  | 0x0C => x.g.stage
  | 0x0D => (s.ck - (s.part (x.w.core / 256)).ckStart) % 2 ^ 32
  | 0x0E => x.l.hdr.dx * x.l.hdr.dy * x.l.hdr.dz
  | 0x0F => x.l.gx
  | 0x10 => x.l.gy
  | 0x11 => x.l.gz
  | 0x12 => x.l.hdr.level
  | 0x14 => (s.core x.w.core).phase % 2 ^ 32
  | _ => 0

/-- Whether a read of %flags is one that R132 permits: it holds no flag that the workgroup's flag word does not hold, and every flag of it
that the thread is known to see. -/
def flagsPermitted (w : WG) (t : Thread) (v : Nat) : Prop :=
  v < 128 ∧ ∀ b, b < 7 → (v.testBit b = true → w.flags.getLsbD b = true)
    ∧ (w.flags.getLsbD b = true → t.vc.get 0 (w.flagKey b) ≠ 0 → v.testBit b = true)

/-- The participant of a collective in a lane of the group, if there is one (R340). -/
def Path.participant (x : Path) (hd : Head) (j : Nat) : Option Lane := (x.exec hd).find? (fun ln => ln.lane == j)

/-- The mask that holds the executing lanes of a word (R38). -/
def Path.execMask (x : Path) (hd : Head) : BitVec 64 :=
  BitVec.ofNat 64 (ofBits (fun j => (x.exec hd).any (fun ln => ln.lane == j)) 64)

/-- A thread that blocks at a word where its lane executes it, and goes on where it does not (R33). -/
def blocked (hd : Head) (wait : Lane → Wait) (ln : Lane) : Thread :=
  if ln.t.executes hd then { ln.t with run := .wait (wait ln) } else ln.t

/-- Where the lanes of a word stand that blocks: at the word where they execute it, past it where they do not. -/
def blockedAt (x : Path) (hd : Head) (ln : Lane) : Nat := if ln.t.executes hd then x.cur.pc else x.cur.pc + 8

/-- The copy words: the word, CMD as R447 numbers it, and the modes of R217 that it accepts. -/
def copyRows : List ((FWord → Instr) × Nat × List Nat) :=
  [(.cpin, 1, [0]), (.cpout, 2, [0, 2]), (.cpoutDomainReduction, 2, [2]), (.cpgath, 3, [0, 1]), (.cpgathDigest, 3, [1]),
   (.cpscat, 4, [0]), (.cpfill, 5, [0, 1]), (.cpfillScratchpad, 5, [1])]

/-! ## Commands of the lodge mailbox -/

/-- A block holds a command that the lodge takes: its firmware is ready, no other command runs, and the block's OP is the command's
(R268, R290). -/
def Accepted (s : State) (agent : Nat) (b : MailBlock) (op : Nat) : Prop :=
  s.lodge.ready = true ∧ s.lodge.busy = false ∧ (cmdOf agent b).op = op

/-- The device with a command in its registers. -/
def State.received (s : State) (agent : Nat) (b : MailBlock) : State :=
  { s with lodge := { s.lodge with cmd := blockWords b, agent := agent } }

/-- An accepted debug command of the holder of its context's right, with every reserved field zero (R270, R271). -/
def DebugOk (s : State) (agent : Nat) (b : MailBlock) (op : Nat) : Prop :=
  Accepted s agent b op ∧ (s.ctx (cmdOf agent b).ctx).dbg.holder = some agent ∧ (cmdOf agent b).rsv = false
    ∧ bitsOf ((cmdOf agent b).arg 2) 56 8 = 0 ∧ (cmdOf agent b).tgt < 6 ∧ ((cmdOf agent b).args.drop 4).all (· == 0) = true

/-- An accepted lodge command with n operand words and every other bit zero (R289). -/
def LodgeOk (s : State) (agent : Nat) (b : MailBlock) (op n : Nat) : Prop :=
  Accepted s agent b op ∧ (cmdOf agent b).rsv = false ∧ ((cmdOf agent b).args.drop n).all (· == 0) = true

/-- A command ends with a status: the device is `m`, and the response block holds the status, the OP and a value, with DONE set and
MBXBUSY clear (R290). -/
def Answers (s : State) (i : Instr) (op status value : Nat) (m : State) : Prop :=
  exec i s = .next { m with lodge := { m.lodge with
    busy := false, done := true, mailIrq := true, respStatus := status, respOp := op, value := BitVec.ofNat 64 value } }

/-! ## Memory -/

/-- The memory at the home slices is in its canonical form: addresses strictly rising, no byte listed that reads as an unlisted one, no
line listed without a key. -/
def State.memWf (s : State) : Prop := s.mem.wf = true

end Sys2Proof.Machine
end

