-- ==== Sys2Proof/Certificates/Slice0/Obligations.lean ====
section
/-! DEFINITION. What is to be proved of the machine, one rule or one group of rules of the spec to a statement. -/

section

open Sys2Proof Sys2Proof.Machine

/-! ## Encodings -/

/-- Every well-formed word is encoded, and its encoding decodes to it, with every field at every value (R86 to R101). -/
def Obligations.DecodeEncode : Prop :=
  ∀ i : Instr, isWord i = true → wf i = true → ∃ w, encode i = some w ∧ decode w = .ok i

/-- No bit of a word is dropped: what a word decodes to is encoded as that word (R86 to R101). -/
def Obligations.EncodeDecode : Prop :=
  ∀ (w : DWord) (i : Instr), decode w = .ok i → encode i = some w

/-! ## Words that compute -/

/-- IADD, ISUB, IMUL, IMAD, IMIN, IMAX, IABS and INEG write their exact result, wrapped or with .sat clamped (R350, R351, R359). The immediate forms
write their result modulo 2^n and raise no flag (R352, R409). IMULHI writes bits [2n - 1 : n] of the exact product, that is its quotient by 2^n
rounded down (R359). -/
def Obligations.IntegerArithmetic : Prop :=
  (
    ∀ row ∈ exactRows, ∀ (s : State) (w : FWord) (nfo : Info) (x : Path),
      let f := fun (ln : Lane) =>
        let r := writtenInt w.ty (row.2.1 && FSat w)
          (row.2.2 (intOf w.ty (x.read ln w.ty w.a)) (intOf w.ty (x.read ln w.ty w.b)) (intOf w.ty (x.read ln w.ty w.c)))
        resultIn w.d (regsOf w.ty) r.1 r.2 []
      Issues s (row.1 w) nfo x { uniform := sDest w.d f } → Yields s (row.1 w) nfo x w.d f)
  ∧ (
    ∀ row ∈ immediateRows, ∀ (s : State) (w : IWord) (nfo : Info) (x : Path),
      let f := fun (ln : Lane) =>
        resultIn w.d (regsOf row.2.1)
          ((row.2.2 (x.read ln row.2.1 w.a) w.imm.toInt % ((2 ^ widthOf row.2.1 : Nat) : Int)).toNat) 0 []
      Issues s (row.1 w) nfo x { uniform := sDest w.d f } → Yields s (row.1 w) nfo x w.d f)
  ∧ (
    ∀ (s : State) (w : FWord) (nfo : Info) (x : Path),
      let n := widthOf w.ty
      let f := fun (ln : Lane) => resultIn w.d (regsOf w.ty)
        ((intOf w.ty (x.read ln w.ty w.a) * intOf w.ty (x.read ln w.ty w.b) / ((2 ^ n : Nat) : Int) % ((2 ^ n : Nat) : Int)).toNat) 0 []
      Issues s (.imulhi w) nfo x { uniform := sDest w.d f } → Yields s (.imulhi w) nfo x w.d f)

/-- IADDC and ISUBB: d takes e mod 2^n, the predicate CO the carry or borrow out; no flag is raised (R354). -/
def Obligations.CarryAndBorrow : Prop :=
  ∀ row ∈ carryRows, ∀ (s : State) (w : FWord) (nfo : Info) (x : Path),
    let n := widthOf w.ty
    let ci := bitsOf (FSpec w) 3 3
    let f := fun (ln : Lane) =>
      let cin : Int := if ci ≠ 7 ∧ ln.t.p.getLsbD ci = true then 1 else 0
      let e := row.2.1 (x.read ln w.ty w.a) (x.read ln w.ty w.b) cin
      resultIn w.d (regsOf w.ty) ((e % ((2 ^ n : Nat) : Int)).toNat) 0 [(FSpec w % 8, row.2.2 ((2 ^ n : Nat) : Int) e)]
    Issues s (row.1 w) nfo x { uniform := sDest w.d f } → Yields s (row.1 w) nfo x w.d f

/-- ICMP: the mask in d and the predicate PD hold the comparison, signed or unsigned by type; no flag is raised, and an ordered
condition on a bit type is cause 9 (R358). -/
def Obligations.IntegerCompare : Prop :=
  (∀ (s : State) (w : FWord) (nfo : Info) (x : Path),
    let f := fun (ln : Lane) =>
      let a := intOf w.ty (x.read ln w.ty w.a)
      let b := intOf w.ty (x.read ln w.ty w.b)
      let holds : Bool := match bitsOf (FSpec w) 3 4 with
        | 0 => a = b
        | 1 => a ≠ b
        | 2 => a < b
        | 3 => a ≤ b
        | 4 => b < a
        | _ => b ≤ a
      resultIn w.d 1 (if holds then 0xFFFFFFFF else 0) 0 [(FSpec w % 8, holds)]
    Issues s (.icmp w) nfo x { uniform := sDest w.d f } → Yields s (.icmp w) nfo x w.d f)
  ∧ ∀ w : FWord, isBit w.ty = true → 2 ≤ bitsOf (FSpec w) 3 4 → 9 ∈ causesOf (.icmp w)

/-- IPOPC, ICLZ, IBREV, IBFE and IBFI (R355, R356). LOP looks each bit up in its table, and LEA adds the extended and shifted offset modulo 2^64
(R375, R376). -/
def Obligations.BitFieldAndLogicWords : Prop :=
  (
    ∀ (s : State) (w : FWord) (nfo : Info) (x : Path),
      let n := widthOf w.ty
      let a := fun (ln : Lane) => x.read ln w.ty w.a
      let yields := fun (i : Instr) (f : Lane → LaneRes) => Issues s i nfo x { uniform := sDest w.d f } → Yields s i nfo x w.d f
      yields (.ipopc w) (fun ln => resultIn w.d 1 ((List.range n).countP (fun i => (a ln).testBit i)) 0 [])
      ∧ yields (.iclz w) (fun ln => resultIn w.d 1 (if a ln = 0 then n else n - 1 - Nat.log2 (a ln)) 0 [])
      ∧ yields (.ibrev w) (fun ln => resultIn w.d (regsOf w.ty) (ofBits (fun i => (a ln).testBit (n - 1 - i)) n) 0 [])
      ∧ yields (.ibfe w) (fun ln =>
          let p := x.read ln w.ty w.b % 256
          let l := min (x.read ln w.ty w.b / 256 % 256) n
          let f := ofBits (fun i => if p + i < n then (a ln).testBit (p + i) else isSigned w.ty && (a ln).testBit (n - 1)) l
          let e := if l ≠ 0 ∧ isSigned w.ty = true ∧ f.testBit (l - 1) = true then f + 2 ^ n - 2 ^ l else f
          resultIn w.d (regsOf w.ty) e 0 [])
      ∧ yields (.ibfi w) (fun ln =>
          let p := x.read ln w.ty w.c % 256
          let l := min (x.read ln w.ty w.c / 256 % 256) n
          let b := x.read ln w.ty w.b
          resultIn w.d (regsOf w.ty)
            (ofBits (fun i => if p ≤ i ∧ i < p + l then b.testBit (i - p) else (a ln).testBit i) n) 0 []))
  ∧ (
    ∀ (s : State) (w : FWord) (nfo : Info) (x : Path),
      let yields := fun (i : Instr) (f : Lane → LaneRes) => Issues s i nfo x { uniform := sDest w.d f } → Yields s i nfo x w.d f
      yields (.lop w) (fun ln =>
        let bit := fun (o : Opnd) (i : Nat) => if (x.read ln w.ty o).testBit i then 1 else 0
        resultIn w.d (regsOf w.ty)
          (ofBits (fun i => (FSpec w).testBit (4 * bit w.a i + 2 * bit w.b i + bit w.c i)) (widthOf w.ty)) 0 [])
      ∧ yields (.lea w) (fun ln =>
        let b : Int := if (FSpec w).testBit 3 then signedOf 32 (x.read32 ln w.b) else x.read32 ln w.b
        resultIn w.d 2 (((x.pair ln w.a + b * 2 ^ (FSpec w % 8)) % 2 ^ 64).toNat) 0 []))

/-- SHL, SHR and SAR at every count; no flag is raised (R410). -/
def Obligations.ShiftWords : Prop :=
  ∀ row ∈ shiftRows, ∀ (s : State) (w : FWord) (nfo : Info) (x : Path),
    let f := fun (ln : Lane) =>
      resultIn w.d (regsOf w.ty) (row.2 (widthOf w.ty) (x.read ln w.ty w.a) (x.read32 ln w.b)) 0 []
    Issues s (row.1 w) nfo x { uniform := sDest w.d f } → Yields s (row.1 w) nfo x w.d f

/-- SEL, MOV and MOVI copy bits and raise no flag (R387, R388, R411). -/
def Obligations.SelectAndMove : Prop :=
  ∀ (s : State) (w : FWord) (k : IWord) (nfo : Info) (x : Path),
    let yields := fun (i : Instr) (d : Opnd) (f : Lane → LaneRes) =>
      Issues s i nfo x { uniform := sDest d f } → Yields s i nfo x d f
    yields (.sel w) w.d (fun (ln : Lane) =>
      let p := FSpec w % 8
      let holds : Bool := p ≠ 7 && ln.t.p.getLsbD p
      resultIn w.d (regsOf w.ty) (if holds != (FSpec w).testBit 3 then x.read ln w.ty w.a else x.read ln w.ty w.b) 0 [])
    ∧ yields (.mov w) w.d (fun ln => resultIn w.d (regsOf w.ty) (x.read ln w.ty w.a) 0 [])
    ∧ yields (.movi k) k.d (fun _ => resultIn k.d 1 k.imm.toNat 0 [])

/-- A read of a special register gives its value, and a read of %flags a value that R132 permits (R26, R85, R132, R387). -/
def Obligations.SpecialRegisterReads : Prop :=
  ∀ (s : State) (w : FWord) (nfo : Info) (x : Path),
    (FSpec w ≠ 0x13 →
      let f := fun (ln : Lane) => resultIn w.d 1 (specialValue s x ln (FSpec w)) 0 []
      Issues s (.movSpecial w) nfo x { uniform := sDest w.d f } → Yields s (.movSpecial w) nfo x w.d f)
    ∧ (FSpec w = 0x13 →
      let f := fun (ln : Lane) => resultIn w.d 1 (s.flagRead x.w ln.t) 0 []
      (∀ ln : Lane, flagsPermitted x.w ln.t (s.flagRead x.w ln.t))
      ∧ (Issues s (.movSpecial w) nfo x { uniform := sDest w.d f } → Yields s (.movSpecial w) nfo x w.d f))

/-- PLOP and the three forms of PMOV, with every source predicate read before one is written (R398, R399). -/
def Obligations.PredicateWords : Prop :=
  ∀ (s : State) (w : FWord) (nfo : Info) (x : Path),
    let m := w.mods.toNat
    let bit := fun (b : Bool) => if b then 1 else 0
    let yields := fun (i : Instr) (d : Opnd) (f : Lane → LaneRes) =>
      Issues s i nfo x { uniform := sDest d f } → Yields s i nfo x d f
    yields (.plop w) .none (fun (ln : Lane) =>
      let q := fun (o : Opnd) => match o with
        | .imm k => k = 23#5 || ln.t.p.getLsbD (k.toNat - 16)
        | _ => false
      ⟨[], [], [], [(bitsOf m 8 3, m.testBit (4 * bit (q w.a) + 2 * bit (q w.b) + bit (q w.c)))], 0⟩)
    ∧ yields (.pmovToReg w) w.d (fun (ln : Lane) => resultIn w.d 1 (m % 128 &&& ln.t.p.toNat) 0 [])
    ∧ yields (.pmovFromReg w) .none (fun (ln : Lane) =>
      ⟨[], [], [], ((List.range 7).filter m.testBit).map (fun i => (i, (x.read32 ln w.a).testBit i)), 0⟩)
    ∧ yields (.pmovPred w) w.d (fun (ln : Lane) =>
      resultIn w.d 1 (bit (bitsOf m 7 3 ≠ 7 && ln.t.p.getLsbD (bitsOf m 7 3))) 0 [])

/-- A paired word: both halves read registers and predicates as they stood before it, and half 1 reads the latches after half 0's result
has shifted in (R94). -/
def Obligations.PairedWords : Prop :=
  ∀ (s : State) (w : PWord) (nfo : Info) (x : Path),
    let half := fun (h : Half) (t : Thread) =>
      let ty := minorTy h.minor.toNat
      minorOp h.minor.toNat (readOpnd x.old.s t ty h.a) (readOpnd x.old.s t ty h.b)
    let reg := fun (h : Half) (v : Nat) => if h.minor = 0 ∨ h.wbx = true then [] else [(h.d.toNat, [BitVec.ofNat 32 v])]
    let lat := fun (h : Half) (v : Nat) => if h.minor = 0 then [] else [BitVec.ofNat 64 v]
    let flg := fun (h : Half) (v : Nat) => if h.minor = 0 then 0 else v
    let f := fun (ln : Lane) =>
      let r0 := half w.h0 ln.t
      let t1 : Thread := if w.h0.minor = 0 then ln.t
        else { ln.t with l0 := some (BitVec.ofNat 64 r0.1), l1 := ln.t.l0, l2 := ln.t.l1, l3 := ln.t.l2 }
      let r1 := half w.h1 t1
      (⟨reg w.h0 r0.1 ++ reg w.h1 r1.1, [], lat w.h0 r0.1 ++ lat w.h1 r1.1, [], flg w.h0 r0.2 ||| flg w.h1 r1.2⟩ : LaneRes)
    Issues s (.pairedWord w) nfo x {} → Yields s (.pairedWord w) nfo x .none f

/-- FADD, FSUB, FMUL, FFMA, FMIN and FMAX write the one rounding of their exact result under RND, SAT and FTZ and raise its flags; the
immediate forms round to nearest and take no modifier (R331, R332). -/
def Obligations.FloatArithmetic : Prop :=
  (∀ row ∈ floatRows, ∀ (s : State) (w : FWord) (nfo : Info) (x : Path),
    let f := fun (ln : Lane) =>
      let r := floatOp row.2 w.ty (rndOf (FRnd w)) (FSat w) (FFtz w) (x.read ln w.ty w.a) (x.read ln w.ty w.b) (x.read ln w.ty w.c)
      resultIn w.d (regsOf w.ty) r.1 r.2 []
    Issues s (row.1 w) nfo x { uniform := sDest w.d f } → Yields s (row.1 w) nfo x w.d f)
  ∧ ∀ row ∈ floatImmRows, ∀ (s : State) (w : IWord) (nfo : Info) (x : Path),
    let f := fun (ln : Lane) =>
      let r := floatOp row.2 .f32 .rn false false (x.read ln .f32 w.a) w.imm.toNat 0
      resultIn w.d 1 r.1 r.2 []
    Issues s (row.1 w) nfo x { uniform := sDest w.d f } → Yields s (row.1 w) nfo x w.d f

/-- The one rounding into each of the nine formats. A value that is a number of the format is delivered unchanged in every mode, with no flag,
and a normal one also under .ftz; a zero is the zero of its sign (R112, R114). Any other exact value v goes to a multiple of the grid's step that is less
than a step away: the nearest with ties to even, or the one on the mode's side (R114); where that lies above the largest finite value the overflow's
value is delivered with OF and NX (R115), and else that value, with NX where it is not v, and UF where it also lies below the smallest normal; a tiny result
under .ftz is a zero of its sign, with UF and NX (R116). -/
def Obligations.OneRounding : Prop :=
  ∀ f ∈ [fmtOf .h16, fmtOf .bf16, fmtOf .f32, fmtOf .f64, fmtOf .e4m3, fmtOf .e5m2, fmtOf .e3m2, fmtOf .e2m1, w48],
    ∀ (r : Rnd) (sat neg : Bool),
      (∀ (ftz : Bool) (x m : Nat) (e : Int) (k : Nat), x < 2 ^ (1 + f.eb + f.mb) → decodeF f x = .fin neg m e → m ≠ 0 →
        (ftz = true → 2 ^ f.mb ≤ m) → roundF f r sat ftz neg (m * 2 ^ k) (e - k) = (x, 0))
      ∧ (∀ (ftz : Bool) (e : Int), ∃ x, roundF f r sat ftz neg 0 e = (x, 0) ∧ decodeF f x = .fin neg 0 (1 - (f.bias : Int) - (f.mb : Int)))
      ∧ ∀ (m : Nat) (e : Int), m ≠ 0 →
        let v : ℚ := m * 2 ^ e
        let step : ℤ := max (e + (Nat.log2 m : ℤ)) (1 - (f.bias : ℤ)) - (f.mb : ℤ)
        ∃ (n : Nat) (largest : ℚ),
          let y : ℚ := n * 2 ^ step
          (∃ (lm : Nat) (le : Int), decodeF f (largestBits f) = .fin false lm le ∧ largest = lm * 2 ^ le)
          ∧ |y - v| < 2 ^ step
          ∧ (r = .rn → 2 * |y - v| ≤ 2 ^ step ∧ (2 * |y - v| = 2 ^ step → n % 2 = 0))
          ∧ (r = .rz → y ≤ v)
          ∧ (r = .rp → if neg then y ≤ v else v ≤ y)
          ∧ (r = .rm → if neg then v ≤ y else y ≤ v)
          ∧ (largest < y → ∀ ftz : Bool,
              let out : Prop := r = .rn ∨ (r = .rp ∧ neg = false) ∨ (r = .rm ∧ neg = true)
              ((sat = true ∨ ¬ out ∨ f.nan = .absent) → roundF f r sat ftz neg m e = (signBit f neg + largestBits f, fOF + fNX))
              ∧ (sat = false → out → f.inf = true → roundF f r sat ftz neg m e = (infBits f neg, fOF + fNX))
              ∧ (sat = false → out → f.inf = false → f.nan ≠ .absent → roundF f r sat ftz neg m e = (defaultNan f, fOF + fNX)))
          ∧ (y ≤ largest → ∃ (x n' : Nat) (e' : Int), decodeF f x = .fin neg n' e' ∧ (n' : ℚ) * 2 ^ e' = y
              ∧ roundF f r sat false neg m e
                  = (x, (if y = v then 0 else fNX) + (if y ≠ v ∧ y < (2 : ℚ) ^ (1 - (f.bias : ℤ)) then fUF else 0))
              ∧ roundF f r sat true neg m e
                  = if y < (2 : ℚ) ^ (1 - (f.bias : ℤ)) then (signBit f neg, fUF + fNX) else (x, if y = v then 0 else fNX))

/-- FABS clears and FNEG inverts the sign bit of each value, and both keep every other bit and raise no flag; FCLASS and FRND give each value's class
and integral value (R329, R333, R339). FCMP and FCVT: the comparison of the flushed operands to a mask and a predicate, and the conversion, in a
level-1 code object its conformance cell (R105, R334 to R337). FRCP, FRSQ, FSQRT, FEXP2, FLOG2 and FTANH write the one rounding of the exact function;
FRCP.f32 of a level-1 code object is a conformance cell (R105, R122, R338). -/
def Obligations.FloatUnaryWords : Prop :=
  (
    ∀ (s : State) (w : FWord) (nfo : Info) (x : Path),
      let signs := if w.ty = .f64 then 2 ^ 63 else if w.ty = .h16 ∨ w.ty = .bf16 then 2 ^ 31 + 2 ^ 15 else 2 ^ 31
      let a := fun (ln : Lane) => x.read ln w.ty w.a
      let yields := fun (i : Instr) (f : Lane → LaneRes) => Issues s i nfo x { uniform := sDest w.d f } → Yields s i nfo x w.d f
      yields (.fabs w) (fun ln => resultIn w.d (regsOf w.ty) (a ln - (a ln &&& signs)) 0 [])
      ∧ yields (.fneg w) (fun ln => resultIn w.d (regsOf w.ty) (a ln ^^^ signs) 0 [])
      ∧ yields (.fclass w) (fun ln => resultIn w.d 1 (fclassOp w.ty (a ln)) 0 [])
      ∧ yields (.frnd w) (fun ln =>
          let r := frndOp w.ty (rndOf (FRnd w)) (FFtz w) (a ln)
          resultIn w.d (regsOf w.ty) r.1 r.2 []))
  ∧ (
    ∀ (s : State) (w : FWord) (nfo : Info) (x : Path),
      let yields := fun (i : Instr) (f : Lane → LaneRes) => Issues s i nfo x { uniform := sDest w.d f } → Yields s i nfo x w.d f
      yields (.fcmp w) (fun ln =>
        let a := flushIn (fmtOf w.ty) (FFtz w) (x.read ln w.ty w.a)
        let b := flushIn (fmtOf w.ty) (FFtz w) (x.read ln w.ty w.b)
        let holds := fccHolds (bitsOf (FSpec w) 3 4) (relF (fmtOf w.ty) a b)
        resultIn w.d 1 (if holds then 0xFFFFFFFF else 0) (fcmpFlags (fmtOf w.ty) (bitsOf (FSpec w) 3 4) a b) [(FSpec w % 8, holds)])
      ∧ yields (.fcvt w) (fun ln =>
        let r := convert (x.l.hdr.level == 1) w.ty (cvtSrc w) (rndOf (FRnd w)) (FSat w) (FFtz w) (x.read ln (cvtSrc w) w.a)
        resultIn w.d (regsOf w.ty) r.1 r.2 []))
  ∧ (
    (∀ row ∈ specialFnRows, ∀ (s : State) (w : FWord) (nfo : Info) (x : Path),
      let f := fun (ln : Lane) =>
        let r := specialF row.2 w.ty (rndOf (FRnd w)) (FFtz w) (x.read ln w.ty w.a)
        resultIn w.d (regsOf w.ty) r.1 r.2 []
      Issues s (row.1 w) nfo x { uniform := sDest w.d f } → Yields s (row.1 w) nfo x w.d f)
    ∧ ∀ (s : State) (w : FWord) (nfo : Info) (x : Path),
      let f := fun (ln : Lane) =>
        let a := x.read ln w.ty w.a
        let r := if x.l.hdr.level = 1 ∧ w.ty = .f32 then level1Rcp a else specialF .rcp w.ty (rndOf (FRnd w)) (FFtz w) a
        resultIn w.d (regsOf w.ty) r.1 r.2 []
      Issues s (.frcp w) nfo x { uniform := sDest w.d f } → Yields s (.frcp w) nfo x w.d f)

/-- NPACK packs n converted elements into one register, NUNPK reverses it into n registers, and NSCALE chooses a block header (R394 to
R396). -/
def Obligations.PackingWords : Prop :=
  ∀ (s : State) (w : FWord) (nfo : Info) (x : Path),
    let scale := fun (ln : Lane) => signedOf 32 (x.read ln .i32 w.b)
    let regs := fun (ln : Lane) (n : Nat) => match w.a with
      | .v r => (List.range n).map (fun i => (ln.t.v.get 0 (r.toNat + i)).toNat)
      | _ => []
    let yields := fun (i : Instr) (f : Lane → LaneRes) => Issues s i nfo x { uniform := sDest w.d f } → Yields s i nfo x w.d f
    yields (.npack w) (fun ln =>
      let es := (regs ln (packCount w.ty)).map (packOne w.ty (rndOf (FRnd w)) (FSat w) (FFtz w) (scale ln))
      resultIn w.d 1 (es.foldr (fun e acc => e.1 + acc * 2 ^ widthOf w.ty) 0) (es.foldr (fun e acc => e.2 ||| acc) 0) [])
    ∧ yields (.nunpk w) (fun ln =>
      let z := x.read32 ln w.a
      let es := (List.range (packCount w.ty)).map (fun i =>
        toFloatV (fmtOf .f32) (rndOf (FRnd w)) false (FFtz w)
          (scaleV (scale ln) (elementV w.ty (z / 2 ^ (widthOf w.ty * i) % 2 ^ widthOf w.ty))))
      let fl := es.foldl (fun acc e => acc ||| e.2) 0
      match w.d with
      | .v r => ⟨[(r.toNat, es.map (fun e => BitVec.ofNat 32 e.1))], [], [BitVec.ofNat 64 ((es.headD (0, 0)).1)], [], fl⟩
      | _ => ⟨[], [], [], [], fl⟩)
    ∧ yields (.nscale w) (fun ln =>
      let r := nscaleOp w.ty (regs ln 4)
      resultIn w.d 1 r.1 r.2 [])

/-- GSHFL and GBFLY: each participant takes a source lane's value where that lane takes part, else its own, and PV the validity; every source is read
before a lane writes (R340, R341, R346). GRED gives every participant the root of the fixed tree over the lanes, GSCAN the combination of the maximal
aligned blocks below it, and the identity where nothing was combined (R128, R129, R344, R345). GVOTE, GMATCH and GRANK over the participants of the
word (R342, R347). -/
def Obligations.CollectiveWords : Prop :=
  (
    ∀ (s : State) (w : FWord) (nfo : Info) (x : Path),
      let g := 16 * 2 ^ x.l.hdr.gsz
      let who := x.participant w.hd
      let shuffled := fun (ln : Lane) =>
        let j : Int := ln.lane
        let k : Int := x.read32 ln w.b
        let src : Int := match bitsOf (FSpec w) 3 2 with
          | 0 => k
          | 1 => j - k
          | 2 => j + k
          | _ => ((ln.lane ^^^ x.read32 ln w.b : Nat) : Int)
        if 0 ≤ src ∧ src < g then who src.toNat else none
      let swapped := fun (ln : Lane) => who (ln.lane ^^^ 2 ^ (FSpec w % 8))
      let shfl := fun (ln : Lane) =>
        resultIn w.d (regsOf w.ty) (x.read ((shuffled ln).getD ln) w.ty w.a) 0 [(FSpec w % 8, (shuffled ln).isSome)]
      let bfly := fun (ln : Lane) =>
        let r := match swapped ln with
          | some q => x.read q w.ty (if (ln.lane ^^^ 2 ^ (FSpec w % 8)).testBit (FSpec w % 8) then w.a else w.b)
          | none => x.read ln w.ty w.a
        resultIn w.d (regsOf w.ty) r 0 [(bitsOf (FSpec w) 3 3, (swapped ln).isSome)]
      (Issues s (.gshfl w) nfo x { uniform := sDest w.d shfl } → Yields s (.gshfl w) nfo x w.d shfl)
      ∧ (2 ^ (FSpec w % 8) < g → Issues s (.gbfly w) nfo x { uniform := sDest w.d bfly } → Yields s (.gbfly w) nfo x w.d bfly))
  ∧ (
    ∀ (s : State) (w : FWord) (nfo : Info) (x : Path),
      let g := 16 * 2 ^ x.l.hdr.gsz
      let value := fun (ln : Lane) =>
        let v := x.read ln w.ty w.a
        if isFloat w.ty = true ∧ FFtz w = true ∧ isSubnormal (fmtOf w.ty) v = true then flushIn (fmtOf w.ty) true v else v
      let leaf := (List.range g).map (fun j => (x.participant w.hd j).map (fun ln => (value ln, 0)))
      let comb := combineOp (FSpec w % 8) w.ty (rndOf (FRnd w)) (FSat w) (FFtz w)
      let res := fun (v : RVal) =>
        resultIn w.d (regsOf w.ty) ((v.getD (identityOp (FSpec w % 8) w.ty, 0)).1) ((v.getD (identityOp (FSpec w % 8) w.ty, 0)).2) []
      let red := fun (_ : Lane) => res (treeOf comb (4 + x.l.hdr.gsz) leaf)
      let scan := fun (ln : Lane) =>
        res (prefixOf comb (4 + x.l.hdr.gsz) leaf (if (FSpec w).testBit 3 then ln.lane else ln.lane + 1) none)
      (Issues s (.gred w) nfo x { uniform := sDest w.d red } → Yields s (.gred w) nfo x w.d red)
      ∧ (Issues s (.gscan w) nfo x { uniform := sDest w.d scan } → Yields s (.gscan w) nfo x w.d scan))
  ∧ (
    ∀ (s : State) (w : FWord) (nfo : Info) (x : Path),
      let ps := x.exec w.hd
      let truth : Bool := match FSpec w % 4 with
        | 0 => ps.all (fun q => x.read32 q w.a != 0)
        | 1 => ps.any (fun q => x.read32 q w.a != 0)
        | _ => ps.all (fun q => ps.all (fun r => x.read32 q w.a == x.read32 r w.a))
      let ballot := ofBits (fun i => (x.participant w.hd i).any (fun q => x.read32 q w.a != 0)) 64
      let vote := fun (_ : Lane) =>
        if FSpec w % 4 = 3 then resultIn w.d (regsOf w.ty) ballot 0 []
        else resultIn w.d 1 (Bool.toNat truth) 0 [(bitsOf (FSpec w) 2 3, truth)]
      let same := fun (ln q : Lane) => x.read q w.ty w.a == x.read ln w.ty w.a
      let mtch := fun (ln : Lane) =>
        resultIn w.d (if FSpec w % 2 = 1 then 2 else 1) (ofBits (fun i => (x.participant w.hd i).any (same ln)) 64) 0 []
      let rank := fun (ln : Lane) =>
        resultIn w.d 1 (ps.countP (fun q => same ln q && (FSpec w % 2 = 1 || decide (q.lane < ln.lane)))) 0 []
      (¬ (FSpec w % 4 = 3 ∧ w.ty = .b32 ∧ 16 * 2 ^ x.l.hdr.gsz = 64) →
        Issues s (.gvote w) nfo x { uniform := sDest w.d vote } → Yields s (.gvote w) nfo x w.d vote)
      ∧ (¬ (FSpec w % 2 = 0 ∧ 16 * 2 ^ x.l.hdr.gsz = 64) →
        Issues s (.gmatch w) nfo x { uniform := sDest w.d mtch } → Yields s (.gmatch w) nfo x w.d mtch)
      ∧ (Issues s (.grank w) nfo x { uniform := sDest w.d rank } → Yields s (.grank w) nfo x w.d rank))

/-! ## Words that move and block threads -/

/-- JOIN, LEAVE, KMOV, KAND, KOR and KSET write one mask of the group from masks as the ck found them, and KRD reads one (R38, R360 to R363). KWAIT
blocks the executing lanes at the word on its mask and owes the mask's test; the mask's test then lets the threads of every satisfied mask go on past
their words, and no other thread (R38, R39, R361). -/
def Obligations.MaskWords : Prop :=
  (
    ∀ (s : State) (w : FWord) (nfo : Info) (x : Path),
      let writes := fun (i : Instr) (ck : Checks) (k : Nat) (f : BitVec 64 → BitVec 64) =>
        Issues s i nfo x ck → Does s i x w.hd.hold (fun _ => x.cur.pc + 8) (fun ln => ln.t) s (x.w.setK x.g.gid k f)
      let narrow := w.ty = .b32 ∧ 16 * 2 ^ x.l.hdr.gsz = 64
      writes (.join w) {} (maskNum w.a) (fun k => k ||| x.execMask w.hd)
      ∧ writes (.leave w) {} (maskNum w.a) (fun k => k &&& ~~~ x.execMask w.hd)
      ∧ writes (.kmov w) {} (maskNum w.c) (fun _ => x.mask w.a)
      ∧ writes (.kand w) {} (maskNum w.c) (fun _ => x.mask w.a &&& x.mask w.b)
      ∧ writes (.kor w) {} (maskNum w.c) (fun _ => x.mask w.a ||| x.mask w.b)
      ∧ (¬ narrow → ∀ ln, (x.exec w.hd).head? = some ln →
          writes (.kset w) { uniform := [(1, fun ln => x.read ln w.ty w.a)] } (maskNum w.c)
            (fun _ => BitVec.ofNat 64 (ofBits (fun j => (x.read ln w.ty w.a).testBit j && (liveLanes x.w x.g).contains j) 64)))
      ∧ (¬ narrow →
          let f := fun (_ : Lane) => resultIn w.d (regsOf w.ty) ((x.mask w.a).toNat % 2 ^ (16 * 2 ^ x.l.hdr.gsz)) 0 []
          Issues s (.krd w) nfo x { uniform := sDest w.d f } → Yields s (.krd w) nfo x w.d f))
  ∧ (
    (∀ (s : State) (w : FWord) (nfo : Info) (x : Path), Issues s (.kwait w) nfo x {} →
      ∃ t, exec (.kwait w) s = .next t ∧ Keeps s t x
        ∧ Acts t x w.hd.hold (blockedAt x w.hd) (blocked w.hd (fun _ => .kwait (maskNum w.a))) x.w ∧ Due.kwait x.w.wid x.g.gid ∈ t.due)
    ∧ ∀ (s : State) (wid gid : Nat) (w : WG) (g : Group), s.wg? wid = some w → w.group? gid = some g →
      let free := fun (th : Thread) => th.kwaits.any (fun k => k < 12 && kSatisfied w g k)
      let t := s.modWG wid (fun v => v.modThreads (fun i th => if (groupTids w g).contains i && free th then th.release else th))
      ∃ v, exec (.kwaitRelease wid gid) s = .next t ∧ ({ t with wgs := s.wgs } : State) = s
        ∧ (∀ i, i ≠ wid → t.wg? i = s.wg? i) ∧ t.wg? wid = some v ∧ ({ v with threads := w.threads } : WG) = w
        ∧ ∀ tid, v.threads[tid]? = (w.threads[tid]?).map (fun (th : Thread) =>
            match th.kwaits with
            | some k => if (groupTids w g).contains tid ∧ k < 12 ∧ kSatisfied w g k = true then th.release else th
            | none => th))

/-- BRA, BRX, CALL and RET move each executing lane to its target, the calls with the return address in the link pair (R311, R312, R406, R408). SWITCH
with m table words behind it, each an immediate and an offset: a lane goes to the offset of the lowest entry that equals its value, else, and where it
does not execute, past the table; a SWITCH that no lane executes passes over its table too (R33, R37, R92, R419, R420). -/
def Obligations.BranchWords : Prop :=
  (
    ∀ (s : State) (w : FWord) (k : IWord) (nfo : Info) (x : Path),
      let moves := fun (i : Instr) (hd : Head) (link : Opnd) (target : Lane → Nat) =>
        let ck : Checks := { lane := fun ln => if target ln % 8 ≠ 0 then [13] else [], target := some target }
        Issues s i nfo x ck → (∀ ln ∈ x.exec hd, target ln < 2 ^ 56) →
        Does s i x hd.hold (fun ln => if ln.t.executes hd then target ln else x.cur.pc + 8)
          (fun ln => if ln.t.executes hd then
            match link with
            | .v r => ln.t.setV r.toNat [BitVec.ofNat 32 (x.cur.pc + 8), BitVec.ofNat 32 ((x.cur.pc + 8) / 2 ^ 32)]
            | _ => ln.t
            else ln.t) s x.w
      let relative := fun (_ : Lane) => (((x.cur.pc : Int) + k.imm.toInt) % 2 ^ 64).toNat
      moves (.bra k) k.hd .none relative
      ∧ moves (.call k) k.hd k.d relative
      ∧ moves (.brx w) w.hd w.d (fun ln => x.pair ln w.a)
      ∧ moves (.ret w) w.hd .none (fun ln => x.pair ln w.a))
  ∧ (
    ∀ (s : State) (w : FWord) (nfo : Info) (x : Path) (table : List DWord),
      let m := FSpec w % 8 + 1
      let goes := fun (e : DWord) => (((x.cur.pc : Int) + (e.setWidth 32).toInt) % 2 ^ 64).toNat
      let pick := fun (v : Nat) => match table.find? (fun e => (e.extractLsb' 32 32).toNat = v) with
        | some e => goes e
        | none => x.cur.pc + 8 * (m + 1)
      table.length = m → (∀ j e, table[j]? = some e → s.fetch x.l (x.cur.pc + 8 * (j + 1)) = .word e) →
      (∀ e ∈ table, (e.setWidth 32).toNat % 8 = 0 ∧ goes e < 2 ^ 56) →
      Issues s (.switch w) nfo x {} →
      Does s (.switch w) x w.hd.hold
        (fun ln => if ln.t.executes w.hd then pick (x.read32 ln w.a) else x.cur.pc + 8 * (m + 1)) (fun ln => ln.t) s x.w)
  ∧ (
    ∀ (s : State) (w : FWord) (nfo : Info) (x : Path) (table : List DWord),
      let m := FSpec w % 8 + 1
      table.length = m → (∀ j e, table[j]? = some e → s.fetch x.l (x.cur.pc + 8 * (j + 1)) = .word e) →
      (∀ e ∈ table, (e.setWidth 32).toNat % 8 = 0) → info (.switch w) = some nfo → s.path = some x →
      s.readyWord (.switch w) nfo x = true → (s.ctx x.ctx).dbg.breakAt x.cur.pc = none → s.firstTrap (.switch w) x nfo {} = none →
      x.exec w.hd = [] →
      Does s (.switch w) x w.hd.hold (fun _ => x.cur.pc + 8 * (m + 1)) (fun ln => ln.t) s x.w)

/-- NOP, YIELD, and BKPT where no agent holds the debug right, advance every lane; NOP and BKPT do nothing else, and YIELD ends the group's
issue opportunity and is a switch point of a deterministic launch (R46, R309, R393, R431). PREF advances every lane and changes no value: for each executing
lane whose address passes the checks, the home slice holds the lane's line, marked first for eviction where CP says so, and writes back one
that another key holds; a lane whose check fails does nothing (R178, R400). The way that the line takes is the model's choice (log entry 94). -/
def Obligations.AdvanceWords : Prop :=
  (
    ∀ (s : State) (w : FWord) (k : MWord) (nfo : Info) (x : Path),
      let advances := fun (i : Instr) (hd : Head) (m : State) =>
        Issues s i nfo x {} → Does s i x hd.hold (fun _ => x.cur.pc + 8) (fun ln => ln.t) m x.w
      let va := fun (ln : Lane) => (((x.pair ln k.a : Int) + k.ofs.toInt) % 2 ^ 64).toNat
      let fetched := (x.exec k.hd).foldl (fun (m : State) ln =>
        match s.access x.ctx (va ln) 1 1 true false false with
        | .ok (t :: _) => m.prefetch t.key (t.pa / 128) (k.cp == 1#2)
        | _ => m) s
      advances (.nop w) w.hd s
      ∧ (Issues s (.yield w) nfo x {} → ∃ t, exec (.yield w) s = .next t
          ∧ Keeps { s with issue := s.issue.filter (fun c => !(c.wid == x.w.wid && c.gid == x.g.gid)) } t x
          ∧ Acts t x w.hd.hold (fun _ => x.cur.pc + 8) (fun ln => ln.t) x.w
          ∧ (t.core x.w.core).running = if x.l.isDet then none else (s.core x.w.core).running)
      ∧ ((s.ctx x.ctx).dbg.holder = none → advances (.bkpt w) w.hd s)
      ∧ advances (.pref k) k.hd fetched
      ∧ ({ fetched with ways := s.ways, struckWays := s.struckWays, evictFirst := s.evictFirst, tags := s.tags, free := s.free } : State) = s)
  ∧ ∀ (s : State) (key line : Nat) (first : Bool), isLocal (line * 128) = true → (s.waysAt (s.setOf line)).length = 16 →
      (∃ i, i < 16 ∧ (s.setOf line / 1024, i) ∉ s.quarantined ∧ s.struckWays.get 0 (s.setOf line) ≠ i + 1) →
      let t := s.prefetch key line first
      line + 1 ∈ t.waysAt (s.setOf line)
      ∧ (∀ set, set ≠ s.setOf line → t.waysAt set = s.waysAt set)
      ∧ (∀ l, l + 1 ∈ s.waysAt (s.setOf line) → l + 1 ∈ t.waysAt (s.setOf line)
          ∨ ((∀ i, i < 16 → (s.setOf line / 1024, i) ∉ s.quarantined → s.struckWays.get 0 (s.setOf line) ≠ i + 1 → (s.waysAt (s.setOf line)).getD i 0 ≠ 0)
            ∧ line + 1 ∉ s.waysAt (s.setOf line) ∧ t.tags.get 0 l = 0))
      ∧ (first = true → line ∈ t.evictFirst)
      ∧ (s.mem.keys.get .none line ≠ .none → s.mem.keys.get .none line ≠ s.mem.keyOf key → t.tags.get 0 line = 0)

/-- REGROUP: each executing lane's thread goes to the pool with its target PC, p0 to p6, its stage and v0 to v(n - 1), leaves its lane empty and
clears its bit in every mask; nothing else of a thread or a group changes (R39, R41, R406, R407). EXIT: the executing lanes' threads exit at the
word in their turn, up to the first that still waits for a load or a reply; their lanes are empty, their bits leave every mask, and groups without
threads give up their entries; the executing lanes from that one on stay at the word (R7, R328), and the lanes whose predicate is false advance without waiting for them (R33). That a lane that stays passes no
breakpoint again is the model's reading (log entry 112). -/
def Obligations.RegroupAndExit : Prop :=
  (
    ∀ (s : State) (w : RegroupWord) (nfo : Info) (x : Path),
      let target := (((x.cur.pc : Int) + w.imm.toInt) % 2 ^ 64).toNat
      let ex := fun (j : Nat) => (x.exec w.hd).any (fun ln => ln.lane == j)
      let gone := fun (g : Group) =>
        { g.clearBits (x.execMask w.hd) with lanes := g.lanes.mapIdx (fun j o => if ex j then none else o) }
      w.n.toNat ≤ x.l.hdr.regs → target < 2 ^ 56 → Issues s (.regroup w) nfo x {} →
      ∃ t v, exec (.regroup w) s = .next t ∧ Keeps s t x ∧ t.wg? x.w.wid = some v
        ∧ ({ v with threads := x.w.threads } : WG) = x.w.modGroup x.g.gid gone
        ∧ (∀ tid, x.laneOf tid = none → v.threads[tid]? = x.w.threads[tid]?)
        ∧ ∀ tid ln, x.laneOf tid = some ln → ∃ b, v.threads[tid]? = some b ∧
            if ln.t.executes w.hd then b = { ln.t.deposit target w.n.toNat with stage := x.g.stage }
            else Moved w.hd.hold (x.cur.pc + 8) ln.t b)
  ∧ (
    ∀ (s : State) (w : FWord) (nfo : Info) (x : Path),
      let ready := fun (ln : Lane) => ln.t.loads.isEmpty && ln.t.slot.isNone
      let out := (x.exec w.hd).takeWhile ready
      let late := (x.exec w.hd).dropWhile ready
      let has := fun (ls : List Lane) (tid : Nat) => ls.any (fun ln => ln.tid == tid)
      let mask := BitVec.ofNat 64 (ofBits (fun j => out.any (fun ln => ln.lane == j)) 64)
      let gone := fun (g : Group) =>
        { g.clearBits mask with lanes := g.lanes.mapIdx (fun j o => if out.any (fun ln => ln.lane == j) then none else o) }
      let left := { x.w.modGroup x.g.gid gone with
        threads := x.w.threads.mapIdx (fun i (t : Thread) => if has out i then { t with run := .exited } else t) }
      x.w.poisonedBar (x.l.hdr.scr * 8192) = none → Issues s (.exit w) nfo x {} →
      ∃ t v, exec (.exit w) s = .next t ∧ Keeps s t x ∧ t.wg? x.w.wid = some v
        ∧ ({ v with threads := x.w.threads } : WG) = { left.dropEmpty with threads := x.w.threads }
        ∧ (out ≠ [] ∨ ∃ ln ∈ x.lanes, ln.t.executes w.hd = false)
        ∧ (∀ tid, x.laneOf tid = none → v.threads[tid]? = x.w.threads[tid]?)
        ∧ ∀ tid ln, x.laneOf tid = some ln → ∃ b, v.threads[tid]? = some b ∧
            if has out tid then Moved w.hd.hold x.cur.pc { ln.t with run := .exited } b
            else if has late tid then b = { ln.t with skip := true }
            else Moved w.hd.hold (x.cur.pc + 8) ln.t b)

/-! ## Loads and stores -/

/-- A byte of a load in its thread's view: the latest covering store that was taken, where every covering store that precedes the load is taken, else
the snapshot's byte (R181); a store is taken for all the bytes of a 32-byte sector that the load reads or for none (R179). A store enters the core's order before no store that precedes it,
that has been published, or that a lower lane of its word made, and the order of the other stores stays (R179, R180). Lists are given from their end on.
That a published store stays in the list, for the threads that its core's snapshot does not show it to, and that a load decides by sector which
unordered stores it takes are the model's (log entry 21). -/
def Obligations.ThreadsView : Prop :=
  (
    ∀ (s : State) (x : Path) (ln : Lane) (free : Nat) (pas : List (Nat × Nat)) (j pa key : Nat), pas[j]? = some (pa, key) →
      let us := (s.core x.w.core).ulist
      let snap := s.snapOf x.w.core
      let covers := fun (u : UStore) => (u.byte snap key pa).isSome = true
      let must := fun (u : UStore) => u.precedes (x.uid ln) ln.t.vc = true
      ∃ b, (s.loadBytes x ln free pas).bytes[j]? = some b ∧
        ((b = snap.read key pa ∧ ∀ u ∈ us, covers u → ¬ must u)
         ∨ ∃ l₁ u l₂, us = l₁ ++ u :: l₂ ∧ u.byte snap key pa = some b ∧ ∀ e ∈ l₂, covers e → ¬ must e))
  ∧ (
    ∀ (s : State) (x : Path) (ln : Lane) (free : Nat) (pas : List (Nat × Nat)) (sector : Nat),
      let us := (s.core x.w.core).ulist
      let snap := s.snapOf x.w.core
      ∃ taken : Nat → Bool, (∀ (i : Nat) (u : UStore), us[i]? = some u → u.precedes (x.uid ln) ln.t.vc = true → taken i = true)
        ∧ ∀ (j pa key : Nat), pas[j]? = some (pa, key) → pa / 32 = sector →
            (s.loadBytes x ln free pas).bytes[j]? = some (((us.zipIdx.filter (fun e => taken e.2)).filterMap
              (fun e => e.1.byte snap key pa)).getLastD (snap.read key pa)))
  ∧ (
    ∀ (free : Nat) (word : List (Nat × Nat)) (u : UStore) (vc : Clock) (es : List UStore),
      ∃ l₁ l₂, placeStore free word u vc es = l₁ ++ u :: l₂ ∧ es = l₁ ++ l₂
        ∧ ∀ e ∈ l₁, e.precedes u.uid vc = false ∧ e.pub = false ∧ (e.uid, e.seq) ∉ word)

/-- LD and global LDB: each executing lane reads its bytes in its thread's view at issue, counts the access, and owes its destination; an
s destination gathers its lanes (R48, R181, R182, R367 to R369, R372, R374). That the value is fixed at the issue is the model's choice (log
entry 22). -/
def Obligations.GlobalLoads : Prop :=
  ∀ (s : State) (i : Instr) (w : MWord) (nfo : Info) (x : Path) (tr : Lane → List Trans),
    let n := memBytes w.width.toNat
    let va := fun (ln : Lane) => (((x.pair ln w.a : Int) + w.ofs.toInt) % 2 ^ 64).toNat
    let pas := fun (ln : Lane) => placeBytes (va ln) n (tr ln)
    let ex := x.exec w.hd
    (i = .ld w ∨ (i = .ldb w ∧ w.space ≠ 1#3)) →
    (∀ ln ∈ ex, s.access x.ctx (va ln) n (globalAlign w.width.toNat) true false false = .ok (tr ln)) →
    s.watched x false true false (fun ln => rangeBytes (va ln) n) ex = [] →
    Issues s i nfo x {} →
    ∃ k : Lane → Nat, Does s i x w.hd.hold (fun _ => x.cur.pc + 8)
      (fun ln =>
        let ld := s.loadBytes x ln (k ln) (pas ln)
        if ln.t.executes w.hd then
          { ln.t with seq := ln.t.seq + 1, obs := ld.obs, acq := ld.acq,
                      loads := ln.t.loads ++ [⟨x.cur.pc, w.d, loadWords w.width.toNat w.sx ld.bytes, isS w.d, va ln,
                        (pas ln).findSome? (fun p => s.poisoned p.1 1), (tr ln).map (fun t => t.pa)⟩] }
        else ln.t) s
      (if isS w.d then x.w.modGroup x.g.gid (fun g => { g with gathers := g.gathers ++ [⟨x.cur.pc, w.d, ex.map (fun ln => ln.tid), []⟩] })
       else x.w)

/-- ST and global STB: the stores of the executing lanes enter the core's order in ascending %lane, each page takes the context's checkpoint
generation, and every other byte of M stays (R174, R179, R180, R182, R412 to R414). That an STB word with its block of registers is legal is the
model's reading (log entry 16). -/
def Obligations.GlobalStores : Prop :=
  ∀ (s : State) (i : Instr) (w : MWord) (nfo : Info) (x : Path) (tr : Lane → List Trans),
      let n := memBytes w.width.toNat
      let va := fun (ln : Lane) => (((x.pair ln w.a : Int) + w.ofs.toInt) % 2 ^ 64).toNat
      let ex := x.exec w.hd
      let word := ex.map (fun ln => (x.uid ln, ln.t.seq + 1))
      let m := ex.foldl (fun (m : State) ln => ((tr ln).foldl (fun m t => m.setDgen x.ctx t) m).addStore x.w.core x.l.lid x.ctx (x.uid ln) word
        ln.t (placeBytes (va ln) n (tr ln)) (bytesOf n (storeVal x w ln))) s
      (i = .st w ∨ (i = .stb w ∧ w.space ≠ 1#3)) →
      (∀ ln ∈ ex, s.access x.ctx (va ln) n (globalAlign w.width.toNat) false true false = .ok (tr ln)) →
      s.watched x false false true (fun ln => rangeBytes (va ln) n) ex = [] →
      Issues s i nfo x {} →
      Does s i x w.hd.hold (fun _ => x.cur.pc + 8)
        (fun ln => if ln.t.executes w.hd then { ln.t with seq := ln.t.seq + 1 } else ln.t) m x.w
      ∧ ∀ a, (∀ ln ∈ ex, ∀ t ∈ tr ln, a ≠ t.ea + 1) → m.mem.bytes.get unlisted a = s.mem.bytes.get unlisted a

/-- What a scratchpad store leaves: a load of the same place gives the stored bits, and every byte that the access does not touch reads as before
(R135, R136). LDS and scratchpad LDB: every executing lane reads the window as it stood before the word, counts the access and acquires what the bytes
carry; an s destination takes the value on which the lanes agree (R48, R135 to R137, R368, R370, R372). STS and scratchpad STB: the executing lanes store in ascending
%lane, so that the highest stands, and every byte that none of them touches stays (R136, R137, R182, R415). That an STB word with its block of
registers is legal, and that bytes carry the fence clock of their store, are the model's readings (log entries 16 and 80). -/
def Obligations.ScratchpadWords : Prop :=
  (
    ∀ (m : SMap Byte) (w : MWord) (a v : Nat), (w.ori = true → w.ew.toNat ≤ 2 ∧ w.width.toNat ≤ 4) → scrAligned w a = true →
      scrLoad (scrStore m w a v) w a = v % 2 ^ (8 * memBytes w.width.toNat)
      ∧ ∀ b, b ∉ scrBytes w a → winByte (scrStore m w a v) b = winByte m b)
  ∧ (
    ∀ (s : State) (i : Instr) (w : MWord) (nfo : Info) (x : Path),
      let adr := fun (ln : Lane) => (x.read32 ln w.a : Int) + w.ofs.toInt
      let bytes := fun (ln : Lane) => scrBytes w (adr ln).toNat
      let ex := x.exec w.hd
      let r := scrResult x w
      let hit := fun (ln : Lane) => { ln.t with seq := ln.t.seq + 1, acq := Clock.join ln.t.acq (x.w.relOf (bytes ln)) }
      (i = .lds w ∨ (i = .ldb w ∧ w.space = 1#3)) →
      (∀ ln ∈ ex, 0 ≤ adr ln ∧ adr ln + memBytes w.width.toNat ≤ x.l.hdr.scr * 8192 ∧ scrAligned w (adr ln).toNat = true) →
      (isS w.d = true → ∀ a ∈ ex, ∀ b ∈ ex, (r a).s = (r b).s) →
      s.watched x true true false bytes ex = [] →
      Issues s i nfo x {} →
      Does s i x w.hd.hold (fun _ => x.cur.pc + 8)
        (fun ln => if ln.t.executes w.hd then (r ln).apply (nfo.shifts) (hit ln) else ln.t.shiftStale (shiftCount i nfo)) s
        (match ex with | ln :: _ => x.w.setS x.g.gid w.d (r ln).s | [] => x.w))
  ∧ (
    ∀ (s : State) (i : Instr) (w : MWord) (nfo : Info) (x : Path),
      let adr := fun (ln : Lane) => (x.read32 ln w.a : Int) + w.ofs.toInt
      let bytes := fun (ln : Lane) => scrBytes w (adr ln).toNat
      let ex := x.exec w.hd
      let win := ex.foldl (fun m ln => scrStore m w (adr ln).toNat (storeVal x w ln)) x.w.win
      let wrel := ex.foldl (fun m ln => (bytes ln).foldl (fun m b => SMap.put [] m b (Clock.join (m.get [] b) ln.t.fvc)) m) x.w.wrel
      (i = .sts w ∨ (i = .stb w ∧ w.space = 1#3)) →
      (∀ ln ∈ ex, 0 ≤ adr ln ∧ adr ln + memBytes w.width.toNat ≤ x.l.hdr.scr * 8192 ∧ scrAligned w (adr ln).toNat = true
        ∧ ∀ b ∈ bytes ln, b < bermOf (x.l.hdr.scr * 8192)) →
      s.watched x true false true bytes ex = [] →
      Issues s i nfo x {} →
      Does s i x w.hd.hold (fun _ => x.cur.pc + 8)
        (fun ln => if ln.t.executes w.hd then { ln.t with seq := ln.t.seq + 1 } else ln.t) s { x.w with win := win, wrel := wrel }
      ∧ ∀ b, (∀ ln ∈ ex, b ∉ bytes ln) → winByte win b = winByte x.w.win b)

/-! ## Words that send requests -/

/-- ATOM and LRCALL send one request for each executing lane, with consecutive ordinals, a DET page's to the reorder window, and take the
lane's return slot (R74, R203, R204, R213, R301, R302). Where the window holds its 256 requests and no lane's request has the frontier's key, lanes that
would send to a DET page wait at the word, and the others advance (R213); what of a word waits is the model's reading (log entry 28). -/
def Obligations.RoutineCalls : Prop :=
  ∀ (s : State) (w : FWord) (nfo : Info) (x : Path) (tr : Lane → Trans),
    let ex := x.exec w.hd
    let sends := fun (i : Instr) (n : Nat) (wr ld : Bool) (kind : ReqKind) (r regs : Nat) (opnds : Lane → List DWord) =>
      let rs := ex.map (fun ln => x.request kind r (opnds ln) w.d (x.pair ln w.a) (tr ln) (tr ln).det ln)
      (∀ ln ∈ ex, s.access x.ctx (x.pair ln w.a) n n true wr false = .ok [tr ln]) →
      s.watched x false true true (fun ln => rangeBytes (x.pair ln w.a) n) ex = [] →
      Issues s i nfo x {} →
      (x.l.window.length + (ex.filter (fun ln => (tr ln).det)).length ≤ 256 →
        Does s i x w.hd.hold (fun _ => x.cur.pc + 8)
          (fun ln => if ln.t.executes w.hd then
            { ln.t with slot := some ⟨w.d, regs, ld⟩, detc := ln.t.detc + if (tr ln).det then 1 else 0 } else ln.t)
          (s.sendAll rs) (if rs.any (fun r => r.det) then { x.w with noRelaunch := true } else x.w))
      ∧ (256 ≤ x.l.window.length → (∀ ln ∈ ex, (tr ln).det = true) →
        (∀ ln ∈ ex, s.frontierOf x.l ≠ some (ln.t.phc, x.w.wgid, ln.tid, ln.t.detc)) →
        ∃ t v, exec i s = .next t ∧ Keeps s t x ∧ t.wg? x.w.wid = some v ∧ ({ v with threads := x.w.threads } : WG) = x.w
          ∧ (∀ tid, x.laneOf tid = none → v.threads[tid]? = x.w.threads[tid]?)
          ∧ ∀ tid ln, x.laneOf tid = some ln → ∃ b, v.threads[tid]? = some b ∧
              if ln.t.executes w.hd then b = { ln.t with skip := true } else Moved w.hd.hold (x.cur.pc + 8) ln.t b)
    sends (.atom w) (widthOf w.ty / 8) (FSpec w % 32 != 28) (FSpec w % 32 == 28) (.atom (is64 w.ty)) (atomRoutine w) (regsOf w.ty) (atomOpnds x w)
    ∧ sends (.lrcall w) (lrAlign (bitsOf w.mods.toNat 0 7)) true false .lrcall (bitsOf w.mods.toNat 0 7) 3 (lrOpnds x w)

/-- ATOM to the scratchpad: the executing lanes in ascending %lane, each reading what the lane before it left; the old values reach d at
once and the flags the flag word (R131, R303). That it counts as a load and a store for precedence, and the clocks that its bytes carry, are the
model's reading (log entry 80). -/
def Obligations.ScratchpadAtomics : Prop :=
  ∀ (s : State) (w : FWord) (nfo : Info) (x : Path),
    let n := widthOf w.ty / 8
    let adr := fun (ln : Lane) => x.read32 ln w.a
    let bytes := fun (ln : Lane) => (List.range n).map (adr ln + ·)
    let ex := x.exec w.hd
    let one := fun (win : SMap Byte) (ln : Lane) =>
      let old := natOfBytes (win.getN 0 (adr ln) n)
      (old, atomOp (FSpec w % 32) old ((atomOpnds x w ln).getD 0 0).toNat ((atomOpnds x w ln).getD 1 0).toNat)
    let after := fun (ls : List Lane) => ls.foldl (fun win ln => SMap.putAll 0 win (adr ln) (bytesOf n (one win ln).2.1)) x.w.win
    let found := fun (ln : Lane) => one (after (ex.takeWhile (fun q => q.lane != ln.lane))) ln
    let fl := ex.foldl (fun a ln => a ||| (found ln).2.2) 0
    let hit := fun (ln : Lane) => { ln.t with seq := ln.t.seq + 2, acq := Clock.join ln.t.acq (x.w.relOf (bytes ln)) }
    let wrel := ex.foldl (fun m ln => (bytes ln).foldl (fun m b => SMap.put [] m b (Clock.join (m.get [] b) ln.t.fvc)) m) x.w.wrel
    (∀ ln ∈ ex, scrFault (x.l.hdr.scr * 8192) (bytes ln) (adr ln % n == 0) true = 0) →
    s.watched x true true true bytes ex = [] →
    (ex.map (fun ln => ln.lane)).Nodup → (ex.map (fun ln => ln.tid)).Nodup →
    Issues s (.atomScr w) nfo x {} →
    Does s (.atomScr w) x w.hd.hold (fun _ => x.cur.pc + 8)
      (fun ln => if ln.t.executes w.hd then ((hit ln).replied w.d (wordsOf (regsOf w.ty) (found ln).1)).knows x.w fl else ln.t) s
      { x.w with win := after ex, wrel := wrel, flags := x.w.flags ||| BitVec.ofNat 32 fl }

/-- LDA, WAKE and WAITV send a request to the home slice for each executing lane, which takes no ordinal and no place in the reorder
window, and take its return slot; WAITV blocks its lanes (R229, R230, R371, R427, R428). That LDA and WAITV take neither is the model's reading (log entry
28). -/
def Obligations.SliceReads : Prop :=
  ∀ (s : State) (nfo : Info) (x : Path) (tr : Lane → Trans),
    (∀ w : MWord,
      let n := memBytes w.width.toNat
      let va := fun (ln : Lane) => (((x.pair ln w.a : Int) + w.ofs.toInt) % 2 ^ 64).toNat
      let ex := x.exec w.hd
      let rs := ex.map (fun ln => x.request (.lda w.width.toNat w.sx (isS w.d)) 0 [] w.d (va ln) (tr ln) false ln)
      (∀ ln ∈ ex, s.access x.ctx (va ln) n (globalAlign w.width.toNat) true false false = .ok [tr ln]) →
      s.watched x false true false (fun ln => rangeBytes (va ln) n) ex = [] →
      Issues s (.lda w) nfo x {} →
      Does s (.lda w) x w.hd.hold (fun _ => x.cur.pc + 8)
        (fun ln => if ln.t.executes w.hd then { ln.t with slot := some ⟨w.d, memRegs w.width.toNat, true⟩ } else ln.t)
        (rs.foldl State.toSlice s)
        (if isS w.d then x.w.modGroup x.g.gid (fun g => { g with gathers := g.gathers ++ [⟨x.cur.pc, w.d, ex.map (fun ln => ln.tid), []⟩] })
         else x.w))
    ∧ (∀ w : FWord,
      let ex := x.exec w.hd
      let rs := ex.map (fun ln => x.request .wake 0 [] .none (x.pair ln w.a) (tr ln) false ln)
      (∀ ln ∈ ex, s.access x.ctx (x.pair ln w.a) 1 1 true false false = .ok [tr ln]) →
      Issues s (.wake w) nfo x {} →
      Does s (.wake w) x w.hd.hold (fun _ => x.cur.pc + 8)
        (fun ln => if ln.t.executes w.hd then { ln.t with slot := some ⟨.none, 0, false⟩ } else ln.t) (rs.foldl State.toSlice s) x.w)
    ∧ (∀ w : FWord,
      let n := widthOf w.ty / 8
      let ex := x.exec w.hd
      let rs := ex.map (fun ln => x.request (.waitv (is64 w.ty)) 0 [] w.d (x.pair ln w.a) (tr ln) false ln)
      let z := fun (ln : Lane) =>
        ({ va := x.pair ln w.a, pa := (tr ln).pa, key := (tr ln).key, w64 := is64 w.ty, cmp := BitVec.ofNat 64 (x.read ln w.ty w.b), d := w.d,
           start := s.ck, since := s.ck, interval := 0, mon := false, woken := false, reading := true, last := 0 } : WaitV)
      (∀ ln ∈ ex, s.access x.ctx (x.pair ln w.a) n n true false false = .ok [tr ln]) →
      s.watched x false true false (fun ln => rangeBytes (x.pair ln w.a) n) ex = [] → (ex.map (fun ln => ln.tid)).Nodup →
      Issues s (.waitv w) nfo x {} →
      Does s (.waitv w) x w.hd.hold (blockedAt x w.hd)
        (fun ln => if ln.t.executes w.hd then { ln.t with slot := some ⟨w.d, regsOf w.ty, true⟩, run := .wait (.waitv (z ln)) } else ln.t)
        (rs.foldl State.toSlice s) x.w)

/-- LRDEF publishes the image's line and reads it from M; a number above 63 or a broken image gives its status, else the entry is written
with VALID set and VER one more; LRDROP clears VALID and increases VER (R199 to R201, R205, R206, R377, R378). After the write memory holds the new
entry, no slice keeps an old one of the routine and each keeps the others, and no byte of another line changes but the page-table entry's DGEN (R202,
R205, R206); that LRDEF and LRDROP write DGEN is the model's reading (log entry 26). -/
def Obligations.RoutineDefinitions : Prop :=
  (∀ (s : State) (ctx r : Nat) (e : Trans) (f : Nat → Nat), e.pa % 128 = 0 →
    let m := s.writeEntry ctx r e f
    let old := fun (c : CachedEntry) => c.ctx = ctx ∧ c.r = r
    m.mem.readN e.key e.pa 128 = bytesOf 128 (f (natOfBytes (s.mem.readN e.key e.pa 128)))
    ∧ (∀ a, a / 128 ≠ e.pa / 128 → a ≠ e.ea + 1 → m.mem.bytes.get unlisted a = s.mem.bytes.get unlisted a)
    ∧ (∀ p ∈ m.rcache, ∀ c ∈ p.2, ¬ old c)
    ∧ ∀ p ∈ s.rcache, ∀ c ∈ p.2, ¬ old c → ∃ q ∈ m.rcache, q.1 = p.1 ∧ c ∈ q.2)
  ∧ ∀ (s : State) (w : FWord) (nfo : Info) (x : Path) (ln : Lane) (tr e : Trans),
    let r := x.read32 ln w.b
    let va := x.pair ln w.a
    let s1 := s.publishLine x.w.core (x.clocks (x.exec w.hd)) (tr.pa / 128)
    let img := natOfBytes (s1.mem.readN tr.key tr.pa 128)
    let ends := fun (i : Instr) (m : State) (status : Nat) =>
      Does s i x w.hd.hold (fun _ => x.cur.pc + 8) (fun ln => ln.t) m (x.w.setS x.g.gid w.d [BitVec.ofNat 32 status])
    let entry := fun (m : State) => m.checkPage x.ctx (m.entryVa x.ctx r) true false false = .ok e
    (x.exec w.hd).head? = some ln →
    (s.access x.ctx va 128 128 true false false = .ok [tr] → s.poisoned tr.pa 128 = none →
      Issues s (.lrdef w) nfo x { uniform := [(1, fun ln => x.pair ln w.a), (2, fun ln => x.read32 ln w.b)] } →
      (64 ≤ r → ends (.lrdef w) s1 1)
      ∧ (r < 64 → imageStatus img ≠ 0 → ends (.lrdef w) s1 (imageStatus img))
      ∧ (r < 64 → imageStatus img = 0 → entry s1 →
          ends (.lrdef w) (s1.writeEntry x.ctx r e (fun old => putBits (putBits img 8 1 1) 16 16 ((bitsOf old 16 16 + 1) % 2 ^ 16))) 0))
    ∧ (Issues s (.lrdrop w) nfo x { uniform := [(2, fun ln => x.read32 ln w.b)] } →
      (64 ≤ r → ends (.lrdrop w) s 1)
      ∧ (r < 64 → entry s →
          ends (.lrdrop w) (s.writeEntry x.ctx r e (fun old => putBits (putBits old 8 1 0) 16 16 ((bitsOf old 16 16 + 1) % 2 ^ 16))) 0))

/-! ## Phases and fences -/

/-- The three PHASE words publish the stores of their executing threads with what precedes them, refresh the snapshot in their scope, or do
both in that order; the logical core's phase ordinal counts publishes, and each executing thread counts the word (R184, R185, R191). FENCE orders
its threads' accesses and neither publishes nor refreshes (R186). A publish takes every store that it must, each store that core order puts before a taken one on
a byte of it, and further ones by choice, but none that has been published or whose launch a fatal trap ends; exactly the taken ones enter M, in core
order, and the others stay unpublished (R183, R255). A refresh sets the snapshot to M in its scope, keeps it elsewhere, and keeps the unpublished stores
(R183, R185). That each happens whole in one step is log entry 22, which further stores go along log entry 23, and that published stores stay in the list until
a refresh log entry 21: the model's choices. -/
def Obligations.PhasesAndFences : Prop :=
  (∀ (s : State) (key : Nat) (must : UStore → Bool),
    let us := (s.core key).ulist
    let may := fun (u : UStore) => u.pub = false ∧ ∀ l, s.launch? u.lid = some l → l.phase ≠ .dying
    let t := s.publish key must
    ∃ taken : Nat → Bool,
      (∀ (i : Nat) (u : UStore), us[i]? = some u → may u → must u = true → taken i = true)
      ∧ (∀ (i : Nat) (u : UStore), us[i]? = some u → taken i = true → may u)
      ∧ (∀ (i j : Nat) (u v : UStore), us[i]? = some u → us[j]? = some v → i < j → may u → taken j = true →
          (∃ c ∈ u.cells, ∃ d ∈ v.cells, c.1 = d.1) → taken i = true)
      ∧ (t.core key).ulist = us.zipIdx.map (fun e => if taken e.2 then { e.1 with pub := true } else e.1)
      ∧ t.mem = (us.zipIdx.filter (fun e => taken e.2)).foldl (fun m e => m.writeCells e.1.key e.1.cells) s.mem
      ∧ (t.core key).snap = (s.core key).snap ∧ ∀ k, k ≠ key → t.core k = s.core k)
  ∧ (∀ (s : State) (key scope : Nat),
    let t := s.refresh key scope
    let old := (s.core key).snap
    let new := (t.core key).snap
    let from_ := fun (a : Nat) (m : Mem) => new.bytes.get unlisted a = m.bytes.get unlisted a
    ({ t with cores := s.cores } : State) = s ∧ (∀ k, k ≠ key → t.core k = s.core k)
    ∧ (∀ a, isLocal a = true → from_ a s.mem)
    ∧ (∀ a, isCompanion a = true → if scope = 1 then from_ a s.mem else from_ a old)
    ∧ (∀ a, isPeer a = true → if scope = 2 then from_ a s.mem else from_ a old)
    ∧ new.keys = s.mem.keys
    ∧ (t.core key).ulist.filter (fun u => !u.pub) = (s.core key).ulist.filter (fun u => !u.pub && !u.cells.isEmpty))
  ∧ ∀ (s : State) (w : FWord) (nfo : Info) (x : Path),
    let pub := fun (m : State) => m.publish x.w.core (fun u => (x.exec w.hd).any (fun ln => u.precedes (x.uid ln) ln.t.vc))
    let ref := fun (m : State) => m.refresh x.w.core (bitsOf (FSpec w) 2 2)
    let count := fun (m : State) => m.modCore x.w.core (fun c => { c with phase := c.phase + 1 })
    let does := fun (i : Instr) (m : State) (f : Lane → Thread) => Issues s i nfo x {} →
      Does s i x w.hd.hold (fun _ => x.cur.pc + 8) (fun ln => if ln.t.executes w.hd then f ln else ln.t) m x.w
    let counted := fun (ln : Lane) => { ln.t with phc := ln.t.phc + 1 }
    does (.phasePub w) (count (pub s)) counted
    ∧ does (.phaseRef w) (ref s) counted
    ∧ does (.phase w) (count (ref (pub s))) counted
    ∧ does (.fence w) s (fun ln =>
        let vc := Clock.join ln.t.vc ln.t.acq
        { ln.t with vc := vc, fvc := SMap.put 0 vc (x.uid ln) ln.t.seq, acq := [] })

/-! ## System words -/

/-- SYSRD and TIME write a system register's value and the device time; SYSWR clears the flags that are one in the OR of its lanes' values, or writes
a conformance register in each lane (R421 to R424). The registers of R422 by number: the special registers from 0x00 on, the flags, the high halves,
the generation, the launch's number or 0 in a deterministic launch, and in conformance mode the trapped word, its sources, the result and the flags,
of which SYSWR writes the two halves of the result and the flags. -/
def Obligations.SystemRegisterWords : Prop :=
  (
    ∀ (s : State) (w : FWord) (nfo : Info) (x : Path),
      let num := fun (ln : Lane) => if w.a = .none then FSpec w else x.read32 ln w.a
      let uni := if w.a = .none then [] else [(1, num)]
      (let f := fun (ln : Lane) => resultIn w.d 1 (s.sysReg x ln (num ln)) 0 []
       Issues s (.sysrd w) nfo x { sysChecks w false x with uniform := uni ++ sDest w.d f } → Yields s (.sysrd w) nfo x w.d f)
      ∧ (let f := fun (_ : Lane) => resultIn w.d 2 (s.ns % 2 ^ 64) 0 []
         Issues s (.time w) nfo x { uniform := sDest w.d f } → Yields s (.time w) nfo x w.d f)
      ∧ (Issues s (.syswr w) nfo x (sysChecks w true x) →
          let ones := (x.exec w.hd).foldl (fun a ln => a ||| x.read32 ln w.b) 0
          Does s (.syswr w) x w.hd.hold (fun _ => x.cur.pc + 8)
            (fun ln => if ln.t.executes w.hd then
              { ln.t with conf := ln.t.conf.map (fun c => c.write (num ln) (x.read32 ln w.b)) } else ln.t) s
            (if (x.exec w.hd).any (fun ln => num ln = 0x40) then x.w.clearFlags (ones % 128) else x.w)))
  ∧ (
    ∀ (w : WG) (n b : Nat), b < 32 → n < 128 →
      (w.clearFlags n).flags.getLsbD b = (w.flags.getLsbD b && !n.testBit b)
      ∧ ({ w.clearFlags n with flags := w.flags, cleared := w.cleared, qdone := w.qdone } : WG) = w)
  ∧ (
    ∀ (s : State) (x : Path) (ln : Lane),
      (∀ n, n ≤ 0x14 → n ≠ 0x13 → s.sysReg x ln n = specialValue s x ln n)
      ∧ s.sysReg x ln 0x13 = s.flagRead x.w ln.t ∧ s.sysReg x ln 0x40 = s.flagRead x.w ln.t
      ∧ s.sysReg x ln 0x41 = (s.ck - (s.part (x.w.core / 256)).ckStart) / 2 ^ 32 % 2 ^ 32
      ∧ s.sysReg x ln 0x42 = (s.core x.w.core).phase / 2 ^ 32 % 2 ^ 32
      ∧ s.sysReg x ln 0x43 = (s.ctx x.l.ctx).ckgen
      ∧ (x.l.isDet = true → s.sysReg x ln 0x44 = 0 ∧ s.sysReg x ln 0x45 = 0)
      ∧ (x.l.isDet = false → s.sysReg x ln 0x44 = x.l.lid % 2 ^ 32 ∧ s.sysReg x ln 0x45 = x.l.lid / 2 ^ 32 % 2 ^ 32)
      ∧ ∀ c, ln.t.conf = some c →
          (∀ j, j < 5 →
            let d := ([c.word, c.a, c.b, c.c, c.res].getD j 0).toNat
            s.sysReg x ln (0x50 + 2 * j) = d % 2 ^ 32 ∧ s.sysReg x ln (0x51 + 2 * j) = d / 2 ^ 32)
          ∧ s.sysReg x ln 0x5A = c.flags.toNat
          ∧ ∀ v, v < 2 ^ 32 →
            c.write 0x58 v = { c with res := BitVec.ofNat 64 (c.res.toNat / 2 ^ 32 * 2 ^ 32 + v) }
            ∧ c.write 0x59 v = { c with res := BitVec.ofNat 64 (v * 2 ^ 32 + c.res.toNat % 2 ^ 32) }
            ∧ c.write 0x5A v = { c with flags := BitVec.ofNat 7 v }
            ∧ ∀ n, n ≠ 0x58 → n ≠ 0x59 → n ≠ 0x5A → c.write n v = c)

/-- TRAPRET writes the trapped word's destination with the routine's result, raises its flags, leaves conformance mode and goes on at
the word after the trapped one (R105, R106, R426). That a path is in conformance mode by its threads, and that the trapped PC stands with the
conformance registers, are the model's readings (log entries 17 and 113). -/
def Obligations.ConformanceReturn : Prop :=
  ∀ (s : State) (w : FWord) (nfo : Info) (x : Path) (c : Lane → Conf),
    let ex := x.exec w.hd
    let d := fun (ln : Lane) => opndOf ((c ln).word.extractLsb' 41 8)
    let r := fun (ln : Lane) => resultIn (d ln) (regsOf (tyOfCode ((c ln).word.extractLsb' 12 5))) (c ln).res.toNat (c ln).flags.toNat []
    let fl := ex.foldl (fun a ln => a ||| (c ln).flags.toNat) 0
    (∀ ln ∈ x.lanes, ln.t.conf = some (c ln) ∧ ln.t.executes w.hd = true) →
    Issues s (.trapret w) nfo x {} →
    Does s (.trapret w) x (x.lanes.any (fun ln => (c ln).word.getLsbD 62)) (fun ln => (c ln).pc + 8)
      (fun ln => { ((r ln).apply (!isS (d ln)) ln.t).knows x.w fl with conf := none }) s
      (match ex with
        | ln :: _ => ({ x.w with flags := x.w.flags ||| BitVec.ofNat 32 fl } : WG).setS x.g.gid (d ln) (r ln).s
        | [] => x.w)

/-- TRAP raises the program trap for each executing lane with its code as the detail, and the lanes that do not execute it advance; BKPT where an
agent holds the debug right is a stop of its group with an event for each executing lane; a path that a BKPT has stopped goes on past it (R252, R254,
R276, R309, R425). A fatal trap ends the launch's issue and keeps its record; nothing else of the device changes, and no lane of its word writes (R252
to R255). That the launch is marked as dying at the trap itself is the model's reading (log entry 14). -/
def Obligations.ProgramTraps : Prop :=
  (
    ∀ (s : State) (w : FWord) (nfo : Info) (x : Path),
      (Issues s (.trap w) nfo x {} →
        Does s (.trap w) { x with lanes := x.lanes.filter (fun ln => !ln.t.executes w.hd) } w.hd.hold (fun _ => x.cur.pc + 8) (fun ln => ln.t)
          (s.raise x.l.lid x.w.core 2 (2 * x.cur.unit + if x.cur.second then 1 else 0)
            ((x.exec w.hd).map (fun ln => s.record x.w 17 0 true ln.tid x.g.gid ln.lane x.cur.pc 0 (x.read32 ln w.a)))) x.w)
      ∧ (Issues s (.bkpt w) nfo x {} → x.lanes.any (fun ln => ln.t.skip) = true →
        Does s (.bkpt w) x w.hd.hold (fun _ => x.cur.pc + 8) (fun ln => ln.t) s x.w)
      ∧ (Issues s (.bkpt w) nfo x {} → (s.ctx x.ctx).dbg.holder ≠ none → x.lanes.any (fun ln => ln.t.skip) = false →
        let m := s.stopGroup x.w.wid x.g.gid false ((x.exec w.hd).map (fun ln => x.event 2 8 false false ln 0))
        exec (.bkpt w) s = .next (m.modWG x.w.wid (fun v => x.onLanes (fun _ t => { t with skip := true }) v))))
  ∧ (
    ∀ (s : State) (lid core rank sub : Nat) (recs : List TrapRec) (l : Launch), s.launch? lid = some l → l.phase ≠ .complete →
      let t := s.raise lid core rank sub recs
      ({ t with launches := s.launches } : State) = s
      ∧ t.launch? lid = some { l with phase := .dying, traps := l.traps ++ [⟨s.ck, core, rank, sub, recs⟩] }
      ∧ ∀ k, k ≠ lid → t.launch? k = s.launch? k)

/-- The three STAMP words open an entry, with the record of an open one written first as lost, and arm an open entry for the next MSPAN of
the group or the next copy on a queue (R168, R169, R417, R418). -/
def Obligations.StampWords : Prop :=
  ∀ (s : State) (w : FWord) (nfo : Info) (x : Path) (ln : Lane),
    let e := x.read32 ln w.a
    let q := bitsOf (FSpec w) 2 3
    let does := fun (i : Instr) (form : Nat) (m : State) => (x.exec w.hd).head? = some ln → Issues s i nfo x (stampChecks w form x) →
      exec i s = .next (x.advance m w.hd.hold)
    let put := fun (m : State) (f : Stamp → Stamp) => m.modWG x.w.wid (fun g => g.modStamp e f)
    let opened := ({ Stamp.free with isOpen := true, openCk := s.ck, tag := x.read32 ln w.b, addr := x.pair ln w.c, inQ := some q } : Stamp)
    ((x.w.stamp e).isOpen = false → does (.stampIn w) 0 (put s (fun _ => opened)))
    ∧ ((x.w.stamp e).isOpen = true → does (.stampIn w) 0 (put (s.writeStamp x.w.wid e false true) (fun _ => opened)))
    ∧ does (.stampMma w) 1 (put s (fun z => if z.isOpen then { z with mmaG := some x.g.gid } else z))
    ∧ does (.stampOut w) 2 (put s (fun z => if z.isOpen then { z with outQ := some q } else z))

/-! ## Barriers -/

/-- BAR, BARARV, BARWAIT, BARTX and BARINIT on the barrier object that their first operand names, and the test that completes a generation (R223,
R224, R306 to R308); a thread that a restore has put back at its BAR waits again and does not arrive again (R73, R307). BARINIT sets up an object that no arrival, no transfer and no thread uses: EXPECT is the given number of threads, the counts and
the poison mark are clear but for what this ck adds, ROLE and GEN stay (R223 to R225, R308). An arrival, a BARTX
and a BARINIT owe the object's test in their ck. The test of a barrier object: where every expected thread has arrived and no bytes
are pending, the role is given, the generation advances, and exactly its waiting threads go on past their words (R192, R222, R223). -/
def Obligations.BarrierWords : Prop :=
  (
    ∀ (s : State) (w : FWord) (nfo : Info) (x : Path) (ln : Lane),
      let size := x.l.hdr.scr * 8192
      let num := fun (ln : Lane) => x.read32 ln w.a
      let b := num ln
      let o := x.w.bar size b
      let ex := x.exec w.hd
      let ck := fun (more : List (Nat × (Lane → Nat))) =>
        ({ lane := fun ln => if 1024 ≤ num ln then [14] else [], uniform := (1, num) :: more } : Checks)
      let after := fun (ls : List Lane) =>
        (x.joinArrivals b ls x.w).setBar size b (o.arriveAll x.l.isDet (x.barBefore s b).arrived ls)
      let again := fun (ln : Lane) => ln.t.resumed.any (fun r => r.1 = 2)
      let token := fun (ln : Lane) => if again ln then (ln.t.resumed.map (fun r => r.2)).getD 0 else o.gen
      let new := ex.filter (fun ln => !again ln)
      let owes := fun (i : Instr) (pc : Lane → Nat) (g : Lane → Thread) (w' : WG) =>
        ∃ t, exec i s = .next t ∧ Keeps s t x ∧ Acts t x w.hd.hold pc g w' ∧ Due.bar x.w.wid b ∈ t.due
      let next := fun (_ : Lane) => x.cur.pc + 8
      ex.head? = some ln → o.expect ≠ 0 →
      (Issues s (.bararv w) nfo x (ck []) → o.arrived + ex.length ≤ o.expect →
        owes (.bararv w) next (fun ln => match w.d with
            | .v r => if ln.t.executes w.hd then ln.t.setV r.toNat [BitVec.ofNat 32 o.gen] else ln.t
            | _ => ln.t) (after ex))
      ∧ (Issues s (.bar w) nfo x (ck []) → o.poison = false → o.arrived + new.length ≤ o.expect →
          let waits := fun (ln : Lane) => ln.t.executes w.hd && o.gen == token ln % 2 ^ 22
          owes (.bar w) (fun ln => if waits ln then x.cur.pc else x.cur.pc + 8)
            (fun ln => if waits ln then { ln.t with run := .wait (.bar b (token ln) w.d) }
              else if ln.t.executes w.hd then ln.t.pastBar x.w b o ln.tid (token ln) w.d else ln.t) (after new))
      ∧ (Issues s (.barwait w) nfo x (ck []) → o.poison = false →
          let token := fun (ln : Lane) => x.read32 ln w.b
          let waits := fun (ln : Lane) => ln.t.executes w.hd && o.gen == token ln % 2 ^ 22
          Does s (.barwait w) x w.hd.hold (fun ln => if waits ln then x.cur.pc else x.cur.pc + 8)
            (fun ln => if waits ln then { ln.t with run := .wait (.bar b (token ln) w.d) }
              else if ln.t.executes w.hd then ln.t.pastBar x.w b o ln.tid (token ln) w.d else ln.t) s x.w)
      ∧ (Issues s (.bartx w) nfo x (ck [(2, fun ln => x.read32 ln w.b)]) → o.pend + (x.read32 ln w.b : Int) < 2 ^ 55 →
          owes (.bartx w) next (fun ln => ln.t) (x.w.setBar size b { o with pend := o.pend + (x.read32 ln w.b : Int) })))
  ∧ (
    ∀ (s : State) (w : FWord) (nfo : Info) (x : Path) (ln : Lane),
      let size := x.l.hdr.scr * 8192
      let num := fun (ln : Lane) => x.read32 ln w.a
      let b := num ln
      let n := x.read32 ln w.b
      let old := x.barBefore s b
      (x.exec w.hd).head? = some ln →
      Issues s (.barinit w) nfo x { lane := fun ln => if 1024 ≤ num ln then [14] else [],
                                    uniform := [(1, num), (2, fun ln => x.read32 ln w.b)] } →
      old.arrived = 0 → old.pend = 0 →
      (((s.before.find? (fun v => v.wid == x.w.wid)).getD x.w).threads.any (fun t => t.onBar b)) = false →
      1 ≤ n → n ≤ x.l.hdr.dx * x.l.hdr.dy * x.l.hdr.dz →
      let now := x.w.bar size b
      let inits := fun (o : Bar) => ∃ t, exec (.barinit w) s = .next t ∧ Keeps s t x
        ∧ Acts t x w.hd.hold (fun _ => x.cur.pc + 8) (fun ln => ln.t) (x.w.setBar size b o) ∧ Due.bar x.w.wid b ∈ t.due
      inits { now with expect := n, cand := if now.arrived = 0 then 0 else now.cand, poison := now.poison && !old.poison }
      ∧ (now = old → inits { now with expect := n, arrived := 0, cand := 0, pend := 0, poison := false }))
  ∧ (
    ∀ (s : State) (wid b : Nat) (w : WG), s.wg? wid = some w →
      let size := s.windowOf w
      let o := w.bar size b
      s.runDue (.bar wid b) = .next (s.testBar wid b)
      ∧ (o.expect = 0 ∨ o.arrived ≠ o.expect ∨ o.pend ≠ 0 → s.testBar wid b = s)
      ∧ (o.expect ≠ 0 → o.arrived = o.expect → o.pend = 0 →
          let new := { o with role := o.cand, arrived := 0, gen := (o.gen + 1) % 2 ^ 22 }
          ∃ v, (s.testBar wid b).wg? wid = some v ∧ v.win = (w.setBar size b new).win ∧ v.groups = w.groups ∧ v.flags = w.flags
            ∧ (∀ (tid : Nat) (t : Thread), w.threads[tid]? = some t →
                (∀ c k d, t.run = .wait (.bar c k d) → ¬ (c = b ∧ k % 2 ^ 22 = o.gen)) → v.threads[tid]? = some t)
            ∧ ∀ (tid : Nat) (t : Thread) (k : Nat) (d : Opnd), w.threads[tid]? = some t → t.run = .wait (.bar b k d) → k % 2 ^ 22 = o.gen →
                ∃ t', v.threads[tid]? = some t' ∧ t'.run = .ready ∧ t'.pc = t.pc + 8
                  ∧ ∀ r, d = .v r → t'.v.get 0 r.toNat = if tid = o.cand then 1 else 0))

/-- XBARV, XBWAIT and XBSET: the arrival of a logical core, with the completion of the generation where every member has arrived, and the role to
the highest core in a deterministic launch, else to the last arrival; the wait for the token's generation; and the next set of members (R47, R227,
R228, R429, R430). That of several cores that arrive last in one ck the highest takes the role is the model's reading (log entry 32). -/
def Obligations.CrossCoreBarriers : Prop :=
  ∀ (s : State) (w : FWord) (nfo : Info) (x : Path) (ln : Lane),
    let num := fun (ln : Lane) => x.read32 ln w.a
    let b := x.l.xbar (num ln)
    let core := x.w.core % 256
    let token := x.read32 ln w.b
    let ck := fun (more : List (Nat × (Lane → Nat))) =>
      ({ lane := fun ln => if 16 ≤ num ln then [14] else [], uniform := (1, num) :: more } : Checks)
    let second := [(2, fun (ln : Lane) => x.read32 ln w.b)]
    let put := fun (c : XBar) => s.modLaunch x.l.lid (fun l => l.setXbar (num ln) c)
    let next := fun (_ : Lane) => x.cur.pc + 8
    (x.exec w.hd).head? = some ln →
    (Issues s (.xbarv w) nfo x (ck []) → b.member.getLsbD core = true → b.arrived.getLsbD core = false →
      let all := b.arrived ||| BitVec.ofNat 256 (2 ^ core)
      let latest := match b.last with | some e => if e.1 = s.ck then max e.2 core else core | none => core
      let after : XBar := if all = b.member then
          { gen := (b.gen + 1) % 2 ^ 22, member := b.next.getD b.member, next := none, arrived := 0,
            role := if x.l.isDet then highBit all else latest, last := none }
        else { b with arrived := all, last := some (s.ck, latest) }
      Does s (.xbarv w) x w.hd.hold next (fun ln => ln.t) (put after)
        { x.w.setS x.g.gid w.d [BitVec.ofNat 32 b.gen] with noRelaunch := true })
    ∧ (Issues s (.xbwait w) nfo x (ck second) → b.gen = token % 2 ^ 22 →
        Does s (.xbwait w) x w.hd.hold (blockedAt x w.hd) (blocked w.hd (fun _ => .xbar (num ln) token w.d)) s x.w)
    ∧ (Issues s (.xbwait w) nfo x (ck second) → b.gen ≠ token % 2 ^ 22 →
        let r := Bool.toNat (core == b.role && token % 2 ^ 22 == (b.gen + 2 ^ 22 - 1) % 2 ^ 22)
        Does s (.xbwait w) x w.hd.hold next (fun ln => if ln.t.executes w.hd then ln.t.xresult w.d r else ln.t) s
          (x.w.setS x.g.gid w.d [BitVec.ofNat 32 r]))
    ∧ (Issues s (.xbset w) nfo x (ck second) → token % 32 = 0 → token + 32 ≤ x.l.hdr.scr * 8192 →
        let set := BitVec.ofNat 256 (natOfBytes (x.w.win.getN 0 token 32))
        set ≠ 0 → lowBit b.member = core →
        Does s (.xbset w) x w.hd.hold next (fun ln => ln.t)
          (put (if b.arrived = 0 then { b with member := set, next := none } else { b with next := some set })) x.w)

/-! ## Copies, queues and circular buffers -/

/-- A copy word that passes the checks of R216 and the determinism check, and whose queue has room, puts its command at the end of its queue, with the descriptor and the
pattern as the ck found them, opens its ranges on DET pages and attaches the stamps that wait for it (R168, R194, R216, R318, R319). Where its ranges
and those that no QFENCE covers would be more than 64, a fence entry goes into every queue of the launch first, and only the command's own ranges stay open (R194). Which runs of bytes
a command opens, and that three of the constructors are moves beside the words of their rows, are the model's readings (log entries 35 and 57). -/
def Obligations.CopyWords : Prop :=
  ∀ row ∈ copyRows, ∀ (s : State) (w : FWord) (nfo : Info) (x : Path) (ln : Lane),
    let q := FSpec w % 8
    let desc := wordsOf 8 (readRegs x.old.s ln.t w.a 8)
    let d := descNum desc
    let pat : DWord := if row.2.1 = 5 then BitVec.ofNat 64 (x.pair ln w.b) else 0
    let es := elemsOf row.2.1 d 0 (readList x.w.win row.2.1 d)
    let rd := s.detRuns x.ctx false (readRuns d es)
    let wr := s.detRuns x.ctx true (writeRuns row.2.1 d es)
    let new := newRanges q rd.2 wr.2
    let after := x.enqueue s row.2.1 q desc pat new x.w
    let every := 2 ^ x.l.hdr.queues - 1
    let fenced := x.enqueue s row.2.1 q desc pat new { x.w.fence every x.cur.pc with ranges := [] }
    let pending := fun (i : Nat) => ((x.w.queues.getD i []).filter (fun c => !c.done)).length
    let opened := (x.w.ranges.filter (fun o => o.fence = none)).length
    let mine := fun (c : CopyCmd) (serial : Nat) =>
      c.serial = serial ∧ c.cmd = row.2.1 ∧ c.desc = desc ∧ c.pat = pat ∧ c.done = false ∧ c.started = false ∧ c.sectors = 0
    (x.exec w.hd).head? = some ln → q < x.l.hdr.queues → x.l.hdr.queues ≤ 8 → x.copyChecks s w.hd row.2.1 row.2.2 q d = none →
    rd.1 = none → wr.1 = none → Issues s (row.1 w) nfo x {} →
    (opened + new.length ≤ 64 → rangeClash x.w.ranges q rd.2 wr.2 = false → pending q < 32 →
      Does s (row.1 w) x w.hd.hold (fun _ => x.cur.pc + 8) (fun ln => ln.t) s after
      ∧ after.ranges = x.w.ranges ++ new ∧ after.serial = x.w.serial + 1 ∧ after.win = x.w.win ∧ after.groups = x.w.groups
      ∧ (∃ c, after.queues.getD q [] = x.w.queues.getD q [] ++ [c] ∧ mine c x.w.serial)
      ∧ ∀ k, k < 8 → k ≠ q → after.queues.getD k [] = x.w.queues.getD k [])
    ∧ (64 < opened + new.length → (∀ i, i < x.l.hdr.queues → pending i < 31) →
      let entry := fun (i : Nat) => if i < x.l.hdr.queues then [CopyCmd.fresh x.w.serial 0 i every x.cur.pc [] 0] else []
      Does s (row.1 w) x w.hd.hold (fun _ => x.cur.pc + 8) (fun ln => ln.t) s fenced
      ∧ fenced.ranges = new ∧ fenced.serial = x.w.serial + 2 ∧ fenced.win = x.w.win ∧ fenced.groups = x.w.groups
      ∧ (∃ c, fenced.queues.getD q [] = x.w.queues.getD q [] ++ entry q ++ [c] ∧ mine c (x.w.serial + 1))
      ∧ ∀ k, k < 8 → k ≠ q → fenced.queues.getD k [] = x.w.queues.getD k [] ++ entry k)

/-- QFENCE puts one fence entry into every queue of its mask and covers their open ranges, which it keeps; QWAIT closes those of its mask, blocks its
lanes while an earlier command of its mask has not completed, and else refreshes the snapshot for the commands' sectors and goes on (R132, R192, R194,
R220, R403 to R405). CBREL.CFG configures a buffer, CBACQ takes a filled slot or blocks, and CBREL frees the oldest held slot (R145 to R147, R314 to
R317). That the ranges stay until the entries reach the heads of their queues, and are covered from the issue on, that a QWAIT waits for the commands
below a serial number of its issue, and that a blocked CBACQ is tried again by its own move, are the model's readings (log entries 34, 83 and 82). -/
def Obligations.QueueAndBufferWords : Prop :=
  (
    ∀ (s : State) (w : FWord) (nfo : Info) (x : Path),
      let m := FSpec w
      let shut : WG := { x.w with ranges := x.w.ranges.filter (fun o => !m.testBit o.q) }
      m < 2 ^ x.l.hdr.queues →
      (Issues s (.qfence w) nfo x {} →
        (∀ i, i < 8 → m.testBit i = true → ((x.w.queues.getD i []).filter (fun c => !c.done)).length < 32) →
        let fenced := x.w.fence m x.cur.pc
        Does s (.qfence w) x w.hd.hold (fun _ => x.cur.pc + 8) (fun ln => ln.t) s (if m = 0 then x.w else fenced)
        ∧ (∀ i, i < 8 → fenced.queues.getD i [] = x.w.queues.getD i []
            ++ if m.testBit i then [CopyCmd.fresh x.w.serial 0 i m x.cur.pc [] 0] else [])
        ∧ fenced.ranges = x.w.ranges.map (fun o => if m.testBit o.q = true ∧ o.fence = none then { o with fence := some x.w.serial } else o)
        ∧ ({ fenced with queues := x.w.queues, ranges := x.w.ranges, serial := x.w.serial } : WG) = x.w)
      ∧ (Issues s (.qwait w) nfo x {} →
          (∀ t ∈ x.w.threads, ∀ k u, t.run = .wait (.qwait k u) → x.w.pendingBelow k u = true) →
          (x.w.pendingBelow m x.w.serial = true →
            Does s (.qwait w) x w.hd.hold (blockedAt x w.hd) (blocked w.hd (fun _ => .qwait m x.w.serial)) s shut)
          ∧ (x.w.pendingBelow m x.w.serial = false →
            let done := x.w.covered m x.w.serial
            Does s (.qwait w) x w.hd.hold (fun _ => x.cur.pc + 8)
              (fun ln => if ln.t.executes w.hd then { ln.t.knows x.w done.2 with run := .ready } else ln.t)
              (s.refreshSectors x.w.core done.1.eraseDups) shut)))
  ∧ (
    ∀ (s : State) (w : FWord) (nfo : Info) (x : Path) (ln : Lane),
      let num := fun (ln : Lane) => x.read32 ln w.a
      let n := num ln
      let b := x.w.cb n
      let ck := fun (more : List (Nat × (Lane → Nat))) => cbChecks w more x
      let next := fun (_ : Lane) => x.cur.pc + 8
      let ex := x.exec w.hd
      ex.head? = some ln →
      (Issues s (.cbrelCfg w) nfo x (ck [(2, fun ln => x.read32 ln w.b)]) → b.slots = 0 → 1 ≤ x.read32 ln w.b → x.read32 ln w.b ≤ 255 →
        Does s (.cbrelCfg w) x w.hd.hold next (fun ln => ln.t) s
          (x.w.modCb n (fun _ => ⟨x.read32 ln w.b, x.read32 ln w.b, 0, 0, 0, 0⟩)))
      ∧ (Issues s (.cbacq w) nfo x (ck []) → b.slots ≠ 0 → b.filled = 0 →
          Does s (.cbacq w) x w.hd.hold (blockedAt x w.hd) (blocked w.hd (fun _ => .cbuf n w.d)) s x.w)
      ∧ (Issues s (.cbacq w) nfo x (ck []) → b.slots ≠ 0 → b.filled ≠ 0 →
          Does s (.cbacq w) x w.hd.hold next
            (fun ln => if ln.t.executes w.hd then ln.t.acquired x.w n b.ridx w.d else ln.t)
            (s.refreshSectors x.w.core (x.w.ssec.get [] (256 * n + b.ridx)))
            ((x.w.modCb n (fun c => { c with filled := b.filled - 1, held := b.held + 1, ridx := (b.ridx + 1) % b.slots })).setS x.g.gid w.d
              [BitVec.ofNat 32 b.ridx]))
      ∧ (Issues s (.cbrel w) nfo x (ck []) → b.slots ≠ 0 → b.held ≠ 0 →
          let k := 256 * n + (b.ridx + b.slots - b.held % b.slots) % b.slots
          Does s (.cbrel w) x w.hd.hold next (fun ln => ln.t) s
            { x.w.modCb n (fun c => { c with held := b.held - 1, free := b.free + 1 }) with
              sclk := SMap.put [] x.w.sclk k (ex.foldl (fun c l => Clock.join c (l.t.clock (x.uid l))) (x.w.sclk.get [] k)) }))

/-! ## Code versions and launches -/

/-- CVPUT writes eight bytes for each executing lane into the open image of its handle, and CVSEAL seals a well-formed image under the context's next
number, or writes 0 (R248, R249, R321 to R324). LAUNCH publishes its core's stores, copies the record with PARENT and LID to the ring's next packet,
advances WR, and gives d the child's number, or 0 in a deterministic launch; one that has waited for room publishes nothing again and reads no record
again (R245, R365). -/
def Obligations.CodeVersionAndLaunchWords : Prop :=
  (
    ∀ (s : State) (w : FWord) (nfo : Info) (x : Path) (ln : Lane) (img : List Byte),
      let h := FSpec w % 4
      let base := x.pair ln w.a
      let ex := x.exec w.hd
      let next := fun (_ : Lane) => x.cur.pc + 8
      let ends := fun (m : State) (n : Nat) =>
        Does s (.cvseal w) x w.hd.hold next (fun ln => ln.t) m (x.w.setS x.g.gid w.d [BitVec.ofNat 32 n, BitVec.ofNat 32 (n / 2 ^ 32)])
      (ex.head? = some ln → s.openImage x.ctx h base = some img →
        (∀ l ∈ ex, x.read32 l w.b % 8 = 0 ∧ x.read32 l w.b < s.baseSize x.ctx base + 1048576) →
        Issues s (.cvput w) nfo x { uniform := [(1, fun ln => x.pair ln w.a)] } →
        Does s (.cvput w) x w.hd.hold next (fun ln => ln.t)
          (s.modCtx x.ctx (fun c => c.setHandle h (some ⟨base, ex.foldl (fun m l => putImage m (x.read32 l w.b) (x.pair l w.c)) img⟩)))
          { x.w with noRelaunch := true })
      ∧ (Issues s (.cvseal w) nfo x {} →
          ((s.ctx x.ctx).handle h = none → ends s 0)
          ∧ ∀ v, (s.ctx x.ctx).handle h = some v →
            (imageOk v.image = false → ends s 0)
            ∧ (imageOk v.image = true →
                let n := (s.ctx x.ctx).nextVer
                ends { s.modCtx x.ctx (fun c => { c.setHandle h none with nextVer := n + 1 }) with
                       codes := s.codes ++ [⟨x.ctx, n, v.image, codeBaseOf x.ctx n v.image.length⟩] } n
                ∧ codeBaseOf x.ctx n v.image.length % 8 = 0)))
  ∧ (
    ∀ (s : State) (w : FWord) (nfo : Info) (x : Path) (ln : Lane) (t u : Trans),
      let ex := x.exec w.hd
      let q := x.read32 ln w.a
      let ra := x.pair ln w.b
      let other := fun (ln : Lane) => if 4096 ≤ x.read32 ln w.a ∨ (s.queue (x.read32 ln w.a)).ctx ≠ x.ctx then [14] else []
      let s1 := s.publish x.w.core (fun u => ex.any (fun ln => u.precedes (x.uid ln) ln.t.vc))
      let hands := fun (s1 : State) (packet : Nat) =>
        let d := s1.queue q
        let lid := s1.lidNext
        let record := putBits (putBits packet 384 64 x.l.lid) 448 64 lid
        let m : State := (((s1.setDgen x.ctx u).writeM x.ctx u.key (cellsAt u.pa (bytesOf 128 record))).modQueue q (fun d =>
            { d with wr := (d.wr + 1) % 2 ^ 32, devRecs := d.devRecs ++ [(d.wr, x.l.lid, lid)] })).modLaunch x.l.lid (fun l =>
            { l with children := l.children ++ [lid] })
        Issues s (.launch w) nfo x { lane := other } → d.full = false → s1.access x.ctx (d.packetVa d.wr) 128 1 false true false = .ok [u] →
        Does s (.launch w) x w.hd.hold (fun _ => x.cur.pc + 8) (fun ln => { ln.t with launchAt := none }) { m with lidNext := lid + 1 }
          { x.w.setS x.g.gid w.d (wordsOf 2 (if x.l.isDet then 0 else lid)) with noRelaunch := true }
      ex.head? = some ln → ra % 128 = 0 →
      ((∀ l ∈ ex, l.t.launchAt = none) → s1.access x.ctx ra 128 128 true false false = .ok [t] → s1.poisoned t.pa 128 = none →
        hands s1 (natOfBytes (s1.mem.readN t.key t.pa 128)))
      ∧ ∀ packet, (∀ l ∈ ex, l.t.launchAt = some (some packet)) → hands s packet)

/-! ## Matrix words -/

/-- MLDB, MSWAP, MMA, MMAW, MZERO, MLDA and MSTA enter the matrix queue of their core in issue order; an MMA's tiles and its slot join the
sets of the group's span (R149, R156 to R161, R379 to R386, R391, R392). That a span's set of slots holds physical slots, and that a slot name is
checked at issue by the swaps that wait in the queue and resolved when its entry runs, are the model's readings (log entries 58 and 59). -/
def Obligations.MatrixWordsEnterTheQueue : Prop :=
  ∀ (s : State) (w : FWord) (nfo : Info) (x : Path),
    let a := x.num w.a
    let b := x.num w.b
    let c := x.num w.c
    let slot := FSpec w % 4
    let size := x.l.hdr.scr * 8192
    let queued := fun (op : MOp) (first : Bool) => s.modCore x.w.core (fun c =>
      { c with mq := c.mq ++ [⟨x.w.wid, x.g.gid, x.g.span.isSome, first, op⟩] })
    let enters := fun (i : Instr) (ck : Checks) (op : MOp) (first : Bool) (w' : WG) => Issues s i nfo x ck →
      Does s i x w.hd.hold (fun _ => x.cur.pc + 8) (fun ln => ln.t) (queued op first) w'
    let mma := fun (i : Instr) (win : Option Nat) =>
      let h := shapeOf c
      storedFault size b (storedA h win) = 0 →
      enters i { decl := statCauses x [slot] ++ (if isLit w.a then accCauses x w.a else []), lane := fun ln => mmaCauses s x (x.read32 ln w.a) (shapeOf (x.read32 ln w.c)) win slot }
        (.mma a b c slot win) (x.g.span.any (fun sp => !sp.begun))
        (x.joinSpan s ((List.range (h.m / 16 * (h.n / 16))).map (a + ·)) (physOf (s.slotView x.w).1 slot) x.w)
    let tile := fun (i : Instr) (store : Bool) (op : MOp) =>
      tileFault size b w.ty store = 0 → a < x.l.hdr.acc → enters i {} op false x.w
    (storedFault size b (storedB (shapeOf c)) = 0 →
      enters (.mldb w)
        { decl := statCauses x [slot], lane := fun ln => if mldbBad (shapeOf (x.read32 ln w.c)) then [9] else [],
          slot := physOf (s.slotView x.w).1 } (.mldb slot b c) false x.w)
    ∧ enters (.mswap w) { decl := statCauses x [slot, FSpec w / 4 % 4] } (.mswap slot (FSpec w / 4 % 4)) false x.w
    ∧ mma (.mma w) none
    ∧ mma (.mmaw w) (some (x.num (nextS w.c)))
    ∧ (1 ≤ b → b ≤ 256 → a + b ≤ x.l.hdr.acc → enters (.mzero w) {} (.mzero a b) false x.w)
    ∧ tile (.mlda w) false (.mlda a b w.ty (bitOf (FSpec w) 0))
    ∧ tile (.msta w) true (.msta a b w.ty (bitOf (FSpec w) 0) (rndOf (FRnd w)) (FSat w))

/-- MSPAN takes the checkpoint of its group and opens the span; MCOMMIT copies the tiles that the span wrote to the commit plane and closes it,
so that no entry that is still queued is a span's;
a rollback puts the group's threads back at the MSPAN with the saved registers and predicates, and its tiles back as they were
committed (R56, R59, R60, R162, R168, R381, R389, R390). -/
def Obligations.SpanWords : Prop :=
  (∀ (s : State) (w : SpanWord) (nfo : Info) (x : Path),
    let f := match w.d with | .v r => r.toNat | _ => 0
    let n := spanCount w
    let sp : Span :=
      { pc := x.cur.pc, f := f, n := n, ext := w.ext.toNat, saved := x.lanes.map (fun ln => (ln.tid, ln.t.v.getN 0 f n, ln.t.p)),
        slotmap := (s.slotView x.w).1, wtiles := [], rslots := [], begun := false }
    (∀ e, (x.w.stamp e).mmaG ≠ some x.g.gid) → Issues s (.mspan w) nfo x {} →
    Does s (.mspan w) x w.hd.hold (fun _ => x.cur.pc + 8) (fun ln => ln.t) s
      (x.w.modGroup x.g.gid (fun g => { g with span := some sp })))
  ∧ (∀ (s : State) (w : FWord) (nfo : Info) (x : Path) (sp : Span), x.g.span = some sp → Issues s (.mcommit w) nfo x {} →
    let closed := s.modCore x.w.core (fun c =>
      { c with mq := c.mq.map (fun e => if e.wid = x.w.wid ∧ e.gid = x.g.gid then { e with inSpan := false } else e) })
    ∃ w', Does s (.mcommit w) x w.hd.hold (fun _ => x.cur.pc + 8) (fun ln => ln.t) closed w'
      ∧ w'.commit = copyTiles x.w.tiles x.w.commit (fun t => sp.wtiles.contains t)
      ∧ (∀ k, sp.wtiles.contains (k / 256) = false → w'.commit.get 0 k = x.w.commit.get 0 k)
      ∧ w'.tiles = x.w.tiles ∧ w'.win = x.w.win
      ∧ w'.groups = (x.w.modGroup x.g.gid (fun g => { g with span := none, struck := false })).groups)
  ∧ ∀ (s : State) (wid gid : Nat) (w : WG) (g : Group) (sp : Span), s.wg? wid = some w → w.group? gid = some g → g.span = some sp →
    ∃ v, (s.rollBack wid gid).wg? wid = some v
      ∧ v.tiles = copyTiles w.commit w.tiles (fun t => sp.wtiles.contains t)
      ∧ (∀ k, sp.wtiles.contains (k / 256) = false → v.tiles.get 0 k = w.tiles.get 0 k)
      ∧ (v.group? gid).map (fun g => g.span) = some none ∧ v.win = w.win ∧ v.commit = w.commit
      ∧ ∀ (tid : Nat) (t : Thread), w.threads[tid]? = some t → t.gid = gid → t.run ≠ .exited → t.run ≠ .pool →
          ∃ t', v.threads[tid]? = some t' ∧ t'.pc = sp.pc ∧ t'.hold = 0 ∧ t'.latches = [none, none, none, none]
            ∧ ∀ e, sp.saved.find? (fun e => e.1 = tid) = some e →
                t'.p = e.2.2 ∧ ∀ r, t'.v.get 0 r = regAfter [(sp.f, e.2.1)] r (t.v.get 0 r)

/-! ## What timing and the outside select -/

/-- An issue opportunity selects paths only for units that it names, on logical cores that issue, and changes counters only; a unit that is held
selects its path's group, and else one of its ready groups, a starved one before others and then one of stage 0 (R29, R31, R35). A promoted path and a
starved group are among the paths that issue (R34, R35). Which unit a group belongs to is the model's choice (log entry 10); that the promotion and the
starved group's selection are opportunities of their own, and how the 256 ck are counted, are its reading (log entry 11). -/
def Obligations.IssueEvents : Prop :=
  (∀ (s : State) (sel : List UnitSel), s.issue = [] →
    let t := ((sortUnits sel).foldl State.opportunity s).ordered
    exec (.issueOpportunity sel) s = .next t ∧ Selects s t
      ∧ ∀ c ∈ t.issue, ⟨c.core, c.unit⟩ ∈ sel ∧ c.unit < 4 ∧ s.coreUp c.core = true)
  ∧ (∀ (s : State) (core unit : Nat), s.issue = [] → unit < 4 → s.coreUp core = true →
    let ps := s.ready core unit
    let due := fun (q : Pick) => match (s.core core).held.getD unit none with
      | some h => (q.w.wid, q.g.gid) = h
      | none => s.starved q.g = true ∨ (∀ r ∈ ps, s.starved r.g = false) ∧ (q.g.stage = 0 ∨ ∀ r ∈ ps, r.g.stage ≠ 0)
    (∃ q ∈ ps, due q) →
    ∃ t, exec (.issueOpportunity [⟨core, unit⟩]) s = .next t ∧ Selects s t
      ∧ ∃ q ∈ ps, due q ∧ curOf q.w q.g unit false q.first ∈ t.issue)
  ∧ (∀ (s : State) (wid gid tid : Nat) (w : WG) (g : Group) (l : Launch) (p : List Lane),
      s.wg? wid = some w → w.group? gid = some g → s.launch? w.lid = some l →
      (pathsOfGroup w g).find? (fun p => p.any (fun ln => ln.tid == tid)) = some p →
      l.isDet = false → s.issueStops l w = false → s.unitFree w.core g.unit = true → (s.core w.core).held.getD g.unit none = none →
      256 ≤ ageOf p → primaryPath false (fun q => s.pathReady (curOf w g g.unit false q)) (pathsOfGroup w g) = some p →
      let t := (s.select w.core g.unit (s.ready w.core g.unit) (s.pickWith g.unit w g l p)).ordered
      exec (.ageingPromotion wid gid tid) s = .next t ∧ Selects s t ∧ curOf w g g.unit false p ∈ t.issue)
  ∧ ∀ (s : State) (wid gid : Nat) (w : WG) (g : Group) (p : Pick),
      s.wg? wid = some w → w.group? gid = some g → (s.ready w.core g.unit).find? (fun p => p.w.wid == wid && p.g.gid == gid) = some p →
      s.unitFree w.core g.unit = true → s.starved g = true → (s.core w.core).held.getD g.unit none = none →
      let t := (s.select w.core g.unit (s.ready w.core g.unit) p).ordered
      exec (.groupStarvationSelect wid gid) s = .next t ∧ Selects s t ∧ curOf p.w p.g g.unit false p.first ∈ t.issue

/-- The forming of groups from a full bin and at quiescence, parked under an all-stop, the two deadlocks, the release of a cross-core barrier, and
the retry of the paths that wait at a CBACQ (R40, R42, R43, R146, R226, R228, R276, R315). The rank of the deadlocks' trap events is the model's choice (log
entry 109), and so is the order of bins that share a PC (log entry 97); that a CBACQ is retried by a move of its own, in a deterministic launch for the
group whose turn it is, is its reading (log entries 12 and 82). -/
def Obligations.GroupEvents : Prop :=
  ∀ (s : State) (wid : Nat) (w : WG) (l : Launch), s.wg? wid = some w → s.launch? w.lid = some l →
    (∀ pc stage,
      let tids := (w.pool.filter (fun p => p.2.pc == pc && p.2.stage == stage)).map (fun p => p.1)
      let g := 16 * 2 ^ l.hdr.gsz
      let formed := s.modWG wid (fun w => w.form stage g (argWords l.record) (tids.take g))
      l.isDet = false → l.phase = .bound → s.coreUp w.core = true → g ≤ tids.length → w.formation < 2 ^ 32 - 1 →
      exec (.groupFormationFullBin wid pc stage) s
        = .next ((if l.allStop = true then formed.parkGroup wid w.formation else formed).modWG wid WG.dropEmpty))
    ∧ (l.phase = .bound → l.allStop = false → s.coreUp w.core = true → w.quiet = true → w.pool ≠ [] →
      let gs := w.bins.flatMap (fun b => (chunks l.hdr.g b.2.length b.2).map (fun c => (b.1.2, c)))
      w.formation + gs.length ≤ 2 ^ 32 - 1 →
      exec (.groupFormationQuiescence wid) s
        = .next ((gs.foldl (fun s b => s.modWG wid (fun w => w.form b.1 l.hdr.g (argWords l.record) b.2)) s).modWG wid WG.dropEmpty))
    ∧ (∀ g tid t k, w.group? g.gid = some g → rejoinStuck w g = true → minOf (groupTids w g) = some tid → w.threads[tid]? = some t →
      t.kwaits = some k →
      exec (.rejoinDeadlock wid g.gid) s
        = .next (s.raise w.lid w.core 2 8 [s.record w 6 0 true tid g.gid t.lane t.pc 0 k]))
    ∧ (∀ tid t, l.phase = .bound → w.threads.any (fun t => t.run != .exited) = true →
      w.threads.all (fun t => t.run == .exited || t.deadWait w) = true →
      w.queues.all (fun q => q.all (fun c => c.cmd == 0 || c.done)) = true → w.groups.any (fun g => g.parked) = false →
      w.threads.zipIdx.find? (fun p => p.1.run != .exited) = some (t, tid) →
      exec (.barrierDeadlock wid) s = .next (s.raise w.lid w.core 2 8 [s.record w 15 0 true tid t.gid t.lane t.pc 0 0]))
    ∧ (∀ x core, s.lodge.therm = false →
      let b := l.xbar x
      let role := fun (tok : Nat) => if core = b.role ∧ tok % 2 ^ 22 = (b.gen + 2 ^ 22 - 1) % 2 ^ 22 then 1 else 0
      let free := fun (v : WG) => ((v.xreleased x b.gen).foldl (fun (v : WG) e =>
          v.setS e.1 e.2.2 [BitVec.ofNat 32 (role e.2.1)]) v).modThreads (fun _ th => match th.run with
        | .wait (.xbar y tok d) => if y = x ∧ tok % 2 ^ 22 ≠ b.gen then (th.xresult d (role tok)).release else th
        | _ => th)
      let t : State := { s with wgs := s.wgs.map (fun v => if v.lid = w.lid ∧ v.core % 256 = core then free v else v) }
      exec (.xbarRelease w.lid x core) s = .next t
        ∧ (∀ v ∈ s.wgs, ¬ (v.lid = w.lid ∧ v.core % 256 = core) → v ∈ t.wgs)
        ∧ t.wgs.length = s.wgs.length
        ∧ ∀ (i : Nat) (v u : WG), s.wgs[i]? = some v → t.wgs[i]? = some u →
            ({ u with threads := v.threads, groups := v.groups } : WG) = v
            ∧ ∀ (tid : Nat) (th : Thread), v.threads[tid]? = some th →
                (v.lid = w.lid → v.core % 256 = core → ∀ tok d, th.run = .wait (.xbar x tok d) → tok % 2 ^ 22 ≠ b.gen →
                  ∃ t', u.threads[tid]? = some t' ∧ t'.run = .ready ∧ t'.pc = th.pc + 8))
    ∧ (∀ gid g, w.group? gid = some g → l.phase = .bound → g.parked = false → s.coreUp w.core = true → s.mayRun w.core w g = true →
      exec (.cbacqRetry wid gid) s = .next ((w.cbufPaths gid).foldl (State.retryPath wid gid) s)
      ∧ (w.cbufPaths gid).Pairwise (fun a b => a.1 ≤ b.1)
      ∧ ∀ k, k ∈ w.cbufPaths gid ↔ ∃ t ∈ w.threads, t.gid = gid ∧ t.pc = k.1 ∧ t.cbufWait = some k.2)
    ∧ ∀ gid pc n d,
      let tids := (w.threads.zipIdx.filter (fun p => p.1.gid == gid && p.1.pc == pc && p.1.cbufWait == some (n, d))).map (fun p => p.2)
      ((w.cb n).slots = 0 ∨ (w.cb n).filled = 0 → s.retryPath wid gid (pc, n, d) = s)
      ∧ ((w.cb n).slots ≠ 0 → (w.cb n).filled ≠ 0 →
        s.retryPath wid gid (pc, n, d) = (s.acquire w gid n d tids).modWG wid (fun v =>
          v.modThreads (fun i t => if tids.contains i then t.release else t)))

/-- The oldest load of a thread arrives, and the oldest reply frees the return slot: an atomic's and a routine's with result, status and flags, an LDA's
with its data as a load's, a WAITV's and a WAKE's. Data with a v destination is written; of an s destination the lanes are gathered, and once all are
there, equal data is written, else the lanes that differ from the first are named; data of a poisoned line raises its trap. A reply that carries an
error raises the line-routine trap, but of an LRCALL with a destination, which takes the status (R48, R204, R210, R211, R229, R260, R302, R368, R371,
R374). That the data joins a trap of its word's other lanes in the same ck, and the clocks that a value of M carries, are the model's readings (log
entries 13 and 111). -/
def Obligations.ReturningData : Prop :=
  (∀ (s : State) (wid tid : Nat) (w : WG) (t : Thread), s.wg? wid = some w → w.threads[tid]? = some t → s.clocked w.core = true →
    (∀ f rest, t.loads = f :: rest → exec (.loadReturn wid tid) s
      = .next ((s.modWG wid (fun v => v.modThread tid (fun t => { t with loads := rest }))).arrive wid tid f))
    ∧ ∀ p, s.replies.find? (fun p => p.req.wid == wid && p.req.tid == tid) = some p →
      let m : State := { s with replies := s.replies.erase p }
      let freed := m.modWG wid (fun v => v.modThread tid (fun t => { t with slot := none, acq := Clock.join t.acq p.acq }))
      let got := m.modWG wid (fun v => (v.orFlags p.fl.toNat).modThread tid (fun t =>
        ((t.replied p.req.d p.words).acquires p.acq).knows w p.fl.toNat))
      let fails := got.raiseReturn w.lid w.core (s.record w 20 0 false tid t.gid t.lane p.req.pc 0 p.status)
      (∀ b, p.req.kind = .atom b ∨ p.req.kind = .lrcall → p.code = 0 → exec (.reply wid tid) s = .next got)
      ∧ (∀ b, p.req.kind = .atom b → p.code ≠ 0 → exec (.reply wid tid) s = .next fails)
      ∧ (p.req.kind = .lrcall → p.code ≠ 0 → exec (.reply wid tid) s = .next (if p.req.d = .none then fails else got))
      ∧ (p.req.kind = .wake → exec (.reply wid tid) s = .next (m.modWG wid (fun v => v.modThread tid (fun t => { t with slot := none }))))
      ∧ (∀ b z, p.req.kind = .waitv b → t.run = .wait (.waitv z) → exec (.reply wid tid) s = .next (m.waitvReply w t p z))
      ∧ ∀ width sx gather, p.req.kind = .lda width sx gather → exec (.reply wid tid) s = .next (freed.arrive wid tid
          { pc := p.req.pc, d := p.req.d, gather := gather, va := p.req.va, pas := [p.req.pa]
            vals := loadWords width sx (bytesOf (memBytes width) (p.y.toNat + 2 ^ 64 * p.hi.toNat))
            bad := if p.code = 0 then none else some (p.req.pa / 128, p.detail) }))
  ∧ ∀ (s : State) (wid tid : Nat) (w : WG) (t : Thread) (f : LoadFly), s.wg? wid = some w → w.threads[tid]? = some t →
    let m := s.modWG wid (fun v => v.modThread tid (fun t => match f.d with | .v r => t.setV r.toNat f.vals | _ => t))
    (f.bad = none → f.gather = false → s.arrive wid tid f = m)
    ∧ (∀ line seq, f.bad = some (line, seq) →
        s.arrive wid tid f = (s.retirePage line).raiseReturn w.lid w.core (s.record w 22 0 false tid t.gid t.lane f.pc f.va seq))
    ∧ ∀ g q, f.bad = none → f.gather = true → gatherFor w tid f.pc = some g → w.group? g.gid = some g → g.gathers = [q] → q.pc = f.pc →
        tid ∈ q.tids → (∀ e ∈ q.got, e.1 ≠ tid) →
      let q' := { q with got := insertGot (tid, f.vals) q.got }
      let took := fun (qs : List Gather) => qs.map (fun q => q.take f.pc tid f.vals)
      let has := fun (h : List Gather → List Gather) =>
        m.modWG wid (fun v => v.modGroup g.gid (fun g => { g with gathers := h (took g.gathers) }))
      let shut := has (fun qs => qs.filter (fun r => r != q'))
      let all : Prop := ∀ i ∈ q.tids, ∃ e ∈ q'.got, e.1 = i
      let value := ((q'.got.filter (fun e => e.1 = q.tids.headD 0)).headD (0, [])).2
      let bad := q'.got.filter (fun e => e.2 != value)
      took [q] = [q']
      ∧ (¬ all → s.arrive wid tid f = has id)
      ∧ (all → bad = [] → s.arrive wid tid f = shut.modWG wid (fun v => v.setS g.gid q.d value))
      ∧ ∀ b more, all → bad = b :: more → s.arrive wid tid f = shut.raise w.lid w.core 3 b.1 (bad.map (fun e =>
          s.record w 5 0 false e.1 g.gid (((w.threads[e.1]?).map (fun t => t.lane)).getD 0) f.pc 0 0))

/-- The request at the head of a slice's queue takes effect, and a deterministic window's request whose key is the frontier; the end of a pause and an
invalidation (R191, R195, R208, R213, R267). A built-in or a context's routine first has its core publish its stores to the line, then runs on the line as
M holds it; the line in M becomes the line that the routine leaves, or stays where it aborts, no byte of another line changes but the page-table entry's
DGEN, and the reply carries CODE, DETAIL, flags and Y (R187, R198, R208, R210, R212). A built-in routine changes its 4 or 8 bytes of its line only and
replies with the old value (R212). What a slice finds for a routine's number gives the other codes (R202, R286), and an LDA replies with M (R371).
A line that is read under another key ID than its contents' is written back first, so that no tag is left (R178).
A blocked WAITV reads again when it is woken, when its poll interval has passed (the interval doubles, to 4,096 ck at most) and after 65,536 ck at a
monitor; its read ends the wait where the value differs, else the thread sleeps at a monitor or polls (R229, R230). What an invalidation does with
queued and held requests is the model's reading (log entry 54), and that a window's request that waits for a table page stays in the window its choice
(log entry 78). -/
def Obligations.SliceEvents : Prop :=
  (
    (∀ (s : State) (slice : Nat) (r : Req) (rest : List Req), s.slices.get [] slice = r :: rest → slice ∉ s.paused →
      exec (.lineRoutineRun slice) s = .next (({ s with slices := s.slices.put [] slice rest } : State).runReq r))
    ∧ (∀ (s : State) (lid : Nat) (l : Launch) (r : Req), s.launch? lid = some l → l.phase = .bound →
        l.window.find? (fun r => some r.key4 == s.frontierOf l) = some r → s.tableWaits r = false → s.sliceOf r.pa ∉ s.paused →
        s.gbSt r.core = 1 → (s.runReq r).tableWaits r = false →
        exec (.detRequestApply lid) s = .next ((s.runReq r).modLaunch lid (fun l => { l with window := l.window.erase r })))
    ∧ (∀ (s : State) (slice : Nat),
        (slice ∈ s.paused → exec (.slicePauseEnd slice) s = .next { s with
          paused := s.paused.filter (fun k => k ≠ slice), tags := s.tags.filter (fun e => s.sliceFor (e.1 * 128) != slice) })
        ∧ (slice ∉ s.paused → exec (.slicePauseEnd slice) s = .next s))
    ∧ (∀ (s : State) (ctx va len : Nat),
        let hit := fun (r : Req) =>
          (match r.kind with | .peer _ => false | _ => r.ctx == ctx) && va / 128 * 128 ≤ r.va && decide (r.va < va + len)
        let held := (∀ l ∈ s.launches, ∀ r ∈ l.window, hit r = false)
          ∧ (∀ f ∈ s.faults, f.srcs ≠ [] ∧ ∀ p r, .table p r ∈ f.srcs → hit r = false)
        ((∀ e ∈ s.slices, e.2 ≠ [] ∧ ∀ r ∈ e.2, hit r = false) → held → exec (.pteInvalidation ctx va len) s = .next s)
        ∧ (∀ slice before r after, s.slices = [(slice, before ++ r :: after)] → slice ∉ s.paused → hit r = true →
            (∀ r ∈ after, hit r = false) →
            let t := (before ++ [r]).foldl State.runReq ({ s with slices := s.slices.put [] slice after } : State)
            exec (.pteInvalidation ctx va len) s = .next ((t.heldReqs hit).foldl State.reissue (t.dropReqs hit))
            ∧ ∀ l ∈ (t.dropReqs hit).launches, ∀ r ∈ l.window, hit r = false)))
  ∧ (
    (∀ (s : State) (key : Nat) (clk : Clock) (line : Nat),
        let us := (s.core key).ulist
        let may := fun (u : UStore) => u.pub = false ∧ ∀ l, s.launch? u.lid = some l → l.phase ≠ .dying
        let t := s.publishLine key clk line
        ∃ taken : Nat → Bool,
          (∀ (i : Nat) (u : UStore), us[i]? = some u → may u → u.seq ≤ clk.get 0 u.uid → (∃ c ∈ u.cells, c.1 / 128 = line) → taken i = true)
          ∧ (∀ (i : Nat) (u : UStore), us[i]? = some u → taken i = true → may u)
          ∧ t.mem = (us.zipIdx.filter (fun e => taken e.2)).foldl
              (fun m e => m.writeCells e.1.key (e.1.cells.filter (fun c => c.1 / 128 == line))) s.mem
          ∧ (t.core key).snap = (s.core key).snap ∧ ∀ k, k ≠ key → t.core k = s.core k)
    ∧ (∀ (s : State) (r : Req) (entry : Option Nat), r.kind = .lrcall ∨ (∃ b, r.kind = .atom b) →
        let s1 := s.publishLine r.core r.clk (r.pa / 128)
        let base := r.pa / 128 * 128
        let old := natOfBytes (s1.mem.readN r.key base 128)
        let ran := match entry with
          | some e => entryRun e r.opnds (r.pa % 128) old
          | none => builtinRun r.r r.opnds (r.pa % 128) old
        let t := s.runEntry r entry
        (∃ acq, t.replies = s.replies ++ [⟨r, ran.code, ran.detail, BitVec.ofNat 7 ran.fl, if ran.code = 0 then ran.y else 0, 0, acq⟩])
        ∧ t.mem.readN r.key base 128 = bytesOf 128 (if ran.code = 0 then ran.line else old)
        ∧ (∀ a, a / 128 ≠ r.pa / 128 → a ≠ r.ea + 1 → t.mem.bytes.get unlisted a = s.mem.bytes.get unlisted a)
        ∧ t.launches = s.launches ∧ t.queues = s.queues ∧ t.gbt = s.gbt ∧ t.lodge = s.lodge)
    ∧ (∀ (s : State) (r : Req), r.kind = .lrcall ∨ (∃ b, r.kind = .atom b) →
        let found := s.entryFor (s.sliceOf r.pa) r.ctx r.r
        let kept := fun (e : Nat) => if s.mayCache r then s.cacheEntry (s.sliceOf r.pa) r.ctx r.r e else s
        (∀ line seq, s.poisoned r.pa 1 = some (line, seq) → s.runReq r = (s.retirePage line).answer r 4 0 0 0 0)
        ∧ (s.poisoned r.pa 1 = none →
          (64 ≤ r.r → s.runReq r = s.runEntry r none)
          ∧ (r.r < 64 → isPeer r.pa = true → s.runReq r = s.answer r 1 0 0 0 0)
          ∧ (r.r < 64 → isPeer r.pa = false →
            (∀ e, found = .entry e → slAnum e = r.opnds.length → s.runReq r = (kept e).runEntry r (some e))
            ∧ (∀ e, found = .entry e → slAnum e ≠ r.opnds.length → s.runReq r = (kept e).answer r 6 0 0 0 0)
            ∧ (found = .invalid → s.runReq r = s.answer r 1 0 0 0 0)
            ∧ (∀ line seq, found = .poison line seq → s.runReq r = (s.retirePage line).answer r 5 0 0 0 0)
            ∧ (∀ c, found = .failed c → s.runReq r = s.answer r 7 c 0 0 0)
            ∧ (∀ va, found = .absent va → s.runReq r = s.sendFault r.ctx va .load (.table (s.sliceOf r.pa) r)))))
    ∧ (∀ (s : State) (r : Req) (width : Nat) (sx gather : Bool), r.kind = .lda width sx gather → s.poisoned r.pa (memBytes width) = none →
        let x := natOfBytes (s.mem.readN r.key r.pa (memBytes width))
        (s.runReq r).replies = s.replies
            ++ [⟨r, 0, 0, 0, BitVec.ofNat 64 x, BitVec.ofNat 64 (x / 2 ^ 64), s.relOfM r.core (rangeBytes r.pa (memBytes width))⟩]
          ∧ (s.runReq r).mem = s.mem
          ∧ ∀ i, i < memBytes width → s.foreign r.key ((r.pa + i) / 128) → (s.runReq r).tags.get 0 ((r.pa + i) / 128) = 0)
    ∧ (∀ (s : State) (ps : List (Nat × Nat)),
        let t := s.fetchLines ps
        ({ t with ways := s.ways, struckWays := s.struckWays, evictFirst := s.evictFirst, tags := s.tags, free := s.free } : State) = s
        ∧ ∀ p ∈ ps, s.foreign p.2 (p.1 / 128) → t.tags.get 0 (p.1 / 128) = 0)
    ∧ ∀ (r : Nat) (ops : List DWord) (ofs line : Nat), 64 ≤ r →
        let op := if r = 76 ∨ r = 77 then r - 60 else r - 64
        let n := if atomIs32 op then 32 else 64
        let old := line / 2 ^ (8 * ofs) % 2 ^ n
        let ran := builtinRun r ops ofs line
        ran.code = 0 ∧ ran.y = BitVec.ofNat 64 old
          ∧ ran.line / 2 ^ (8 * ofs) % 2 ^ n = (atomOp op old ((ops.getD 0 0).toNat % 2 ^ n) ((ops.getD 1 0).toNat % 2 ^ n)).1 % 2 ^ n
          ∧ ∀ i, i < 8 * ofs ∨ 8 * ofs + n ≤ i → ran.line.testBit i = line.testBit i)
  ∧ (
    ∀ (s : State) (wid tid : Nat) (z : WaitV), s.waitv? wid tid = some z → z.reading = false →
      (z.mon = true → z.woken = true → exec (.waitvWake wid tid) s = .next (s.waitvRead wid tid z))
      ∧ (z.mon = false → z.since + z.interval ≤ s.ck →
          exec (.waitvPoll wid tid) s = .next (s.waitvRead wid tid { z with interval := min (2 * z.interval) 4096 }))
      ∧ (z.mon = true → z.since + 65536 ≤ s.ck → exec (.waitvTimeout wid tid) s = .next (s.waitvRead wid tid z))
      ∧ ∀ w t p, s.wg? wid = some w → p.req.wid = wid → p.req.tid = tid → p.code = 0 →
          (p.y ≠ z.cmp → s.waitvReply w t p z = s.waitvEnd w.wid tid z p.y p.acq)
          ∧ (p.y = z.cmp → z.interval ≠ 0 → z.woken = false → s.ck < z.start + 65536 →
              s.waitvReply w t p z = s.waitvSleep w.wid tid p.req.ctx { z with last := p.y }))

/-- The steps of a copy at the head of its queue (taking a slot, each sector, the completion with the last one), the leaving of a fence, the entry
of another member's contribution, the matrix queue's next entry, and the end of a zeroing (R131, R146, R148, R149, R163, R219, R220, R232, R296,
R404). What a sector writes is CopySectors and what an entry does MatrixEntries. That COPY_COMPLETE writes the last sector and then completes is the
model's reading (log entry 33), and so is when a fence's open ranges close (log entry 34); that an entry's fetches all read the window at one instant
is its choice (log entry 100). -/
def Obligations.CopyAndMatrixEvents : Prop :=
  (∀ (s : State) (wid q : Nat) (w : WG) (l : Launch) (c : CopyCmd), s.wg? wid = some w → s.launch? w.lid = some l →
    w.head? q = some c → s.coreUp w.core = true →
    let d := descNum c.desc
    let n := dCbuf d
    let b := w.cb n
    (c.cmd ≠ 0 → dCben d = true → c.taken = none → b.free ≠ 0 → l.phase = .bound →
      exec (.copySlotTake wid q) s = .next (s.modWG wid (fun g =>
        (g.modCmd q c.serial (fun c => { c with taken := some b.widx, clk := g.sclk.get [] (256 * n + b.widx) })).modCb n
          (fun b => { b with free := b.free - 1, widx := (b.widx + 1) % b.slots }))))
    ∧ (c.cmd = 0 → (setBits 8 c.mask).all (fun i => ((w.head? i).map (fun e => e.serial)) == some c.serial) = true →
      exec (.fenceEntryHead wid q) s
        = .next ((s.modWG wid (fun g => { (setBits 8 c.mask).foldl (fun (g : WG) i => g.dropCmd i c.serial) g with
            ranges := g.ranges.filter (fun o => o.fence != some c.serial) })).owe (.finish wid)))
    ∧ (l.phase = .bound → c.cmd ≠ 0 → s.copyStalled wid q = false → w.qerr.contains q = false → c.hasSlot = true →
      (c.isReduction = true → (s.modWG wid (fun g => g.modCmd q c.serial (fun _ => { c with idx := some (c.idx.getD (readList w.win c.cmd d)) }))).reduceReady d = .ready) →
      let c' := { c with idx := some (c.idx.getD (readList w.win c.cmd d)) }
      let m := s.modWG wid (fun g => g.modCmd q c.serial (fun _ => c'))
      let es := c'.elems w
      let secs := sectorsOf es
      (∀ sec, c.sectors + 1 < secs.length → secs[c.sectors]? = some sec →
        exec (.copySectorWrite wid q) s = .next (m.runSector w l.ctx c' es sec))
      ∧ (secs.length = c.sectors → exec (.copyComplete wid q) s
          = .next (match ((m.wg? wid).bind (fun g => g.head? q)).filter (fun e => e.serial == c.serial && secs.length ≤ e.sectors) with
              | some e => m.completeCmd wid e
              | none => m))
      ∧ (∀ sec, secs.length = c.sectors + 1 → secs[c.sectors]? = some sec →
          let t := m.runSector w l.ctx c' es sec
          exec (.copyComplete wid q) s
            = .next (match ((t.wg? wid).bind (fun g => g.head? q)).filter (fun e => e.serial == c.serial && secs.length ≤ e.sectors) with
                | some e => t.completeCmd wid e
                | none => t))))
  ∧ (∀ (s : State) (c : Contribution),
      let add := fun (r : Reduction) =>
        if r.tag = c.tag then { r with contribs := r.contribs.filter (fun o => o.device != c.device) ++ [c] } else r
      let after := if s.reductions.any (fun r => r.tag == c.tag) then s.reductions.map add else s.reductions ++ [⟨c.tag, [c]⟩]
      let t : State := { s with reductions := after }
      exec (.domainReductionArrival c) s = .next t ∧ c ∈ t.contributions c.tag
        ∧ ∀ tag, tag ≠ c.tag → t.contributions tag = s.contributions tag)
  ∧ (∀ (s : State) (core : Nat) (e : MEntry) (rest : List MEntry), (s.core core).mq = e :: rest → s.coreUp core = true →
      exec (.matrixQueueEntry core) s
        = .next ((s.modCore core (fun c => { c with mq := rest })).modWG e.wid (fun w =>
            let v := if e.first then w.spanStamps e.gid (fun z => { z with t4 := s.ns % 2 ^ 64 }) else w
            (v.runEntry e.op).1.entryFlags e.gid (v.runEntry e.op).2)))
  ∧ ∀ (s : State) (core : Nat), s.lodge.therm = false → (s.core core).zeroing ≠ [] →
      exec (.zeroingComplete core) s = .next (s.modCore core (fun c => { c with zeroing := c.zeroing.drop 1 }))

/-- What a matrix entry leaves: MZERO clears its tiles and their commit copies; MSWAP exchanges two slot names; MLDB writes one physical slot
with the elements and headers of the stored B array, and its descriptor; MLDA puts 16 by 16 converted elements of the window into a tile and its commit
copy; MSTA puts a tile's converted elements into the window; MMA and MMAW replace each accumulator by the chunks of its row and column in ascending k, a
chunk being one rounding of the exact sum, or a clamped integer sum. Each keeps every other tile, slot, descriptor and byte of the window (R124 to
R127, R152, R155 to R161, R382). That a slot name is resolved as its entry runs is the model's reading (log entry 59). -/
def Obligations.MatrixEntries : Prop :=
  (∀ (w : WG) (t n : Nat),
    let v := (w.runEntry (.mzero t n)).1
    let zeroed := fun (k : Nat) => t ≤ k / 256 ∧ k / 256 < t + n
    (∀ k, v.tiles.get 0 k = if zeroed k then 0 else w.tiles.get 0 k) ∧ (∀ k, v.commit.get 0 k = if zeroed k then 0 else w.commit.get 0 k)
    ∧ ({ v with tiles := w.tiles, commit := w.commit } : WG) = w ∧ (w.runEntry (.mzero t n)).2 = 0)
  ∧ (∀ (w : WG) (x y : Nat), x < 4 → y < 4 →
    let v := (w.runEntry (.mswap x y)).1
    (∀ i, i < 4 → physOf v.smap i = physOf w.smap (if i = x then y else if i = y then x else i))
    ∧ ({ v with smap := w.smap } : WG) = w ∧ (w.runEntry (.mswap x y)).2 = 0)
  ∧ (∀ (win : SMap Byte) (base cs r at_ len i : Nat), i < len →
    let c := (at_ + i) / 8
    (storedBits win base cs r at_ len).testBit i
      = (win.get 0 (base + (r / 128 * ((cs + 63) / 64) + c / 64) * 8192 + r % 128 * 64 + c % 64)).toNat.testBit ((at_ + i) % 8))
  ∧ (∀ (w : WG) (b base shape : Nat),
    let h := shapeOf shape
    let p := physOf w.smap b
    let v := (w.runEntry (.mldb b base shape)).1
    let a := storedB h
    let m := widthOf h.bt
    mldbBad h = false → p < 4 →
    (∀ k n, k < h.k → n < h.n →
      slotBits v.slots p (m * (k * h.n + n)) m
        = if h.sb then storedBits w.win base a.cs n (8 * (k / 64 * (2 + 8 * m) + 2) + m * (k % 64)) m
          else if h.bo then storedBits w.win base a.cs n (m * k) m
          else storedBits w.win base a.cs k (m * n) m)
    ∧ (h.sb = true → ∀ kb n, kb < h.k / 64 → n < h.n →
      slotBits v.slots p (8 * (h.k * h.n * m / 8 + 2 * (kb * h.n + n))) 16 = storedBits w.win base a.cs n (8 * (kb * (2 + 8 * m))) 16)
    ∧ (∀ j, j < 16384 * p ∨ 16384 * (p + 1) ≤ j → v.slots.get 0 j = w.slots.get 0 j)
    ∧ (∀ i, i < 4 → v.descs.getD i SlotDesc.empty = if i = p then ⟨h.k, h.n, (codeOfTy h.bt).toNat, h.sb, true⟩ else w.descs.getD i SlotDesc.empty)
    ∧ ({ v with slots := w.slots, descs := w.descs } : WG) = w ∧ (w.runEntry (.mldb b base shape)).2 = 0)
  ∧ (∀ (w : WG) (t base : Nat) (ty : Ty) (col : Bool),
    let r := w.runEntry (.mlda t base ty col)
    let b := widthOf ty / 8
    let el := fun (q e : Nat) => toAcc ty (natOfBytes (w.win.getN 0 (base + 64 * q + b * e) b))
    let key := fun (q e : Nat) => if col then 256 * t + 16 * e + q else 256 * t + 16 * q + e
    (∀ q e, q < 16 → e < 16 → r.1.tiles.get 0 (key q e) = BitVec.ofNat 48 (el q e).1 ∧ r.1.commit.get 0 (key q e) = BitVec.ofNat 48 (el q e).1)
    ∧ (∀ k, k / 256 ≠ t → r.1.tiles.get 0 k = w.tiles.get 0 k ∧ r.1.commit.get 0 k = w.commit.get 0 k)
    ∧ ({ r.1 with tiles := w.tiles, commit := w.commit } : WG) = w
    ∧ ∀ f, r.2.testBit f = true ↔ ∃ q e, q < 16 ∧ e < 16 ∧ (el q e).2.testBit f = true)
  ∧ (∀ (w : WG) (t base : Nat) (ty : Ty) (col : Bool) (rnd : Rnd) (sat : Bool), widthOf ty = 16 ∨ widthOf ty = 32 →
    let r := w.runEntry (.msta t base ty col rnd sat)
    let b := widthOf ty / 8
    let el := fun (q e : Nat) => fromAcc ty rnd sat (w.tiles.get 0 (if col then 256 * t + 16 * e + q else 256 * t + 16 * q + e)).toNat
    (∀ q e, q < 16 → e < 16 → natOfBytes (r.1.win.getN 0 (base + 64 * q + b * e) b) = (el q e).1 % 2 ^ widthOf ty)
    ∧ (∀ a, (∀ q, q < 16 → a < base + 64 * q ∨ base + 64 * q + 16 * b ≤ a) → r.1.win.get 0 a = w.win.get 0 a)
    ∧ ({ r.1 with win := w.win } : WG) = w
    ∧ ∀ f, r.2.testBit f = true ↔ ∃ q e, q < 16 ∧ e < 16 ∧ (el q e).2.testBit f = true)
  ∧ (∀ (w : WG) (tile base shape slot : Nat) (win : Option Nat),
    let h := shapeOf shape
    let r := w.runEntry (.mma tile base shape slot win)
    let p := physOf w.smap slot
    let cs := (storedA h win).cs
    let aHdr := fun (i kb : Nat) => storedBits w.win base cs (posOf win i) (8 * (kb * (2 + 8 * widthOf h.at_))) 16
    let bHdr := fun (kb j : Nat) => slotBits w.slots p (8 * (h.k * h.n * widthOf h.bt / 8 + 2 * (kb * h.n + j))) 16
    let a := fun (i x : Nat) =>
      if h.sb then blockElem h.at_ (aHdr i (x / 64)) (x % 64)
        (storedBits w.win base cs (posOf win i) (8 * (x / 64 * (2 + 8 * widthOf h.at_) + 2) + widthOf h.at_ * (x % 64)) (widthOf h.at_))
      else elementV h.at_ (if h.ao then storedBits w.win base cs x (widthOf h.at_ * posOf win i) (widthOf h.at_)
        else storedBits w.win base cs (posOf win i) (widthOf h.at_ * x) (widthOf h.at_))
    let b := fun (x j : Nat) =>
      let e := slotBits w.slots p (widthOf h.bt * (x * h.n + j)) (widthOf h.bt)
      if h.sb then blockElem h.bt (bHdr (x / 64) j) (x % 64) e else elementV h.bt e
    let key := fun (i j : Nat) => 256 * (tile + i / 16 * (h.n / 16) + j / 16) + 16 * (i % 16) + j % 16
    let kc := kMin ((matClass h.bt).getD 3)
    let el := fun (i j : Nat) => chunksOf (isFloat h.bt) kc (fun x => (a i x, b x j)) (h.k / kc) 0 (w.tiles.get 0 (key i j)).toNat
    (∀ i j, i < h.m → j < h.n → r.1.tiles.get 0 (key i j) = BitVec.ofNat 48 (el i j).1)
    ∧ (∀ k, k / 256 < tile ∨ tile + h.m / 16 * (h.n / 16) ≤ k / 256 → r.1.tiles.get 0 k = w.tiles.get 0 k)
    ∧ ({ r.1 with tiles := w.tiles } : WG) = w
    ∧ ∀ f, r.2.testBit f = true ↔ (∃ i j, i < h.m ∧ j < h.n ∧ (el i j).2.testBit f = true)
        ∨ (f = 6 ∧ h.sb = true ∧ ∃ kb, kb < h.k / 64 ∧ ((∃ i, i < h.m ∧ aHdr i kb % 4 ≠ 0) ∨ ∃ j, j < h.n ∧ bHdr kb j % 4 ≠ 0)))
  ∧ (∀ (float : Bool) (kc : Nat) (prod : Nat → FVal × FVal) (n c acc : Nat),
    let ps := (List.range kc).map (fun i => prod (c * kc + i))
    let r := if float then chunkAdd acc ps else chunkInt acc ps
    let t := chunksOf float kc prod n (c + 1) r.1
    chunksOf float kc prod 0 c acc = (acc, 0) ∧ chunksOf float kc prod (n + 1) c acc = (t.1, r.2 ||| t.2))
  ∧ (∀ (acc : Nat) (ps : List (FVal × FVal)),
    let special := (decodeF w48 acc).isNan = true ∨ (∃ p ∈ ps, p.1.isNan = true ∨ p.2.isNan = true ∨ zeroTimesInf p.1 p.2 = true)
    let finite := (∃ n m e, decodeF w48 acc = .fin n m e) ∧ ∀ p ∈ ps, (∃ n m e, p.1 = .fin n m e) ∧ ∃ n m e, p.2 = .fin n m e
    let sum := (ps.map (fun p => finVal p.1 * finVal p.2)).sum
    (special → (chunkAdd acc ps).1 = defaultNan w48)
    ∧ (finite → acc < 2 ^ 48 → ∀ (neg : Bool) (m : Nat) (e : Int), m ≠ 0 →
        (if neg then -1 else 1) * (m : ℚ) * 2 ^ e = finVal (decodeF w48 acc) + sum →
        let r := roundF w48 .rn false false neg m e
        chunkAdd acc ps = (r.1, r.2 &&& fOF))
    ∧ (finite → ∃ k : Int, |(k : ℚ) - sum| ≤ 1 / 2 ∧ (|(k : ℚ) - sum| = 1 / 2 → k % 2 = 0)
        ∧ let v := signedOf 48 acc + k
          let kept := max (-(2 ^ 47 : Int)) (min v (2 ^ 47 - 1))
          chunkInt acc ps = ((kept % ((2 ^ 48 : Nat) : Int)).toNat, if kept = v then 0 else fSAT)))

/-- The elements of each copy command and mode, with where each is read and written; what a command reads, each 32-byte sector of global memory
and each 64-byte unit of the window once; the value of an element from its source; and the bytes of M or of the window that a sector takes, with every
other byte kept, by which a barrier's PEND is lowered (R121, R174, R192, R194, R217 to R221, R223, R232). How lists, outside elements and
overlapping elements are read is the model's reading (log entries 36 and 40), and the interface of a domain reduction its choice (log entry 39). -/
def Obligations.CopySectors : Prop :=
  (∀ (d slot : Nat) (idx : List Nat) (r c : Nat),
    let f := fun (lo n : Nat) => d / 2 ^ lo % 2 ^ n
    let sgn := fun (x : Nat) => if x < 2 ^ 15 then (x : Int) else (x : Int) - 2 ^ 16
    let gy := sgn (f 128 16) + (r : Int)
    let gx := sgn (f 144 16) + (c : Int)
    let ss := widthOf (dStype d) / 8
    let ds := widthOf (dDtype d) / 8
    let i := idx.getD r 0
    let inside := decide (0 ≤ gy ∧ gy < (f 96 16 : Int) ∧ 0 ≤ gx ∧ gx < (f 112 16 : Int))
    let listed := decide (i < f 96 16 ∧ c < f 112 16)
    let scr := fun (size : Nat) => f 192 21 + (if d.testBit 213 then slot * f 224 16 * (f 160 8 + 1) else 0) + r * f 224 16 + c * size
    let glob := fun (size y x : Nat) => f 0 56 + y * f 64 32 + x * size
    let el := fun (cmd : Nat) => elemAt cmd d slot idx r c
    let mode := f 251 2
    el 1 = some ⟨if inside then .glob (glob ss gy.toNat gx.toNat) else .zero, scr ds, ds⟩
    ∧ (mode = 0 → el 2 = if inside then some ⟨.scr (scr ss), glob ds gy.toNat gx.toNat, ds⟩ else none)
    ∧ (mode = 2 → r = 0 → el 2 = some ⟨.reduce c (scr ds), glob ds 0 c, ds⟩)
    ∧ (mode = 0 → el 3 = some ⟨if listed then .glob (glob ss i c) else .zero, scr ds, ds⟩)
    ∧ (mode = 1 → el 3 = if c = 0 then some ⟨.manifest i, f 0 56 + 64 * r, 64⟩ else none)
    ∧ el 4 = (if listed then some ⟨.scr (scr ss), glob ds i c, ds⟩ else none)
    ∧ (mode = 0 → el 5 = if inside then some ⟨.pat, glob ds gy.toNat gx.toNat, ds⟩ else none)
    ∧ (mode = 1 → el 5 = some ⟨.pat, scr ds, ds⟩))
  ∧ (∀ (cmd d slot : Nat) (idx : List Nat) (e : CElem),
    e ∈ elemsOf cmd d slot idx ↔ ∃ r c, r < d / 2 ^ 160 % 2 ^ 8 + 1 ∧ c < d / 2 ^ 168 % 2 ^ 12 + 1 ∧ elemAt cmd d slot idx r c = some e)
  ∧ (∀ (s : State) (win : SMap Byte) (ctx : Nat) (c : CopyCmd) (es : List CElem),
    let n := widthOf (dStype (descNum c.desc)) / 8
    let t := c.readPlaces s win ctx es
    ({ t with srcs := c.srcs } : CopyCmd) = c
    ∧ (∀ k, c.srcs.get [] k ≠ [] → t.srcs.get [] k = c.srcs.get [] k)
    ∧ (∀ k, c.srcs.get [] k = [] → (∃ e ∈ es, k ∈ e.src.places n) → t.srcs.get [] k = s.placeNow win ctx k)
    ∧ (∃ ps, s.fetchSources ctx c es = s.fetchLines ps ∧ ∀ a tr, (∃ e ∈ es, 3 * a ∈ e.src.places n) → c.srcs.get [] (3 * a) = [] →
        s.checkPage ctx (32 * a) true false false = .ok tr → (tr.pa, tr.key) ∈ ps)
    ∧ (∀ va i, i < n → 3 * ((va + i) / 32) ∈ (CSrc.glob va).places n) ∧ (∀ a i, i < n → 3 * ((a + i) / 64) + 1 ∈ (CSrc.scr a).places n)
    ∧ (∀ a tr, s.checkPage ctx (32 * a) true false false = .ok tr → s.placeNow win ctx (3 * a) = s.mem.readN tr.key tr.pa 32)
    ∧ ∀ a, s.placeNow win ctx (3 * a + 1) = win.getN 0 (64 * a) 64)
  ∧ (∀ (s : State) (ctx : Nat) (c : CopyCmd) (e : CElem),
    let d := descNum c.desc
    let n := widthOf (dStype d) / 8
    let raw := fun (kind size a : Nat) =>
      natOfBytes ((List.range n).map (fun i => (c.srcs.get [] (3 * ((a + i) / size) + kind)).getD ((a + i) % size) 0))
    let is := fun (x : Nat) =>
      let v := if dStype d = dDtype d then (x, 0) else convert false (dDtype d) (dStype d) .rn (d.testBit 190) false x
      s.elemBytes ctx c e = .ok (bytesOf e.n v.1) v.2
    (e.src = .zero → s.elemBytes ctx c e = .ok (bytesOf e.n 0) 0)
    ∧ (e.src = .pat → s.elemBytes ctx c e = .ok (bytesOf e.n c.pat.toNat) 0)
    ∧ (∀ a, e.src = .scr a → is (raw 1 64 a))
    ∧ (∀ va ts, e.src = .glob va → s.access ctx va n 1 true false false = .ok ts →
        (∀ p ∈ placeBytes va n ts, s.poisoned p.1 1 = none) → is (raw 0 32 va))
    ∧ (∀ p tr, e.src = .manifest p → p % 65536 = 0 → s.checkPage ctx p true false false = .ok tr → s.poisoned tr.pa 65536 = none →
        s.elemBytes ctx c e = .ok (c.srcs.get [] (3 * p + 2)) 0
        ∧ ∀ win, s.placeNow win ctx (3 * p + 2)
            = bytesOf 8 p ++ bytesOf 8 tr.dgen ++ sha3Bytes (s.mem.readN tr.key tr.pa 65536) ++ bytesOf 16 0)
    ∧ ∀ i a, e.src = .reduce i a →
        let v := s.reduceElem d (raw 1 64 a) i
        s.elemBytes ctx c e = .ok (bytesOf e.n v.1) v.2)
  ∧ (∀ (s : State) (d own i levels : Nat) (members : List Nat),
    members.Pairwise (· < ·) → (∀ k, k ∈ members ↔ k = s.lodge.domain ∨ ((s.domain.get 0 k).getLsbD 0 = true ∧ (s.domain.get 0 k).getLsbD 1 = true)) →
    (s.domain.map (fun e => e.1)).Pairwise (· < ·) → members.length ≤ 2 ^ levels → (∀ k, k < levels → 2 ^ k < members.length) → levels ≤ 8 →
    let leaf := fun (n : Nat) => if n = s.lodge.domain then some (own, 0)
      else ((s.contributions (d / 2 ^ 144 % 2 ^ 16)).find? (fun c => c.device == n)).map (fun c => ((c.elems.getD i 0).toNat, 0))
    s.reduceElem d own i = (treeOf (domainCombine (d / 2 ^ 128 % 2 ^ 4) (dDtype d)) levels
      ((List.range (2 ^ levels)).map (fun k => (members[k]?).bind leaf))).getD (own, 0))
  ∧ ∀ (s : State) (w v : WG) (ctx : Nat) (c : CopyCmd) (es : List CElem) (sec : Nat),
    let here := es.filter (fun e => e.sectors.contains sec)
    let f := s.fetchSources ctx c here
    let c1 := c.readPlaces s w.win ctx here
    let at_ := fun (a : Nat) => (here.filter (fun e => e.dst ≤ a && a < e.dst + e.n && a / 32 == sec)).getLast?
    let count := ((List.range 32).filter (fun i => (at_ (32 * sec + i)).isSome)).length
    s.wg? w.wid = some v →
    (∀ (bytes : CElem → List Byte) (fl : CElem → Nat),
      (∀ e ∈ here, s.elemBytes ctx c1 e = .ok (bytes e) (fl e) ∧ (bytes e).length = e.n) →
      let new := fun (a : Nat) (old : Byte) => ((at_ a).map (fun e => (bytes e).getD (a - e.dst) 0)).getD old;
      (destGlobal c.cmd (dMode (descNum c.desc)) = false →
        ∃ (u : State) (x : WG), s.runSector w ctx c es sec = u.lowerPend w c1 count [] ∧ ({ u with wgs := s.wgs } : State) = f ∧ u.wg? w.wid = some x
          ∧ ∀ a, x.win.get 0 a = new a (v.win.get 0 a))
      ∧ (∀ lo tr, destGlobal c.cmd (dMode (descNum c.desc)) = true → (at_ lo).isSome = true → (∀ a, (at_ a).isSome = true → lo ≤ a) →
        s.checkPage ctx lo false true false = .ok tr →
        let m := s.setDgen ctx tr
        ∃ (u : State) (x : WG), s.runSector w ctx c es sec = u.lowerPend w c1 count [tr.pa / 32] ∧ u.wg? w.wid = some x ∧ x.win = v.win
          ∧ (∀ a, lo ≤ a → a / 32 = sec → u.mem.read tr.key (tr.pa + (a - lo)) = new a (m.mem.read tr.key (tr.pa + (a - lo))))
          ∧ ∀ p, p / 128 ≠ tr.pa / 128 → u.mem.bytes.get unlisted p = m.mem.bytes.get unlisted p))
    ∧ (∀ (before after : List CElem) (e : CElem) (k va : Nat), here = before ++ e :: after →
      (∀ o ∈ before, ∀ k va, s.elemBytes ctx c1 o ≠ .cause k va) → s.elemBytes ctx c1 e = .cause k va →
      s.runSector w ctx c es sec = ((f.modWG w.wid (fun g => g.modCmd c.q c.serial (fun _ => c1))).modWG w.wid (fun g =>
        g.dropCmd c.q c.serial)).copyTrap w c1 18 0 va (copyDetail c1 k))
    ∧ ∀ n secs, (dBen (descNum c.desc) = false → s.lowerPend w c n secs = s)
      ∧ (dBen (descNum c.desc) = true →
        let b := dBarn (descNum c.desc)
        let o := v.bar (s.windowOf w) b
        0 ≤ o.pend - (n : Int) + 2 ^ 55 →
        (s.lowerPend w c n secs).wg? w.wid = some { v.setBar (s.windowOf w) b { o with pend := o.pend - (n : Int) } with
          bsec := SMap.put [] v.bsec b (v.bsec.get [] b ++ secs)
          bclk := SMap.put [] v.bclk b (Clock.join (v.bclk.get [] b) c.clk) })

/-- The group binding table, the start of a partition, the locked clock, the power cap, bind records, and turns on a shared physical core: each
accepted write has its effect and no other, and each rejected one only sets the binding-error bit (R18 to R22, R241, R243, R246, R247,
R296). A bind record whose PART is not its context's is rejected; a record of a running launch takes a new PRIO, and a stop of a launch that holds
nothing on the cores is done at once (R241, R243). A turn ends when the resident core's work rests and has drained, also where no other core can run, and the next one in TURN order that can run follows once the
panels are zeroed (R22, R148). ST of a core out of service and what a partition's start asks besides R20 are the model's readings (log entry 42), as are
the end of a turn (log entry 51) and the slots of stopped launches (log entry 44); the fate of a TURN of 2^MUXL or more (log entry 101) and that
binding makes an idle partition active (log entry 41) are its choices. -/
def Obligations.BindingEvents : Prop :=
  ∀ s : State, s.lodge.ready = true →
    (∀ (index : Nat) (e : DWord), index < 4096 → gbPart e.toNat = index / 256 → gbMuxl e.toNat < 5 → gbPcore e.toNat < 272 →
      s.gbSt index % 2 = 0 →
      let st := if e.getLsbD 63 = true ∧ s.service .core (gbPcore e.toNat) ∈ [.outOfService, .underTest, .retired] then 3 else s.gbSt index
      let x := BitVec.ofNat 64 (putBits (putBits (putBits e.toNat 61 2 st) 52 9 0) 46 2 0)
      exec (.groupBindingEntryWrite index e) s = .next { s with gbt := s.gbt.put 0 index x }
        ∧ bitsOf x.toNat 61 2 = st
        ∧ (∀ i, i < 46 ∨ (48 ≤ i ∧ i < 52) ∨ i = 63 → x.getLsbD i = e.getLsbD i)
        ∧ ∀ i, (46 ≤ i ∧ i < 48) ∨ (52 ≤ i ∧ i < 61) → x.getLsbD i = false)
    ∧ (∀ (index : Nat) (e : DWord), index < 4096 →
      (gbPart e.toNat ≠ index / 256 ∨ 5 ≤ gbMuxl e.toNat ∨ 272 ≤ gbPcore e.toNat ∨ s.gbSt index % 2 = 1) →
      exec (.groupBindingEntryWrite index e) s = .next { s with lodge := { s.lodge with bindErr := true } })
    ∧ (∀ part, part < 16 → (s.part part).started = false →
      (s.partOk part = true → exec (.partitionStart part) s = .next (s.modPart part (fun p =>
        { p with started := true, cores := (s.partCores part).length, ckStart := s.ck, nextPlace := s.ck }.traced (Config.traceRing part))))
      ∧ (s.partOk part = false → exec (.partitionStart part) s = .next { s with lodge := { s.lodge with bindErr := true } }))
    ∧ (∀ part on, part < 16 →
      (s.launches.any (fun l => l.binds part) = false →
        exec (.lockedClockMode part on) s = .next (s.modPart part (fun p => { p with locked := on })))
      ∧ (s.launches.any (fun l => l.binds part) = true →
        exec (.lockedClockMode part on) s = .next { s with lodge := { s.lodge with bindErr := true } }))
    ∧ (∀ part steps, part < 16 → steps ≤ 10 → (s.part part).locked = false →
      exec (.powerCapAdjust part steps) s = .next (s.modPart part (fun p => { p with clockStep := steps })))
    ∧ (∀ (slot : Nat) (record : DWord) (l : Launch), slot < 512 → (∀ m ∈ s.launches, m.slot ≠ some slot) →
      let r := putBits (putBits record.toNat 18 1 0) 19 13 0
      bindV r = true → bindSt r = 1 → bindPart r = (s.ctx (bindCtx r)).part → s.bindLaunch r = some l → (s.ctx l.ctx).dead = false →
      l.slot = none → (l.phase = .queued → l.placed = true → l.part = bindPart r) →
      exec (.bindRun slot record) s = .next ((s.setBind slot r).bindTo slot (bindPart r) l))
    ∧ (∀ (slot : Nat), slot < 512 →
      let r := s.bind slot
      bindV r = true → bindSt r = 1 → (s.ctx (bindCtx r)).dead = false →
      let rests := ∃ l ∈ s.launches, l.slot = some slot ∧ (l.phase = .stopped ∨ l.phase = .queued)
      (¬ rests → exec (.bindStopRequest slot) s = .next (s.setBind slot (putBits r 1 2 2)))
      ∧ (rests → exec (.bindStopRequest slot) s = .next (s.setBind slot (putBits r 1 2 3))))
    ∧ (∀ (slot : Nat) (record : DWord), slot < 512 →
      let r := putBits (putBits record.toNat 18 1 0) 19 13 0
      bindSt r = (if bindV r = true then 1 else 0) →
      (bindPart r ≠ (s.ctx (bindCtx r)).part →
        exec (.bindRun slot record) s = .next { s with lodge := { s.lodge with bindErr := true } })
      ∧ ∀ l, s.launches.find? (fun l => l.slot == some slot && s.needsSlot l) = some l → bindPart r = (s.ctx (bindCtx r)).part →
        bindV r = true → bindSt (s.bind slot) = 1 → bindLid r = l.lid % 2 ^ 32 → bindCtx r = l.ctx → bindPart r = l.part →
        exec (.bindRun slot record) s = .next (s.setBind slot (putBits r 18 1 (bitsOf (s.bind slot) 18 1))))
    ∧ (∀ (lid slot : Nat) (l : Launch), s.launch? lid = some l → l.slot = some slot → l.window ≠ [] → l.frontierCk + 2 ^ 20 ≤ s.ck →
      exec (.reorderStall lid) s = .next (s.setBind slot (putBits (s.bind slot) 18 1 1)))
    ∧ ∀ pcore, s.lodge.therm = false →
      let resident := (s.turnOrder pcore 15).find? (fun key => s.gbSt key = 1)
      let waiting := (s.turnOrder pcore (s.turns.get 15 pcore)).find? (fun key => s.gbSt key = 2 && !s.coreBlocked key)
      (∀ old, resident = some old →
        (gbMuxl (s.gbe old).toNat ≠ 0 → s.coreRests old = true → s.coreDrained old = true →
          exec (.turnSwitch pcore) s = .next (s.endTurn old) ∧ (s.endTurn old).gbSt old = 2)
        ∧ (gbMuxl (s.gbe old).toNat = 0 ∨ s.coreRests old = false ∨ s.coreDrained old = false → exec (.turnSwitch pcore) s = .next s))
      ∧ (∀ new, resident = none → waiting = some new → s.zeroingOn pcore = [] → s.service .core pcore = .inService →
        exec (.turnSwitch pcore) s = .next (({ s.setSt new 1 with
          turns := s.turns.put 15 (gbPcore (s.gbe new).toNat) (gbTurn (s.gbe new).toNat) } : State).pinGroups (fun w => w.core == new)))
      ∧ (resident = none → waiting = none → exec (.turnSwitch pcore) s = .next s)

/-- A queue's descriptor and doorbell: an accepted write stores its fields, with RD and ERRIDX kept and STATUS cleared by ones; a doorbell writes WR
and rejects a queue whose ring it overruns, and either forgets the records of LAUNCH that lie no longer between RD and WR (R234, R235, R237). The
packet at RD: a launch record becomes a launch and RD advances, a wait packet holds the queue until its word reaches the count, and a packet that
breaks a rule is rejected with its lowest code (R235 to R237). That the interrupt stands while STATUS is not zero is the model's choice (log entry
103); that a wait packet's RD advances at its release (log entry 45), and what becomes of PARENT, LID and code 7 (log entry 46), are its readings. -/
def Obligations.QueueEvents : Prop :=
  (
    ∀ (s : State) (q : Nat), q < 4096 →
      (∀ x : BitVec 256, (s.queue q).accepts x.toNat = false →
        exec (.queueDescriptorWrite q x) s = .next { s with lodge := { s.lodge with bindErr := true } })
      ∧ (∀ x : BitVec 256, (s.queue q).accepts x.toNat = true →
        let t := (s.modQueue q (fun d => d.written x.toNat)).queueIrqAt q
        exec (.queueDescriptorWrite q x) s = .next t
          ∧ ({ t with queues := s.queues, lodge := { t.lodge with queueIrq := s.lodge.queueIrq } } : State) = s
          ∧ (q ∈ t.lodge.queueIrq ↔ (t.queue q).status ≠ 0) ∧ (∀ k, k ≠ q → (k ∈ t.lodge.queueIrq ↔ k ∈ s.lodge.queueIrq))
          ∧ (∀ k, k ≠ q → t.queue k = s.queue k)
          ∧ (t.queue q).ring = x.toNat % 2 ^ 56 ∧ (t.queue q).size = x.toNat / 2 ^ 56 % 16 ∧ (t.queue q).ctx = x.toNat / 2 ^ 64 % 512
          ∧ (t.queue q).prio = x.toNat / 2 ^ 73 % 4 ∧ (t.queue q).en = x.getLsbD 75 ∧ (t.queue q).dev = x.getLsbD 76
          ∧ (t.queue q).wr = x.toNat / 2 ^ 128 % 2 ^ 32 ∧ (t.queue q).rd = (s.queue q).rd ∧ (t.queue q).erridx = (s.queue q).erridx)
      ∧ ∀ wr : Word,
        let m := s.modQueue q (fun d => d.setWr wr.toNat)
        (m.queue q).wr = wr.toNat
        ∧ (∀ e, e ∈ (m.queue q).devRecs ↔ e ∈ (s.queue q).devRecs
            ∧ (e.1 + 2 ^ 32 - (s.queue q).rd) % 2 ^ 32 < (wr.toNat + 2 ^ 32 - (s.queue q).rd) % 2 ^ 32)
        ∧ (m.parses q = false ∨ m.preCode q = 0 → exec (.queueDoorbell q wr) s = .next m)
        ∧ (m.parses q = true → m.preCode q ≠ 0 → exec (.queueDoorbell q wr) s = .next ((m.modQueue q (fun d =>
            { d with status := m.preCode q, erridx := d.rd, en := false, holding := none, stalled := false })).queueIrqAt q)))
  ∧ (
    ∀ (s : State) (q : Nat),
      let d := s.queue q
      (∀ n, s.readPacket q = .packet n →
        let child := d.devRecs.find? (fun e => e.1 == d.rd)
        let reject := fun (c : Nat) => (s.modQueue q (fun d =>
          { d with status := c, erridx := d.rd, en := false, holding := none, stalled := false })).queueIrqAt q
        (n % 256 ≠ 1 → n % 256 ≠ 2 → exec (.launchPacket q) s = .next (reject 1))
        ∧ (n % 256 = 1 → ∀ c, minOf (s.launchCodes d n child.isSome) = some c → exec (.launchPacket q) s = .next (reject c))
        ∧ (n % 256 = 1 → child = none → minOf (s.launchCodes d n false) = none → ∀ h, s.kernelOf d.ctx n = some h →
            let l := s.newLaunch q d.rd d.ctx (completeRecord n d h 0 s.lidNext) h
            let t := ({ s with launches := s.launches ++ [l], lidNext := s.lidNext + 1 } : State).modQueue q (fun d =>
              { d with rd := (d.rd + 1) % 2 ^ 32, devRecs := d.devRecs.filter (fun e => e.1 != d.rd) })
            exec (.launchPacket q) s = .next t ∧ t.launches = s.launches ++ [l] ∧ t.lidNext = s.lidNext + 1
              ∧ (t.queue q).rd = (d.rd + 1) % 2 ^ 32
              ∧ ({ t with launches := s.launches, lidNext := s.lidNext, queues := s.queues } : State) = s)
        ∧ (n % 256 = 2 → ∀ c, minOf (waitCodes n) = some c → exec (.waitPacket q) s = .next (reject c))
        ∧ (n % 256 = 2 → minOf (waitCodes n) = none →
            exec (.waitPacket q) s = .next (s.modQueue q (fun d =>
              { d with holding := some (n / 2 ^ 320 % 2 ^ 56, n / 2 ^ 512 % 2 ^ 64) }))))
      ∧ ∀ va count t, d.holding = some (va, count) → s.lodge.ready = true → d.en = true → d.stalled = false →
          s.access d.ctx va 8 8 true false false = .ok [t] → s.poisoned t.pa 8 = none →
          let read := natOfBytes (s.mem.readN t.key t.pa 8)
          (read < count → exec (.waitPacketRelease q) s = .next s)
          ∧ (count ≤ read → exec (.waitPacketRelease q) s = .next (s.modQueue q (fun d =>
              { d with rd := (d.rd + 1) % 2 ^ 32, holding := none }))))

/-- The life of a launch on the cores: placement, residency with a fresh workgroup, completion, the signal's interval, and the time limit (R24, R27,
R28, R50, R51, R148, R168, R239, R242, R244). A stop ends a launch's issue and rolls its open spans back; once it is drained its stores are published,
its stamps written and its image stands, its workgroups leave the cores and its record says stopped; an image is restored; and a checkpoint takes the
pages of the current generation and counts it up (R60 to R64, R68 to R79, R80, R169, R243). Which launch and core a placement takes is the model's
choice where R242 leaves it (log entry 41), as is the place of an image in memory (log entry 49); what an image holds (log entries 47 and 48), how
a launch is restored (log entry 77) and what a checkpoint takes (log entry 87) are its readings. -/
def Obligations.LaunchEvents : Prop :=
  (
    (∀ (s : State) (part key : Nat) (l : Launch), (s.part part).nextPlace ≤ s.ck → s.lodge.therm = false →
      (s.placers part).find? (fun l => l.count = 0 || (s.placeCore l).isSome) = some l → l.count ≠ 0 → s.placeCore l = some key →
      exec (.workgroupPlacement part) s = .next ((((s.begin_ l).modPart part (fun p => { p with nextPlace := s.ck + 4 })).modLaunch l.lid
        (fun m => { m with next := m.next + 1, pending := m.pending ++ [(m.next, key)] })).traceGroup l 1 l.next key))
    ∧ (∀ (s : State) (lid wgid base key : Nat) (l : Launch), s.launch? lid = some l →
      l.pending.find? (fun p => p.1 == wgid) = some (wgid, key) → l.phase = .bound → s.usable key = true → s.countsFree key l.hdr = true →
      s.panelsFree key base l.hdr.scr = true → s.behindRelaunch lid wgid key = false → s.clocked key = true →
      let w := s.launchGroup l wgid key base
      let m := ({ s with wgs := s.wgs ++ [w], widNext := s.widNext + 1 } : State).modLaunch lid (fun l =>
        { l with pending := l.pending.filter (fun p => p.1 != wgid) })
      let t := (((m.enterCore key lid).occupy key).pinKernel l key)
      exec (.workgroupResidency lid wgid base) s = .next t ∧ t.wgs = s.wgs ++ [w]
        ∧ ({ t with wgs := s.wgs, widNext := s.widNext, launches := s.launches, cores := s.cores, gbt := s.gbt, turns := s.turns,
                    ctxs := s.ctxs } : State) = s
        ∧ t.launch? lid = some { l with pending := l.pending.filter (fun p => p.1 != wgid) }
        ∧ (∀ k, k ≠ lid → t.launch? k = s.launch? k) ∧ (∀ k, k ≠ key → t.core k = s.core k ∧ t.gbe k = s.gbe k)
        ∧ w.wid = s.widNext ∧ w.lid = l.lid ∧ w.wgid = wgid ∧ w.core = key ∧ w.base = base ∧ w.win = [] ∧ w.tiles = [] ∧ w.commit = []
        ∧ w.flags = 0 ∧ w.formation = l.hdr.n / l.hdr.g ∧ w.threads.length = l.hdr.n
        ∧ (∀ (tid : Nat) (th : Thread), w.threads[tid]? = some th → th.v = [] ∧ th.p = 0 ∧ th.run = .ready ∧ th.gid = tid / l.hdr.g
            ∧ th.lane = tid % l.hdr.g ∧ th.latches = [none, none, none, none]
            ∧ th.pc = ((s.codeOf l).map (fun v => v.base)).getD 0 + l.hdr.entry)
        ∧ ∀ g ∈ w.groups, g.s = SMap.putAll 0 [] 0 (argWords l.record) ∧ g.k = [] ∧ g.span = none)
    ∧ (∀ (s : State) (wid : Nat) (w : WG) (l : Launch), s.wg? wid = some w → s.launch? w.lid = some l →
      w.threads.all (fun t => t.run == .exited) = true → w.queues.all (fun q => q.all (fun c => c.done)) = true → l.phase ≠ .dying →
      w.poisonedBar (s.windowOf w) = none → s.clocked w.core = true →
      let s1 := (s.publishAll w.core (fun u => u.uid / 2048 == wid)).writeStamps wid false
      let s2 := (s1.release w).modLaunch l.lid (fun l => { l with flagWords := l.flagWords.put 0 w.wgid w.flags })
      exec (.workgroupCompletion wid) s = .next ((s2.traceGroup l 2 w.wgid w.core).reportDone l.lid w.wgid)
        ∧ (∀ v ∈ s2.wgs, v.wid ≠ wid)
        ∧ ∀ k, (s1.release w).launch? l.lid = some k → ∃ m, s2.launch? l.lid = some m ∧ m.flagWords.get 0 w.wgid = w.flags)
    ∧ (∀ (s : State) (lid : Nat) (l : Launch), s.launch? lid = some l → l.heldSig = true → l.phase ≠ .complete →
      (∀ c, l.lastSig = some c → c + 256 ≤ s.ck) → exec (.signalIntervalExpiry lid) s = .next (s.storeSignal lid))
    ∧ ∀ (s : State) (lid : Nat) (l : Launch), s.launch? lid = some l → l.phase = .bound → l.tlimit ≠ 0 → l.placed = true →
      l.tlimit * 65536 ≤ l.ckUsed → exec (.timeLimit lid) s = .next (s.raiseAlone l 21 0 0 l.tlimit))
  ∧ (
    (∀ (s : State) (lid slot : Nat) (l : Launch), s.launch? lid = some l → s.lodge.ready = true → s.lodge.therm = false → l.phase = .bound →
      (s.ctx l.ctx).dead = false → l.slot = some slot →
      let m := s.endNamed l
      (s.overlayNames l = true → m = s.endRight l.ctx 6) ∧ (s.overlayNames l = false → m = s) ∧
      exec (.serialiserStop lid) s = .next ((((m.setBind slot (putBits (m.bind slot) 1 2 2)).modLaunch lid (fun l =>
        { l with phase := .draining, stopping := true })).rollBackAll l.owns).abandonWaits l.owns))
    ∧ (∀ (s : State) (lid : Nat) (l : Launch), s.launch? lid = some l → l.phase = .draining → s.drained l = true → s.lodge.therm = false →
      let m1 := ((((s.abandonWaits l.owns).rollBackAll l.owns).publishLaunch l).settleBars l).interruptStamps l.owns
      let cores := m1.coresOf lid
      let m2 := cores.foldl State.saveCore m1
      let p := m2.placeWaiting l
      ∃ k, p.launch? lid = some k ∧
      let bs := p.imageOf k false
      let m3 := m2.storeImage (p.imageInfo k bs.length) bs
      let m4 := (((m3.sweepLaunch lid).vacateAll cores).traceLaunch l 5).modLaunch lid (fun l =>
        { l with phase := .stopped, stopping := false, pending := [], window := [], heldSig := l.heldSig || s.signalWaits lid })
      let t := match l.slot with
        | some n => m4.setBind n (putBits (m4.bind n) 1 2 3)
        | none => m4
      ∃ m, exec (.serialiserPublishWrite lid) s = .next t ∧ t.launch? lid = some m ∧ m.phase = .stopped ∧ m.pending = [] ∧ m.window = []
        ∧ (∀ w ∈ t.wgs, w.lid ≠ lid) ∧ t.images.any (fun i => i.lid == lid) = true)
    ∧ (∀ (s : State) (lid part : Nat) (i : Image) (h : Hdr) (s2 : State),
      let bs := s.imageBytes i
      let n := natOfBytes ((bs.drop 64).take 128)
      let l := s.launchOfImage i bs part h (s.launch? lid)
      let ps := ((dirOf bs).filter (fun e => e.ty == 3)).map (fun e => partsOf h (sect bs e))
      s.images.find? (fun i => i.lid == lid) = some i → s.kernelOf i.ctx n = some h → s.lodge.ready = true → (s.ctx i.ctx).defined = true →
      (s.ctx i.ctx).dead = false → (s.part part).started = true → part < 16 → (∀ l, s.launch? lid = some l → l.phase = .stopped) →
      loadable h bs = true → (s.version i.ctx (pkVersion n)).map (fun v => sha3Bytes v.image) = some ((bs.drop 24).take 32) →
      ({ s with launches := putLaunch s.launches l } : State).plantAll l i ps = some s2 →
      exec (.imageRestore lid part) s = .next ((((s2.openHandles i.ctx bs).restoreRunning l i).reissueAll l ps).resume lid))
    ∧ ∀ (s : State) (ctx : Nat), s.lodge.ready = true → ctx < 512 → (s.ctx ctx).defined = true → (s.ctx ctx).dead = false →
      (∀ l ∈ s.launches, l.ctx = ctx → l.phase ≠ .bound ∧ l.phase ≠ .draining ∧ l.phase ≠ .dying) →
      let gen := (s.ctx ctx).ckgen
      let pages := ((s.leaves 4 ((s.ctx ctx).root * 2 ^ 20) 0).filter (fun p => p.2 = gen)).map (fun p => p.1)
      exec (.jobCheckpoint ctx) s
        = .next (({ s with ckpts := s.ckpts ++ [⟨ctx, gen, pages⟩] } : State).modCtx ctx (fun c => { c with ckgen := (gen + 1) % 256 })))

/-! ## Faults, the lodge and the peers -/

/-- A page fault gathers the waiting threads into one request of its context and page; a retry sets every source of it going again and a failure fails
each; FATAL_TRAP takes every workgroup of the launch off its core, and where its records are out the launch is complete and its slot is free (R254 to
R258). A corrected error changes no value and writes its record; a line of a tier that is found in error is poisoned under the record's number and its
page retired; an error in the registers of a workgroup that may not be relaunched ends its launch, and one that may relaunches it (R259, R260, R263 to
R265). How sources are gathered (log entry 25), that a launch is dying from its first trap on (log entry 14), the relaunch record (log entry 52) and
when a line is poisoned and its page retired (log entry 53) are the model's readings. -/
def Obligations.FaultEvents : Prop :=
  (
    (∀ (s : State) (ctx page : Nat),
      let t := (s.pageWaiters ctx page).foldl (fun s e =>
        s.sendFault ctx (addrIn page e.2.2.2.2) e.2.2.2.1 (.word e.1.wid e.2.1)) s
      exec (.pageFault ctx page) s = .next t ∧ ({ t with faults := s.faults } : State) = s
      ∧ (∀ e ∈ s.pageWaiters ctx page, ∃ f ∈ t.faults, f.ctx = ctx ∧ f.page = page ∧ .word e.1.wid e.2.1 ∈ f.srcs)
      ∧ ∀ f ∈ s.faults, ¬ (f.ctx = ctx ∧ f.page = page) → f ∈ t.faults)
    ∧ (∀ (s : State) (ctx page : Nat) (f : FaultReq), s.lodge.ready = true → s.faultReq? ctx page = some f →
      let m : State := { s with faults := s.faults.filter (fun f => !(f.ctx == ctx && f.page == page)) }
      exec (.faultAnswerRetry ctx page) s = .next (f.srcs.foldl (State.retrySrc page ctx) m)
      ∧ exec (.faultAnswerFail ctx page) s = .next ((f.srcs.foldl (State.failSrc page ctx) m).failWords ctx page
          (f.srcs.filterMap (fun x => match x with | .word wid tid => some (wid, tid) | _ => none))))
    ∧ ∀ (s : State) (lid : Nat) (l : Launch), s.launch? lid = some l → l.phase = .dying → l.recorded = false →
      let u := s.killLaunch l
      let t := if u.recordsOut l.ctx then u.endLaunch lid else u
      exec (.fatalTrap lid) s = .next t ∧ (∀ w ∈ t.wgs, w.lid ≠ lid)
        ∧ (u.recordsOut l.ctx = true → ∃ m, t.launch? lid = some m ∧ m.phase = .complete ∧ (t.signalWaits lid = false → m.slot = none)))
  ∧ (
    (∀ (s : State) (a : Struck), s.struckThere a = true →
      let place := s.struckPlace a
      let times := (s.corrected.get [] place).filter (fun t => s.ck < t + 2 ^ 30) ++ [s.ck]
      let u := s.struckAt a
      times.length < 16 →
      exec (.correctedError a) s = .next (({ s with corrected := s.corrected.put [] place times } : State).ras
        (rasOf 1 u.1 u.2.1 u.2.2.1 u.2.2.2 (s.struckOwner a) false false false)))
    ∧ (∀ (s : State) (line : Nat) (hard : Bool),
      let far := tierUnit (line * 128)
      let m := s.ras (rasOf (if hard then 3 else 2) far (Config.rasLoc 6 line 0) (Config.rasLoc 6 line 1) (line * 128) none false true false)
      let t := ({ m with poison := m.poison.put 0 line m.rasSeq, tags := m.tags.put 0 line 0 } : State).retirePage line
      exec (.uncorrectableError (.tier line) hard) s = .next t ∧ t.rasSeq = s.rasSeq + 1 ∧ t.poison.get 0 line = s.rasSeq + 1
        ∧ (s.lodge.ready = true → s.repairs = [] → line * 128 / 65536 ∈ t.retired) ∧ t.launches = s.launches ∧ t.wgs = s.wgs ∧ t.ctxs = s.ctxs ∧ t.queues = s.queues)
    ∧ ∀ (s : State) (wid word : Nat) (hard : Bool) (w : WG) (l : Launch), s.wg? wid = some w → s.launch? w.lid = some l →
      let m := s.ras (rasOf (if hard then 3 else 2) 1 (s.pcoreOf w) word 0 (some l.ctx) (!l.canRelaunch w) false false)
      exec (.uncorrectableError (.registers wid word) hard) s = .next ((if l.canRelaunch w then
          ((((m.relaunchRecord l m.rasSeq).sweepGroup wid).release w).modLaunch l.lid (fun l =>
            { l with pending := (w.wgid, w.core) :: l.pending, relaunched := insertSet w.wgid l.relaunched })).traceGroup l 1 w.wgid w.core
        else m.raiseAlone l 22 0 0 m.rasSeq).hardCore w hard))

/-- The companion's stores and loads translate through a context and reach M or fail whole; a peer's act on a physical address under its own key;
UP of a domain entry follows the answers of the peer; a failed port changes no value (R174, R175, R284 to R287). That an access of the link or of a
peer acts in one step, and the bounds on its length, are the model's readings (log entry 84); when a peer counts as silent and what its window
requests come to are its choices (log entry 55). -/
def Obligations.LinkEvents : Prop :=
  (∀ (s : State) (ctx va : Nat) (bytes : List Byte), bytes ≠ [] → bytes.length ≤ 65536 →
    (∀ c, s.access ctx va bytes.length 1 false true false = .error c → exec (.companionStore ctx va bytes) s = .next { s with link := none })
    ∧ (∀ ts, s.access ctx va bytes.length 1 false true false = .ok ts →
      let m := ((placeBytes va bytes.length ts).zip bytes).foldl (fun (s : State) p => s.writeM ctx p.1.2 [(p.1.1, p.2)])
        (ts.foldl (fun s t => s.setDgen ctx t) s)
      exec (.companionStore ctx va bytes) s = .next { m with link := some [] }
        ∧ ({ m with mem := s.mem, tags := s.tags, ways := s.ways, struckWays := s.struckWays,
                     evictFirst := s.evictFirst, free := s.free } : State) = s))
  ∧ (∀ (s : State) (ctx va n : Nat), 0 < n → n ≤ 65536 →
    (∀ c, s.access ctx va n 1 true false false = .error c → exec (.companionLoad ctx va n) s = .next { s with link := none })
    ∧ ∀ ts, s.access ctx va n 1 true false false = .ok ts → (placeBytes va n ts).all (fun p => (s.poisoned p.1 1).isNone) = true →
      exec (.companionLoad ctx va n) s = .next { s.fetchLines (placeBytes va n ts) with link := some ((placeBytes va n ts).map (fun p => s.mem.read p.2 p.1)) })
  ∧ (∀ (s : State) (device key pa : Nat), isLocal pa = true → tierOk pa = true →
    (∀ n, s.poisoned pa n = none →
      exec (.peerAccess ⟨device, key, pa, .load n⟩) s
        = .next { s.fetchLines ((List.range n).map (fun i => (pa + i, key))) with link := some (s.mem.readN key pa n) })
    ∧ (∀ bytes,
      let t := s.writeM (Config.peerTag device key pa % 512) key (cellsAt pa bytes)
      exec (.peerAccess ⟨device, key, pa, .store bytes⟩) s = .next { t with link := some [] }
        ∧ t.mem = s.mem.writeCells key (cellsAt pa bytes)
        ∧ ({ t with mem := s.mem, tags := s.tags, ways := s.ways, struckWays := s.struckWays,
                     evictFirst := s.evictFirst, free := s.free } : State) = s)
    ∧ ∀ r operands, ∃ q : Req, exec (.peerAccess ⟨device, key, pa, .routine r operands⟩) s = .next (s.toSlice q)
        ∧ q.kind = .peer device ∧ q.key = key ∧ q.pa = pa ∧ q.r = r ∧ q.opnds = operands)
  ∧ (∀ (s : State) (acc : PeerAccess), (isLocal acc.pa && tierOk acc.pa) = false → exec (.peerAccess acc) s = .next { s with link := none })
  ∧ (∀ (s : State) (d : Nat), (s.domain.get 0 d).getLsbD 2 = true →
    let lost := (s.peerReqs d).map (fun r => (r.wid, r.tid, r.pc, r.va)) ++ s.peerLoads d
    let m := (s.setUp d false).ras (rasOf (Config.unstated 20) 10 (Config.rasLoc 10 d 1) (Config.rasLoc 10 d 2) 0 none
      (!lost.isEmpty) false false)
    let t := lost.foldl (fun s e => s.lostAccess e.1 e.2.1 e.2.2.1 e.2.2.2 m.rasSeq) ({ m with
      slices := m.slices.put [] (1000 + d) []
      launches := m.launches.map (fun (l : Launch) => { l with window := l.window.filter (fun r => !atPeer d r.pa) }) } : State)
    exec (.peerTimeout d) s = .next t ∧ (t.domain.get 0 d).getLsbD 2 = false ∧ t.slices.get [] (1000 + d) = []
      ∧ ∀ l ∈ t.launches, ∀ r ∈ l.window, atPeer d r.pa = false)
  ∧ (∀ (s : State) (d : Nat), d < 256 →
    let x := BitVec.ofNat 64 (putBits (s.domain.get 0 d).toNat 2 1 1)
    exec (.peerAnswers d) s = .next { s with domain := s.domain.put 0 d x } ∧ x.getLsbD 2 = true
      ∧ ∀ i, i ≠ 2 → x.getLsbD i = (s.domain.get 0 d).getLsbD i)
  ∧ ∀ (s : State) (port : Nat), port < 12 →
    let down := insertSet port s.portsDown
    exec (.peerPortFailure port) s = .next { s with portsDown := down } ∧ ∀ p, p ∈ down ↔ p = port ∨ p ∈ s.portsDown

/-- The lodge's registers, its firmware's readiness, the thermal halt, release of reset, and units that leave and rejoin service: each changes what
the rules name and nothing else (R6, R246, R259, R263, R266, R268, R288, R290, R296, R297). Four spares of each polder are marked (R2, R15). What
RESET_RELEASE keeps (log entry 72), which bank starts (log entry 70), which cores are spare (log entry 93) and the sampling of the trace (log entry
73) are the model's choices; how units drain is its reading (log entry 71, log entry 42). -/
def Obligations.LodgeEvents : Prop :=
  (∀ (s : State) (agent : Nat) (value : DWord),
    exec (.registerWrite agent .status value) s = .next { s with lodge := { s.lodge with bindErr := s.lodge.bindErr && !value.getLsbD 2 } }
    ∧ exec (.registerWrite agent .response value) s = .next { s with lodge := { s.lodge with
        done := s.lodge.done && !value.getLsbD 16, mailIrq := s.lodge.mailIrq && !value.getLsbD 16,
        busy8 := s.lodge.busy8 && !value.getLsbD 17 } }
    ∧ (∀ i : Fin 8, s.lodge.busy = false → i ≠ 0 →
      exec (.registerWrite agent (.command i) value) s = .next { s with lodge := { s.lodge with cmd := s.lodge.cmd.set i value } })
    ∧ (s.lodge.busy = false →
      let op := ((s.lodge.cmd.set 0 value).headD 0).toNat % 256
      let listed := 1 ≤ op ∧ op ≤ 11 ∨ 32 ≤ op ∧ op ≤ 45
      let taken : Lodge := { s.lodge with cmd := s.lodge.cmd.set 0 value, busy := true, agent := agent }
      (listed ∨ s.lodge.ready = false → exec (.registerWrite agent (.command 0) value) s = .next { s with lodge := taken })
      ∧ (¬ listed → s.lodge.ready = true →
          exec (.registerWrite agent (.command 0) value) s = .next { s with lodge := { taken with
            busy := false, done := true, mailIrq := true, respStatus := 4, respOp := op, value := 0 } }))
    ∧ (s.lodge.busy = true →
      let op := (s.lodge.cmd.headD 0).toNat % 256
      (s.lodge.ready = false ∨ (1 ≤ op ∧ op ≤ 11) ∨ (32 ≤ op ∧ op ≤ 45)) →
      exec (.registerWrite agent (.command 0) value) s = .next { s with lodge := { s.lodge with busy8 := true } }))
  ∧ (∀ (s : State) (old : Bool), s.lodge.ready = false → s.fw.restart = some old →
    (s.fw.ok s.lodge.bank = true → s.fw.min.toNat ≤ (s.fw.version s.lodge.bank).toNat →
      let m : State := { s with
        lodge := { s.lodge with ready := true, fwver := if s.lodge.bank then s.fw.verB else s.fw.verA }
        fw := { s.fw with restart := none }, spares := fuseMap, repairs := [] }
      fuseMap.Nodup ∧ (∀ c ∈ fuseMap, c < 272) ∧ (∀ p, p < 4 → (fuseMap.filter (fun c => c / 68 == p)).length = 4) ∧
      exec .firmwareReady s = .next ((s.repairs.foldl State.repair m).answerUnlisted))
    ∧ (s.fw.ok s.lodge.bank = false ∨ (s.fw.version s.lodge.bank).toNat < s.fw.min.toNat → exec .firmwareReady s = .next s)
    ∧ exec .firmwareReadyTimeout s = .next { s with lodge := { s.lodge with bank := old } })
  ∧ (∀ s : State, exec .thermalHalt s = .next { s with lodge := { s.lodge with therm := true } }
    ∧ exec .thermalResume s = .next { s with lodge := { s.lodge with therm := false } })
  ∧ (∀ (s : State) (straps : BitVec 8),
    let bank := if s.fw.okA || s.fw.okB then s.lodge.bank else Config.bootBank
    exec (.resetRelease straps) s = .next { State.reset with
      mem := { s.mem with slots := [] }, poison := s.poison, retired := s.retired, quarantined := s.quarantined, free := s.free
      lodge := { State.reset.lodge with bank := bank, domain := straps.toNat }
      fw := { s.fw.boot with restart := some bank } })
  ∧ (∀ (s : State) (num : Nat), s.lodge.ready = true →
    (s.service .slice num = .draining → num ∉ s.paused →
      exec (.unitDrainComplete .slice num) s = .next (((s.emptySlice num).setService .slice num .outOfService).reroute num))
    ∧ (s.service .polder num = .draining → s.polderEmpty num = true →
      exec (.unitDrainComplete .polder num) s = .next (s.setService .polder num .outOfService))
    ∧ (s.service .farChannel num = .draining →
      exec (.unitDrainComplete .farChannel num) s = .next (s.setService .farChannel num .outOfService))
    ∧ (s.service .core num = .draining → (∃ key ∈ s.keysOn num, s.gbSt key = 1) → s.saveable num = true →
      exec (.unitDrainComplete .core num) s = .next ((s.keysOn num).foldl (fun s key => if s.gbSt key = 1 then s.endTurn key else s) s))
    ∧ (s.service .core num = .draining → (∀ key ∈ s.keysOn num, s.gbSt key ≠ 1) →
      let m := s.setService .core num .outOfService
      let t := (s.keysOn num).foldl (fun s key => s.setSt key 3) m
      exec (.unitDrainComplete .core num) s = .next t ∧ t.service .core num = .outOfService ∧ ∀ key ∈ s.keysOn num, t.gbSt key = 3)
    ∧ (∀ k, k = .polder ∨ k = .farChannel → s.service k num = .underTest →
      exec (.unitTestPassed k num) s = .next (s.setService k num .inService))
    ∧ (s.service .slice num = .underTest →
      exec (.unitTestPassed .slice num) s
        = .next (((s.emptySlice (num ^^^ 1)).setService .slice num .inService).reroute (num ^^^ 1)))
    ∧ (s.service .core num = .underTest →
      let m := s.setService .core num .inService
      exec (.unitTestPassed .core num) s = .next ((m.keysOn num).foldl State.backSt m)))
  ∧ ∀ (s : State) (part : Nat),
    ((s.part part).trace = false → exec (.traceSample part) s = .next s)
    ∧ ((s.part part).trace = true → (s.ck - (s.part part).ckStart) % 2 ^ (s.part part).sper = 0 →
      let keys := (s.gbt.filter (fun e => e.1 / 256 = part && bitsOf e.2.toNat 61 2 = 1)).map (fun e => e.1)
      exec (.traceSample part) s = .next ((keys.foldl (fun s key => (List.range 4).foldl (fun s u =>
        State.sampleUnit part ((s.part part).traceRr) s key u) s) s).modPart part (fun p => { p with traceRr := p.traceRr + 1 })))

/-! ## Commands of the mailbox -/

/-- The debug commands of the holder of the right: what each changes, and the value that it answers (R271 to R281, R290). A stop waits in its group
until the words of the ck are done and no path of the group stands inside a hold region; then its events are written and the group parks, or its launch
where ALL = 1, every thread at its own PC with its wait given up (R55, R276, R281). A debug command of an agent
that does not hold the right of its context is answered with status 1, and a command that arrives while another runs raises BUSY8 alone (R270, R290). The events of PARK and STOPALL (log entry
65), what a parked thread keeps of its wait (log entry 104), which agent's block counts and what a mailbox refuses (log entry 63), the order of the statuses and the targets of READ and EDIT (log entry 64),
and how COMMIT applies the overlay (log entry 66) are the model's readings. -/
def Obligations.DebugCommands : Prop :=
  (
    ∀ (s : State) (agent : Nat) (b : MailBlock),
      let c := cmdOf agent b
      let m := s.received agent b
      let ts := s.targets c
      (∀ op, DebugOk s agent b op → ts ≠ [] →
        (op = 1 →
          let fresh := ts.filter (fun p => !p.2.parked && p.2.stops.isNone)
          Answers s (.park agent b) 1 0 0
            (fresh.foldl (fun (s : State) p => s.stopGroup p.1.wid p.2.gid false (stopEvents false [p])) m))
        ∧ (op = 2 → (ts.any (fun p => p.2.parked)) = true →
            let ps := ts.filter (fun p => p.2.parked)
            Answers s (.resume agent b) 2 0 0 (ps.foldl (fun (s : State) p => s.oweUnpark p.1)
              (ps.foldl (fun (s : State) p => s.unpark false p) m)))
        ∧ (∀ p rest, op = 3 → c.gid ≠ 0xFFFFFFFF → ts = p :: rest → p.1.isParked p.2 = true →
            Answers s (.step agent b) 3 0 0 (m.unpark true p)))
      ∧ (DebugOk s agent b 4 → s.launchesAt c.ctx c.wgid ≠ [] →
          Answers s (.stopall agent b) 4 0 0 ((s.launchesAt c.ctx c.wgid).foldl State.stopLaunch m))
      ∧ (∀ l, l ∈ s.launchesAt c.ctx c.wgid ↔ ∃ w ∈ s.wgs, w.lid = l ∧ w.wgid = c.wgid ∧ ∃ k, s.launch? l = some k ∧ k.ctx = c.ctx)
      ∧ (DebugOk s agent b 5 → Answers s (.resumeall agent b) 5 0 0 (m.unparkAll c.ctx))
      ∧ (∀ w g, s.target c = .ok (w, g) →
        let es := (s.ctx c.ctx).dbg.overlay
        let shown := fun (f : Nat → Byte) => natOfBytes ((List.range c.size).map (fun i =>
          match (es.filter (fun e => e.tgt = c.tgt && (c.tgt = 5 || e.wgid = c.wgid) && decide (e.addr ≤ c.addr + i)
              && decide (c.addr + i < e.addr + e.size))).getLast? with
          | some e => BitVec.ofNat 8 (e.value.toNat / 2 ^ (8 * (c.addr + i - e.addr)))
          | none => f i))
        (DebugOk s agent b 6 → c.tgt ≤ 3 → (∀ e ∈ es, e.names c = false) → Answers s (.read agent b) 6 0 (regTarget c w g) m)
        ∧ (DebugOk s agent b 6 → c.tgt ≤ 3 → ∀ before after e, es = before ++ e :: after → e.names c = true → (∀ o ∈ after, o.names c = false) →
            Answers s (.read agent b) 6 0
              (e.value.toNat % 2 ^ (match c.tgt with | 2 => 1 | 3 => min 64 g.lanes.length | _ => 32)) m)
        ∧ (DebugOk s agent b 6 → c.tgt = 4 → Answers s (.read agent b) 6 0 (shown (fun i => winByte w.win (c.addr + i))) m)
        ∧ (DebugOk s agent b 6 → c.tgt = 5 →
          (∀ k, s.access c.ctx c.addr c.size 1 true false false = .error k → Answers s (.read agent b) 6 6 0 m)
          ∧ ∀ ts, s.access c.ctx c.addr c.size 1 true false false = .ok ts →
            (∀ p ∈ placeBytes c.addr c.size ts, s.poisoned p.1 1 = none) →
            Answers s (.read agent b) 6 0 (shown (fun i => s.mem.read ((placeBytes c.addr c.size ts).getD i (0, 0)).2
              ((placeBytes c.addr c.size ts).getD i (0, 0)).1)) m)
        ∧ (DebugOk s agent b 7 → (c.tgt ≤ 3 → w.isParked g = true) → es.length < 4096 →
            (c.tgt = 5 → ∃ ts, s.access c.ctx c.addr c.size 1 false true false = .ok ts) →
            Answers s (.edit agent b) 7 0 0 (m.modCtx c.ctx (fun x => { x with dbg := { x.dbg with overlay := es ++ [c.edit] } }))))
      ∧ (DebugOk s agent b 8 →
          let es := (s.ctx c.ctx).dbg.overlay
          (∀ e ∈ es, ∃ w g r, s.editGroup c.ctx e = some (w, g) ∧ firstThread w g = some r ∧ (e.tgt ≤ 4 → w.isParked g = true)) →
          (∀ e ∈ es, e.tgt = 5 → ∃ ts, s.access c.ctx e.addr e.size 1 false true false = .ok ts) →
          Answers s (.commit agent b) 8 0 0 (((es.filter (fun e => decide (4 ≤ e.tgt))).foldl (State.fenceEdit c.ctx)
            (es.foldl (State.applyEdit c.ctx) m)).modCtx c.ctx (fun x => { x with dbg := { x.dbg with overlay := [] } })))
      ∧ (∀ (e : Edit) w g tid t, s.editGroup c.ctx e = some (w, g) → s.wg? w.wid = some w → firstThread w g = some (tid, t) →
          let x := e.value.toNat
          let became := fun (v : WG) => (s.applyEdit c.ctx e).wg? w.wid = some v
          (e.tgt = 0 → became (w.modThread e.tid (fun t => t.setV e.reg [BitVec.ofNat 32 x])))
          ∧ (e.tgt = 1 → became (w.modGroup e.gid (fun g => { g with s := g.s.put 0 e.reg (BitVec.ofNat 32 x) })))
          ∧ (e.tgt = 2 → became (w.modThread e.tid (fun t => { t with p := setPred t.p (e.reg, x.testBit 0) })))
          ∧ (e.tgt = 3 → became (w.modGroup e.gid (fun k => { k with k := k.k.put 0 e.reg (BitVec.ofNat 64 (x % 2 ^ g.lanes.length)) }))
              ∧ Due.kwait w.wid e.gid ∈ (s.applyEdit c.ctx e).due)
          ∧ (e.tgt = 4 → ∃ v, became v ∧ (∀ i, i < e.size → winByte v.win (e.addr + i) = BitVec.ofNat 8 (x / 2 ^ (8 * i)))
              ∧ ∀ a, (a < e.addr ∨ e.addr + e.size ≤ a) → winByte v.win a = winByte w.win a)
          ∧ (e.tgt = 5 → ∀ ts, s.access c.ctx e.addr e.size 1 false true false = .ok ts →
              s.applyEdit c.ctx e = ((ts.foldl (fun s tr => s.setDgen c.ctx tr) s).addStore w.core w.lid c.ctx (uidOf w.wid tid) [] t
                (placeBytes e.addr e.size ts) (bytesOf e.size x)).modWG w.wid (fun w => w.modThread tid Thread.count)))
      ∧ (DebugOk s agent b 9 → Answers s (.discard agent b) 9 0 0 (m.modCtx c.ctx (fun x => { x with dbg := { x.dbg with overlay := [] } })))
      ∧ (DebugOk s agent b 10 → c.index < 8 → c.addr % 8 = 0 → c.addr < 2 ^ 58 → Answers s (.setbp agent b) 10 0 0 (m.modCtx c.ctx (fun x =>
          { x with dbg := { x.dbg with bps := x.dbg.bps.put 0 c.index (BitVec.ofNat 64 c.addr) } })))
      ∧ (DebugOk s agent b 11 → c.index < 4 → watchOk c.addr c.value = true → Answers s (.setwp agent b) 11 0 0 (m.modCtx c.ctx (fun x =>
          { x with dbg := { x.dbg with wps := x.dbg.wps.put 0 c.index (BitVec.ofNat 128 (c.addr + 2 ^ 64 * c.value)) } }))))
  ∧ (
    ∀ (s : State) (agent : Nat) (b : MailBlock) (row : (Nat → MailBlock → Instr) × Nat),
      row ∈ [(Instr.park, 1), (.resume, 2), (.step, 3), (.stopall, 4), (.resumeall, 5), (.read, 6), (.edit, 7), (.commit, 8), (.discard, 9),
             (.setbp, 10), (.setwp, 11)] →
      (Accepted s agent b row.2 → (s.ctx (cmdOf agent b).ctx).dbg.holder ≠ some agent →
        Answers s (row.1 agent b) row.2 1 0 (s.received agent b))
      ∧ (s.lodge.ready = true → s.lodge.busy = true → s.lodge.agent ≠ agent → (cmdOf agent b).op = row.2 →
        exec (row.1 agent b) s = .next { s with lodge := { s.lodge with busy8 := true } }))
  ∧ (∀ (s : State) (lid : Nat),
      let t := s.stopLaunch lid
      (∀ l, s.launch? lid = some l → t.launch? lid = some { l with allStop := true })
      ∧ ∀ w ∈ t.wgs, w.lid = lid → ∀ g ∈ w.groups, g.parked = true ∨ g.stops ≠ none)
  ∧ ∀ (s : State) (wid gid : Nat) (w : WG) (g : Group) (l : Launch), s.wg? wid = some w → w.group? gid = some g → s.launch? w.lid = some l →
      let cleared := fun (m : State) => m.modWG wid (fun v => v.modGroup gid (fun g => { g with stops := none }))
      (∀ all es, g.parked = false →
        let t := s.stopGroup wid gid all es
        (t.wg? wid).bind (fun v => v.group? gid)
            = some { g with stops := some ⟨all || g.stops.any (fun p => p.all), ((g.stops.map (fun p => p.events)).getD []) ++ es⟩ }
          ∧ Due.stops wid gid ∈ t.due)
      ∧ s.runDue (.stops wid gid) = .next (s.takeStops wid gid)
      ∧ (g.stops = none ∨ l.phase = .dying ∨ (∃ t ∈ w.threads, t.gid = gid ∧ t.inHold = true) → s.takeStops wid gid = s)
      ∧ (∀ p, g.stops = some p → l.phase ≠ .dying → (∀ t ∈ w.threads, t.gid = gid → t.inHold = false) →
          (p.all = false → s.takeStops wid gid = (cleared (s.debugEvents l.ctx p.events)).parkGroup wid gid)
          ∧ (p.all = true → s.takeStops wid gid = (cleared (s.debugEvents l.ctx p.events)).parkLaunch w.lid))
      ∧ ∃ v, (s.parkGroup wid gid).wg? wid = some v ∧ v.group? gid = some { g with parked := true, stops := none }
          ∧ (∀ k, k ≠ gid → v.group? k = w.group? k)
          ∧ ∀ (tid : Nat) (t : Thread), w.threads[tid]? = some t →
            (t.gid ≠ gid ∨ t.run = .ready → v.threads[tid]? = some t)
            ∧ (t.gid = gid → ∃ b, v.threads[tid]? = some b ∧ ({ b with run := t.run, resumed := t.resumed, slot := t.slot } : Thread) = t
                ∧ (∀ c k d, t.run = .wait (.bar c k d) → b.run = .ready ∧ b.resumed = some (2, k))
                ∧ (∀ k, t.run = .wait (.kwait k) → b.run = .ready ∧ b.resumed = some (1, k))
                ∧ (∀ z, t.run = .wait (.waitv z) → b.run = .ready ∧ b.slot = none))

/-- The commands on contexts, rings, the debug right, keys, attestation and firmware (R177, R240, R256, R264, R268, R270, R280, R289 to R295). The
commands on units, the domain table, admission bits and the power of a partition (R266, R285, R289, R296). The report's layout (log entry 69), how a
firmware image is taken apart (log entry 70) and the numbers of the power states and of the status of a move that is not listed (log entry 72) are the
model's choices; what CTXDEF and GRANT check (log entry 67) and which unit moves a command makes (log entry 71) are its readings. -/
def Obligations.LodgeCommands : Prop :=
  (
    ∀ (s : State) (agent : Nat) (b : MailBlock),
      let c := cmdOf agent b
      let m := s.received agent b
      let ring : Ring := ⟨c.arg 1, some (c.arg 2), c.arg 3, 0, []⟩
      (LodgeOk s agent b 32 5 → c.arg 1 < 2 ^ 32 → c.arg 2 % 2 ^ 13 = 0 → c.arg 4 < 16 → c.arg 5 < 2 ^ 32 →
        (∀ l ∈ s.launches, l.ctx = c.ctx → l.slot = none) →
        (∀ r ∈ (m.uncache (fun e => e.ctx == c.ctx)).rcache, ∀ e ∈ r.2, e.ctx ≠ c.ctx) ∧
        Answers s (.ctxdef agent b) 32 0 0 ((m.uncache (fun e => e.ctx == c.ctx)).modCtx c.ctx (fun x =>
          { x with
            defined := true, dead := false, root := c.arg 1, rtab := c.arg 2, ksetAddr := c.arg 3 % 2 ^ 32
            kset := BitVec.ofNat 1024 (natOfBytes (s.mem.readN 0 (c.arg 3) 128)), ckgen := 0, part := c.arg 4, tlim := c.arg 5 })))
      ∧ (LodgeOk s agent b 33 3 → ringOk (c.arg 1) (c.arg 2) (c.arg 3) = true → (s.ctx c.ctx).defined = true →
        Answers s (.errring agent b) 33 0 0 (m.modCtx c.ctx (fun x => { x with errRing := some ring })))
      ∧ (LodgeOk s agent b 34 3 → ringOk (c.arg 1) (c.arg 2) (c.arg 3) = true →
        Answers s (.rasring agent b) 34 0 0 { m with rasRing := some ring })
      ∧ (LodgeOk s agent b 35 2 → ringOk (c.arg 1) 0 (c.arg 2) = true → (s.ctx c.ctx).defined = true → (s.ctx c.ctx).dbg.holder = none →
        Answers s (.grant agent b) 35 0 0 (m.modCtx c.ctx (fun x =>
          { x with dbg := ⟨some agent, some ⟨c.arg 1, none, c.arg 2, 0, []⟩, [], [], []⟩ })))
      ∧ (LodgeOk s agent b 36 0 → Answers s (.revoke agent b) 36 0 0 (m.endRight c.ctx 7))
      ∧ (LodgeOk s agent b 37 2 → 1 ≤ c.arg 1 → c.arg 1 < 1024 → s.hasKey (c.arg 1) = false →
        ∀ x, unwrapKeys (c.arg 1) (s.mem.readN 0 (c.arg 2) 1160) = some x →
        Answers s (.keyload agent b) 37 0 0 { m with mem := { m.mem with slots := m.mem.slots.ins (c.arg 1) x } })
      ∧ (LodgeOk s agent b 38 1 → 1 ≤ c.arg 1 → c.arg 1 < 1024 → (∀ e ∈ s.ctxs, e.2.kset.getLsbD (c.arg 1) = false) →
        Answers s (.keyclear agent b) 38 0 0 (m.eraseKey (c.arg 1)))
      ∧ (LodgeOk s agent b 39 2 → placeOk (c.arg 1) 32 = true → placeOk (c.arg 2) 2585 = true →
        let r := s.report c.ctx (s.mem.readN 0 (c.arg 1) 32)
        let key := sha3Bytes (bytesOf 32 Config.seed.toNat ++ labelId)
        let sig := mldsaSignature key (bytesOf 32 (Config.signatureRandom s.free).toNat) (sha3Bytes r)
        Answers s (.attest agent b) 39 0 0 ((m.writeM 0 0 (cellsAt (c.arg 2) (r ++ sig))).spend 1))
      ∧ (LodgeOk s agent b 40 2 → placeOk (c.arg 1) (c.arg 2) = true → s.imageAccepted (s.mem.readN 0 (c.arg 1) (c.arg 2)) = true →
        Answers s (.fwstage agent b) 40 0 0 { m with fw := m.fw.stage (!s.lodge.bank) (s.mem.readN 0 (c.arg 1) (c.arg 2)) })
      ∧ (LodgeOk s agent b 41 0 → s.fw.ok (!s.lodge.bank) = true →
        Answers s (.fwswitch agent b) 41 0 0
          { m with
            lodge := { m.lodge with bank := !s.lodge.bank, ready := false }
            fw := { m.fw with minVer := verMax s.fw.min (s.fw.version s.lodge.bank), restart := some s.lodge.bank } }))
  ∧ (
    ∀ (s : State) (agent : Nat) (b : MailBlock),
      let c := cmdOf agent b
      let m := s.received agent b
      (LodgeOk s agent b 42 3 → ∀ k n v, unitKindOf (c.arg 1) = some (k, n) → serviceOf (c.arg 3) = some v → c.arg 2 < n →
        moveOk (s.service k (c.arg 2)) v = true → (v ≠ .draining → Answers s (.unit agent b) 42 0 0 (m.setService k (c.arg 2) v))
          ∧ (v = .draining → s.partnerOk k (c.arg 2) = true →
            Answers s (.unit agent b) 42 0 0 ((m.beginDrain k (c.arg 2)).setService k (c.arg 2) .draining)))
      ∧ (LodgeOk s agent b 43 2 → c.arg 1 < 256 →
        ∃ x : DWord, Answers s (.domain agent b) 43 0 0 { m with domain := m.domain.put 0 (c.arg 1) x }
          ∧ x.toNat % 4 = c.arg 2 % 4 ∧ x.getLsbD 2 = (s.domain.get 0 (c.arg 1)).getLsbD 2 ∧ x.toNat < 8)
      ∧ (LodgeOk s agent b 44 3 → c.arg 1 < 256 → c.arg 2 < 1024 → c.arg 3 < 2 →
        ∃ a, Answers s (.admitPeer agent b) 44 0 0 { m with admitted := a } ∧ ∀ e, e ∈ a ↔ if e = (c.arg 1, c.arg 2) then c.arg 3 = 1 else e ∈ s.admitted)
      ∧ (LodgeOk s agent b 45 2 → ∀ v, powerOf (c.arg 2) = some v → c.arg 1 < 16 → s.powerOk (c.arg 1) v = true →
        let t := m.modPart (c.arg 1) (fun p => { p with power := v })
        (v ≠ .off → Answers s (.power agent b) 45 0 0 t)
        ∧ (v = .off → Answers s (.power agent b) 45 0 0 { t with
            cores := t.cores.map (fun k => if k.key / 256 = c.arg 1 then { k with zeroing := [] } else k) })))

/-! ## The machine -/

/-- After reset nothing is resident, bound or queued, no memory is written, the lodge's firmware is not ready, no ring is named, and the RAS
count stands at its start (R240, R256, R264, R268, R288, R297). That the state holds nothing of its own choice either is the model's (log
entry 2). -/
def Obligations.ResetState : Prop :=
  State.reset.memWf ∧ State.reset.mem.bytes = [] ∧ State.reset.wgs = [] ∧ State.reset.launches = [] ∧ State.reset.slots = []
  ∧ State.reset.gbt = [] ∧ State.reset.queues = [] ∧ State.reset.ctxs = [] ∧ State.reset.rasRing = none ∧ State.reset.rasSeq = 0
  ∧ State.reset.lodge.ready = false ∧ State.reset.lodge.bindErr = false ∧ State.reset.lodge.busy = false ∧ State.reset.issue = []

/-- Every step keeps the canonical form of memory at the home slices: addresses strictly rising, no byte and no key listed that an unlisted
address reads as. -/
def Obligations.StepKeepsMemoryForm : Prop :=
  ∀ s t : State, s.memWf → step s = .next t → t.memWf

/-- Words of the spec's encodings decode to what they stand for, with every operand and modifier (R86 to R105): NOP, FFMA, IADDC, MOVI, PLOP, SHL,
JOIN, BRA, RET, TRAP, LD and PREF. -/
def Obligations.DecodesSpecWords : Prop :=
  let always : Head := ⟨false, false, 7⟩
  let full := fun (d a b c : Opnd) (ty : Ty) (mods : BitVec 12) => (⟨always, false, d, a, b, c, ty, mods⟩ : FWord)
  decode 0x001DFFFFFFFE0000 = .ok (.nop (full .none .none .none .none .b32 0))
  ∧ decode 0x4CC41404070AC400 = .ok (.ffma ⟨⟨true, false, 1⟩, false, .v 10, .v 2, .v 3, .s 5, .f32, 0x400⟩)
  ∧ decode 0x00DC12020BFE8009 = .ok (.iaddc (full (.v 9) (.v 1) (.v 5) .none .n32 9))
  ∧ decode 0x081C0BFE3F800000 = .ok (.movi ⟨always, false, .v 5, .none, false, 0x3F800000⟩)
  ∧ decode 0x065DFFA3A5AE03C0 = .ok (.plop (full .none (.imm 17) (.imm 18) (.imm 23) .b32 0x3C0))
  ∧ decode 0x051C0205A7FE0000 = .ok (.shl (full (.v 1) (.v 2) (.imm 19) .none .b32 0))
  ∧ decode 0x161DFFA7FFFE0000 = .ok (.join (full .none (.imm 19) .none .none .b32 0))
  ∧ decode 0x1805FFFEFFFFFFF0 = .ok (.bra ⟨⟨false, false, 1⟩, false, .none, .none, false, 0xFFFFFFF0⟩)
  ∧ decode 0x18DDFE29FFFE1000 = .ok (.ret (full .none (.v 20) .none .none .b64 0))
  ∧ decode 0x1A1DFFAFFFFE0000 = .ok (.trap (full .none (.imm 23) .none .none .b32 0))
  ∧ decode 0x1C1C080400820000 = .ok (.ld ⟨always, false, .v 4, .v 2, 0x10, 2, 0, false, 0, false, 0, 0⟩)
  ∧ decode 0x1C9DFE0404000000 = .ok (.pref ⟨always, false, .none, .v 2, 0x80, 0, 0, false, 0, false, 0, 0⟩)

/-- While an issue opportunity has a selected path whose PC holds a word of the launch's code that decodes to an instruction, and no move of the ck has
an earlier place, a step is that instruction's meaning, with the path taken off the opportunity and standing as the current one (R29, R86, R313). A
move of the running ck with the earliest place comes before the words; where nothing of the ck is left, a step is the next test owed at its end; then
a ck begins with the tests that the last one has left to it; then the meaning of the move at the head of the agenda comes, after its time and the
writes of other owners in it; with an empty agenda one of the model's own moves. This order of issue, moves and tests is the model's choice (log entry
2); the spec gives only the pieces of it that R147, R224, R226 and R40 name. -/
def Obligations.StepRunsWordsAndMoves : Prop :=
  (
    ∀ (s : State) (c : Cur) (cs : List Cur) (x : Path) (d : DWord) (i : Instr),
      s.issue = c :: cs → (∀ q ∈ s.nowMoves, selects q.move = false ∧ s.wordPlace c ≤ s.movePlace q.move) →
      ({ s with issue := cs, cur := some c } : State).path = some x →
      ({ s with issue := cs, cur := some c } : State).fetch x.l x.cur.pc = .word d → decode d = .ok i ∨ parse d = some i →
      step s = exec i { s with issue := cs, cur := some c })
  ∧ (
    (∀ (s : State) (q : Cue) (qs : List Cue), s.agenda = q :: qs → q.dck = 0 →
      (selects q.move = true
        ∨ (∀ m ∈ s.nowMoves, selects m.move = false ∧ s.movePlace q.move ≤ s.movePlace m.move)
          ∧ ∀ c cs, s.issue = c :: cs → s.movePlace q.move < s.wordPlace c) →
      step s = exec q.move (q.ext.foldl State.outside (({ s with agenda := qs } : State).tick 0 q.dns)))
    ∧ (∀ (s : State) (d : Due) (ds : List Due), s.issue = [] → (∀ q, s.agenda.head? = some q → q.dck ≠ 0) → s.due = d :: ds →
      step s = ({ s with due := ds } : State).runDue d)
    ∧ (∀ s : State, s.issue = [] → (∀ q, s.agenda.head? = some q → q.dck ≠ 0) → s.due = [] → s.late ≠ [] →
      ∃ t, step s = .next t ∧ t.due = s.late ∧ t.late = [] ∧ t.agenda = s.nearer ∧ (s.lodge.therm = false → t.ck = s.ck + 1))
    ∧ (∀ (s : State) (q : Cue) (qs : List Cue), s.issue = [] → s.due = [] → s.late = [] → s.agenda = q :: qs → q.dck ≠ 0 →
      (∀ m, qs.head? = some m → m.dck ≠ 0) →
      step s = exec q.move (({ q.ext.foldl State.outside (s.tick q.dck q.dns) with agenda := qs } : State).tick 0 0))
    ∧ ∀ s : State, s.issue = [] → s.due = [] → s.late = [] → s.agenda = [] →
      let t := s.tick 1 1
      step s = exec t.autoMove t ∧ (t.ck % 2 = 0 → t.autoMove = .issueOpportunity t.allUnits))

/-- A word of any kind whose registers are still owed, whose return slot is taken, or that waits for the matrix queue is not ready, and where it is
given to exec nevertheless, nothing changes (R33, R35, R48, R149, R150, R204): that the state stays as it is then is the model's reading (log entry 9).
-/
def Obligations.WordsWait : Prop :=
  ∀ (s : State) (i : Instr) (x : Path) (nfo : Info), s.path = some x → info i = some nfo →
    (x.g.owed.any (fun r => (nfo.reads ++ nfo.writes).any (fun q => r.meets q)) = true → s.readyWord i nfo x = false)
    ∧ (x.lanesReady i nfo = false → s.readyWord i nfo x = false)
    ∧ (entersMatrix i = true → 8 ≤ (s.core x.w.core).mq.length → s.readyWord i nfo x = false)
    ∧ (s.readyWord i nfo x = false → exec i s = .next s)

end
end

