-- ==== Sys2Proof/Laws/Exec.lean ====
section
/-! SUPPORT. The meaning that each instruction is dispatched to. -/

namespace Sys2Proof.Machine

variable (s : State)

theorem exec_groupBindingEntryWrite {index entry} : exec (.groupBindingEntryWrite index entry) s = execGroupBindingEntryWrite index entry s := rfl
theorem exec_partitionStart {part} : exec (.partitionStart part) s = execPartitionStart part s := rfl
theorem exec_turnSwitch {pcore} : exec (.turnSwitch pcore) s = execTurnSwitch pcore s := rfl
theorem exec_issueOpportunity {sel} : exec (.issueOpportunity sel) s = execIssueOpportunity sel s := rfl
theorem exec_ageingPromotion {wid gid tid} : exec (.ageingPromotion wid gid tid) s = execAgeingPromotion wid gid tid s := rfl
theorem exec_groupStarvationSelect {wid gid} : exec (.groupStarvationSelect wid gid) s = execGroupStarvationSelect wid gid s := rfl
theorem exec_kwaitRelease {wid gid} : exec (.kwaitRelease wid gid) s = execKwaitRelease wid gid s := rfl
theorem exec_rejoinDeadlock {wid gid} : exec (.rejoinDeadlock wid gid) s = execRejoinDeadlock wid gid s := rfl
theorem exec_groupFormationFullBin {wid pc stage} : exec (.groupFormationFullBin wid pc stage) s = execGroupFormationFullBin wid pc stage s := rfl
theorem exec_groupFormationQuiescence {wid} : exec (.groupFormationQuiescence wid) s = execGroupFormationQuiescence wid s := rfl
theorem exec_workgroupResidency {lid wgid base} : exec (.workgroupResidency lid wgid base) s = execWorkgroupResidency lid wgid base s := rfl
theorem exec_workgroupCompletion {wid} : exec (.workgroupCompletion wid) s = execWorkgroupCompletion wid s := rfl
theorem exec_workgroupPlacement {part} : exec (.workgroupPlacement part) s = execWorkgroupPlacement part s := rfl
theorem exec_zeroingComplete {core} : exec (.zeroingComplete core) s = execZeroingComplete core s := rfl
theorem exec_serialiserStop {lid} : exec (.serialiserStop lid) s = execSerialiserStop lid s := rfl
theorem exec_serialiserPublishWrite {lid} : exec (.serialiserPublishWrite lid) s = execSerialiserPublishWrite lid s := rfl
theorem exec_imageRestore {lid part} : exec (.imageRestore lid part) s = execImageRestore lid part s := rfl
theorem exec_jobCheckpoint {ctx} : exec (.jobCheckpoint ctx) s = execJobCheckpoint ctx s := rfl
theorem exec_queueDescriptorWrite {q desc} : exec (.queueDescriptorWrite q desc) s = execQueueDescriptorWrite q desc s := rfl
theorem exec_queueDoorbell {q wr} : exec (.queueDoorbell q wr) s = execQueueDoorbell q wr s := rfl
theorem exec_launchPacket {q} : exec (.launchPacket q) s = execLaunchPacket q s := rfl
theorem exec_waitPacket {q} : exec (.waitPacket q) s = execWaitPacket q s := rfl
theorem exec_waitPacketRelease {q} : exec (.waitPacketRelease q) s = execWaitPacketRelease q s := rfl
theorem exec_signalIntervalExpiry {lid} : exec (.signalIntervalExpiry lid) s = execSignalIntervalExpiry lid s := rfl
theorem exec_bindRun {slot rec} : exec (.bindRun slot rec) s = execBindRun slot rec s := rfl
theorem exec_bindStopRequest {slot} : exec (.bindStopRequest slot) s = execBindStopRequest slot s := rfl
theorem exec_reorderStall {lid} : exec (.reorderStall lid) s = execReorderStall lid s := rfl
theorem exec_timeLimit {lid} : exec (.timeLimit lid) s = execTimeLimit lid s := rfl
theorem exec_lockedClockMode {part on} : exec (.lockedClockMode part on) s = execLockedClockMode part on s := rfl
theorem exec_copySlotTake {wid q} : exec (.copySlotTake wid q) s = execCopySlotTake wid q s := rfl
theorem exec_copySectorWrite {wid q} : exec (.copySectorWrite wid q) s = execCopySectorWrite wid q s := rfl
theorem exec_copyComplete {wid q} : exec (.copyComplete wid q) s = execCopyComplete wid q s := rfl
theorem exec_fenceEntryHead {wid q} : exec (.fenceEntryHead wid q) s = execFenceEntryHead wid q s := rfl
theorem exec_barrierDeadlock {wid} : exec (.barrierDeadlock wid) s = execBarrierDeadlock wid s := rfl
theorem exec_xbarRelease {lid x core} : exec (.xbarRelease lid x core) s = execXbarRelease lid x core s := rfl
theorem exec_waitvWake {wid tid} : exec (.waitvWake wid tid) s = execWaitvWake wid tid s := rfl
theorem exec_waitvPoll {wid tid} : exec (.waitvPoll wid tid) s = execWaitvPoll wid tid s := rfl
theorem exec_waitvTimeout {wid tid} : exec (.waitvTimeout wid tid) s = execWaitvTimeout wid tid s := rfl
theorem exec_cbacqRetry {wid gid} : exec (.cbacqRetry wid gid) s = execCbacqRetry wid gid s := rfl
theorem exec_matrixQueueEntry {core} : exec (.matrixQueueEntry core) s = execMatrixQueueEntry core s := rfl
theorem exec_lineRoutineRun {slice} : exec (.lineRoutineRun slice) s = execLineRoutineRun slice s := rfl
theorem exec_detRequestApply {lid} : exec (.detRequestApply lid) s = execDetRequestApply lid s := rfl
theorem exec_reply {wid tid} : exec (.reply wid tid) s = execReply wid tid s := rfl
theorem exec_loadReturn {wid tid} : exec (.loadReturn wid tid) s = execLoadReturn wid tid s := rfl
theorem exec_pageFault {ctx page} : exec (.pageFault ctx page) s = execPageFault ctx page s := rfl
theorem exec_faultAnswerRetry {ctx page} : exec (.faultAnswerRetry ctx page) s = execFaultAnswerRetry ctx page s := rfl
theorem exec_faultAnswerFail {ctx page} : exec (.faultAnswerFail ctx page) s = execFaultAnswerFail ctx page s := rfl
theorem exec_pteInvalidation {ctx va len} : exec (.pteInvalidation ctx va len) s = execPteInvalidation ctx va len s := rfl
theorem exec_companionStore {ctx va bytes} : exec (.companionStore ctx va bytes) s = execCompanionStore ctx va bytes s := rfl
theorem exec_companionLoad {ctx va n} : exec (.companionLoad ctx va n) s = execCompanionLoad ctx va n s := rfl
theorem exec_peerAccess {acc} : exec (.peerAccess acc) s = execPeerAccess acc s := rfl
theorem exec_peerTimeout {d} : exec (.peerTimeout d) s = execPeerTimeout d s := rfl
theorem exec_fatalTrap {lid} : exec (.fatalTrap lid) s = execFatalTrap lid s := rfl
theorem exec_correctedError {at_} : exec (.correctedError at_) s = execCorrectedError at_ s := rfl
theorem exec_uncorrectableError {at_ hard} : exec (.uncorrectableError at_ hard) s = execUncorrectableError at_ hard s := rfl
theorem exec_slicePauseEnd {slice} : exec (.slicePauseEnd slice) s = execSlicePauseEnd slice s := rfl
theorem exec_firmwareReadyTimeout : exec .firmwareReadyTimeout s = execFirmwareReadyTimeout s := rfl
theorem exec_thermalHalt : exec .thermalHalt s = execThermalHalt s := rfl
theorem exec_thermalResume : exec .thermalResume s = execThermalResume s := rfl
theorem exec_powerCapAdjust {part steps} : exec (.powerCapAdjust part steps) s = execPowerCapAdjust part steps s := rfl
theorem exec_resetRelease {straps} : exec (.resetRelease straps) s = execResetRelease straps s := rfl
theorem exec_traceSample {part} : exec (.traceSample part) s = execTraceSample part s := rfl
theorem exec_park {agent b} : exec (.park agent b) s = execPark agent b s := rfl
theorem exec_resume {agent b} : exec (.resume agent b) s = execResume agent b s := rfl
theorem exec_step {agent b} : exec (.step agent b) s = execStep agent b s := rfl
theorem exec_stopall {agent b} : exec (.stopall agent b) s = execStopall agent b s := rfl
theorem exec_resumeall {agent b} : exec (.resumeall agent b) s = execResumeall agent b s := rfl
theorem exec_read {agent b} : exec (.read agent b) s = execRead agent b s := rfl
theorem exec_edit {agent b} : exec (.edit agent b) s = execEdit agent b s := rfl
theorem exec_commit {agent b} : exec (.commit agent b) s = execCommit agent b s := rfl
theorem exec_discard {agent b} : exec (.discard agent b) s = execDiscard agent b s := rfl
theorem exec_setbp {agent b} : exec (.setbp agent b) s = execSetbp agent b s := rfl
theorem exec_setwp {agent b} : exec (.setwp agent b) s = execSetwp agent b s := rfl
theorem exec_ctxdef {agent b} : exec (.ctxdef agent b) s = execCtxdef agent b s := rfl
theorem exec_errring {agent b} : exec (.errring agent b) s = execErrring agent b s := rfl
theorem exec_rasring {agent b} : exec (.rasring agent b) s = execRasring agent b s := rfl
theorem exec_grant {agent b} : exec (.grant agent b) s = execGrant agent b s := rfl
theorem exec_revoke {agent b} : exec (.revoke agent b) s = execRevoke agent b s := rfl
theorem exec_keyload {agent b} : exec (.keyload agent b) s = execKeyload agent b s := rfl
theorem exec_keyclear {agent b} : exec (.keyclear agent b) s = execKeyclear agent b s := rfl
theorem exec_attest {agent b} : exec (.attest agent b) s = execAttest agent b s := rfl
theorem exec_fwstage {agent b} : exec (.fwstage agent b) s = execFwstage agent b s := rfl
theorem exec_fwswitch {agent b} : exec (.fwswitch agent b) s = execFwswitch agent b s := rfl
theorem exec_unit {agent b} : exec (.unit agent b) s = execUnit agent b s := rfl
theorem exec_domain {agent b} : exec (.domain agent b) s = execDomain agent b s := rfl
theorem exec_admit {agent b} : exec (.admitPeer agent b) s = execAdmit agent b s := rfl
theorem exec_power {agent b} : exec (.power agent b) s = execPower agent b s := rfl
theorem exec_registerWrite {agent reg value} : exec (.registerWrite agent reg value) s = execRegisterWrite agent reg value s := rfl
theorem exec_nop {w} : exec (.nop w) s = execNop w s := rfl
theorem exec_pairedWord {w} : exec (.pairedWord w) s = execPairedWord w s := rfl
theorem exec_iadd {w} : exec (.iadd w) s = execIadd w s := rfl
theorem exec_iaddImm {w} : exec (.iaddImm w) s = execIaddImm w s := rfl
theorem exec_isub {w} : exec (.isub w) s = execIsub w s := rfl
theorem exec_isubImm {w} : exec (.isubImm w) s = execIsubImm w s := rfl
theorem exec_iaddc {w} : exec (.iaddc w) s = execIaddc w s := rfl
theorem exec_isubb {w} : exec (.isubb w) s = execIsubb w s := rfl
theorem exec_imul {w} : exec (.imul w) s = execImul w s := rfl
theorem exec_imulImm {w} : exec (.imulImm w) s = execImulImm w s := rfl
theorem exec_imulhi {w} : exec (.imulhi w) s = execImulhi w s := rfl
theorem exec_imulhiImm {w} : exec (.imulhiImm w) s = execImulhiImm w s := rfl
theorem exec_imad {w} : exec (.imad w) s = execImad w s := rfl
theorem exec_imin {w} : exec (.imin w) s = execImin w s := rfl
theorem exec_iminImm {w} : exec (.iminImm w) s = execIminImm w s := rfl
theorem exec_imax {w} : exec (.imax w) s = execImax w s := rfl
theorem exec_imaxImm {w} : exec (.imaxImm w) s = execImaxImm w s := rfl
theorem exec_iabs {w} : exec (.iabs w) s = execIabs w s := rfl
theorem exec_ineg {w} : exec (.ineg w) s = execIneg w s := rfl
theorem exec_icmp {w} : exec (.icmp w) s = execIcmp w s := rfl
theorem exec_ipopc {w} : exec (.ipopc w) s = execIpopc w s := rfl
theorem exec_iclz {w} : exec (.iclz w) s = execIclz w s := rfl
theorem exec_ibrev {w} : exec (.ibrev w) s = execIbrev w s := rfl
theorem exec_ibfe {w} : exec (.ibfe w) s = execIbfe w s := rfl
theorem exec_ibfi {w} : exec (.ibfi w) s = execIbfi w s := rfl
theorem exec_lea {w} : exec (.lea w) s = execLea w s := rfl
theorem exec_leaImm {w} : exec (.leaImm w) s = execLeaImm w s := rfl
theorem exec_lop {w} : exec (.lop w) s = execLop w s := rfl
theorem exec_shl {w} : exec (.shl w) s = execShl w s := rfl
theorem exec_shr {w} : exec (.shr w) s = execShr w s := rfl
theorem exec_sar {w} : exec (.sar w) s = execSar w s := rfl
theorem exec_shlImm {w} : exec (.shlImm w) s = execShlImm w s := rfl
theorem exec_shrImm {w} : exec (.shrImm w) s = execShrImm w s := rfl
theorem exec_sarImm {w} : exec (.sarImm w) s = execSarImm w s := rfl
theorem exec_sel {w} : exec (.sel w) s = execSel w s := rfl
theorem exec_mov {w} : exec (.mov w) s = execMov w s := rfl
theorem exec_movSpecial {w} : exec (.movSpecial w) s = execMovSpecial w s := rfl
theorem exec_movi {w} : exec (.movi w) s = execMovi w s := rfl
theorem exec_plop {w} : exec (.plop w) s = execPlop w s := rfl
theorem exec_pmovToReg {w} : exec (.pmovToReg w) s = execPmovToReg w s := rfl
theorem exec_pmovFromReg {w} : exec (.pmovFromReg w) s = execPmovFromReg w s := rfl
theorem exec_pmovPred {w} : exec (.pmovPred w) s = execPmovPred w s := rfl
theorem exec_fadd {w} : exec (.fadd w) s = execFadd w s := rfl
theorem exec_faddImm {w} : exec (.faddImm w) s = execFaddImm w s := rfl
theorem exec_fsub {w} : exec (.fsub w) s = execFsub w s := rfl
theorem exec_fmul {w} : exec (.fmul w) s = execFmul w s := rfl
theorem exec_fmulImm {w} : exec (.fmulImm w) s = execFmulImm w s := rfl
theorem exec_ffma {w} : exec (.ffma w) s = execFfma w s := rfl
theorem exec_fmin {w} : exec (.fmin w) s = execFmin w s := rfl
theorem exec_fminImm {w} : exec (.fminImm w) s = execFminImm w s := rfl
theorem exec_fmax {w} : exec (.fmax w) s = execFmax w s := rfl
theorem exec_fmaxImm {w} : exec (.fmaxImm w) s = execFmaxImm w s := rfl
theorem exec_fabs {w} : exec (.fabs w) s = execFabs w s := rfl
theorem exec_fneg {w} : exec (.fneg w) s = execFneg w s := rfl
theorem exec_fcmp {w} : exec (.fcmp w) s = execFcmp w s := rfl
theorem exec_fclass {w} : exec (.fclass w) s = execFclass w s := rfl
theorem exec_frnd {w} : exec (.frnd w) s = execFrnd w s := rfl
theorem exec_fcvt {w} : exec (.fcvt w) s = execFcvt w s := rfl
theorem exec_frcp {w} : exec (.frcp w) s = execFrcp w s := rfl
theorem exec_frsq {w} : exec (.frsq w) s = execFrsq w s := rfl
theorem exec_fsqrt {w} : exec (.fsqrt w) s = execFsqrt w s := rfl
theorem exec_fexp2 {w} : exec (.fexp2 w) s = execFexp2 w s := rfl
theorem exec_flog2 {w} : exec (.flog2 w) s = execFlog2 w s := rfl
theorem exec_ftanh {w} : exec (.ftanh w) s = execFtanh w s := rfl
theorem exec_npack {w} : exec (.npack w) s = execNpack w s := rfl
theorem exec_nunpk {w} : exec (.nunpk w) s = execNunpk w s := rfl
theorem exec_nscale {w} : exec (.nscale w) s = execNscale w s := rfl
theorem exec_gshfl {w} : exec (.gshfl w) s = execGshfl w s := rfl
theorem exec_gbfly {w} : exec (.gbfly w) s = execGbfly w s := rfl
theorem exec_gred {w} : exec (.gred w) s = execGred w s := rfl
theorem exec_gscan {w} : exec (.gscan w) s = execGscan w s := rfl
theorem exec_gvote {w} : exec (.gvote w) s = execGvote w s := rfl
theorem exec_gmatch {w} : exec (.gmatch w) s = execGmatch w s := rfl
theorem exec_grank {w} : exec (.grank w) s = execGrank w s := rfl
theorem exec_join {w} : exec (.join w) s = execJoin w s := rfl
theorem exec_leave {w} : exec (.leave w) s = execLeave w s := rfl
theorem exec_kwait {w} : exec (.kwait w) s = execKwait w s := rfl
theorem exec_kmov {w} : exec (.kmov w) s = execKmov w s := rfl
theorem exec_kand {w} : exec (.kand w) s = execKand w s := rfl
theorem exec_kor {w} : exec (.kor w) s = execKor w s := rfl
theorem exec_krd {w} : exec (.krd w) s = execKrd w s := rfl
theorem exec_kset {w} : exec (.kset w) s = execKset w s := rfl
theorem exec_bra {w} : exec (.bra w) s = execBra w s := rfl
theorem exec_brx {w} : exec (.brx w) s = execBrx w s := rfl
theorem exec_call {w} : exec (.call w) s = execCall w s := rfl
theorem exec_ret {w} : exec (.ret w) s = execRet w s := rfl
theorem exec_switch {w} : exec (.switch w) s = execSwitch w s := rfl
theorem exec_regroup {w} : exec (.regroup w) s = execRegroup w s := rfl
theorem exec_yield {w} : exec (.yield w) s = execYield w s := rfl
theorem exec_exit {w} : exec (.exit w) s = execExit w s := rfl
theorem exec_trap {w} : exec (.trap w) s = execTrap w s := rfl
theorem exec_trapret {w} : exec (.trapret w) s = execTrapret w s := rfl
theorem exec_bkpt {w} : exec (.bkpt w) s = execBkpt w s := rfl
theorem exec_sysrd {w} : exec (.sysrd w) s = execSysrd w s := rfl
theorem exec_syswr {w} : exec (.syswr w) s = execSyswr w s := rfl
theorem exec_stampIn {w} : exec (.stampIn w) s = execStampIn w s := rfl
theorem exec_stampMma {w} : exec (.stampMma w) s = execStampMma w s := rfl
theorem exec_stampOut {w} : exec (.stampOut w) s = execStampOut w s := rfl
theorem exec_time {w} : exec (.time w) s = execTime w s := rfl
theorem exec_ld {w} : exec (.ld w) s = execLd w s := rfl
theorem exec_lds {w} : exec (.lds w) s = execLds w s := rfl
theorem exec_lda {w} : exec (.lda w) s = execLda w s := rfl
theorem exec_ldb {w} : exec (.ldb w) s = execLdb w s := rfl
theorem exec_st {w} : exec (.st w) s = execSt w s := rfl
theorem exec_sts {w} : exec (.sts w) s = execSts w s := rfl
theorem exec_stb {w} : exec (.stb w) s = execStb w s := rfl
theorem exec_pref {w} : exec (.pref w) s = execPref w s := rfl
theorem exec_atom {w} : exec (.atom w) s = execAtom w s := rfl
theorem exec_atomScr {w} : exec (.atomScr w) s = execAtomScr w s := rfl
theorem exec_lrcall {w} : exec (.lrcall w) s = execLrcall w s := rfl
theorem exec_lrdef {w} : exec (.lrdef w) s = execLrdef w s := rfl
theorem exec_lrdrop {w} : exec (.lrdrop w) s = execLrdrop w s := rfl
theorem exec_waitv {w} : exec (.waitv w) s = execWaitv w s := rfl
theorem exec_wake {w} : exec (.wake w) s = execWake w s := rfl
theorem exec_phasePub {w} : exec (.phasePub w) s = execPhasePub w s := rfl
theorem exec_phaseRef {w} : exec (.phaseRef w) s = execPhaseRef w s := rfl
theorem exec_phase {w} : exec (.phase w) s = execPhase w s := rfl
theorem exec_fence {w} : exec (.fence w) s = execFence w s := rfl
theorem exec_bar {w} : exec (.bar w) s = execBar w s := rfl
theorem exec_bararv {w} : exec (.bararv w) s = execBararv w s := rfl
theorem exec_barwait {w} : exec (.barwait w) s = execBarwait w s := rfl
theorem exec_bartx {w} : exec (.bartx w) s = execBartx w s := rfl
theorem exec_barinit {w} : exec (.barinit w) s = execBarinit w s := rfl
theorem exec_xbarv {w} : exec (.xbarv w) s = execXbarv w s := rfl
theorem exec_xbwait {w} : exec (.xbwait w) s = execXbwait w s := rfl
theorem exec_xbset {w} : exec (.xbset w) s = execXbset w s := rfl
theorem exec_cpin {w} : exec (.cpin w) s = execCpin w s := rfl
theorem exec_cpout {w} : exec (.cpout w) s = execCpout w s := rfl
theorem exec_cpoutDomainReduction {w} : exec (.cpoutDomainReduction w) s = execCpoutDomainReduction w s := rfl
theorem exec_cpgath {w} : exec (.cpgath w) s = execCpgath w s := rfl
theorem exec_cpgathDigest {w} : exec (.cpgathDigest w) s = execCpgathDigest w s := rfl
theorem exec_cpscat {w} : exec (.cpscat w) s = execCpscat w s := rfl
theorem exec_cpfill {w} : exec (.cpfill w) s = execCpfill w s := rfl
theorem exec_cpfillScratchpad {w} : exec (.cpfillScratchpad w) s = execCpfillScratchpad w s := rfl
theorem exec_qfence {w} : exec (.qfence w) s = execQfence w s := rfl
theorem exec_qwait {w} : exec (.qwait w) s = execQwait w s := rfl
theorem exec_cbacq {w} : exec (.cbacq w) s = execCbacq w s := rfl
theorem exec_cbrel {w} : exec (.cbrel w) s = execCbrel w s := rfl
theorem exec_cbrelCfg {w} : exec (.cbrelCfg w) s = execCbrelCfg w s := rfl
theorem exec_cvput {w} : exec (.cvput w) s = execCvput w s := rfl
theorem exec_cvseal {w} : exec (.cvseal w) s = execCvseal w s := rfl
theorem exec_launch {w} : exec (.launch w) s = execLaunch w s := rfl
theorem exec_mldb {w} : exec (.mldb w) s = execMldb w s := rfl
theorem exec_mswap {w} : exec (.mswap w) s = execMswap w s := rfl
theorem exec_mma {w} : exec (.mma w) s = execMma w s := rfl
theorem exec_mmaw {w} : exec (.mmaw w) s = execMmaw w s := rfl
theorem exec_mspan {w} : exec (.mspan w) s = execMspan w s := rfl
theorem exec_mcommit {w} : exec (.mcommit w) s = execMcommit w s := rfl
theorem exec_mzero {w} : exec (.mzero w) s = execMzero w s := rfl
theorem exec_mlda {w} : exec (.mlda w) s = execMlda w s := rfl
theorem exec_msta {w} : exec (.msta w) s = execMsta w s := rfl
theorem exec_firmwareReady : exec .firmwareReady s = execFirmwareReady s := rfl
theorem exec_peerAnswers {d} : exec (.peerAnswers d) s = execPeerAnswers d s := rfl
theorem exec_peerPortFailure {port} : exec (.peerPortFailure port) s = execPeerPortFailure port s := rfl
theorem exec_domainReductionArrival {c} : exec (.domainReductionArrival c) s = execDomainReductionArrival c s := rfl
theorem exec_unitDrainComplete {kind num} : exec (.unitDrainComplete kind num) s = execUnitDrainComplete kind num s := rfl
theorem exec_unitTestPassed {kind num} : exec (.unitTestPassed kind num) s = execUnitTestPassed kind num s := rfl

end Sys2Proof.Machine
end

