-- ==== Sys2Proof/Laws/Maps.lean ====
section
/-! SUPPORT. Reading a sparse map after a write, and the canonical form that every write keeps. -/

namespace Sys2Proof

variable {α : Type}

theorem SMap.get_filter_ne (d : α) (m : SMap α) (k : Nat) : SMap.get d (m.filter (fun e => e.1 ≠ k)) k = d := by
  induction m with
  | nil => rfl
  | cons e m ih =>
    by_cases h : e.1 = k
    · simpa [List.filter_cons, h] using ih
    · simpa [List.filter_cons, h, SMap.get] using ih

theorem SMap.get_filter_other (d : α) (m : SMap α) {k j : Nat} (hj : j ≠ k) :
    SMap.get d (m.filter (fun e => e.1 ≠ k)) j = SMap.get d m j := by
  induction m with
  | nil => rfl
  | cons e m ih =>
    by_cases h : e.1 = k
    · simp only [ne_eq, decide_not] at ih
      simp [h, SMap.get, Ne.symm hj, ih]
    · simp only [ne_eq, decide_not] at ih
      simp [h, SMap.get, ih]

theorem SMap.get_ins_same (d : α) (m : SMap α) (k : Nat) (x : α) : SMap.get d (SMap.ins m k x) k = x := by
  induction m with
  | nil => simp [SMap.ins, SMap.get]
  | cons e m ih =>
    simp only [SMap.ins]
    split
    · next h => simp [SMap.get, Nat.ne_of_lt h, ih]
    · split <;> simp [SMap.get]

theorem SMap.get_ins_other (d : α) (m : SMap α) {k j : Nat} (x : α) (hj : j ≠ k) :
    SMap.get d (SMap.ins m k x) j = SMap.get d m j := by
  induction m with
  | nil => simp [SMap.ins, SMap.get, Ne.symm hj]
  | cons e m ih =>
    simp only [SMap.ins]
    split
    · simp [SMap.get, ih]
    · split
      · next h => simp [SMap.get, h, Ne.symm hj]
      · simp [SMap.get, Ne.symm hj]

/-- Reading what was written. -/
theorem SMap.get_put_same [DecidableEq α] (d : α) (m : SMap α) (k : Nat) (x : α) : SMap.get d (SMap.put d m k x) k = x := by
  unfold SMap.put
  split
  · next h => rw [h]; exact SMap.get_filter_ne d m k
  · exact SMap.get_ins_same d m k x

/-- A write changes no other place. -/
theorem SMap.get_put_other [DecidableEq α] (d : α) (m : SMap α) {k j : Nat} (x : α) (hj : j ≠ k) :
    SMap.get d (SMap.put d m k x) j = SMap.get d m j := by
  unfold SMap.put
  split
  · exact SMap.get_filter_other d m hj
  · exact SMap.get_ins_other d m x hj

/-- Reading after a run of places has been written. -/
theorem SMap.get_putAll [DecidableEq α] (d : α) (m : SMap α) (k : Nat) (xs : List α) (j : Nat) :
    SMap.get d (SMap.putAll d m k xs) j = if k ≤ j then (xs[j - k]?).getD (SMap.get d m j) else SMap.get d m j := by
  induction xs generalizing m k with
  | nil => simp [SMap.putAll]
  | cons x xs ih =>
    rw [SMap.putAll, ih]
    by_cases hk : k = j
    · subst hk; simp [SMap.get_put_same]
    · rw [SMap.get_put_other d m x (Ne.symm hk)]
      by_cases h : k ≤ j
      · have h1 : k + 1 ≤ j := by omega
        have h2 : j - k = (j - (k + 1)) + 1 := by omega
        simp [h, h1, h2]
      · have h1 : ¬ k + 1 ≤ j := by omega
        simp [h, h1]

/-! ## The canonical form -/

theorem SMap.wfFrom_mono [DecidableEq α] (d : α) {lo hi : Nat} (h : lo ≤ hi) {m : SMap α} (hm : SMap.wfFrom d hi m = true) :
    SMap.wfFrom d lo m = true := by
  cases m with
  | nil => rfl
  | cons e m =>
    simp only [SMap.wfFrom, Bool.and_eq_true, decide_eq_true_eq] at hm ⊢
    exact ⟨⟨Nat.le_trans h hm.1.1, hm.1.2⟩, hm.2⟩

theorem SMap.wfFrom_filter [DecidableEq α] (d : α) (p : Nat × α → Bool) (lo : Nat) (m : SMap α) (hm : SMap.wfFrom d lo m = true) :
    SMap.wfFrom d lo (m.filter p) = true := by
  induction m generalizing lo with
  | nil => rfl
  | cons e m ih =>
    simp only [SMap.wfFrom, Bool.and_eq_true, decide_eq_true_eq] at hm
    by_cases h : p e = true
    · simp only [List.filter_cons, h, if_true, SMap.wfFrom, Bool.and_eq_true, decide_eq_true_eq]
      exact ⟨hm.1, ih _ hm.2⟩
    · simp only [List.filter_cons, h]
      exact SMap.wfFrom_mono d (by omega) (ih _ hm.2)

theorem SMap.wfFrom_ins [DecidableEq α] (d : α) {x : α} (hx : x ≠ d) (lo k : Nat) (hk : lo ≤ k) (m : SMap α)
    (hm : SMap.wfFrom d lo m = true) : SMap.wfFrom d lo (SMap.ins m k x) = true := by
  induction m generalizing lo with
  | nil => simp [SMap.ins, SMap.wfFrom, hk, hx]
  | cons e m ih =>
    simp only [SMap.wfFrom, Bool.and_eq_true, decide_eq_true_eq] at hm
    simp only [SMap.ins]
    split
    · next h =>
      simp only [SMap.wfFrom, Bool.and_eq_true, decide_eq_true_eq]
      exact ⟨hm.1, ih _ (by omega) hm.2⟩
    · split
      · next h =>
        simp only [SMap.wfFrom, Bool.and_eq_true, decide_eq_true_eq]
        exact ⟨⟨hk, hx⟩, by rw [← h]; exact hm.2⟩
      · simp only [SMap.wfFrom, Bool.and_eq_true, decide_eq_true_eq]
        exact ⟨⟨hk, hx⟩, ⟨by omega, hm.1.2⟩, hm.2⟩

/-- A write keeps the canonical form. -/
theorem SMap.wf_put [DecidableEq α] (d : α) (m : SMap α) (k : Nat) (x : α) (hm : SMap.wf d m = true) :
    SMap.wf d (SMap.put d m k x) = true := by
  unfold SMap.put
  split
  · exact SMap.wfFrom_filter d _ 0 m hm
  · next h => exact SMap.wfFrom_ins d h 0 k (Nat.zero_le k) m hm

theorem SMap.wf_putAll [DecidableEq α] (d : α) (xs : List α) (m : SMap α) (k : Nat) (hm : SMap.wf d m = true) :
    SMap.wf d (SMap.putAll d m k xs) = true := by
  induction xs generalizing m k with
  | nil => exact hm
  | cons x xs ih => exact ih _ _ (SMap.wf_put d m k x hm)

theorem SMap.wf_filter [DecidableEq α] (d : α) (p : Nat × α → Bool) (m : SMap α) (hm : SMap.wf d m = true) :
    SMap.wf d (m.filter p) = true := SMap.wfFrom_filter d p 0 m hm

/-- Below its first number a map in canonical form lists nothing. -/
theorem SMap.wfFrom_get_lt [DecidableEq α] (d : α) (lo : Nat) (m : SMap α) (hm : SMap.wfFrom d lo m = true) {k : Nat} (hk : k < lo) :
    SMap.get d m k = d := by
  induction m generalizing lo with
  | nil => rfl
  | cons e m ih =>
    simp only [SMap.wfFrom, Bool.and_eq_true, decide_eq_true_eq] at hm
    have : ¬ e.1 = k := by omega
    simp only [SMap.get, this, if_false]
    exact ih _ hm.2 (by omega)

end Sys2Proof
end

