-- ==== Sys2Proof/Laws/State.lean ====
section
/-! SUPPORT. What each named update of the state leaves in each field, so that no proof unfolds a record update. -/

namespace Sys2Proof.Machine

variable (s : State)

/-! ## modWG -/

@[simp] theorem State.modWG_ck (wid : Nat) (f : WG → WG) : (s.modWG wid f).ck = s.ck := rfl
@[simp] theorem State.modWG_ns (wid : Nat) (f : WG → WG) : (s.modWG wid f).ns = s.ns := rfl
@[simp] theorem State.modWG_agenda (wid : Nat) (f : WG → WG) : (s.modWG wid f).agenda = s.agenda := rfl
@[simp] theorem State.modWG_issue (wid : Nat) (f : WG → WG) : (s.modWG wid f).issue = s.issue := rfl
@[simp] theorem State.modWG_cur (wid : Nat) (f : WG → WG) : (s.modWG wid f).cur = s.cur := rfl
@[simp] theorem State.modWG_before (wid : Nat) (f : WG → WG) : (s.modWG wid f).before = s.before := rfl
@[simp] theorem State.modWG_due (wid : Nat) (f : WG → WG) : (s.modWG wid f).due = s.due := rfl
@[simp] theorem State.modWG_free (wid : Nat) (f : WG → WG) : (s.modWG wid f).free = s.free := rfl
@[simp] theorem State.modWG_mem (wid : Nat) (f : WG → WG) : (s.modWG wid f).mem = s.mem := rfl
@[simp] theorem State.modWG_poison (wid : Nat) (f : WG → WG) : (s.modWG wid f).poison = s.poison := rfl
@[simp] theorem State.modWG_tags (wid : Nat) (f : WG → WG) : (s.modWG wid f).tags = s.tags := rfl
@[simp] theorem State.modWG_retired (wid : Nat) (f : WG → WG) : (s.modWG wid f).retired = s.retired := rfl
@[simp] theorem State.modWG_quarantined (wid : Nat) (f : WG → WG) : (s.modWG wid f).quarantined = s.quarantined := rfl
@[simp] theorem State.modWG_slices (wid : Nat) (f : WG → WG) : (s.modWG wid f).slices = s.slices := rfl
@[simp] theorem State.modWG_paused (wid : Nat) (f : WG → WG) : (s.modWG wid f).paused = s.paused := rfl
@[simp] theorem State.modWG_monitors (wid : Nat) (f : WG → WG) : (s.modWG wid f).monitors = s.monitors := rfl
@[simp] theorem State.modWG_replies (wid : Nat) (f : WG → WG) : (s.modWG wid f).replies = s.replies := rfl
@[simp] theorem State.modWG_faults (wid : Nat) (f : WG → WG) : (s.modWG wid f).faults = s.faults := rfl
@[simp] theorem State.modWG_gbt (wid : Nat) (f : WG → WG) : (s.modWG wid f).gbt = s.gbt := rfl
@[simp] theorem State.modWG_queues (wid : Nat) (f : WG → WG) : (s.modWG wid f).queues = s.queues := rfl
@[simp] theorem State.modWG_ctxs (wid : Nat) (f : WG → WG) : (s.modWG wid f).ctxs = s.ctxs := rfl
@[simp] theorem State.modWG_slots (wid : Nat) (f : WG → WG) : (s.modWG wid f).slots = s.slots := rfl
@[simp] theorem State.modWG_lidNext (wid : Nat) (f : WG → WG) : (s.modWG wid f).lidNext = s.lidNext := rfl
@[simp] theorem State.modWG_lodge (wid : Nat) (f : WG → WG) : (s.modWG wid f).lodge = s.lodge := rfl
@[simp] theorem State.modWG_rasRing (wid : Nat) (f : WG → WG) : (s.modWG wid f).rasRing = s.rasRing := rfl
@[simp] theorem State.modWG_rasSeq (wid : Nat) (f : WG → WG) : (s.modWG wid f).rasSeq = s.rasSeq := rfl
@[simp] theorem State.modWG_corrected (wid : Nat) (f : WG → WG) : (s.modWG wid f).corrected = s.corrected := rfl
@[simp] theorem State.modWG_domain (wid : Nat) (f : WG → WG) : (s.modWG wid f).domain = s.domain := rfl
@[simp] theorem State.modWG_admit (wid : Nat) (f : WG → WG) : (s.modWG wid f).admitted = s.admitted := rfl
@[simp] theorem State.modWG_portsDown (wid : Nat) (f : WG → WG) : (s.modWG wid f).portsDown = s.portsDown := rfl
@[simp] theorem State.modWG_late (wid : Nat) (f : WG → WG) : (s.modWG wid f).late = s.late := rfl
@[simp] theorem State.modWG_spares (wid : Nat) (f : WG → WG) : (s.modWG wid f).spares = s.spares := rfl
@[simp] theorem State.modWG_turns (wid : Nat) (f : WG → WG) : (s.modWG wid f).turns = s.turns := rfl
@[simp] theorem State.modWG_failing (wid : Nat) (f : WG → WG) : (s.modWG wid f).failing = s.failing := rfl
@[simp] theorem State.modWG_repairs (wid : Nat) (f : WG → WG) : (s.modWG wid f).repairs = s.repairs := rfl
@[simp] theorem State.modWG_ways (wid : Nat) (f : WG → WG) : (s.modWG wid f).ways = s.ways := rfl
@[simp] theorem State.modWG_struckWays (wid : Nat) (f : WG → WG) : (s.modWG wid f).struckWays = s.struckWays := rfl
@[simp] theorem State.modWG_evictFirst (wid : Nat) (f : WG → WG) : (s.modWG wid f).evictFirst = s.evictFirst := rfl
@[simp] theorem State.modWG_imageBase (wid : Nat) (f : WG → WG) : (s.modWG wid f).imageBase = s.imageBase := rfl
@[simp] theorem State.modWG_rcache (wid : Nat) (f : WG → WG) : (s.modWG wid f).rcache = s.rcache := rfl
@[simp] theorem State.modWG_fw (wid : Nat) (f : WG → WG) : (s.modWG wid f).fw = s.fw := rfl
@[simp] theorem State.modWG_parts (wid : Nat) (f : WG → WG) : (s.modWG wid f).parts = s.parts := rfl
@[simp] theorem State.modWG_units (wid : Nat) (f : WG → WG) : (s.modWG wid f).units = s.units := rfl
@[simp] theorem State.modWG_images (wid : Nat) (f : WG → WG) : (s.modWG wid f).images = s.images := rfl
@[simp] theorem State.modWG_ckpts (wid : Nat) (f : WG → WG) : (s.modWG wid f).ckpts = s.ckpts := rfl
@[simp] theorem State.modWG_codes (wid : Nat) (f : WG → WG) : (s.modWG wid f).codes = s.codes := rfl
@[simp] theorem State.modWG_reductions (wid : Nat) (f : WG → WG) : (s.modWG wid f).reductions = s.reductions := rfl
@[simp] theorem State.modWG_launches (wid : Nat) (f : WG → WG) : (s.modWG wid f).launches = s.launches := rfl
@[simp] theorem State.modWG_link (wid : Nat) (f : WG → WG) : (s.modWG wid f).link = s.link := rfl
@[simp] theorem State.modWG_cores (wid : Nat) (f : WG → WG) : (s.modWG wid f).cores = s.cores := rfl
@[simp] theorem State.modWG_widNext (wid : Nat) (f : WG → WG) : (s.modWG wid f).widNext = s.widNext := rfl

/-! ## modLaunch -/

@[simp] theorem State.modLaunch_ck (lid : Nat) (f : Launch → Launch) : (s.modLaunch lid f).ck = s.ck := rfl
@[simp] theorem State.modLaunch_ns (lid : Nat) (f : Launch → Launch) : (s.modLaunch lid f).ns = s.ns := rfl
@[simp] theorem State.modLaunch_agenda (lid : Nat) (f : Launch → Launch) : (s.modLaunch lid f).agenda = s.agenda := rfl
@[simp] theorem State.modLaunch_issue (lid : Nat) (f : Launch → Launch) : (s.modLaunch lid f).issue = s.issue := rfl
@[simp] theorem State.modLaunch_cur (lid : Nat) (f : Launch → Launch) : (s.modLaunch lid f).cur = s.cur := rfl
@[simp] theorem State.modLaunch_before (lid : Nat) (f : Launch → Launch) : (s.modLaunch lid f).before = s.before := rfl
@[simp] theorem State.modLaunch_due (lid : Nat) (f : Launch → Launch) : (s.modLaunch lid f).due = s.due := rfl
@[simp] theorem State.modLaunch_free (lid : Nat) (f : Launch → Launch) : (s.modLaunch lid f).free = s.free := rfl
@[simp] theorem State.modLaunch_mem (lid : Nat) (f : Launch → Launch) : (s.modLaunch lid f).mem = s.mem := rfl
@[simp] theorem State.modLaunch_poison (lid : Nat) (f : Launch → Launch) : (s.modLaunch lid f).poison = s.poison := rfl
@[simp] theorem State.modLaunch_tags (lid : Nat) (f : Launch → Launch) : (s.modLaunch lid f).tags = s.tags := rfl
@[simp] theorem State.modLaunch_retired (lid : Nat) (f : Launch → Launch) : (s.modLaunch lid f).retired = s.retired := rfl
@[simp] theorem State.modLaunch_quarantined (lid : Nat) (f : Launch → Launch) : (s.modLaunch lid f).quarantined = s.quarantined := rfl
@[simp] theorem State.modLaunch_slices (lid : Nat) (f : Launch → Launch) : (s.modLaunch lid f).slices = s.slices := rfl
@[simp] theorem State.modLaunch_paused (lid : Nat) (f : Launch → Launch) : (s.modLaunch lid f).paused = s.paused := rfl
@[simp] theorem State.modLaunch_monitors (lid : Nat) (f : Launch → Launch) : (s.modLaunch lid f).monitors = s.monitors := rfl
@[simp] theorem State.modLaunch_replies (lid : Nat) (f : Launch → Launch) : (s.modLaunch lid f).replies = s.replies := rfl
@[simp] theorem State.modLaunch_faults (lid : Nat) (f : Launch → Launch) : (s.modLaunch lid f).faults = s.faults := rfl
@[simp] theorem State.modLaunch_gbt (lid : Nat) (f : Launch → Launch) : (s.modLaunch lid f).gbt = s.gbt := rfl
@[simp] theorem State.modLaunch_queues (lid : Nat) (f : Launch → Launch) : (s.modLaunch lid f).queues = s.queues := rfl
@[simp] theorem State.modLaunch_ctxs (lid : Nat) (f : Launch → Launch) : (s.modLaunch lid f).ctxs = s.ctxs := rfl
@[simp] theorem State.modLaunch_slots (lid : Nat) (f : Launch → Launch) : (s.modLaunch lid f).slots = s.slots := rfl
@[simp] theorem State.modLaunch_lidNext (lid : Nat) (f : Launch → Launch) : (s.modLaunch lid f).lidNext = s.lidNext := rfl
@[simp] theorem State.modLaunch_lodge (lid : Nat) (f : Launch → Launch) : (s.modLaunch lid f).lodge = s.lodge := rfl
@[simp] theorem State.modLaunch_rasRing (lid : Nat) (f : Launch → Launch) : (s.modLaunch lid f).rasRing = s.rasRing := rfl
@[simp] theorem State.modLaunch_rasSeq (lid : Nat) (f : Launch → Launch) : (s.modLaunch lid f).rasSeq = s.rasSeq := rfl
@[simp] theorem State.modLaunch_corrected (lid : Nat) (f : Launch → Launch) : (s.modLaunch lid f).corrected = s.corrected := rfl
@[simp] theorem State.modLaunch_domain (lid : Nat) (f : Launch → Launch) : (s.modLaunch lid f).domain = s.domain := rfl
@[simp] theorem State.modLaunch_admit (lid : Nat) (f : Launch → Launch) : (s.modLaunch lid f).admitted = s.admitted := rfl
@[simp] theorem State.modLaunch_portsDown (lid : Nat) (f : Launch → Launch) : (s.modLaunch lid f).portsDown = s.portsDown := rfl
@[simp] theorem State.modLaunch_late (lid : Nat) (f : Launch → Launch) : (s.modLaunch lid f).late = s.late := rfl
@[simp] theorem State.modLaunch_spares (lid : Nat) (f : Launch → Launch) : (s.modLaunch lid f).spares = s.spares := rfl
@[simp] theorem State.modLaunch_turns (lid : Nat) (f : Launch → Launch) : (s.modLaunch lid f).turns = s.turns := rfl
@[simp] theorem State.modLaunch_failing (lid : Nat) (f : Launch → Launch) : (s.modLaunch lid f).failing = s.failing := rfl
@[simp] theorem State.modLaunch_repairs (lid : Nat) (f : Launch → Launch) : (s.modLaunch lid f).repairs = s.repairs := rfl
@[simp] theorem State.modLaunch_ways (lid : Nat) (f : Launch → Launch) : (s.modLaunch lid f).ways = s.ways := rfl
@[simp] theorem State.modLaunch_struckWays (lid : Nat) (f : Launch → Launch) : (s.modLaunch lid f).struckWays = s.struckWays := rfl
@[simp] theorem State.modLaunch_evictFirst (lid : Nat) (f : Launch → Launch) : (s.modLaunch lid f).evictFirst = s.evictFirst := rfl
@[simp] theorem State.modLaunch_imageBase (lid : Nat) (f : Launch → Launch) : (s.modLaunch lid f).imageBase = s.imageBase := rfl
@[simp] theorem State.modLaunch_rcache (lid : Nat) (f : Launch → Launch) : (s.modLaunch lid f).rcache = s.rcache := rfl
@[simp] theorem State.modLaunch_fw (lid : Nat) (f : Launch → Launch) : (s.modLaunch lid f).fw = s.fw := rfl
@[simp] theorem State.modLaunch_parts (lid : Nat) (f : Launch → Launch) : (s.modLaunch lid f).parts = s.parts := rfl
@[simp] theorem State.modLaunch_units (lid : Nat) (f : Launch → Launch) : (s.modLaunch lid f).units = s.units := rfl
@[simp] theorem State.modLaunch_images (lid : Nat) (f : Launch → Launch) : (s.modLaunch lid f).images = s.images := rfl
@[simp] theorem State.modLaunch_ckpts (lid : Nat) (f : Launch → Launch) : (s.modLaunch lid f).ckpts = s.ckpts := rfl
@[simp] theorem State.modLaunch_codes (lid : Nat) (f : Launch → Launch) : (s.modLaunch lid f).codes = s.codes := rfl
@[simp] theorem State.modLaunch_reductions (lid : Nat) (f : Launch → Launch) : (s.modLaunch lid f).reductions = s.reductions := rfl
@[simp] theorem State.modLaunch_link (lid : Nat) (f : Launch → Launch) : (s.modLaunch lid f).link = s.link := rfl
@[simp] theorem State.modLaunch_cores (lid : Nat) (f : Launch → Launch) : (s.modLaunch lid f).cores = s.cores := rfl
@[simp] theorem State.modLaunch_wgs (lid : Nat) (f : Launch → Launch) : (s.modLaunch lid f).wgs = s.wgs := rfl
@[simp] theorem State.modLaunch_widNext (lid : Nat) (f : Launch → Launch) : (s.modLaunch lid f).widNext = s.widNext := rfl

/-! ## modCtx -/

@[simp] theorem State.modCtx_ck (n : Nat) (f : Ctx → Ctx) : (s.modCtx n f).ck = s.ck := rfl
@[simp] theorem State.modCtx_ns (n : Nat) (f : Ctx → Ctx) : (s.modCtx n f).ns = s.ns := rfl
@[simp] theorem State.modCtx_agenda (n : Nat) (f : Ctx → Ctx) : (s.modCtx n f).agenda = s.agenda := rfl
@[simp] theorem State.modCtx_issue (n : Nat) (f : Ctx → Ctx) : (s.modCtx n f).issue = s.issue := rfl
@[simp] theorem State.modCtx_cur (n : Nat) (f : Ctx → Ctx) : (s.modCtx n f).cur = s.cur := rfl
@[simp] theorem State.modCtx_before (n : Nat) (f : Ctx → Ctx) : (s.modCtx n f).before = s.before := rfl
@[simp] theorem State.modCtx_due (n : Nat) (f : Ctx → Ctx) : (s.modCtx n f).due = s.due := rfl
@[simp] theorem State.modCtx_free (n : Nat) (f : Ctx → Ctx) : (s.modCtx n f).free = s.free := rfl
@[simp] theorem State.modCtx_mem (n : Nat) (f : Ctx → Ctx) : (s.modCtx n f).mem = s.mem := rfl
@[simp] theorem State.modCtx_poison (n : Nat) (f : Ctx → Ctx) : (s.modCtx n f).poison = s.poison := rfl
@[simp] theorem State.modCtx_tags (n : Nat) (f : Ctx → Ctx) : (s.modCtx n f).tags = s.tags := rfl
@[simp] theorem State.modCtx_retired (n : Nat) (f : Ctx → Ctx) : (s.modCtx n f).retired = s.retired := rfl
@[simp] theorem State.modCtx_quarantined (n : Nat) (f : Ctx → Ctx) : (s.modCtx n f).quarantined = s.quarantined := rfl
@[simp] theorem State.modCtx_slices (n : Nat) (f : Ctx → Ctx) : (s.modCtx n f).slices = s.slices := rfl
@[simp] theorem State.modCtx_paused (n : Nat) (f : Ctx → Ctx) : (s.modCtx n f).paused = s.paused := rfl
@[simp] theorem State.modCtx_monitors (n : Nat) (f : Ctx → Ctx) : (s.modCtx n f).monitors = s.monitors := rfl
@[simp] theorem State.modCtx_replies (n : Nat) (f : Ctx → Ctx) : (s.modCtx n f).replies = s.replies := rfl
@[simp] theorem State.modCtx_faults (n : Nat) (f : Ctx → Ctx) : (s.modCtx n f).faults = s.faults := rfl
@[simp] theorem State.modCtx_gbt (n : Nat) (f : Ctx → Ctx) : (s.modCtx n f).gbt = s.gbt := rfl
@[simp] theorem State.modCtx_queues (n : Nat) (f : Ctx → Ctx) : (s.modCtx n f).queues = s.queues := rfl
@[simp] theorem State.modCtx_slots (n : Nat) (f : Ctx → Ctx) : (s.modCtx n f).slots = s.slots := rfl
@[simp] theorem State.modCtx_lidNext (n : Nat) (f : Ctx → Ctx) : (s.modCtx n f).lidNext = s.lidNext := rfl
@[simp] theorem State.modCtx_lodge (n : Nat) (f : Ctx → Ctx) : (s.modCtx n f).lodge = s.lodge := rfl
@[simp] theorem State.modCtx_rasRing (n : Nat) (f : Ctx → Ctx) : (s.modCtx n f).rasRing = s.rasRing := rfl
@[simp] theorem State.modCtx_rasSeq (n : Nat) (f : Ctx → Ctx) : (s.modCtx n f).rasSeq = s.rasSeq := rfl
@[simp] theorem State.modCtx_corrected (n : Nat) (f : Ctx → Ctx) : (s.modCtx n f).corrected = s.corrected := rfl
@[simp] theorem State.modCtx_domain (n : Nat) (f : Ctx → Ctx) : (s.modCtx n f).domain = s.domain := rfl
@[simp] theorem State.modCtx_admit (n : Nat) (f : Ctx → Ctx) : (s.modCtx n f).admitted = s.admitted := rfl
@[simp] theorem State.modCtx_portsDown (n : Nat) (f : Ctx → Ctx) : (s.modCtx n f).portsDown = s.portsDown := rfl
@[simp] theorem State.modCtx_late (n : Nat) (f : Ctx → Ctx) : (s.modCtx n f).late = s.late := rfl
@[simp] theorem State.modCtx_spares (n : Nat) (f : Ctx → Ctx) : (s.modCtx n f).spares = s.spares := rfl
@[simp] theorem State.modCtx_turns (n : Nat) (f : Ctx → Ctx) : (s.modCtx n f).turns = s.turns := rfl
@[simp] theorem State.modCtx_failing (n : Nat) (f : Ctx → Ctx) : (s.modCtx n f).failing = s.failing := rfl
@[simp] theorem State.modCtx_repairs (n : Nat) (f : Ctx → Ctx) : (s.modCtx n f).repairs = s.repairs := rfl
@[simp] theorem State.modCtx_ways (n : Nat) (f : Ctx → Ctx) : (s.modCtx n f).ways = s.ways := rfl
@[simp] theorem State.modCtx_struckWays (n : Nat) (f : Ctx → Ctx) : (s.modCtx n f).struckWays = s.struckWays := rfl
@[simp] theorem State.modCtx_evictFirst (n : Nat) (f : Ctx → Ctx) : (s.modCtx n f).evictFirst = s.evictFirst := rfl
@[simp] theorem State.modCtx_imageBase (n : Nat) (f : Ctx → Ctx) : (s.modCtx n f).imageBase = s.imageBase := rfl
@[simp] theorem State.modCtx_rcache (n : Nat) (f : Ctx → Ctx) : (s.modCtx n f).rcache = s.rcache := rfl
@[simp] theorem State.modCtx_fw (n : Nat) (f : Ctx → Ctx) : (s.modCtx n f).fw = s.fw := rfl
@[simp] theorem State.modCtx_parts (n : Nat) (f : Ctx → Ctx) : (s.modCtx n f).parts = s.parts := rfl
@[simp] theorem State.modCtx_units (n : Nat) (f : Ctx → Ctx) : (s.modCtx n f).units = s.units := rfl
@[simp] theorem State.modCtx_images (n : Nat) (f : Ctx → Ctx) : (s.modCtx n f).images = s.images := rfl
@[simp] theorem State.modCtx_ckpts (n : Nat) (f : Ctx → Ctx) : (s.modCtx n f).ckpts = s.ckpts := rfl
@[simp] theorem State.modCtx_codes (n : Nat) (f : Ctx → Ctx) : (s.modCtx n f).codes = s.codes := rfl
@[simp] theorem State.modCtx_reductions (n : Nat) (f : Ctx → Ctx) : (s.modCtx n f).reductions = s.reductions := rfl
@[simp] theorem State.modCtx_launches (n : Nat) (f : Ctx → Ctx) : (s.modCtx n f).launches = s.launches := rfl
@[simp] theorem State.modCtx_link (n : Nat) (f : Ctx → Ctx) : (s.modCtx n f).link = s.link := rfl
@[simp] theorem State.modCtx_cores (n : Nat) (f : Ctx → Ctx) : (s.modCtx n f).cores = s.cores := rfl
@[simp] theorem State.modCtx_wgs (n : Nat) (f : Ctx → Ctx) : (s.modCtx n f).wgs = s.wgs := rfl
@[simp] theorem State.modCtx_widNext (n : Nat) (f : Ctx → Ctx) : (s.modCtx n f).widNext = s.widNext := rfl

/-! ## modQueue -/

@[simp] theorem State.modQueue_ck (q : Nat) (f : QDesc → QDesc) : (s.modQueue q f).ck = s.ck := rfl
@[simp] theorem State.modQueue_ns (q : Nat) (f : QDesc → QDesc) : (s.modQueue q f).ns = s.ns := rfl
@[simp] theorem State.modQueue_agenda (q : Nat) (f : QDesc → QDesc) : (s.modQueue q f).agenda = s.agenda := rfl
@[simp] theorem State.modQueue_issue (q : Nat) (f : QDesc → QDesc) : (s.modQueue q f).issue = s.issue := rfl
@[simp] theorem State.modQueue_cur (q : Nat) (f : QDesc → QDesc) : (s.modQueue q f).cur = s.cur := rfl
@[simp] theorem State.modQueue_before (q : Nat) (f : QDesc → QDesc) : (s.modQueue q f).before = s.before := rfl
@[simp] theorem State.modQueue_due (q : Nat) (f : QDesc → QDesc) : (s.modQueue q f).due = s.due := rfl
@[simp] theorem State.modQueue_free (q : Nat) (f : QDesc → QDesc) : (s.modQueue q f).free = s.free := rfl
@[simp] theorem State.modQueue_mem (q : Nat) (f : QDesc → QDesc) : (s.modQueue q f).mem = s.mem := rfl
@[simp] theorem State.modQueue_poison (q : Nat) (f : QDesc → QDesc) : (s.modQueue q f).poison = s.poison := rfl
@[simp] theorem State.modQueue_tags (q : Nat) (f : QDesc → QDesc) : (s.modQueue q f).tags = s.tags := rfl
@[simp] theorem State.modQueue_retired (q : Nat) (f : QDesc → QDesc) : (s.modQueue q f).retired = s.retired := rfl
@[simp] theorem State.modQueue_quarantined (q : Nat) (f : QDesc → QDesc) : (s.modQueue q f).quarantined = s.quarantined := rfl
@[simp] theorem State.modQueue_slices (q : Nat) (f : QDesc → QDesc) : (s.modQueue q f).slices = s.slices := rfl
@[simp] theorem State.modQueue_paused (q : Nat) (f : QDesc → QDesc) : (s.modQueue q f).paused = s.paused := rfl
@[simp] theorem State.modQueue_monitors (q : Nat) (f : QDesc → QDesc) : (s.modQueue q f).monitors = s.monitors := rfl
@[simp] theorem State.modQueue_replies (q : Nat) (f : QDesc → QDesc) : (s.modQueue q f).replies = s.replies := rfl
@[simp] theorem State.modQueue_faults (q : Nat) (f : QDesc → QDesc) : (s.modQueue q f).faults = s.faults := rfl
@[simp] theorem State.modQueue_gbt (q : Nat) (f : QDesc → QDesc) : (s.modQueue q f).gbt = s.gbt := rfl
@[simp] theorem State.modQueue_ctxs (q : Nat) (f : QDesc → QDesc) : (s.modQueue q f).ctxs = s.ctxs := rfl
@[simp] theorem State.modQueue_slots (q : Nat) (f : QDesc → QDesc) : (s.modQueue q f).slots = s.slots := rfl
@[simp] theorem State.modQueue_lidNext (q : Nat) (f : QDesc → QDesc) : (s.modQueue q f).lidNext = s.lidNext := rfl
@[simp] theorem State.modQueue_lodge (q : Nat) (f : QDesc → QDesc) : (s.modQueue q f).lodge = s.lodge := rfl
@[simp] theorem State.modQueue_rasRing (q : Nat) (f : QDesc → QDesc) : (s.modQueue q f).rasRing = s.rasRing := rfl
@[simp] theorem State.modQueue_rasSeq (q : Nat) (f : QDesc → QDesc) : (s.modQueue q f).rasSeq = s.rasSeq := rfl
@[simp] theorem State.modQueue_corrected (q : Nat) (f : QDesc → QDesc) : (s.modQueue q f).corrected = s.corrected := rfl
@[simp] theorem State.modQueue_domain (q : Nat) (f : QDesc → QDesc) : (s.modQueue q f).domain = s.domain := rfl
@[simp] theorem State.modQueue_admit (q : Nat) (f : QDesc → QDesc) : (s.modQueue q f).admitted = s.admitted := rfl
@[simp] theorem State.modQueue_portsDown (q : Nat) (f : QDesc → QDesc) : (s.modQueue q f).portsDown = s.portsDown := rfl
@[simp] theorem State.modQueue_late (q : Nat) (f : QDesc → QDesc) : (s.modQueue q f).late = s.late := rfl
@[simp] theorem State.modQueue_spares (q : Nat) (f : QDesc → QDesc) : (s.modQueue q f).spares = s.spares := rfl
@[simp] theorem State.modQueue_turns (q : Nat) (f : QDesc → QDesc) : (s.modQueue q f).turns = s.turns := rfl
@[simp] theorem State.modQueue_failing (q : Nat) (f : QDesc → QDesc) : (s.modQueue q f).failing = s.failing := rfl
@[simp] theorem State.modQueue_repairs (q : Nat) (f : QDesc → QDesc) : (s.modQueue q f).repairs = s.repairs := rfl
@[simp] theorem State.modQueue_ways (q : Nat) (f : QDesc → QDesc) : (s.modQueue q f).ways = s.ways := rfl
@[simp] theorem State.modQueue_struckWays (q : Nat) (f : QDesc → QDesc) : (s.modQueue q f).struckWays = s.struckWays := rfl
@[simp] theorem State.modQueue_evictFirst (q : Nat) (f : QDesc → QDesc) : (s.modQueue q f).evictFirst = s.evictFirst := rfl
@[simp] theorem State.modQueue_imageBase (q : Nat) (f : QDesc → QDesc) : (s.modQueue q f).imageBase = s.imageBase := rfl
@[simp] theorem State.modQueue_rcache (q : Nat) (f : QDesc → QDesc) : (s.modQueue q f).rcache = s.rcache := rfl
@[simp] theorem State.modQueue_fw (q : Nat) (f : QDesc → QDesc) : (s.modQueue q f).fw = s.fw := rfl
@[simp] theorem State.modQueue_parts (q : Nat) (f : QDesc → QDesc) : (s.modQueue q f).parts = s.parts := rfl
@[simp] theorem State.modQueue_units (q : Nat) (f : QDesc → QDesc) : (s.modQueue q f).units = s.units := rfl
@[simp] theorem State.modQueue_images (q : Nat) (f : QDesc → QDesc) : (s.modQueue q f).images = s.images := rfl
@[simp] theorem State.modQueue_ckpts (q : Nat) (f : QDesc → QDesc) : (s.modQueue q f).ckpts = s.ckpts := rfl
@[simp] theorem State.modQueue_codes (q : Nat) (f : QDesc → QDesc) : (s.modQueue q f).codes = s.codes := rfl
@[simp] theorem State.modQueue_reductions (q : Nat) (f : QDesc → QDesc) : (s.modQueue q f).reductions = s.reductions := rfl
@[simp] theorem State.modQueue_launches (q : Nat) (f : QDesc → QDesc) : (s.modQueue q f).launches = s.launches := rfl
@[simp] theorem State.modQueue_link (q : Nat) (f : QDesc → QDesc) : (s.modQueue q f).link = s.link := rfl
@[simp] theorem State.modQueue_cores (q : Nat) (f : QDesc → QDesc) : (s.modQueue q f).cores = s.cores := rfl
@[simp] theorem State.modQueue_wgs (q : Nat) (f : QDesc → QDesc) : (s.modQueue q f).wgs = s.wgs := rfl
@[simp] theorem State.modQueue_widNext (q : Nat) (f : QDesc → QDesc) : (s.modQueue q f).widNext = s.widNext := rfl

/-! ## modPart -/

@[simp] theorem State.modPart_ck (n : Nat) (f : Part → Part) : (s.modPart n f).ck = s.ck := rfl
@[simp] theorem State.modPart_ns (n : Nat) (f : Part → Part) : (s.modPart n f).ns = s.ns := rfl
@[simp] theorem State.modPart_agenda (n : Nat) (f : Part → Part) : (s.modPart n f).agenda = s.agenda := rfl
@[simp] theorem State.modPart_issue (n : Nat) (f : Part → Part) : (s.modPart n f).issue = s.issue := rfl
@[simp] theorem State.modPart_cur (n : Nat) (f : Part → Part) : (s.modPart n f).cur = s.cur := rfl
@[simp] theorem State.modPart_before (n : Nat) (f : Part → Part) : (s.modPart n f).before = s.before := rfl
@[simp] theorem State.modPart_due (n : Nat) (f : Part → Part) : (s.modPart n f).due = s.due := rfl
@[simp] theorem State.modPart_free (n : Nat) (f : Part → Part) : (s.modPart n f).free = s.free := rfl
@[simp] theorem State.modPart_mem (n : Nat) (f : Part → Part) : (s.modPart n f).mem = s.mem := rfl
@[simp] theorem State.modPart_poison (n : Nat) (f : Part → Part) : (s.modPart n f).poison = s.poison := rfl
@[simp] theorem State.modPart_tags (n : Nat) (f : Part → Part) : (s.modPart n f).tags = s.tags := rfl
@[simp] theorem State.modPart_retired (n : Nat) (f : Part → Part) : (s.modPart n f).retired = s.retired := rfl
@[simp] theorem State.modPart_quarantined (n : Nat) (f : Part → Part) : (s.modPart n f).quarantined = s.quarantined := rfl
@[simp] theorem State.modPart_slices (n : Nat) (f : Part → Part) : (s.modPart n f).slices = s.slices := rfl
@[simp] theorem State.modPart_paused (n : Nat) (f : Part → Part) : (s.modPart n f).paused = s.paused := rfl
@[simp] theorem State.modPart_monitors (n : Nat) (f : Part → Part) : (s.modPart n f).monitors = s.monitors := rfl
@[simp] theorem State.modPart_replies (n : Nat) (f : Part → Part) : (s.modPart n f).replies = s.replies := rfl
@[simp] theorem State.modPart_faults (n : Nat) (f : Part → Part) : (s.modPart n f).faults = s.faults := rfl
@[simp] theorem State.modPart_gbt (n : Nat) (f : Part → Part) : (s.modPart n f).gbt = s.gbt := rfl
@[simp] theorem State.modPart_queues (n : Nat) (f : Part → Part) : (s.modPart n f).queues = s.queues := rfl
@[simp] theorem State.modPart_ctxs (n : Nat) (f : Part → Part) : (s.modPart n f).ctxs = s.ctxs := rfl
@[simp] theorem State.modPart_slots (n : Nat) (f : Part → Part) : (s.modPart n f).slots = s.slots := rfl
@[simp] theorem State.modPart_lidNext (n : Nat) (f : Part → Part) : (s.modPart n f).lidNext = s.lidNext := rfl
@[simp] theorem State.modPart_lodge (n : Nat) (f : Part → Part) : (s.modPart n f).lodge = s.lodge := rfl
@[simp] theorem State.modPart_rasRing (n : Nat) (f : Part → Part) : (s.modPart n f).rasRing = s.rasRing := rfl
@[simp] theorem State.modPart_rasSeq (n : Nat) (f : Part → Part) : (s.modPart n f).rasSeq = s.rasSeq := rfl
@[simp] theorem State.modPart_corrected (n : Nat) (f : Part → Part) : (s.modPart n f).corrected = s.corrected := rfl
@[simp] theorem State.modPart_domain (n : Nat) (f : Part → Part) : (s.modPart n f).domain = s.domain := rfl
@[simp] theorem State.modPart_admit (n : Nat) (f : Part → Part) : (s.modPart n f).admitted = s.admitted := rfl
@[simp] theorem State.modPart_portsDown (n : Nat) (f : Part → Part) : (s.modPart n f).portsDown = s.portsDown := rfl
@[simp] theorem State.modPart_late (n : Nat) (f : Part → Part) : (s.modPart n f).late = s.late := rfl
@[simp] theorem State.modPart_spares (n : Nat) (f : Part → Part) : (s.modPart n f).spares = s.spares := rfl
@[simp] theorem State.modPart_turns (n : Nat) (f : Part → Part) : (s.modPart n f).turns = s.turns := rfl
@[simp] theorem State.modPart_failing (n : Nat) (f : Part → Part) : (s.modPart n f).failing = s.failing := rfl
@[simp] theorem State.modPart_repairs (n : Nat) (f : Part → Part) : (s.modPart n f).repairs = s.repairs := rfl
@[simp] theorem State.modPart_ways (n : Nat) (f : Part → Part) : (s.modPart n f).ways = s.ways := rfl
@[simp] theorem State.modPart_struckWays (n : Nat) (f : Part → Part) : (s.modPart n f).struckWays = s.struckWays := rfl
@[simp] theorem State.modPart_evictFirst (n : Nat) (f : Part → Part) : (s.modPart n f).evictFirst = s.evictFirst := rfl
@[simp] theorem State.modPart_imageBase (n : Nat) (f : Part → Part) : (s.modPart n f).imageBase = s.imageBase := rfl
@[simp] theorem State.modPart_rcache (n : Nat) (f : Part → Part) : (s.modPart n f).rcache = s.rcache := rfl
@[simp] theorem State.modPart_fw (n : Nat) (f : Part → Part) : (s.modPart n f).fw = s.fw := rfl
@[simp] theorem State.modPart_units (n : Nat) (f : Part → Part) : (s.modPart n f).units = s.units := rfl
@[simp] theorem State.modPart_images (n : Nat) (f : Part → Part) : (s.modPart n f).images = s.images := rfl
@[simp] theorem State.modPart_ckpts (n : Nat) (f : Part → Part) : (s.modPart n f).ckpts = s.ckpts := rfl
@[simp] theorem State.modPart_codes (n : Nat) (f : Part → Part) : (s.modPart n f).codes = s.codes := rfl
@[simp] theorem State.modPart_reductions (n : Nat) (f : Part → Part) : (s.modPart n f).reductions = s.reductions := rfl
@[simp] theorem State.modPart_launches (n : Nat) (f : Part → Part) : (s.modPart n f).launches = s.launches := rfl
@[simp] theorem State.modPart_link (n : Nat) (f : Part → Part) : (s.modPart n f).link = s.link := rfl
@[simp] theorem State.modPart_cores (n : Nat) (f : Part → Part) : (s.modPart n f).cores = s.cores := rfl
@[simp] theorem State.modPart_wgs (n : Nat) (f : Part → Part) : (s.modPart n f).wgs = s.wgs := rfl
@[simp] theorem State.modPart_widNext (n : Nat) (f : Part → Part) : (s.modPart n f).widNext = s.widNext := rfl

/-! ## spend -/

@[simp] theorem State.spend_ck (n : Nat) : (s.spend n).ck = s.ck := rfl
@[simp] theorem State.spend_ns (n : Nat) : (s.spend n).ns = s.ns := rfl
@[simp] theorem State.spend_agenda (n : Nat) : (s.spend n).agenda = s.agenda := rfl
@[simp] theorem State.spend_issue (n : Nat) : (s.spend n).issue = s.issue := rfl
@[simp] theorem State.spend_cur (n : Nat) : (s.spend n).cur = s.cur := rfl
@[simp] theorem State.spend_before (n : Nat) : (s.spend n).before = s.before := rfl
@[simp] theorem State.spend_due (n : Nat) : (s.spend n).due = s.due := rfl
@[simp] theorem State.spend_mem (n : Nat) : (s.spend n).mem = s.mem := rfl
@[simp] theorem State.spend_poison (n : Nat) : (s.spend n).poison = s.poison := rfl
@[simp] theorem State.spend_tags (n : Nat) : (s.spend n).tags = s.tags := rfl
@[simp] theorem State.spend_retired (n : Nat) : (s.spend n).retired = s.retired := rfl
@[simp] theorem State.spend_quarantined (n : Nat) : (s.spend n).quarantined = s.quarantined := rfl
@[simp] theorem State.spend_slices (n : Nat) : (s.spend n).slices = s.slices := rfl
@[simp] theorem State.spend_paused (n : Nat) : (s.spend n).paused = s.paused := rfl
@[simp] theorem State.spend_monitors (n : Nat) : (s.spend n).monitors = s.monitors := rfl
@[simp] theorem State.spend_replies (n : Nat) : (s.spend n).replies = s.replies := rfl
@[simp] theorem State.spend_faults (n : Nat) : (s.spend n).faults = s.faults := rfl
@[simp] theorem State.spend_gbt (n : Nat) : (s.spend n).gbt = s.gbt := rfl
@[simp] theorem State.spend_queues (n : Nat) : (s.spend n).queues = s.queues := rfl
@[simp] theorem State.spend_ctxs (n : Nat) : (s.spend n).ctxs = s.ctxs := rfl
@[simp] theorem State.spend_slots (n : Nat) : (s.spend n).slots = s.slots := rfl
@[simp] theorem State.spend_lidNext (n : Nat) : (s.spend n).lidNext = s.lidNext := rfl
@[simp] theorem State.spend_lodge (n : Nat) : (s.spend n).lodge = s.lodge := rfl
@[simp] theorem State.spend_rasRing (n : Nat) : (s.spend n).rasRing = s.rasRing := rfl
@[simp] theorem State.spend_rasSeq (n : Nat) : (s.spend n).rasSeq = s.rasSeq := rfl
@[simp] theorem State.spend_corrected (n : Nat) : (s.spend n).corrected = s.corrected := rfl
@[simp] theorem State.spend_domain (n : Nat) : (s.spend n).domain = s.domain := rfl
@[simp] theorem State.spend_admit (n : Nat) : (s.spend n).admitted = s.admitted := rfl
@[simp] theorem State.spend_portsDown (n : Nat) : (s.spend n).portsDown = s.portsDown := rfl
@[simp] theorem State.spend_late (n : Nat) : (s.spend n).late = s.late := rfl
@[simp] theorem State.spend_spares (n : Nat) : (s.spend n).spares = s.spares := rfl
@[simp] theorem State.spend_turns (n : Nat) : (s.spend n).turns = s.turns := rfl
@[simp] theorem State.spend_failing (n : Nat) : (s.spend n).failing = s.failing := rfl
@[simp] theorem State.spend_repairs (n : Nat) : (s.spend n).repairs = s.repairs := rfl
@[simp] theorem State.spend_ways (n : Nat) : (s.spend n).ways = s.ways := rfl
@[simp] theorem State.spend_struckWays (n : Nat) : (s.spend n).struckWays = s.struckWays := rfl
@[simp] theorem State.spend_evictFirst (n : Nat) : (s.spend n).evictFirst = s.evictFirst := rfl
@[simp] theorem State.spend_imageBase (n : Nat) : (s.spend n).imageBase = s.imageBase := rfl
@[simp] theorem State.spend_rcache (n : Nat) : (s.spend n).rcache = s.rcache := rfl
@[simp] theorem State.spend_fw (n : Nat) : (s.spend n).fw = s.fw := rfl
@[simp] theorem State.spend_parts (n : Nat) : (s.spend n).parts = s.parts := rfl
@[simp] theorem State.spend_units (n : Nat) : (s.spend n).units = s.units := rfl
@[simp] theorem State.spend_images (n : Nat) : (s.spend n).images = s.images := rfl
@[simp] theorem State.spend_ckpts (n : Nat) : (s.spend n).ckpts = s.ckpts := rfl
@[simp] theorem State.spend_codes (n : Nat) : (s.spend n).codes = s.codes := rfl
@[simp] theorem State.spend_reductions (n : Nat) : (s.spend n).reductions = s.reductions := rfl
@[simp] theorem State.spend_launches (n : Nat) : (s.spend n).launches = s.launches := rfl
@[simp] theorem State.spend_link (n : Nat) : (s.spend n).link = s.link := rfl
@[simp] theorem State.spend_cores (n : Nat) : (s.spend n).cores = s.cores := rfl
@[simp] theorem State.spend_wgs (n : Nat) : (s.spend n).wgs = s.wgs := rfl
@[simp] theorem State.spend_widNext (n : Nat) : (s.spend n).widNext = s.widNext := rfl

/-! ## raise -/

@[simp] theorem State.raise_ck (lid core rank sub : Nat) (rs : List TrapRec) : (s.raise lid core rank sub rs).ck = s.ck := rfl
@[simp] theorem State.raise_ns (lid core rank sub : Nat) (rs : List TrapRec) : (s.raise lid core rank sub rs).ns = s.ns := rfl
@[simp] theorem State.raise_agenda (lid core rank sub : Nat) (rs : List TrapRec) : (s.raise lid core rank sub rs).agenda = s.agenda := rfl
@[simp] theorem State.raise_issue (lid core rank sub : Nat) (rs : List TrapRec) : (s.raise lid core rank sub rs).issue = s.issue := rfl
@[simp] theorem State.raise_cur (lid core rank sub : Nat) (rs : List TrapRec) : (s.raise lid core rank sub rs).cur = s.cur := rfl
@[simp] theorem State.raise_before (lid core rank sub : Nat) (rs : List TrapRec) : (s.raise lid core rank sub rs).before = s.before := rfl
@[simp] theorem State.raise_due (lid core rank sub : Nat) (rs : List TrapRec) : (s.raise lid core rank sub rs).due = s.due := rfl
@[simp] theorem State.raise_free (lid core rank sub : Nat) (rs : List TrapRec) : (s.raise lid core rank sub rs).free = s.free := rfl
@[simp] theorem State.raise_mem (lid core rank sub : Nat) (rs : List TrapRec) : (s.raise lid core rank sub rs).mem = s.mem := rfl
@[simp] theorem State.raise_poison (lid core rank sub : Nat) (rs : List TrapRec) : (s.raise lid core rank sub rs).poison = s.poison := rfl
@[simp] theorem State.raise_tags (lid core rank sub : Nat) (rs : List TrapRec) : (s.raise lid core rank sub rs).tags = s.tags := rfl
@[simp] theorem State.raise_retired (lid core rank sub : Nat) (rs : List TrapRec) : (s.raise lid core rank sub rs).retired = s.retired := rfl
@[simp] theorem State.raise_quarantined (lid core rank sub : Nat) (rs : List TrapRec) : (s.raise lid core rank sub rs).quarantined = s.quarantined := rfl
@[simp] theorem State.raise_slices (lid core rank sub : Nat) (rs : List TrapRec) : (s.raise lid core rank sub rs).slices = s.slices := rfl
@[simp] theorem State.raise_paused (lid core rank sub : Nat) (rs : List TrapRec) : (s.raise lid core rank sub rs).paused = s.paused := rfl
@[simp] theorem State.raise_monitors (lid core rank sub : Nat) (rs : List TrapRec) : (s.raise lid core rank sub rs).monitors = s.monitors := rfl
@[simp] theorem State.raise_replies (lid core rank sub : Nat) (rs : List TrapRec) : (s.raise lid core rank sub rs).replies = s.replies := rfl
@[simp] theorem State.raise_faults (lid core rank sub : Nat) (rs : List TrapRec) : (s.raise lid core rank sub rs).faults = s.faults := rfl
@[simp] theorem State.raise_gbt (lid core rank sub : Nat) (rs : List TrapRec) : (s.raise lid core rank sub rs).gbt = s.gbt := rfl
@[simp] theorem State.raise_queues (lid core rank sub : Nat) (rs : List TrapRec) : (s.raise lid core rank sub rs).queues = s.queues := rfl
@[simp] theorem State.raise_ctxs (lid core rank sub : Nat) (rs : List TrapRec) : (s.raise lid core rank sub rs).ctxs = s.ctxs := rfl
@[simp] theorem State.raise_slots (lid core rank sub : Nat) (rs : List TrapRec) : (s.raise lid core rank sub rs).slots = s.slots := rfl
@[simp] theorem State.raise_lidNext (lid core rank sub : Nat) (rs : List TrapRec) : (s.raise lid core rank sub rs).lidNext = s.lidNext := rfl
@[simp] theorem State.raise_lodge (lid core rank sub : Nat) (rs : List TrapRec) : (s.raise lid core rank sub rs).lodge = s.lodge := rfl
@[simp] theorem State.raise_rasRing (lid core rank sub : Nat) (rs : List TrapRec) : (s.raise lid core rank sub rs).rasRing = s.rasRing := rfl
@[simp] theorem State.raise_rasSeq (lid core rank sub : Nat) (rs : List TrapRec) : (s.raise lid core rank sub rs).rasSeq = s.rasSeq := rfl
@[simp] theorem State.raise_corrected (lid core rank sub : Nat) (rs : List TrapRec) : (s.raise lid core rank sub rs).corrected = s.corrected := rfl
@[simp] theorem State.raise_domain (lid core rank sub : Nat) (rs : List TrapRec) : (s.raise lid core rank sub rs).domain = s.domain := rfl
@[simp] theorem State.raise_admit (lid core rank sub : Nat) (rs : List TrapRec) : (s.raise lid core rank sub rs).admitted = s.admitted := rfl
@[simp] theorem State.raise_portsDown (lid core rank sub : Nat) (rs : List TrapRec) : (s.raise lid core rank sub rs).portsDown = s.portsDown := rfl
@[simp] theorem State.raise_late (lid core rank sub : Nat) (rs : List TrapRec) : (s.raise lid core rank sub rs).late = s.late := rfl
@[simp] theorem State.raise_spares (lid core rank sub : Nat) (rs : List TrapRec) : (s.raise lid core rank sub rs).spares = s.spares := rfl
@[simp] theorem State.raise_turns (lid core rank sub : Nat) (rs : List TrapRec) : (s.raise lid core rank sub rs).turns = s.turns := rfl
@[simp] theorem State.raise_failing (lid core rank sub : Nat) (rs : List TrapRec) : (s.raise lid core rank sub rs).failing = s.failing := rfl
@[simp] theorem State.raise_repairs (lid core rank sub : Nat) (rs : List TrapRec) : (s.raise lid core rank sub rs).repairs = s.repairs := rfl
@[simp] theorem State.raise_ways (lid core rank sub : Nat) (rs : List TrapRec) : (s.raise lid core rank sub rs).ways = s.ways := rfl
@[simp] theorem State.raise_struckWays (lid core rank sub : Nat) (rs : List TrapRec) : (s.raise lid core rank sub rs).struckWays = s.struckWays := rfl
@[simp] theorem State.raise_evictFirst (lid core rank sub : Nat) (rs : List TrapRec) : (s.raise lid core rank sub rs).evictFirst = s.evictFirst := rfl
@[simp] theorem State.raise_imageBase (lid core rank sub : Nat) (rs : List TrapRec) : (s.raise lid core rank sub rs).imageBase = s.imageBase := rfl
@[simp] theorem State.raise_rcache (lid core rank sub : Nat) (rs : List TrapRec) : (s.raise lid core rank sub rs).rcache = s.rcache := rfl
@[simp] theorem State.raise_fw (lid core rank sub : Nat) (rs : List TrapRec) : (s.raise lid core rank sub rs).fw = s.fw := rfl
@[simp] theorem State.raise_parts (lid core rank sub : Nat) (rs : List TrapRec) : (s.raise lid core rank sub rs).parts = s.parts := rfl
@[simp] theorem State.raise_units (lid core rank sub : Nat) (rs : List TrapRec) : (s.raise lid core rank sub rs).units = s.units := rfl
@[simp] theorem State.raise_images (lid core rank sub : Nat) (rs : List TrapRec) : (s.raise lid core rank sub rs).images = s.images := rfl
@[simp] theorem State.raise_ckpts (lid core rank sub : Nat) (rs : List TrapRec) : (s.raise lid core rank sub rs).ckpts = s.ckpts := rfl
@[simp] theorem State.raise_codes (lid core rank sub : Nat) (rs : List TrapRec) : (s.raise lid core rank sub rs).codes = s.codes := rfl
@[simp] theorem State.raise_reductions (lid core rank sub : Nat) (rs : List TrapRec) : (s.raise lid core rank sub rs).reductions = s.reductions := rfl
@[simp] theorem State.raise_link (lid core rank sub : Nat) (rs : List TrapRec) : (s.raise lid core rank sub rs).link = s.link := rfl
@[simp] theorem State.raise_cores (lid core rank sub : Nat) (rs : List TrapRec) : (s.raise lid core rank sub rs).cores = s.cores := rfl
@[simp] theorem State.raise_wgs (lid core rank sub : Nat) (rs : List TrapRec) : (s.raise lid core rank sub rs).wgs = s.wgs := rfl
@[simp] theorem State.raise_widNext (lid core rank sub : Nat) (rs : List TrapRec) : (s.raise lid core rank sub rs).widNext = s.widNext := rfl

/-! ## writeM -/

/-- What a line's way into the last-level cache can move: the ways, the marks beside them, the tags and the free choices, as another state
has them. -/
abbrev State.cacheOf (s t : State) : State :=
  { s with ways := t.ways, struckWays := t.struckWays, evictFirst := t.evictFirst, free := t.free, tags := t.tags }

/-- Filling a line moves what belongs to the cache, and nothing else. -/
theorem State.fillLine_rest (line : Nat) : s.fillLine line = s.cacheOf (s.fillLine line) := by
  unfold State.fillLine
  dsimp only
  split
  · rfl
  · split <;> rfl

theorem State.fillLines_rest (ls : List Nat) : ls.foldl State.fillLine s = s.cacheOf (ls.foldl State.fillLine s) := by
  induction ls generalizing s with
  | nil => rfl
  | cons l ls ih => rw [List.foldl_cons, ih, s.fillLine_rest l]

/-- Fetching lines moves what belongs to the cache, and nothing else. -/
theorem State.fetchLine_rest (key line : Nat) : s.fetchLine key line = s.cacheOf (s.fetchLine key line) := by
  unfold State.fetchLine
  rw [s.fillLine_rest]

theorem State.fetchLines_rest (ps : List (Nat × Nat)) : s.fetchLines ps = s.cacheOf (s.fetchLines ps) := by
  unfold State.fetchLines
  generalize (ps.map fun p => (p.1 / 128, p.2)).dedup = ls
  induction ls generalizing s with
  | nil => rfl
  | cons l ls ih => rw [List.foldl_cons, ih, s.fetchLine_rest]

/-- A write at the home slices moves memory as `Mem.writeCells` says and what belongs to the last-level cache, and nothing else. -/
theorem State.writeM_rest (ctx key : Nat) (cs : List Host.Cell) :
    ∃ t, s.writeM ctx key cs = { s.cacheOf t with mem := s.mem.writeCells key cs } := by
  refine ⟨s.writeM ctx key cs, ?_⟩
  unfold State.writeM
  rw [s.fillLines_rest]

@[simp] theorem State.writeM_mem (ctx key : Nat) (cs : List Host.Cell) : (s.writeM ctx key cs).mem = s.mem.writeCells key cs := by
  obtain ⟨_, h⟩ := s.writeM_rest ctx key cs; rw [h]
@[simp] theorem State.writeM_ck (ctx key : Nat) (cs : List Host.Cell) : (s.writeM ctx key cs).ck = s.ck := by
  obtain ⟨_, h⟩ := s.writeM_rest ctx key cs; rw [h]
@[simp] theorem State.writeM_ns (ctx key : Nat) (cs : List Host.Cell) : (s.writeM ctx key cs).ns = s.ns := by
  obtain ⟨_, h⟩ := s.writeM_rest ctx key cs; rw [h]
@[simp] theorem State.writeM_agenda (ctx key : Nat) (cs : List Host.Cell) : (s.writeM ctx key cs).agenda = s.agenda := by
  obtain ⟨_, h⟩ := s.writeM_rest ctx key cs; rw [h]
@[simp] theorem State.writeM_issue (ctx key : Nat) (cs : List Host.Cell) : (s.writeM ctx key cs).issue = s.issue := by
  obtain ⟨_, h⟩ := s.writeM_rest ctx key cs; rw [h]
@[simp] theorem State.writeM_cur (ctx key : Nat) (cs : List Host.Cell) : (s.writeM ctx key cs).cur = s.cur := by
  obtain ⟨_, h⟩ := s.writeM_rest ctx key cs; rw [h]
@[simp] theorem State.writeM_before (ctx key : Nat) (cs : List Host.Cell) : (s.writeM ctx key cs).before = s.before := by
  obtain ⟨_, h⟩ := s.writeM_rest ctx key cs; rw [h]
@[simp] theorem State.writeM_due (ctx key : Nat) (cs : List Host.Cell) : (s.writeM ctx key cs).due = s.due := by
  obtain ⟨_, h⟩ := s.writeM_rest ctx key cs; rw [h]
@[simp] theorem State.writeM_poison (ctx key : Nat) (cs : List Host.Cell) : (s.writeM ctx key cs).poison = s.poison := by
  obtain ⟨_, h⟩ := s.writeM_rest ctx key cs; rw [h]
@[simp] theorem State.writeM_retired (ctx key : Nat) (cs : List Host.Cell) : (s.writeM ctx key cs).retired = s.retired := by
  obtain ⟨_, h⟩ := s.writeM_rest ctx key cs; rw [h]
@[simp] theorem State.writeM_quarantined (ctx key : Nat) (cs : List Host.Cell) : (s.writeM ctx key cs).quarantined = s.quarantined := by
  obtain ⟨_, h⟩ := s.writeM_rest ctx key cs; rw [h]
@[simp] theorem State.writeM_slices (ctx key : Nat) (cs : List Host.Cell) : (s.writeM ctx key cs).slices = s.slices := by
  obtain ⟨_, h⟩ := s.writeM_rest ctx key cs; rw [h]
@[simp] theorem State.writeM_paused (ctx key : Nat) (cs : List Host.Cell) : (s.writeM ctx key cs).paused = s.paused := by
  obtain ⟨_, h⟩ := s.writeM_rest ctx key cs; rw [h]
@[simp] theorem State.writeM_monitors (ctx key : Nat) (cs : List Host.Cell) : (s.writeM ctx key cs).monitors = s.monitors := by
  obtain ⟨_, h⟩ := s.writeM_rest ctx key cs; rw [h]
@[simp] theorem State.writeM_replies (ctx key : Nat) (cs : List Host.Cell) : (s.writeM ctx key cs).replies = s.replies := by
  obtain ⟨_, h⟩ := s.writeM_rest ctx key cs; rw [h]
@[simp] theorem State.writeM_faults (ctx key : Nat) (cs : List Host.Cell) : (s.writeM ctx key cs).faults = s.faults := by
  obtain ⟨_, h⟩ := s.writeM_rest ctx key cs; rw [h]
@[simp] theorem State.writeM_gbt (ctx key : Nat) (cs : List Host.Cell) : (s.writeM ctx key cs).gbt = s.gbt := by
  obtain ⟨_, h⟩ := s.writeM_rest ctx key cs; rw [h]
@[simp] theorem State.writeM_queues (ctx key : Nat) (cs : List Host.Cell) : (s.writeM ctx key cs).queues = s.queues := by
  obtain ⟨_, h⟩ := s.writeM_rest ctx key cs; rw [h]
@[simp] theorem State.writeM_ctxs (ctx key : Nat) (cs : List Host.Cell) : (s.writeM ctx key cs).ctxs = s.ctxs := by
  obtain ⟨_, h⟩ := s.writeM_rest ctx key cs; rw [h]
@[simp] theorem State.writeM_slots (ctx key : Nat) (cs : List Host.Cell) : (s.writeM ctx key cs).slots = s.slots := by
  obtain ⟨_, h⟩ := s.writeM_rest ctx key cs; rw [h]
@[simp] theorem State.writeM_lidNext (ctx key : Nat) (cs : List Host.Cell) : (s.writeM ctx key cs).lidNext = s.lidNext := by
  obtain ⟨_, h⟩ := s.writeM_rest ctx key cs; rw [h]
@[simp] theorem State.writeM_lodge (ctx key : Nat) (cs : List Host.Cell) : (s.writeM ctx key cs).lodge = s.lodge := by
  obtain ⟨_, h⟩ := s.writeM_rest ctx key cs; rw [h]
@[simp] theorem State.writeM_rasRing (ctx key : Nat) (cs : List Host.Cell) : (s.writeM ctx key cs).rasRing = s.rasRing := by
  obtain ⟨_, h⟩ := s.writeM_rest ctx key cs; rw [h]
@[simp] theorem State.writeM_rasSeq (ctx key : Nat) (cs : List Host.Cell) : (s.writeM ctx key cs).rasSeq = s.rasSeq := by
  obtain ⟨_, h⟩ := s.writeM_rest ctx key cs; rw [h]
@[simp] theorem State.writeM_corrected (ctx key : Nat) (cs : List Host.Cell) : (s.writeM ctx key cs).corrected = s.corrected := by
  obtain ⟨_, h⟩ := s.writeM_rest ctx key cs; rw [h]
@[simp] theorem State.writeM_domain (ctx key : Nat) (cs : List Host.Cell) : (s.writeM ctx key cs).domain = s.domain := by
  obtain ⟨_, h⟩ := s.writeM_rest ctx key cs; rw [h]
@[simp] theorem State.writeM_admit (ctx key : Nat) (cs : List Host.Cell) : (s.writeM ctx key cs).admitted = s.admitted := by
  obtain ⟨_, h⟩ := s.writeM_rest ctx key cs; rw [h]
@[simp] theorem State.writeM_portsDown (ctx key : Nat) (cs : List Host.Cell) : (s.writeM ctx key cs).portsDown = s.portsDown := by
  obtain ⟨_, h⟩ := s.writeM_rest ctx key cs; rw [h]
@[simp] theorem State.writeM_late (ctx key : Nat) (cs : List Host.Cell) : (s.writeM ctx key cs).late = s.late := by
  obtain ⟨_, h⟩ := s.writeM_rest ctx key cs; rw [h]
@[simp] theorem State.writeM_spares (ctx key : Nat) (cs : List Host.Cell) : (s.writeM ctx key cs).spares = s.spares := by
  obtain ⟨_, h⟩ := s.writeM_rest ctx key cs; rw [h]
@[simp] theorem State.writeM_turns (ctx key : Nat) (cs : List Host.Cell) : (s.writeM ctx key cs).turns = s.turns := by
  obtain ⟨_, h⟩ := s.writeM_rest ctx key cs; rw [h]
@[simp] theorem State.writeM_failing (ctx key : Nat) (cs : List Host.Cell) : (s.writeM ctx key cs).failing = s.failing := by
  obtain ⟨_, h⟩ := s.writeM_rest ctx key cs; rw [h]
@[simp] theorem State.writeM_repairs (ctx key : Nat) (cs : List Host.Cell) : (s.writeM ctx key cs).repairs = s.repairs := by
  obtain ⟨_, h⟩ := s.writeM_rest ctx key cs; rw [h]
@[simp] theorem State.writeM_rcache (ctx key : Nat) (cs : List Host.Cell) : (s.writeM ctx key cs).rcache = s.rcache := by
  obtain ⟨_, h⟩ := s.writeM_rest ctx key cs; rw [h]
@[simp] theorem State.writeM_fw (ctx key : Nat) (cs : List Host.Cell) : (s.writeM ctx key cs).fw = s.fw := by
  obtain ⟨_, h⟩ := s.writeM_rest ctx key cs; rw [h]
@[simp] theorem State.writeM_parts (ctx key : Nat) (cs : List Host.Cell) : (s.writeM ctx key cs).parts = s.parts := by
  obtain ⟨_, h⟩ := s.writeM_rest ctx key cs; rw [h]
@[simp] theorem State.writeM_units (ctx key : Nat) (cs : List Host.Cell) : (s.writeM ctx key cs).units = s.units := by
  obtain ⟨_, h⟩ := s.writeM_rest ctx key cs; rw [h]
@[simp] theorem State.writeM_imageBase (ctx key : Nat) (cs : List Host.Cell) : (s.writeM ctx key cs).imageBase = s.imageBase := by
  obtain ⟨_, h⟩ := s.writeM_rest ctx key cs; rw [h]
@[simp] theorem State.writeM_images (ctx key : Nat) (cs : List Host.Cell) : (s.writeM ctx key cs).images = s.images := by
  obtain ⟨_, h⟩ := s.writeM_rest ctx key cs; rw [h]
@[simp] theorem State.writeM_ckpts (ctx key : Nat) (cs : List Host.Cell) : (s.writeM ctx key cs).ckpts = s.ckpts := by
  obtain ⟨_, h⟩ := s.writeM_rest ctx key cs; rw [h]
@[simp] theorem State.writeM_codes (ctx key : Nat) (cs : List Host.Cell) : (s.writeM ctx key cs).codes = s.codes := by
  obtain ⟨_, h⟩ := s.writeM_rest ctx key cs; rw [h]
@[simp] theorem State.writeM_reductions (ctx key : Nat) (cs : List Host.Cell) : (s.writeM ctx key cs).reductions = s.reductions := by
  obtain ⟨_, h⟩ := s.writeM_rest ctx key cs; rw [h]
@[simp] theorem State.writeM_launches (ctx key : Nat) (cs : List Host.Cell) : (s.writeM ctx key cs).launches = s.launches := by
  obtain ⟨_, h⟩ := s.writeM_rest ctx key cs; rw [h]
@[simp] theorem State.writeM_link (ctx key : Nat) (cs : List Host.Cell) : (s.writeM ctx key cs).link = s.link := by
  obtain ⟨_, h⟩ := s.writeM_rest ctx key cs; rw [h]
@[simp] theorem State.writeM_cores (ctx key : Nat) (cs : List Host.Cell) : (s.writeM ctx key cs).cores = s.cores := by
  obtain ⟨_, h⟩ := s.writeM_rest ctx key cs; rw [h]
@[simp] theorem State.writeM_wgs (ctx key : Nat) (cs : List Host.Cell) : (s.writeM ctx key cs).wgs = s.wgs := by
  obtain ⟨_, h⟩ := s.writeM_rest ctx key cs; rw [h]
@[simp] theorem State.writeM_widNext (ctx key : Nat) (cs : List Host.Cell) : (s.writeM ctx key cs).widNext = s.widNext := by
  obtain ⟨_, h⟩ := s.writeM_rest ctx key cs; rw [h]

/-! ## modCore -/

@[simp] theorem State.modCore_ck (key : Nat) (f : LCore → LCore) : (s.modCore key f).ck = s.ck := by unfold State.modCore; split <;> rfl
@[simp] theorem State.modCore_ns (key : Nat) (f : LCore → LCore) : (s.modCore key f).ns = s.ns := by unfold State.modCore; split <;> rfl
@[simp] theorem State.modCore_agenda (key : Nat) (f : LCore → LCore) : (s.modCore key f).agenda = s.agenda := by unfold State.modCore; split <;> rfl
@[simp] theorem State.modCore_issue (key : Nat) (f : LCore → LCore) : (s.modCore key f).issue = s.issue := by unfold State.modCore; split <;> rfl
@[simp] theorem State.modCore_cur (key : Nat) (f : LCore → LCore) : (s.modCore key f).cur = s.cur := by unfold State.modCore; split <;> rfl
@[simp] theorem State.modCore_before (key : Nat) (f : LCore → LCore) : (s.modCore key f).before = s.before := by unfold State.modCore; split <;> rfl
@[simp] theorem State.modCore_due (key : Nat) (f : LCore → LCore) : (s.modCore key f).due = s.due := by unfold State.modCore; split <;> rfl
@[simp] theorem State.modCore_free (key : Nat) (f : LCore → LCore) : (s.modCore key f).free = s.free := by unfold State.modCore; split <;> rfl
@[simp] theorem State.modCore_mem (key : Nat) (f : LCore → LCore) : (s.modCore key f).mem = s.mem := by unfold State.modCore; split <;> rfl
@[simp] theorem State.modCore_poison (key : Nat) (f : LCore → LCore) : (s.modCore key f).poison = s.poison := by unfold State.modCore; split <;> rfl
@[simp] theorem State.modCore_tags (key : Nat) (f : LCore → LCore) : (s.modCore key f).tags = s.tags := by unfold State.modCore; split <;> rfl
@[simp] theorem State.modCore_retired (key : Nat) (f : LCore → LCore) : (s.modCore key f).retired = s.retired := by unfold State.modCore; split <;> rfl
@[simp] theorem State.modCore_quarantined (key : Nat) (f : LCore → LCore) : (s.modCore key f).quarantined = s.quarantined := by unfold State.modCore; split <;> rfl
@[simp] theorem State.modCore_slices (key : Nat) (f : LCore → LCore) : (s.modCore key f).slices = s.slices := by unfold State.modCore; split <;> rfl
@[simp] theorem State.modCore_paused (key : Nat) (f : LCore → LCore) : (s.modCore key f).paused = s.paused := by unfold State.modCore; split <;> rfl
@[simp] theorem State.modCore_monitors (key : Nat) (f : LCore → LCore) : (s.modCore key f).monitors = s.monitors := by unfold State.modCore; split <;> rfl
@[simp] theorem State.modCore_replies (key : Nat) (f : LCore → LCore) : (s.modCore key f).replies = s.replies := by unfold State.modCore; split <;> rfl
@[simp] theorem State.modCore_faults (key : Nat) (f : LCore → LCore) : (s.modCore key f).faults = s.faults := by unfold State.modCore; split <;> rfl
@[simp] theorem State.modCore_gbt (key : Nat) (f : LCore → LCore) : (s.modCore key f).gbt = s.gbt := by unfold State.modCore; split <;> rfl
@[simp] theorem State.modCore_queues (key : Nat) (f : LCore → LCore) : (s.modCore key f).queues = s.queues := by unfold State.modCore; split <;> rfl
@[simp] theorem State.modCore_ctxs (key : Nat) (f : LCore → LCore) : (s.modCore key f).ctxs = s.ctxs := by unfold State.modCore; split <;> rfl
@[simp] theorem State.modCore_slots (key : Nat) (f : LCore → LCore) : (s.modCore key f).slots = s.slots := by unfold State.modCore; split <;> rfl
@[simp] theorem State.modCore_lidNext (key : Nat) (f : LCore → LCore) : (s.modCore key f).lidNext = s.lidNext := by unfold State.modCore; split <;> rfl
@[simp] theorem State.modCore_lodge (key : Nat) (f : LCore → LCore) : (s.modCore key f).lodge = s.lodge := by unfold State.modCore; split <;> rfl
@[simp] theorem State.modCore_rasRing (key : Nat) (f : LCore → LCore) : (s.modCore key f).rasRing = s.rasRing := by unfold State.modCore; split <;> rfl
@[simp] theorem State.modCore_rasSeq (key : Nat) (f : LCore → LCore) : (s.modCore key f).rasSeq = s.rasSeq := by unfold State.modCore; split <;> rfl
@[simp] theorem State.modCore_corrected (key : Nat) (f : LCore → LCore) : (s.modCore key f).corrected = s.corrected := by unfold State.modCore; split <;> rfl
@[simp] theorem State.modCore_domain (key : Nat) (f : LCore → LCore) : (s.modCore key f).domain = s.domain := by unfold State.modCore; split <;> rfl
@[simp] theorem State.modCore_admit (key : Nat) (f : LCore → LCore) : (s.modCore key f).admitted = s.admitted := by unfold State.modCore; split <;> rfl
@[simp] theorem State.modCore_portsDown (key : Nat) (f : LCore → LCore) : (s.modCore key f).portsDown = s.portsDown := by unfold State.modCore; split <;> rfl
@[simp] theorem State.modCore_late (key : Nat) (f : LCore → LCore) : (s.modCore key f).late = s.late := by unfold State.modCore; split <;> rfl
@[simp] theorem State.modCore_spares (key : Nat) (f : LCore → LCore) : (s.modCore key f).spares = s.spares := by unfold State.modCore; split <;> rfl
@[simp] theorem State.modCore_turns (key : Nat) (f : LCore → LCore) : (s.modCore key f).turns = s.turns := by unfold State.modCore; split <;> rfl
@[simp] theorem State.modCore_failing (key : Nat) (f : LCore → LCore) : (s.modCore key f).failing = s.failing := by unfold State.modCore; split <;> rfl
@[simp] theorem State.modCore_repairs (key : Nat) (f : LCore → LCore) : (s.modCore key f).repairs = s.repairs := by unfold State.modCore; split <;> rfl
@[simp] theorem State.modCore_ways (key : Nat) (f : LCore → LCore) : (s.modCore key f).ways = s.ways := by unfold State.modCore; split <;> rfl
@[simp] theorem State.modCore_struckWays (key : Nat) (f : LCore → LCore) : (s.modCore key f).struckWays = s.struckWays := by unfold State.modCore; split <;> rfl
@[simp] theorem State.modCore_evictFirst (key : Nat) (f : LCore → LCore) : (s.modCore key f).evictFirst = s.evictFirst := by unfold State.modCore; split <;> rfl
@[simp] theorem State.modCore_imageBase (key : Nat) (f : LCore → LCore) : (s.modCore key f).imageBase = s.imageBase := by unfold State.modCore; split <;> rfl
@[simp] theorem State.modCore_rcache (key : Nat) (f : LCore → LCore) : (s.modCore key f).rcache = s.rcache := by unfold State.modCore; split <;> rfl
@[simp] theorem State.modCore_fw (key : Nat) (f : LCore → LCore) : (s.modCore key f).fw = s.fw := by unfold State.modCore; split <;> rfl
@[simp] theorem State.modCore_parts (key : Nat) (f : LCore → LCore) : (s.modCore key f).parts = s.parts := by unfold State.modCore; split <;> rfl
@[simp] theorem State.modCore_units (key : Nat) (f : LCore → LCore) : (s.modCore key f).units = s.units := by unfold State.modCore; split <;> rfl
@[simp] theorem State.modCore_images (key : Nat) (f : LCore → LCore) : (s.modCore key f).images = s.images := by unfold State.modCore; split <;> rfl
@[simp] theorem State.modCore_ckpts (key : Nat) (f : LCore → LCore) : (s.modCore key f).ckpts = s.ckpts := by unfold State.modCore; split <;> rfl
@[simp] theorem State.modCore_codes (key : Nat) (f : LCore → LCore) : (s.modCore key f).codes = s.codes := by unfold State.modCore; split <;> rfl
@[simp] theorem State.modCore_reductions (key : Nat) (f : LCore → LCore) : (s.modCore key f).reductions = s.reductions := by unfold State.modCore; split <;> rfl
@[simp] theorem State.modCore_launches (key : Nat) (f : LCore → LCore) : (s.modCore key f).launches = s.launches := by unfold State.modCore; split <;> rfl
@[simp] theorem State.modCore_link (key : Nat) (f : LCore → LCore) : (s.modCore key f).link = s.link := by unfold State.modCore; split <;> rfl
@[simp] theorem State.modCore_wgs (key : Nat) (f : LCore → LCore) : (s.modCore key f).wgs = s.wgs := by unfold State.modCore; split <;> rfl
@[simp] theorem State.modCore_widNext (key : Nat) (f : LCore → LCore) : (s.modCore key f).widNext = s.widNext := by unfold State.modCore; split <;> rfl

/-! ## owe -/

/-- Owing a test moves the tests of this ck or of the next, and nothing else. -/
theorem State.owe_rest (d : Due) : ∃ due late, s.owe d = { s with due := due, late := late } := by
  unfold State.owe
  split
  · split
    · exact ⟨s.due, s.late, rfl⟩
    · exact ⟨s.due, _, rfl⟩
  · split
    · exact ⟨s.due, s.late, rfl⟩
    · exact ⟨_, s.late, rfl⟩

@[simp] theorem State.owe_ck (d : Due) : (s.owe d).ck = s.ck := by
  obtain ⟨_, _, h⟩ := s.owe_rest d; rw [h]
@[simp] theorem State.owe_ns (d : Due) : (s.owe d).ns = s.ns := by
  obtain ⟨_, _, h⟩ := s.owe_rest d; rw [h]
@[simp] theorem State.owe_agenda (d : Due) : (s.owe d).agenda = s.agenda := by
  obtain ⟨_, _, h⟩ := s.owe_rest d; rw [h]
@[simp] theorem State.owe_issue (d : Due) : (s.owe d).issue = s.issue := by
  obtain ⟨_, _, h⟩ := s.owe_rest d; rw [h]
@[simp] theorem State.owe_cur (d : Due) : (s.owe d).cur = s.cur := by
  obtain ⟨_, _, h⟩ := s.owe_rest d; rw [h]
@[simp] theorem State.owe_before (d : Due) : (s.owe d).before = s.before := by
  obtain ⟨_, _, h⟩ := s.owe_rest d; rw [h]
@[simp] theorem State.owe_free (d : Due) : (s.owe d).free = s.free := by
  obtain ⟨_, _, h⟩ := s.owe_rest d; rw [h]
@[simp] theorem State.owe_mem (d : Due) : (s.owe d).mem = s.mem := by
  obtain ⟨_, _, h⟩ := s.owe_rest d; rw [h]
@[simp] theorem State.owe_poison (d : Due) : (s.owe d).poison = s.poison := by
  obtain ⟨_, _, h⟩ := s.owe_rest d; rw [h]
@[simp] theorem State.owe_tags (d : Due) : (s.owe d).tags = s.tags := by
  obtain ⟨_, _, h⟩ := s.owe_rest d; rw [h]
@[simp] theorem State.owe_retired (d : Due) : (s.owe d).retired = s.retired := by
  obtain ⟨_, _, h⟩ := s.owe_rest d; rw [h]
@[simp] theorem State.owe_quarantined (d : Due) : (s.owe d).quarantined = s.quarantined := by
  obtain ⟨_, _, h⟩ := s.owe_rest d; rw [h]
@[simp] theorem State.owe_slices (d : Due) : (s.owe d).slices = s.slices := by
  obtain ⟨_, _, h⟩ := s.owe_rest d; rw [h]
@[simp] theorem State.owe_paused (d : Due) : (s.owe d).paused = s.paused := by
  obtain ⟨_, _, h⟩ := s.owe_rest d; rw [h]
@[simp] theorem State.owe_monitors (d : Due) : (s.owe d).monitors = s.monitors := by
  obtain ⟨_, _, h⟩ := s.owe_rest d; rw [h]
@[simp] theorem State.owe_replies (d : Due) : (s.owe d).replies = s.replies := by
  obtain ⟨_, _, h⟩ := s.owe_rest d; rw [h]
@[simp] theorem State.owe_faults (d : Due) : (s.owe d).faults = s.faults := by
  obtain ⟨_, _, h⟩ := s.owe_rest d; rw [h]
@[simp] theorem State.owe_gbt (d : Due) : (s.owe d).gbt = s.gbt := by
  obtain ⟨_, _, h⟩ := s.owe_rest d; rw [h]
@[simp] theorem State.owe_queues (d : Due) : (s.owe d).queues = s.queues := by
  obtain ⟨_, _, h⟩ := s.owe_rest d; rw [h]
@[simp] theorem State.owe_ctxs (d : Due) : (s.owe d).ctxs = s.ctxs := by
  obtain ⟨_, _, h⟩ := s.owe_rest d; rw [h]
@[simp] theorem State.owe_slots (d : Due) : (s.owe d).slots = s.slots := by
  obtain ⟨_, _, h⟩ := s.owe_rest d; rw [h]
@[simp] theorem State.owe_lidNext (d : Due) : (s.owe d).lidNext = s.lidNext := by
  obtain ⟨_, _, h⟩ := s.owe_rest d; rw [h]
@[simp] theorem State.owe_lodge (d : Due) : (s.owe d).lodge = s.lodge := by
  obtain ⟨_, _, h⟩ := s.owe_rest d; rw [h]
@[simp] theorem State.owe_rasRing (d : Due) : (s.owe d).rasRing = s.rasRing := by
  obtain ⟨_, _, h⟩ := s.owe_rest d; rw [h]
@[simp] theorem State.owe_rasSeq (d : Due) : (s.owe d).rasSeq = s.rasSeq := by
  obtain ⟨_, _, h⟩ := s.owe_rest d; rw [h]
@[simp] theorem State.owe_corrected (d : Due) : (s.owe d).corrected = s.corrected := by
  obtain ⟨_, _, h⟩ := s.owe_rest d; rw [h]
@[simp] theorem State.owe_domain (d : Due) : (s.owe d).domain = s.domain := by
  obtain ⟨_, _, h⟩ := s.owe_rest d; rw [h]
@[simp] theorem State.owe_admit (d : Due) : (s.owe d).admitted = s.admitted := by
  obtain ⟨_, _, h⟩ := s.owe_rest d; rw [h]
@[simp] theorem State.owe_portsDown (d : Due) : (s.owe d).portsDown = s.portsDown := by
  obtain ⟨_, _, h⟩ := s.owe_rest d; rw [h]
@[simp] theorem State.owe_spares (d : Due) : (s.owe d).spares = s.spares := by
  obtain ⟨_, _, h⟩ := s.owe_rest d; rw [h]
@[simp] theorem State.owe_turns (d : Due) : (s.owe d).turns = s.turns := by
  obtain ⟨_, _, h⟩ := s.owe_rest d; rw [h]
@[simp] theorem State.owe_failing (d : Due) : (s.owe d).failing = s.failing := by
  obtain ⟨_, _, h⟩ := s.owe_rest d; rw [h]
@[simp] theorem State.owe_repairs (d : Due) : (s.owe d).repairs = s.repairs := by
  obtain ⟨_, _, h⟩ := s.owe_rest d; rw [h]
@[simp] theorem State.owe_ways (d : Due) : (s.owe d).ways = s.ways := by
  obtain ⟨_, _, h⟩ := s.owe_rest d; rw [h]
@[simp] theorem State.owe_struckWays (d : Due) : (s.owe d).struckWays = s.struckWays := by
  obtain ⟨_, _, h⟩ := s.owe_rest d; rw [h]
@[simp] theorem State.owe_evictFirst (d : Due) : (s.owe d).evictFirst = s.evictFirst := by
  obtain ⟨_, _, h⟩ := s.owe_rest d; rw [h]
@[simp] theorem State.owe_imageBase (d : Due) : (s.owe d).imageBase = s.imageBase := by
  obtain ⟨_, _, h⟩ := s.owe_rest d; rw [h]
@[simp] theorem State.owe_rcache (d : Due) : (s.owe d).rcache = s.rcache := by
  obtain ⟨_, _, h⟩ := s.owe_rest d; rw [h]
@[simp] theorem State.owe_fw (d : Due) : (s.owe d).fw = s.fw := by
  obtain ⟨_, _, h⟩ := s.owe_rest d; rw [h]
@[simp] theorem State.owe_parts (d : Due) : (s.owe d).parts = s.parts := by
  obtain ⟨_, _, h⟩ := s.owe_rest d; rw [h]
@[simp] theorem State.owe_units (d : Due) : (s.owe d).units = s.units := by
  obtain ⟨_, _, h⟩ := s.owe_rest d; rw [h]
@[simp] theorem State.owe_images (d : Due) : (s.owe d).images = s.images := by
  obtain ⟨_, _, h⟩ := s.owe_rest d; rw [h]
@[simp] theorem State.owe_ckpts (d : Due) : (s.owe d).ckpts = s.ckpts := by
  obtain ⟨_, _, h⟩ := s.owe_rest d; rw [h]
@[simp] theorem State.owe_codes (d : Due) : (s.owe d).codes = s.codes := by
  obtain ⟨_, _, h⟩ := s.owe_rest d; rw [h]
@[simp] theorem State.owe_reductions (d : Due) : (s.owe d).reductions = s.reductions := by
  obtain ⟨_, _, h⟩ := s.owe_rest d; rw [h]
@[simp] theorem State.owe_launches (d : Due) : (s.owe d).launches = s.launches := by
  obtain ⟨_, _, h⟩ := s.owe_rest d; rw [h]
@[simp] theorem State.owe_link (d : Due) : (s.owe d).link = s.link := by
  obtain ⟨_, _, h⟩ := s.owe_rest d; rw [h]
@[simp] theorem State.owe_cores (d : Due) : (s.owe d).cores = s.cores := by
  obtain ⟨_, _, h⟩ := s.owe_rest d; rw [h]
@[simp] theorem State.owe_wgs (d : Due) : (s.owe d).wgs = s.wgs := by
  obtain ⟨_, _, h⟩ := s.owe_rest d; rw [h]
@[simp] theorem State.owe_widNext (d : Due) : (s.owe d).widNext = s.widNext := by
  obtain ⟨_, _, h⟩ := s.owe_rest d; rw [h]

end Sys2Proof.Machine
end

