-- ==== Sys2Proof/Laws/Memory.lean ====
section
/-! SUPPORT. Memory at the home slices: each operation keeps its canonical form, and what a byte written reads as. -/

namespace Sys2Proof.Machine

/-! ## The canonical form -/

theorem Mem.wf_iff (m : Mem) : m.wf = true ↔ SMap.wf unlisted m.bytes = true ∧ SMap.wf .none m.keys = true := by
  simp [Mem.wf]

theorem Mem.rekey_wf {m : Mem} (h : m.wf = true) (key line : Nat) : (m.rekey key line).wf = true := by
  obtain ⟨hb, hk⟩ := m.wf_iff.1 h
  unfold Mem.rekey
  dsimp only
  split
  · exact h
  · split
    · exact (Mem.wf_iff _).2 ⟨hb, SMap.wf_put LineKey.none m.keys line _ hk⟩
    · generalize m.readN key (line * 128) 128 = xs
      exact (Mem.wf_iff _).2 ⟨SMap.wf_putAll unlisted xs m.bytes (line * 128) hb, SMap.wf_put LineKey.none m.keys line _ hk⟩

theorem Mem.write_wf {m : Mem} (h : m.wf = true) (key pa : Nat) (b : Byte) : (m.write key pa b).wf = true := by
  obtain ⟨hb, hk⟩ := (Mem.wf_iff _).1 (Mem.rekey_wf h key (pa / 128))
  exact (Mem.wf_iff _).2 ⟨SMap.wf_put unlisted _ _ _ hb, hk⟩

theorem Mem.writeCells_wf {m : Mem} (h : m.wf = true) (key : Nat) (cs : List Host.Cell) : (m.writeCells key cs).wf = true := by
  induction cs generalizing m with
  | nil => exact h
  | cons c cs ih => exact ih (Mem.write_wf h key c.1 c.2)

theorem State.writeM_wf {s : State} (h : s.memWf) (ctx key : Nat) (cs : List Host.Cell) : (s.writeM ctx key cs).memWf := by
  unfold State.memWf; rw [State.writeM_mem]; exact Mem.writeCells_wf h key cs

theorem State.setDgen_wf {s : State} (h : s.memWf) (ctx : Nat) (t : Trans) : (s.setDgen ctx t).memWf := by
  unfold State.setDgen
  dsimp only
  split
  · exact h
  · obtain ⟨hb, hk⟩ := (Mem.wf_iff _).1 h
    exact (Mem.wf_iff _).2 ⟨SMap.wf_put unlisted _ _ _ hb, hk⟩

theorem State.outside_wf {s : State} (h : s.memWf) (e : Nat × List Byte) : (s.outside e).memWf := by
  unfold State.outside
  split
  · obtain ⟨hb, hk⟩ := (Mem.wf_iff _).1 h
    exact (Mem.wf_iff _).2 ⟨SMap.wf_putAll unlisted _ _ _ hb, hk⟩
  · exact h

theorem State.tick_mem (s : State) (dck dns : Nat) : (s.tick dck dns).mem = s.mem := by
  have hm : ∀ (t : State) (lid : Nat), (t.moveFrontier lid).mem = t.mem := by
    intro t lid
    unfold State.moveFrontier
    repeat' (first | rfl | split)
  have hf : ∀ (ls : List Nat) (t : State), (ls.foldl State.moveFrontier t).mem = t.mem := by
    intro ls
    induction ls with
    | nil => intro t; rfl
    | cons l ls ih => intro t; exact (ih _).trans (hm t l)
  unfold State.tick
  dsimp only
  split
  · rfl
  · exact hf _ _

theorem State.reach_wf {s : State} (h : s.memWf) (q : Cue) : (s.reach q).memWf := by
  have hf : ∀ (es : List (Nat × List Byte)) (t : State), t.memWf → (es.foldl State.outside t).memWf := by
    intro es
    induction es with
    | nil => intro t ht; exact ht
    | cons e es ih => intro t ht; exact ih _ (State.outside_wf ht e)
  exact hf _ _ (by unfold State.memWf; rw [State.tick_mem]; exact h)

theorem State.reset_memWf : State.reset.memWf := rfl

/-! ## Reading what was written -/

theorem Mem.rekey_raw (m : Mem) (key line pa : Nat) (h : pa / 128 ≠ line) :
    SMap.get unlisted (m.rekey key line).bytes pa = SMap.get unlisted m.bytes pa := by
  have hn : ∀ n a, (m.readN key a n).length = n := by
    intro n
    induction n with
    | zero => intro a; rfl
    | succ n ih => intro a; simp [Mem.readN, ih]
  unfold Mem.rekey
  dsimp only
  split
  · rfl
  · split
    · rfl
    · rw [SMap.get_putAll]
      split
      · rw [List.getElem?_eq_none]
        · rfl
        · rw [hn]; omega
      · rfl

/-- A byte that is written holds what was written, as M holds it. -/
theorem Mem.write_raw_same (m : Mem) (key pa : Nat) (b : Byte) : SMap.get unlisted (m.write key pa b).bytes pa = b :=
  SMap.get_put_same _ _ _ _

/-- A byte of another line is unchanged by a write, as M holds it. -/
theorem Mem.write_raw_other (m : Mem) (key pa : Nat) (b : Byte) {a : Nat} (h : a / 128 ≠ pa / 128) :
    SMap.get unlisted (m.write key pa b).bytes a = SMap.get unlisted m.bytes a := by
  have hne : a ≠ pa := fun e => h (by rw [e])
  unfold Mem.write
  dsimp only
  rw [SMap.get_put_other _ _ _ hne]
  exact Mem.rekey_raw m key (pa / 128) a h

end Sys2Proof.Machine
end

