-- ==== Sys2Proof/Laws/Parts.lean ====
section
/-! SUPPORT. Looking up a part of the state after an update of a part: workgroups, groups, threads, logical cores, contexts, queues,
partitions and launches. -/

namespace Sys2Proof.Machine

/-! ## Lists looked up by a number -/

theorem find?_map_key {α : Type} (key : α → Nat) (f : α → α) (hf : ∀ a, key (f a) = key a) (k j : Nat) (l : List α) :
    (l.map (fun a => if key a = k then f a else a)).find? (fun a => key a == j)
      = (l.find? (fun a => key a == j)).map (fun a => if key a = k then f a else a) := by
  induction l with
  | nil => rfl
  | cons a l ih =>
    have hk : key (if key a = k then f a else a) = key a := by split <;> simp [hf]
    simp only [List.map_cons, List.find?_cons, hk]
    split
    · rfl
    · exact ih

/-! ## Workgroups -/

theorem State.wg?_wid {s : State} {wid : Nat} {w : WG} (h : s.wg? wid = some w) : w.wid = wid := by
  have := List.find?_some h
  simpa using this

theorem State.wg?_modWG (s : State) (wid j : Nat) (f : WG → WG) (hf : ∀ w, (f w).wid = w.wid) :
    (s.modWG wid f).wg? j = (s.wg? j).map (fun w => if w.wid = wid then f w else w) :=
  find?_map_key WG.wid f hf wid j s.wgs

theorem State.wg?_modWG_same (s : State) (wid : Nat) (f : WG → WG) (hf : ∀ w, (f w).wid = w.wid) {w : WG}
    (h : s.wg? wid = some w) : (s.modWG wid f).wg? wid = some (f w) := by
  rw [State.wg?_modWG s wid wid f hf, h]
  simp [State.wg?_wid h]

theorem State.wg?_modWG_other (s : State) {wid j : Nat} (f : WG → WG) (hf : ∀ w, (f w).wid = w.wid) (hj : j ≠ wid) :
    (s.modWG wid f).wg? j = s.wg? j := by
  rw [State.wg?_modWG s wid j f hf]
  cases h : s.wg? j with
  | none => rfl
  | some w => simp [State.wg?_wid h, hj]

@[simp] theorem State.wg?_modCore (s : State) (k j : Nat) (f : LCore → LCore) : (s.modCore k f).wg? j = s.wg? j := by
  simp [State.wg?]

/-! ## Groups and threads -/

theorem WG.group?_gid {w : WG} {gid : Nat} {g : Group} (h : w.group? gid = some g) : g.gid = gid := by
  have := List.find?_some h
  simpa using this

theorem WG.group?_modGroup (w : WG) (gid j : Nat) (f : Group → Group) (hf : ∀ g, (f g).gid = g.gid) :
    (w.modGroup gid f).group? j = (w.group? j).map (fun g => if g.gid = gid then f g else g) :=
  find?_map_key Group.gid f hf gid j w.groups

theorem WG.group?_modGroup_same (w : WG) (gid : Nat) (f : Group → Group) (hf : ∀ g, (f g).gid = g.gid) {g : Group}
    (h : w.group? gid = some g) : (w.modGroup gid f).group? gid = some (f g) := by
  rw [WG.group?_modGroup w gid gid f hf, h]
  simp [WG.group?_gid h]

theorem WG.group?_modGroup_other (w : WG) {gid j : Nat} (f : Group → Group) (hf : ∀ g, (f g).gid = g.gid) (hj : j ≠ gid) :
    (w.modGroup gid f).group? j = w.group? j := by
  rw [WG.group?_modGroup w gid j f hf]
  cases h : w.group? j with
  | none => rfl
  | some g => simp [WG.group?_gid h, hj]

theorem WG.threads_modThreads (w : WG) (f : Nat → Thread → Thread) (i : Nat) :
    (w.modThreads f).threads[i]? = (w.threads[i]?).map (f i) := by
  simp [WG.modThreads]

/-! ## Logical cores -/

theorem State.core_key (s : State) (k : Nat) : (s.core k).key = k := by
  unfold State.core
  cases h : s.cores.find? (fun c => c.key == k) with
  | none => rfl
  | some c => simpa using List.find?_some h

theorem State.core_modCore (s : State) (k j : Nat) (f : LCore → LCore) (hf : ∀ c, (f c).key = c.key) :
    (s.modCore k f).core j = if j = k then f (s.core k) else s.core j := by
  unfold State.modCore
  split
  · next h =>
    have hm := find?_map_key LCore.key f hf k j s.cores
    simp only [State.core]
    rw [hm]
    by_cases hj : j = k
    · subst hj
      simp only [if_true]
      cases hc : s.cores.find? (fun c => c.key == j) with
      | none => simp [List.find?_eq_none] at hc; simp at h; obtain ⟨c, hc1, hc2⟩ := h; exact absurd hc2 (hc c hc1)
      | some c =>
        have : c.key = j := by simpa using List.find?_some hc
        simp [this]
    · simp only [hj, if_false]
      cases hc : s.cores.find? (fun c => c.key == j) with
      | none => rfl
      | some c =>
        have : c.key = j := by simpa using List.find?_some hc
        simp [this, hj]
  · next h =>
    simp only [State.core, List.find?_append]
    by_cases hj : j = k
    · subst hj
      have hc : s.cores.find? (fun c => c.key == j) = none := by
        rw [List.find?_eq_none]; intro c hc; simp at h ⊢; exact h c hc
      have hk : (f (LCore.fresh j)).key = j := by rw [hf]; rfl
      simp [hc, hk]
    · have hk : (f (LCore.fresh k)).key = k := by rw [hf]; rfl
      simp [hj, hk, Ne.symm hj]

@[simp] theorem State.core_modWG (s : State) (wid k : Nat) (f : WG → WG) : (s.modWG wid f).core k = s.core k := by
  simp [State.core]

@[simp] theorem State.core_owe (s : State) (k : Nat) (d : Due) : (s.owe d).core k = s.core k := by simp [State.core]

@[simp] theorem State.wg?_owe (s : State) (j : Nat) (d : Due) : (s.owe d).wg? j = s.wg? j := by simp [State.wg?]

/-! ## Contexts, queues, partitions, launches -/

theorem State.ctx_modCtx (s : State) (n j : Nat) (f : Ctx → Ctx) :
    (s.modCtx n f).ctx j = if j = n then f (s.ctx n) else s.ctx j := by
  by_cases h : j = n
  · subst h; simp [State.ctx, State.modCtx, SMap.get_put_same]
  · simp [State.ctx, State.modCtx, SMap.get_put_other _ _ _ h, h]

theorem State.queue_modQueue (s : State) (n j : Nat) (f : QDesc → QDesc) :
    (s.modQueue n f).queue j = if j = n then f (s.queue n) else s.queue j := by
  by_cases h : j = n
  · subst h; simp [State.queue, State.modQueue, SMap.get_put_same]
  · simp [State.queue, State.modQueue, SMap.get_put_other _ _ _ h, h]

theorem State.part_modPart (s : State) (n j : Nat) (f : Part → Part) :
    (s.modPart n f).part j = if j = n then f (s.part n) else s.part j := by
  by_cases h : j = n
  · subst h; simp [State.part, State.modPart, SMap.get_put_same]
  · simp [State.part, State.modPart, SMap.get_put_other _ _ _ h, h]

theorem State.launch?_modLaunch (s : State) (lid j : Nat) (f : Launch → Launch) (hf : ∀ l, (f l).lid = l.lid) :
    (s.modLaunch lid f).launch? j = (s.launch? j).map (fun l => if l.lid = lid then f l else l) :=
  find?_map_key Launch.lid f hf lid j s.launches

end Sys2Proof.Machine
end

