-- ==== Sys2Proof/Laws/PerInstr.lean ====
section
/-! SUPPORT. One statement per instruction: every instruction word has an encoding, and the moves of the other agents carry no word. -/

namespace Sys2Proof.Laws.EncodeTotal

/-- Every instruction word has an encoding. -/
def Statement (i : Instr) : Prop := isWord i = true → (encode i).isSome = true

theorem groupBindingEntryWrite {index entry} : Statement (.groupBindingEntryWrite index entry) := fun h => nomatch h
theorem partitionStart {part} : Statement (.partitionStart part) := fun h => nomatch h
theorem turnSwitch {pcore} : Statement (.turnSwitch pcore) := fun h => nomatch h
theorem issueOpportunity {sel} : Statement (.issueOpportunity sel) := fun h => nomatch h
theorem ageingPromotion {wid gid tid} : Statement (.ageingPromotion wid gid tid) := fun h => nomatch h
theorem groupStarvationSelect {wid gid} : Statement (.groupStarvationSelect wid gid) := fun h => nomatch h
theorem kwaitRelease {wid gid} : Statement (.kwaitRelease wid gid) := fun h => nomatch h
theorem rejoinDeadlock {wid gid} : Statement (.rejoinDeadlock wid gid) := fun h => nomatch h
theorem groupFormationFullBin {wid pc stage} : Statement (.groupFormationFullBin wid pc stage) := fun h => nomatch h
theorem groupFormationQuiescence {wid} : Statement (.groupFormationQuiescence wid) := fun h => nomatch h
theorem workgroupResidency {lid wgid base} : Statement (.workgroupResidency lid wgid base) := fun h => nomatch h
theorem workgroupCompletion {wid} : Statement (.workgroupCompletion wid) := fun h => nomatch h
theorem workgroupPlacement {part} : Statement (.workgroupPlacement part) := fun h => nomatch h
theorem zeroingComplete {core} : Statement (.zeroingComplete core) := fun h => nomatch h
theorem serialiserStop {lid} : Statement (.serialiserStop lid) := fun h => nomatch h
theorem serialiserPublishWrite {lid} : Statement (.serialiserPublishWrite lid) := fun h => nomatch h
theorem imageRestore {lid part} : Statement (.imageRestore lid part) := fun h => nomatch h
theorem jobCheckpoint {ctx} : Statement (.jobCheckpoint ctx) := fun h => nomatch h
theorem queueDescriptorWrite {q desc} : Statement (.queueDescriptorWrite q desc) := fun h => nomatch h
theorem queueDoorbell {q wr} : Statement (.queueDoorbell q wr) := fun h => nomatch h
theorem launchPacket {q} : Statement (.launchPacket q) := fun h => nomatch h
theorem waitPacket {q} : Statement (.waitPacket q) := fun h => nomatch h
theorem waitPacketRelease {q} : Statement (.waitPacketRelease q) := fun h => nomatch h
theorem signalIntervalExpiry {lid} : Statement (.signalIntervalExpiry lid) := fun h => nomatch h
theorem bindRun {slot rec} : Statement (.bindRun slot rec) := fun h => nomatch h
theorem bindStopRequest {slot} : Statement (.bindStopRequest slot) := fun h => nomatch h
theorem reorderStall {lid} : Statement (.reorderStall lid) := fun h => nomatch h
theorem timeLimit {lid} : Statement (.timeLimit lid) := fun h => nomatch h
theorem lockedClockMode {part on} : Statement (.lockedClockMode part on) := fun h => nomatch h
theorem copySlotTake {wid q} : Statement (.copySlotTake wid q) := fun h => nomatch h
theorem copySectorWrite {wid q} : Statement (.copySectorWrite wid q) := fun h => nomatch h
theorem copyComplete {wid q} : Statement (.copyComplete wid q) := fun h => nomatch h
theorem fenceEntryHead {wid q} : Statement (.fenceEntryHead wid q) := fun h => nomatch h
theorem barrierDeadlock {wid} : Statement (.barrierDeadlock wid) := fun h => nomatch h
theorem xbarRelease {lid x core} : Statement (.xbarRelease lid x core) := fun h => nomatch h
theorem waitvWake {wid tid} : Statement (.waitvWake wid tid) := fun h => nomatch h
theorem waitvPoll {wid tid} : Statement (.waitvPoll wid tid) := fun h => nomatch h
theorem waitvTimeout {wid tid} : Statement (.waitvTimeout wid tid) := fun h => nomatch h
theorem cbacqRetry {wid gid} : Statement (.cbacqRetry wid gid) := fun h => nomatch h
theorem matrixQueueEntry {core} : Statement (.matrixQueueEntry core) := fun h => nomatch h
theorem lineRoutineRun {slice} : Statement (.lineRoutineRun slice) := fun h => nomatch h
theorem detRequestApply {lid} : Statement (.detRequestApply lid) := fun h => nomatch h
theorem reply {wid tid} : Statement (.reply wid tid) := fun h => nomatch h
theorem loadReturn {wid tid} : Statement (.loadReturn wid tid) := fun h => nomatch h
theorem pageFault {ctx page} : Statement (.pageFault ctx page) := fun h => nomatch h
theorem faultAnswerRetry {ctx page} : Statement (.faultAnswerRetry ctx page) := fun h => nomatch h
theorem faultAnswerFail {ctx page} : Statement (.faultAnswerFail ctx page) := fun h => nomatch h
theorem pteInvalidation {ctx va len} : Statement (.pteInvalidation ctx va len) := fun h => nomatch h
theorem companionStore {ctx va bytes} : Statement (.companionStore ctx va bytes) := fun h => nomatch h
theorem companionLoad {ctx va n} : Statement (.companionLoad ctx va n) := fun h => nomatch h
theorem peerAccess {acc} : Statement (.peerAccess acc) := fun h => nomatch h
theorem peerTimeout {d} : Statement (.peerTimeout d) := fun h => nomatch h
theorem fatalTrap {lid} : Statement (.fatalTrap lid) := fun h => nomatch h
theorem correctedError {at_} : Statement (.correctedError at_) := fun h => nomatch h
theorem uncorrectableError {at_ hard} : Statement (.uncorrectableError at_ hard) := fun h => nomatch h
theorem slicePauseEnd {slice} : Statement (.slicePauseEnd slice) := fun h => nomatch h
theorem firmwareReadyTimeout : Statement (.firmwareReadyTimeout) := fun h => nomatch h
theorem thermalHalt : Statement (.thermalHalt) := fun h => nomatch h
theorem thermalResume : Statement (.thermalResume) := fun h => nomatch h
theorem powerCapAdjust {part steps} : Statement (.powerCapAdjust part steps) := fun h => nomatch h
theorem resetRelease {straps} : Statement (.resetRelease straps) := fun h => nomatch h
theorem traceSample {part} : Statement (.traceSample part) := fun h => nomatch h
theorem park {agent b} : Statement (.park agent b) := fun h => nomatch h
theorem resume {agent b} : Statement (.resume agent b) := fun h => nomatch h
theorem step {agent b} : Statement (.step agent b) := fun h => nomatch h
theorem stopall {agent b} : Statement (.stopall agent b) := fun h => nomatch h
theorem resumeall {agent b} : Statement (.resumeall agent b) := fun h => nomatch h
theorem read {agent b} : Statement (.read agent b) := fun h => nomatch h
theorem edit {agent b} : Statement (.edit agent b) := fun h => nomatch h
theorem commit {agent b} : Statement (.commit agent b) := fun h => nomatch h
theorem discard {agent b} : Statement (.discard agent b) := fun h => nomatch h
theorem setbp {agent b} : Statement (.setbp agent b) := fun h => nomatch h
theorem setwp {agent b} : Statement (.setwp agent b) := fun h => nomatch h
theorem ctxdef {agent b} : Statement (.ctxdef agent b) := fun h => nomatch h
theorem errring {agent b} : Statement (.errring agent b) := fun h => nomatch h
theorem rasring {agent b} : Statement (.rasring agent b) := fun h => nomatch h
theorem grant {agent b} : Statement (.grant agent b) := fun h => nomatch h
theorem revoke {agent b} : Statement (.revoke agent b) := fun h => nomatch h
theorem keyload {agent b} : Statement (.keyload agent b) := fun h => nomatch h
theorem keyclear {agent b} : Statement (.keyclear agent b) := fun h => nomatch h
theorem attest {agent b} : Statement (.attest agent b) := fun h => nomatch h
theorem fwstage {agent b} : Statement (.fwstage agent b) := fun h => nomatch h
theorem fwswitch {agent b} : Statement (.fwswitch agent b) := fun h => nomatch h
theorem unit {agent b} : Statement (.unit agent b) := fun h => nomatch h
theorem domain {agent b} : Statement (.domain agent b) := fun h => nomatch h
theorem admitPeer {agent b} : Statement (.admitPeer agent b) := fun h => nomatch h
theorem power {agent b} : Statement (.power agent b) := fun h => nomatch h
theorem registerWrite {agent reg value} : Statement (.registerWrite agent reg value) := fun h => nomatch h
theorem nop {w} : Statement (.nop w) := fun _ => rfl
theorem pairedWord {w} : Statement (.pairedWord w) := fun _ => rfl
theorem iadd {w} : Statement (.iadd w) := fun _ => rfl
theorem iaddImm {w} : Statement (.iaddImm w) := fun _ => rfl
theorem isub {w} : Statement (.isub w) := fun _ => rfl
theorem isubImm {w} : Statement (.isubImm w) := fun _ => rfl
theorem iaddc {w} : Statement (.iaddc w) := fun _ => rfl
theorem isubb {w} : Statement (.isubb w) := fun _ => rfl
theorem imul {w} : Statement (.imul w) := fun _ => rfl
theorem imulImm {w} : Statement (.imulImm w) := fun _ => rfl
theorem imulhi {w} : Statement (.imulhi w) := fun _ => rfl
theorem imulhiImm {w} : Statement (.imulhiImm w) := fun _ => rfl
theorem imad {w} : Statement (.imad w) := fun _ => rfl
theorem imin {w} : Statement (.imin w) := fun _ => rfl
theorem iminImm {w} : Statement (.iminImm w) := fun _ => rfl
theorem imax {w} : Statement (.imax w) := fun _ => rfl
theorem imaxImm {w} : Statement (.imaxImm w) := fun _ => rfl
theorem iabs {w} : Statement (.iabs w) := fun _ => rfl
theorem ineg {w} : Statement (.ineg w) := fun _ => rfl
theorem icmp {w} : Statement (.icmp w) := fun _ => rfl
theorem ipopc {w} : Statement (.ipopc w) := fun _ => rfl
theorem iclz {w} : Statement (.iclz w) := fun _ => rfl
theorem ibrev {w} : Statement (.ibrev w) := fun _ => rfl
theorem ibfe {w} : Statement (.ibfe w) := fun _ => rfl
theorem ibfi {w} : Statement (.ibfi w) := fun _ => rfl
theorem lea {w} : Statement (.lea w) := fun _ => rfl
theorem leaImm {w} : Statement (.leaImm w) := fun _ => rfl
theorem lop {w} : Statement (.lop w) := fun _ => rfl
theorem shl {w} : Statement (.shl w) := fun _ => rfl
theorem shr {w} : Statement (.shr w) := fun _ => rfl
theorem sar {w} : Statement (.sar w) := fun _ => rfl
theorem shlImm {w} : Statement (.shlImm w) := fun _ => rfl
theorem shrImm {w} : Statement (.shrImm w) := fun _ => rfl
theorem sarImm {w} : Statement (.sarImm w) := fun _ => rfl
theorem sel {w} : Statement (.sel w) := fun _ => rfl
theorem mov {w} : Statement (.mov w) := fun _ => rfl
theorem movSpecial {w} : Statement (.movSpecial w) := fun _ => rfl
theorem movi {w} : Statement (.movi w) := fun _ => rfl
theorem plop {w} : Statement (.plop w) := fun _ => rfl
theorem pmovToReg {w} : Statement (.pmovToReg w) := fun _ => rfl
theorem pmovFromReg {w} : Statement (.pmovFromReg w) := fun _ => rfl
theorem pmovPred {w} : Statement (.pmovPred w) := fun _ => rfl
theorem fadd {w} : Statement (.fadd w) := fun _ => rfl
theorem faddImm {w} : Statement (.faddImm w) := fun _ => rfl
theorem fsub {w} : Statement (.fsub w) := fun _ => rfl
theorem fmul {w} : Statement (.fmul w) := fun _ => rfl
theorem fmulImm {w} : Statement (.fmulImm w) := fun _ => rfl
theorem ffma {w} : Statement (.ffma w) := fun _ => rfl
theorem fmin {w} : Statement (.fmin w) := fun _ => rfl
theorem fminImm {w} : Statement (.fminImm w) := fun _ => rfl
theorem fmax {w} : Statement (.fmax w) := fun _ => rfl
theorem fmaxImm {w} : Statement (.fmaxImm w) := fun _ => rfl
theorem fabs {w} : Statement (.fabs w) := fun _ => rfl
theorem fneg {w} : Statement (.fneg w) := fun _ => rfl
theorem fcmp {w} : Statement (.fcmp w) := fun _ => rfl
theorem fclass {w} : Statement (.fclass w) := fun _ => rfl
theorem frnd {w} : Statement (.frnd w) := fun _ => rfl
theorem fcvt {w} : Statement (.fcvt w) := fun _ => rfl
theorem frcp {w} : Statement (.frcp w) := fun _ => rfl
theorem frsq {w} : Statement (.frsq w) := fun _ => rfl
theorem fsqrt {w} : Statement (.fsqrt w) := fun _ => rfl
theorem fexp2 {w} : Statement (.fexp2 w) := fun _ => rfl
theorem flog2 {w} : Statement (.flog2 w) := fun _ => rfl
theorem ftanh {w} : Statement (.ftanh w) := fun _ => rfl
theorem npack {w} : Statement (.npack w) := fun _ => rfl
theorem nunpk {w} : Statement (.nunpk w) := fun _ => rfl
theorem nscale {w} : Statement (.nscale w) := fun _ => rfl
theorem gshfl {w} : Statement (.gshfl w) := fun _ => rfl
theorem gbfly {w} : Statement (.gbfly w) := fun _ => rfl
theorem gred {w} : Statement (.gred w) := fun _ => rfl
theorem gscan {w} : Statement (.gscan w) := fun _ => rfl
theorem gvote {w} : Statement (.gvote w) := fun _ => rfl
theorem gmatch {w} : Statement (.gmatch w) := fun _ => rfl
theorem grank {w} : Statement (.grank w) := fun _ => rfl
theorem join {w} : Statement (.join w) := fun _ => rfl
theorem leave {w} : Statement (.leave w) := fun _ => rfl
theorem kwait {w} : Statement (.kwait w) := fun _ => rfl
theorem kmov {w} : Statement (.kmov w) := fun _ => rfl
theorem kand {w} : Statement (.kand w) := fun _ => rfl
theorem kor {w} : Statement (.kor w) := fun _ => rfl
theorem krd {w} : Statement (.krd w) := fun _ => rfl
theorem kset {w} : Statement (.kset w) := fun _ => rfl
theorem bra {w} : Statement (.bra w) := fun _ => rfl
theorem brx {w} : Statement (.brx w) := fun _ => rfl
theorem call {w} : Statement (.call w) := fun _ => rfl
theorem ret {w} : Statement (.ret w) := fun _ => rfl
theorem switch {w} : Statement (.switch w) := fun _ => rfl
theorem regroup {w} : Statement (.regroup w) := fun _ => rfl
theorem yield {w} : Statement (.yield w) := fun _ => rfl
theorem exit {w} : Statement (.exit w) := fun _ => rfl
theorem trap {w} : Statement (.trap w) := fun _ => rfl
theorem trapret {w} : Statement (.trapret w) := fun _ => rfl
theorem bkpt {w} : Statement (.bkpt w) := fun _ => rfl
theorem sysrd {w} : Statement (.sysrd w) := fun _ => rfl
theorem syswr {w} : Statement (.syswr w) := fun _ => rfl
theorem stampIn {w} : Statement (.stampIn w) := fun _ => rfl
theorem stampMma {w} : Statement (.stampMma w) := fun _ => rfl
theorem stampOut {w} : Statement (.stampOut w) := fun _ => rfl
theorem time {w} : Statement (.time w) := fun _ => rfl
theorem ld {w} : Statement (.ld w) := fun _ => rfl
theorem lds {w} : Statement (.lds w) := fun _ => rfl
theorem lda {w} : Statement (.lda w) := fun _ => rfl
theorem ldb {w} : Statement (.ldb w) := fun _ => rfl
theorem st {w} : Statement (.st w) := fun _ => rfl
theorem sts {w} : Statement (.sts w) := fun _ => rfl
theorem stb {w} : Statement (.stb w) := fun _ => rfl
theorem pref {w} : Statement (.pref w) := fun _ => rfl
theorem atom {w} : Statement (.atom w) := fun _ => rfl
theorem atomScr {w} : Statement (.atomScr w) := fun _ => rfl
theorem lrcall {w} : Statement (.lrcall w) := fun _ => rfl
theorem lrdef {w} : Statement (.lrdef w) := fun _ => rfl
theorem lrdrop {w} : Statement (.lrdrop w) := fun _ => rfl
theorem waitv {w} : Statement (.waitv w) := fun _ => rfl
theorem wake {w} : Statement (.wake w) := fun _ => rfl
theorem phasePub {w} : Statement (.phasePub w) := fun _ => rfl
theorem phaseRef {w} : Statement (.phaseRef w) := fun _ => rfl
theorem phase {w} : Statement (.phase w) := fun _ => rfl
theorem fence {w} : Statement (.fence w) := fun _ => rfl
theorem bar {w} : Statement (.bar w) := fun _ => rfl
theorem bararv {w} : Statement (.bararv w) := fun _ => rfl
theorem barwait {w} : Statement (.barwait w) := fun _ => rfl
theorem bartx {w} : Statement (.bartx w) := fun _ => rfl
theorem barinit {w} : Statement (.barinit w) := fun _ => rfl
theorem xbarv {w} : Statement (.xbarv w) := fun _ => rfl
theorem xbwait {w} : Statement (.xbwait w) := fun _ => rfl
theorem xbset {w} : Statement (.xbset w) := fun _ => rfl
theorem cpin {w} : Statement (.cpin w) := fun _ => rfl
theorem cpout {w} : Statement (.cpout w) := fun _ => rfl
theorem cpoutDomainReduction {w} : Statement (.cpoutDomainReduction w) := fun _ => rfl
theorem cpgath {w} : Statement (.cpgath w) := fun _ => rfl
theorem cpgathDigest {w} : Statement (.cpgathDigest w) := fun _ => rfl
theorem cpscat {w} : Statement (.cpscat w) := fun _ => rfl
theorem cpfill {w} : Statement (.cpfill w) := fun _ => rfl
theorem cpfillScratchpad {w} : Statement (.cpfillScratchpad w) := fun _ => rfl
theorem qfence {w} : Statement (.qfence w) := fun _ => rfl
theorem qwait {w} : Statement (.qwait w) := fun _ => rfl
theorem cbacq {w} : Statement (.cbacq w) := fun _ => rfl
theorem cbrel {w} : Statement (.cbrel w) := fun _ => rfl
theorem cbrelCfg {w} : Statement (.cbrelCfg w) := fun _ => rfl
theorem cvput {w} : Statement (.cvput w) := fun _ => rfl
theorem cvseal {w} : Statement (.cvseal w) := fun _ => rfl
theorem launch {w} : Statement (.launch w) := fun _ => rfl
theorem mldb {w} : Statement (.mldb w) := fun _ => rfl
theorem mswap {w} : Statement (.mswap w) := fun _ => rfl
theorem mma {w} : Statement (.mma w) := fun _ => rfl
theorem mmaw {w} : Statement (.mmaw w) := fun _ => rfl
theorem mspan {w} : Statement (.mspan w) := fun _ => rfl
theorem mcommit {w} : Statement (.mcommit w) := fun _ => rfl
theorem mzero {w} : Statement (.mzero w) := fun _ => rfl
theorem mlda {w} : Statement (.mlda w) := fun _ => rfl
theorem msta {w} : Statement (.msta w) := fun _ => rfl
theorem firmwareReady : Statement (.firmwareReady) := fun h => nomatch h
theorem peerAnswers {d} : Statement (.peerAnswers d) := fun h => nomatch h
theorem peerPortFailure {port} : Statement (.peerPortFailure port) := fun h => nomatch h
theorem domainReductionArrival {c} : Statement (.domainReductionArrival c) := fun h => nomatch h
theorem unitDrainComplete {kind num} : Statement (.unitDrainComplete kind num) := fun h => nomatch h
theorem unitTestPassed {kind num} : Statement (.unitTestPassed kind num) := fun h => nomatch h

end Sys2Proof.Laws.EncodeTotal
end

