-- ==== Sys2Proof/Laws/Words.lean ====
section
/-! SUPPORT. What the issue of a word does, once for all words: a word that issues runs its body; a body that only advances, and a
body that writes results, change what they say and nothing else. -/

namespace Sys2Proof.Machine

/-! ## Issue -/

/-- A word that is not ready leaves the state alone. -/
theorem State.word_waits {s : State} {i : Instr} {nfo : Info} {x : Path} (hi : info i = some nfo) (hx : s.path = some x)
    (hr : s.readyWord i nfo x = false) (ck : Path → Checks) (body : Path → State → State) : s.word i ck body = .next s := by
  simp [State.word, hi, hx, Path.run, hr]

theorem State.path_lanes {s : State} {x : Path} (h : s.path = some x) : x.lanes ≠ [] := by
  unfold State.path at h
  split at h
  · cases h
  · split at h
    · cases h
    · split at h
      · simp only at h
        split at h
        · cases h
        · next hl => cases h; simpa using hl
      · cases h

/-- A word that issues runs its body on the path. -/
theorem State.word_next {s : State} {i : Instr} {nfo : Info} {x : Path} {ck : Path → Checks} (h : Issues s i nfo x (ck x))
    (body : Path → State → State) : s.word i ck body = .next (body x s) := by
  have hb : s.breakStop x nfo.head.hold = (s, x.lanes) := by simp [State.breakStop, h.noBreak]
  have hl : x.lanes.isEmpty = false := by simpa using State.path_lanes h.path
  have he : (x.exec nfo.head).isEmpty = false := by simpa using h.runs
  simp [State.word, h.word, h.path, Path.run, h.ready, hb, hl, Path.issue, h.passes, Path.act, he]

/-- A word that fails a check traps. -/
theorem State.word_traps {s : State} {i : Instr} {nfo : Info} {x : Path} {ck : Path → Checks} (hi : info i = some nfo)
    (hx : s.path = some x) (hr : s.readyWord i nfo x = true) (hb : (s.ctx x.ctx).dbg.breakAt x.cur.pc = none)
    {cls : Nat} {who : List Named} (ht : s.firstTrap i x nfo (ck x) = some (cls, who)) (body : Path → State → State) :
    s.word i ck body = .next (x.trap s cls who) := by
  have hs : s.breakStop x nfo.head.hold = (s, x.lanes) := by simp [State.breakStop, hb]
  have hl : x.lanes.isEmpty = false := by simpa using State.path_lanes hx
  simp [State.word, hi, hx, Path.run, hr, hs, hl, Path.issue, ht]

/-- A word without table words that no lane executes advances its path. -/
theorem State.word_idles {s : State} {i : Instr} {nfo : Info} {x : Path} {ck : Path → Checks} (hi : info i = some nfo)
    (hx : s.path = some x) (hr : s.readyWord i nfo x = true) (hb : (s.ctx x.ctx).dbg.breakAt x.cur.pc = none)
    (ht : s.firstTrap i x nfo (ck x) = none) (he : x.exec nfo.head = []) (hn : hasTable i = false) (body : Path → State → State) :
    s.word i ck body = .next (x.idle s i nfo) := by
  have hs : s.breakStop x nfo.head.hold = (s, x.lanes) := by simp [State.breakStop, hb]
  have hl : x.lanes.isEmpty = false := by simpa using State.path_lanes hx
  simp [State.word, hi, hx, Path.run, hr, hs, hl, Path.issue, ht, Path.act, he, hn]

/-! ## The path of a state -/

/-- Where the parts of a path come from. -/
theorem State.path_parts {s : State} {x : Path} (h : s.path = some x) :
    s.cur = some x.cur ∧ s.wg? x.w.wid = some x.w ∧ x.w.wid = x.cur.wid ∧ x.w.group? x.g.gid = some x.g ∧ x.g.gid = x.cur.gid
      ∧ s.launch? x.w.lid = some x.l ∧ x.lanes = lanesOf x.w x.g x.cur.lanes := by
  unfold State.path at h
  split at h
  · cases h
  · next c hc =>
    split at h
    · cases h
    · next w hw =>
      split at h
      · next g l hg hl =>
        simp only at h
        split at h
        · cases h
        · cases h
          exact ⟨hc, by rw [State.wg?_wid hw]; exact hw, State.wg?_wid hw, by rw [WG.group?_gid hg]; exact hg, WG.group?_gid hg, hl,
            rfl⟩
      · cases h

/-- A lane of a path is its thread in the workgroup. -/
theorem State.path_thread {s : State} {x : Path} (h : s.path = some x) {tid : Nat} {ln : Lane} (hl : x.laneOf tid = some ln) :
    ln.tid = tid ∧ x.w.threads[tid]? = some ln.t := by
  have ht : ln.tid = tid := by simpa using List.find?_some hl
  have hm : ln ∈ x.lanes := List.mem_of_find?_eq_some hl
  rw [(State.path_parts h).2.2.2.2.2.2, lanesOf, List.mem_filterMap] at hm
  obtain ⟨n, -, hn⟩ := hm
  split at hn
  · next t _ =>
    cases hq : x.w.threads[t]? with
    | none => simp [hq] at hn
    | some q =>
      simp only [hq, Option.map_some, Option.some.injEq] at hn
      subst hn
      simp only at ht
      subst ht
      exact ⟨rfl, hq⟩
  · cases hn

/-! ## The end of a word -/

@[simp] theorem Thread.past_pc (t : Thread) (hold : Bool) (pc : Nat) : (t.past hold pc).pc = pc := by
  unfold Thread.past; split <;> rfl

theorem Thread.past_moved (t : Thread) (hold : Bool) (pc : Nat) : Moved hold pc t (t.past hold pc) := by
  cases hold <;> exact ⟨rfl, rfl, rfl, rfl, rfl⟩

theorem State.setHeld_keeps (s : State) (x : Path) (hold : Bool) :
    ({ s.setHeld x hold with cores := s.cores } : State) = s ∧
    ∀ k, ({ (s.setHeld x hold).core k with held := (s.core k).held } : LCore) = s.core k := by
  refine ⟨by unfold State.setHeld State.modCore; split <;> rfl, fun k => ?_⟩
  unfold State.setHeld
  rw [State.core_modCore]
  · split
    · next h => subst h; rfl
    · rfl
  · intro c; rfl

theorem Path.onLanes_wid (x : Path) (f : Lane → Thread → Thread) (w : WG) : (x.onLanes f w).wid = w.wid := rfl

theorem Path.onLanes_none (x : Path) (f : Lane → Thread → Thread) (w : WG) {tid : Nat} (h : x.laneOf tid = none) :
    (x.onLanes f w).threads[tid]? = w.threads[tid]? := by
  unfold Path.laneOf at h
  rw [Path.onLanes, WG.threads_modThreads, h]
  cases w.threads[tid]? <;> rfl

theorem Path.onLanes_some (x : Path) (f : Lane → Thread → Thread) (w : WG) {tid : Nat} {ln : Lane} (h : x.laneOf tid = some ln) :
    (x.onLanes f w).threads[tid]? = (w.threads[tid]?).map (f ln) := by
  unfold Path.laneOf at h
  rw [Path.onLanes, WG.threads_modThreads, h]

/-- What the end of a word does in a state `m` in which the path's workgroup is still as the word found it: the device is kept, and the
workgroup is what `h` makes of it after its lanes' threads have been changed by `f` and moved past the word. -/
theorem Path.finish_spec {m : State} {x : Path} (hg : m.wg? x.w.wid = some x.w) (hold : Bool) (pc : Lane → Nat)
    (f : Lane → Thread → Thread) (h : WG → WG) (hw : ∀ w, (h w).wid = w.wid) :
    Keeps m (x.finish m hold pc f h) x ∧
    (x.finish m hold pc f h).wg? x.w.wid = some (h (x.onLanes (fun ln t => (f ln t).past hold (pc ln)) x.w)) := by
  have hwid : ∀ w : WG, (h (x.onLanes (fun ln t => (f ln t).past hold (pc ln)) w)).wid = w.wid := fun w => by
    rw [hw, Path.onLanes_wid]
  have hh := State.setHeld_keeps (m.modWG x.w.wid (fun w => h (x.onLanes (fun ln t => (f ln t).past hold (pc ln)) w))) x hold
  unfold Path.finish
  refine ⟨⟨?_, fun wid hne => ?_, fun k => ?_⟩, ?_⟩
  · have := hh.1
    exact congrArg (fun u : State => { u with wgs := m.wgs, due := m.due, late := m.late, free := m.free }) this
  · unfold State.setHeld
    rw [State.wg?_modCore, State.wg?_modWG_other _ _ hwid hne]
  · have := hh.2 k
    rw [State.core_modWG] at this
    exact congrArg (fun u : LCore => { u with running := (m.core k).running }) this
  · unfold State.setHeld
    rw [State.wg?_modCore, State.wg?_modWG_same _ _ _ hwid hg]

/-- The end of a word whose lanes become what `g` says and whose workgroup becomes what `h` says of it. -/
theorem Path.finish_acts {s m : State} {x : Path} (hx : s.path = some x) (hg : m.wg? x.w.wid = some x.w) (hold : Bool) (pc : Lane → Nat)
    (f : Lane → Thread → Thread) (h : WG → WG) (hw : ∀ w, (h w).wid = w.wid)
    (hh : ∀ (w : WG) (ts : List Thread), ({ (h { w with threads := ts }) with threads := w.threads } : WG) = h w ∧ (h { w with threads := ts }).threads = ts) :
    Keeps m (x.finish m hold pc f h) x ∧ Acts (x.finish m hold pc f h) x hold pc (fun ln => f ln ln.t) (h x.w) := by
  obtain ⟨hk, hv⟩ := Path.finish_spec hg hold pc f h hw
  have hts : ∀ (w : WG) (ts : List Thread), (h { w with threads := ts }).threads = ts := fun w ts => (hh w ts).2
  have hself : (h x.w).threads = x.w.threads := hts x.w x.w.threads
  have hlan := hts x.w (x.onLanes (fun ln t => (f ln t).past hold (pc ln)) x.w).threads
  refine ⟨hk, _, hv, ?_, fun tid ht => ?_, fun tid ln ht => ?_⟩
  · rw [hself]
    exact (hh x.w (x.onLanes (fun ln t => (f ln t).past hold (pc ln)) x.w).threads).1
  · have : (h (x.onLanes (fun ln t => (f ln t).past hold (pc ln)) x.w)).threads
        = (x.onLanes (fun ln t => (f ln t).past hold (pc ln)) x.w).threads := hlan
    rw [this]; exact Path.onLanes_none x _ _ ht
  · have : (h (x.onLanes (fun ln t => (f ln t).past hold (pc ln)) x.w)).threads
        = (x.onLanes (fun ln t => (f ln t).past hold (pc ln)) x.w).threads := hlan
    rw [this, Path.onLanes_some x _ _ ht, (State.path_thread hx ht).2]
    exact ⟨_, rfl, Thread.past_moved _ _ _⟩

/-- A word that only advances its path. -/
theorem Path.advance_acts {s : State} {x : Path} (hx : s.path = some x) (hold : Bool) :
    Keeps s (x.advance s hold) x ∧ Acts (x.advance s hold) x hold (fun _ => x.cur.pc + 8) (fun ln => ln.t) x.w :=
  Path.finish_acts hx (State.path_parts hx).2.1 hold _ _ id (fun _ => rfl) (fun _ _ => ⟨rfl, rfl⟩)

/-! ## The results of a word -/

theorem Thread.setV_get (t : Thread) (runs : List (Nat × List Word)) (k : Nat) :
    (runs.foldl (fun t e => t.setV e.1 e.2) t).v.get 0 k = regAfter runs k (t.v.get 0 k) := by
  induction runs generalizing t with
  | nil => rfl
  | cons e es ih =>
    rw [List.foldl_cons, ih, Thread.setV]
    simp only [SMap.get_putAll, regAfter, List.foldl_cons]

theorem Thread.setV_fold_rest (t : Thread) (runs : List (Nat × List Word)) :
    ({ runs.foldl (fun t e => t.setV e.1 e.2) t with v := t.v } : Thread) = t := by
  induction runs generalizing t with
  | nil => rfl
  | cons e es ih =>
    rw [List.foldl_cons]
    have := ih (t.setV e.1 e.2)
    exact congrArg (fun u : Thread => { u with v := t.v }) this

theorem setPred_get (p : BitVec 7) (e : Nat × Bool) {k : Nat} (hk : k < 7) :
    (setPred p e).getLsbD k = if e.1 = k then e.2 else p.getLsbD k := by
  have h2 : (BitVec.ofNat 7 (2 ^ e.1)).getLsbD k = decide (e.1 = k) := by
    rw [BitVec.getLsbD_ofNat, Nat.testBit_two_pow]; simp [hk]
  unfold setPred
  cases he : e.2 <;> simp only [if_true, Bool.false_eq_true, if_false]
  · rw [BitVec.getLsbD_and, BitVec.getLsbD_not, h2]
    by_cases h : e.1 = k <;> simp [h, hk]
  · rw [BitVec.getLsbD_or, h2]
    by_cases h : e.1 = k <;> simp [h]

theorem setPred_fold (ps : List (Nat × Bool)) (p : BitVec 7) {k : Nat} (hk : k < 7) :
    (ps.foldl setPred p).getLsbD k = predAfter ps k (p.getLsbD k) := by
  induction ps generalizing p with
  | nil => rfl
  | cons e es ih => rw [List.foldl_cons, ih, setPred_get p e hk]; rfl

theorem Thread.shifts_spec (rs : List DWord) (t : Thread) :
    (rs.foldl (fun t y => t.shiftIn (some y)) t).latches = ((rs.map some).reverse ++ t.latches).take 4 ∧
    ({ rs.foldl (fun t y => t.shiftIn (some y)) t with l0 := t.l0, l1 := t.l1, l2 := t.l2, l3 := t.l3 } : Thread) = t := by
  induction rs generalizing t with
  | nil => exact ⟨rfl, rfl⟩
  | cons r rs ih =>
    rw [List.foldl_cons]
    obtain ⟨h1, h2⟩ := ih (t.shiftIn (some r))
    refine ⟨?_, ?_⟩
    · rw [h1]
      simp only [List.map_cons, List.reverse_cons, List.append_assoc, List.singleton_append, Thread.latches, Thread.shiftIn]
      generalize (List.map some rs).reverse = q
      rcases q with _ | ⟨a, _ | ⟨b, _ | ⟨c, _ | ⟨d, q⟩⟩⟩⟩ <;> simp
    · exact congrArg (fun u : Thread => { u with l0 := t.l0, l1 := t.l1, l2 := t.l2, l3 := t.l3 }) h2

theorem Thread.stale_spec (n : Nat) (t : Thread) :
    (Thread.shiftStale n t).latches = (List.replicate n none ++ t.latches).take 4 ∧
    ({ Thread.shiftStale n t with l0 := t.l0, l1 := t.l1, l2 := t.l2, l3 := t.l3 } : Thread) = t := by
  induction n generalizing t with
  | zero => exact ⟨rfl, rfl⟩
  | succ n ih =>
    obtain ⟨h1, h2⟩ := ih (t.shiftIn none)
    refine ⟨?_, ?_⟩
    · rw [Thread.shiftStale, h1, List.replicate_succ', List.append_assoc]
      simp only [Thread.latches, Thread.shiftIn, List.singleton_append]
      generalize List.replicate n (none : Option DWord) = q
      rcases q with _ | ⟨a, _ | ⟨b, _ | ⟨c, _ | ⟨d, q⟩⟩⟩⟩ <;> simp
    · exact congrArg (fun u : Thread => { u with l0 := t.l0, l1 := t.l1, l2 := t.l2, l3 := t.l3 }) h2

theorem Thread.knows_rest (t : Thread) (w : WG) (fl : Nat) : ({ t.knows w fl with vc := t.vc } : Thread) = t := rfl

/-- What a clock holds after it has learnt of some flags: 1 for each of them, and else what it held. -/
theorem WG.flagClock_get (w : WG) (fl : Nat) (clk : Clock) :
    (∀ f, f < 7 → fl.testBit f = true → (w.flagClock fl clk).get 0 (w.flagKey f) = 1)
    ∧ ∀ k, (∀ f, f < 7 → fl.testBit f = true → k ≠ w.flagKey f) → (w.flagClock fl clk).get 0 k = clk.get 0 k := by
  have key : ∀ (bs : List Nat) (c : Clock),
      (∀ k, (∀ f ∈ bs, k ≠ w.flagKey f) → (bs.foldl (fun c b => SMap.put 0 c (w.flagKey b) 1) c).get 0 k = c.get 0 k)
      ∧ ∀ f ∈ bs, (bs.foldl (fun c b => SMap.put 0 c (w.flagKey b) 1) c).get 0 (w.flagKey f) = 1 := by
    intro bs
    induction bs with
    | nil => exact fun c => ⟨fun _ _ => rfl, fun f hf => absurd hf List.not_mem_nil⟩
    | cons b bs ih =>
      intro c
      have ihb := ih (SMap.put 0 c (w.flagKey b) 1)
      refine ⟨fun k hk => ?_, fun f hf => ?_⟩
      · rw [List.foldl_cons, ihb.1 k (fun f hf => hk f (List.mem_cons_of_mem _ hf)),
          SMap.get_put_other _ _ _ (hk b List.mem_cons_self)]
      · rw [List.foldl_cons]
        by_cases hin : ∃ g ∈ bs, w.flagKey f = w.flagKey g
        · obtain ⟨g, hg, e⟩ := hin
          rw [e]; exact ihb.2 g hg
        · rcases List.mem_cons.1 hf with rfl | hf'
          · rw [ihb.1 _ (fun g hg e => hin ⟨g, hg, e⟩), SMap.get_put_same]
          · exact ihb.2 f hf'
  have hm : ∀ f, f ∈ setBits 7 fl ↔ f < 7 ∧ fl.testBit f = true := fun f => by simp [setBits]
  exact ⟨fun f hf hb => (key _ clk).2 f ((hm f).2 ⟨hf, hb⟩),
    fun k hk => (key _ clk).1 k (fun f hf => hk f ((hm f).1 hf).1 ((hm f).1 hf).2)⟩

/-- What the results of a lane leave in its thread, before the path moves. -/
theorem LaneRes.apply_spec (r : LaneRes) (shift : Bool) (t : Thread) :
    (∀ k, (r.apply shift t).v.get 0 k = regAfter r.v k (t.v.get 0 k)) ∧
    (∀ k, k < 7 → (r.apply shift t).p.getLsbD k = predAfter r.preds k (t.p.getLsbD k)) ∧
    (r.apply shift t).latches = (if shift then ((r.shifts.map some).reverse ++ t.latches).take 4 else t.latches) ∧
    ({ r.apply shift t with v := t.v, p := t.p, l0 := t.l0, l1 := t.l1, l2 := t.l2, l3 := t.l3 } : Thread) = t := by
  have hv := Thread.setV_get t r.v
  have hr := Thread.setV_fold_rest t r.v
  generalize hu : r.v.foldl (fun t e => t.setV e.1 e.2) t = u at hv hr
  have hp : u.p = t.p := by have := congrArg Thread.p hr; exact this
  have hl : u.latches = t.latches := by have := congrArg Thread.latches hr; exact this
  have hr : ({ u with v := t.v, p := t.p, l0 := t.l0, l1 := t.l1, l2 := t.l2, l3 := t.l3 } : Thread) = t := by
    have := congrArg (fun q : Thread => { q with p := t.p, l0 := t.l0, l1 := t.l1, l2 := t.l2, l3 := t.l3 }) hr; exact this
  have ha : r.apply shift t = if shift then r.shifts.foldl (fun t y => t.shiftIn (some y)) { u with p := r.preds.foldl setPred u.p }
      else { u with p := r.preds.foldl setPred u.p } := by simp [LaneRes.apply, hu]
  rw [ha]
  cases shift with
  | false =>
    refine ⟨hv, fun k hk => ?_, hl, ?_⟩
    · simp only [Bool.false_eq_true, if_false]
      rw [setPred_fold _ _ hk, hp]
    · exact hr
  | true =>
    obtain ⟨h1, h2⟩ := Thread.shifts_spec r.shifts { u with p := r.preds.foldl setPred u.p }
    simp only [if_true]
    generalize r.shifts.foldl (fun t y => t.shiftIn (some y)) { u with p := r.preds.foldl setPred u.p } = z at h1 h2
    refine ⟨fun k => ?_, fun k hk => ?_, ?_, ?_⟩
    · have h := congrArg Thread.v h2
      simp only at h
      rw [h]; exact hv k
    · have h := congrArg Thread.p h2
      simp only at h
      rw [h, setPred_fold _ _ hk, hp]
    · rw [h1]
      exact congrArg (fun q => ((r.shifts.map some).reverse ++ q).take 4) hl
    · have h := congrArg (fun q : Thread => { q with v := t.v, p := t.p, l0 := t.l0, l1 := t.l1, l2 := t.l2, l3 := t.l3 }) h2
      exact h.trans hr

theorem flagsOf_testBit (ls : List Lane) (f : Lane → LaneRes) (b : Nat) :
    (flagsOf ls f).testBit b = ls.any (fun ln => (f ln).fl.testBit b) := by
  have h : ∀ (ls : List Lane) (a : Nat), (ls.foldl (fun a ln => a ||| (f ln).fl) a).testBit b
      = (a.testBit b || ls.any (fun ln => (f ln).fl.testBit b)) := by
    intro ls
    induction ls with
    | nil => simp
    | cons l ls ih => intro a; rw [List.foldl_cons, ih, Nat.testBit_or, List.any_cons, Bool.or_assoc]
  simpa [flagsOf] using h ls 0

@[simp] theorem WG.setS_wid (w : WG) (gid : Nat) (d : Opnd) (ws : List Word) : (w.setS gid d ws).wid = w.wid := by
  cases d <;> rfl
@[simp] theorem WG.setS_flags (w : WG) (gid : Nat) (d : Opnd) (ws : List Word) : (w.setS gid d ws).flags = w.flags := by
  cases d <;> rfl
@[simp] theorem WG.setS_threads (w : WG) (gid : Nat) (d : Opnd) (ws : List Word) : (w.setS gid d ws).threads = w.threads := by
  cases d <;> rfl

theorem WG.setS_rest (w : WG) (gid : Nat) (d : Opnd) (ws : List Word) :
    ({ w.setS gid d ws with groups := w.groups } : WG) = w := by
  cases d <;> rfl

theorem regAfter_one (r : Nat) (ws : List Word) (k : Nat) (old : Word) :
    regAfter [(r, ws)] k old = if r ≤ k then (ws[k - r]?).getD old else old := rfl

/-- What a write of s registers leaves in the groups of a workgroup. -/
theorem WG.setS_groups {w : WG} {gid : Nat} {g : Group} (hg : w.group? gid = some g) (d : Opnd) (ws : List Word) :
    (∃ q, (w.setS gid d ws).group? gid = some q ∧ ({ q with s := g.s } : Group) = g
      ∧ ∀ k, q.s.get 0 k = match d with
          | .s r => regAfter [(r.toNat, ws)] k (g.s.get 0 k)
          | _ => g.s.get 0 k) ∧
    ∀ j, j ≠ gid → (w.setS gid d ws).group? j = w.group? j := by
  cases d with
  | s r =>
    let f : Group → Group := fun g => { g with s := SMap.putAll 0 g.s r.toNat ws }
    refine ⟨⟨_, WG.group?_modGroup_same w gid f (fun _ => rfl) hg, rfl, fun k => ?_⟩, fun j hj =>
      WG.group?_modGroup_other w f (fun _ => rfl) hj⟩
    simp only [f, SMap.get_putAll, regAfter_one]
  | _ => exact ⟨⟨g, hg, rfl, fun _ => rfl⟩, fun _ _ => rfl⟩

/-- A thread whose results are in place, moved past the word. -/
theorem LaneDone.of_past (hold ex : Bool) (n : Nat) (r : LaneRes) (pc : Nat) (a z : Thread)
    (hv : ∀ k, z.v.get 0 k = if ex then regAfter r.v k (a.v.get 0 k) else a.v.get 0 k)
    (hp : ∀ k, k < 7 → z.p.getLsbD k = if ex then predAfter r.preds k (a.p.getLsbD k) else a.p.getLsbD k)
    (hl : hold = true → z.latches = latchesAfter true ex n r.shifts a.latches)
    (hr : ({ z with v := a.v, p := a.p, l0 := a.l0, l1 := a.l1, l2 := a.l2, l3 := a.l3, vc := a.vc } : Thread) = a) :
    LaneDone hold ex n r pc a (z.past hold pc) := by
  have hh := congrArg Thread.hold hr
  simp only at hh
  have hr' := congrArg (fun q : Thread => { q with pc := a.pc, age := a.age, hold := a.hold, skip := a.skip, resumed := a.resumed }) hr
  cases hold with
  | true => exact ⟨hv, hp, hl rfl, rfl, rfl, by rw [← hh]; rfl, hr'⟩
  | false => exact ⟨hv, hp, rfl, rfl, rfl, rfl, hr'⟩

/-- The results of a word written: the whole effect, and nothing else. -/
theorem Path.commit_computes {s : State} {x : Path} (hx : s.path = some x) (i : Instr) (nfo : Info) (d : Opnd) (f : Lane → LaneRes) :
    Computes s (x.commit s i nfo d f) x nfo.head (shiftCount i nfo) d f := by
  let fl := flagsOf (x.exec nfo.head) f
  let n := shiftCount i nfo
  let h : WG → WG := fun w => match x.exec nfo.head with
    | ln :: _ => (w.orFlags fl).setS x.g.gid d (f ln).s
    | [] => w.orFlags fl
  let q : Lane → Thread → Thread := fun ln t =>
    if ln.t.executes nfo.head then ((f ln).apply (0 < n) t).knows x.w fl else t.shiftStale n
  have hc : x.commit s i nfo d f = x.finish s nfo.head.hold (fun _ => x.next) q h := rfl
  have hw : ∀ w, (h w).wid = w.wid := fun w => by simp only [h]; split <;> simp [WG.orFlags]
  have hth : ∀ w, (h w).threads = w.threads := fun w => by simp only [h]; split <;> simp [WG.orFlags]
  obtain ⟨hk, hv⟩ := Path.finish_spec (State.path_parts hx).2.1 nfo.head.hold (fun _ => x.next) q h hw
  rw [hc]
  obtain ⟨-, -, -, hg, -⟩ := State.path_parts hx
  refine ⟨hk, _, hv, ?_, fun b hb => ?_, fun ln hl => ?_, fun tid ht => ?_, fun tid ln ht => ?_⟩
  · simp only [h]
    split
    · exact congrArg (fun w : WG => { w with threads := x.w.threads, groups := x.w.groups, flags := x.w.flags })
        (WG.setS_rest ((x.onLanes _ x.w).orFlags fl) x.g.gid d (f _).s)
    · rfl
  · have hfl : ∀ w, (h w).flags = w.flags ||| BitVec.ofNat 32 fl := fun w => by simp only [h]; split <;> simp [WG.orFlags]
    rw [hfl, BitVec.getLsbD_or, BitVec.getLsbD_ofNat, flagsOf_testBit]
    simp only [hb, decide_true, Bool.true_and]
    rfl
  · cases he : x.exec nfo.head with
    | nil => rw [he] at hl; cases hl
    | cons l ls =>
      rw [he] at hl
      cases hl
      have := WG.setS_groups (w := (x.onLanes (fun ln t => (q ln t).past nfo.head.hold x.next) x.w).orFlags fl) hg d (f ln).s
      simp only [h, he]
      exact ⟨this.1, this.2⟩
  · rw [hth]; exact Path.onLanes_none x _ _ ht
  · rw [hth, Path.onLanes_some x _ _ ht, (State.path_thread hx ht).2]
    refine ⟨_, rfl, ?_⟩
    have hq : q ln ln.t = if ln.t.executes nfo.head then ((f ln).apply (0 < n) ln.t).knows x.w fl else ln.t.shiftStale n := rfl
    have hvc : ((q ln ln.t).past nfo.head.hold x.next).vc = (q ln ln.t).vc := by cases nfo.head.hold <;> rfl
    refine ⟨?_, ?_⟩
    rotate_left
    · have hfl := x.w.flagClock_get fl ln.t.vc
      have hb : ∀ b, fl.testBit b = (x.exec nfo.head).any (fun e => (f e).fl.testBit b) := fun b => flagsOf_testBit _ f b
      refine ⟨fun b hb7 he hr => ?_, fun k hk => ?_⟩
      · rw [hvc, hq, he]
        simp only [if_true]
        show (x.w.flagClock fl ((f ln).apply (0 < n) ln.t).vc).get 0 _ = 1
        exact (x.w.flagClock_get fl _).1 b hb7 ((hb b).trans hr)
      · rw [hvc, hq]
        by_cases he : ln.t.executes nfo.head = true
        · simp only [he, if_true]
          have h4 := congrArg Thread.vc (LaneRes.apply_spec (f ln) (0 < n) ln.t).2.2.2
          simp only at h4
          show (x.w.flagClock fl ((f ln).apply (0 < n) ln.t).vc).get 0 k = _
          rw [h4]
          exact hfl.2 k (fun b hb7 ht => hk b hb7 he ((hb b).symm.trans ht))
        · simp only [he, Bool.false_eq_true, if_false]
          have h4 := congrArg Thread.vc (Thread.stale_spec n ln.t).2
          simp only at h4
          rw [h4]
    show LaneDone nfo.head.hold (ln.t.executes nfo.head) n (f ln) x.next ln.t ((q ln ln.t).past nfo.head.hold x.next)
    rw [hq]
    by_cases hex : ln.t.executes nfo.head = true
    · obtain ⟨h1, h2, h3, h4⟩ := LaneRes.apply_spec (f ln) (0 < n) ln.t
      simp only [hex, if_true]
      exact LaneDone.of_past nfo.head.hold true n (f ln) x.next ln.t _ (by simpa [Thread.knows] using h1)
        (by simpa [Thread.knows] using h2) (fun _ => by
          rw [show (((f ln).apply (0 < n) ln.t).knows x.w fl).latches = ((f ln).apply (0 < n) ln.t).latches from rfl, h3]
          by_cases hn : n = 0
          · simp [hn, Thread.latches, latchesAfter]
          · simp [hn, Nat.pos_of_ne_zero hn, latchesAfter])
        (congrArg (fun z : Thread => { z with vc := ln.t.vc }) h4)
    · obtain ⟨h1, h2⟩ := Thread.stale_spec n ln.t
      simp only [hex, Bool.false_eq_true, if_false]
      have hv' := congrArg Thread.v h2
      have hp' := congrArg Thread.p h2
      simp only at hv' hp'
      exact LaneDone.of_past nfo.head.hold false n (f ln) x.next ln.t _ (fun k => by rw [hv']; rfl) (fun k _ => by rw [hp']; rfl)
        (fun _ => by
          rw [h1]
          by_cases hn : n = 0
          · simp [hn, Thread.latches, latchesAfter]
          · simp [hn, latchesAfter])
        (congrArg (fun z : Thread => { z with v := ln.t.v, p := ln.t.p, vc := ln.t.vc }) h2)

/-- A word that computes in each lane, where it issues. -/
theorem State.alu_computes {s : State} {i : Instr} {nfo : Info} {x : Path} {d : Opnd} {decl : Path → List Nat}
    {f : State → Path → Lane → LaneRes} (h : Issues s i nfo x { decl := decl x, uniform := sDest d (f s x) }) :
    ∃ t, s.alu i d decl f = .next t ∧ Computes s t x nfo.head (shiftCount i nfo) d (f s x) := by
  refine ⟨x.commit s i nfo d (f s x), ?_, Path.commit_computes h.path i nfo d (f s x)⟩
  unfold State.alu
  rw [h.word]
  exact State.word_next (ck := fun x => { decl := decl x, uniform := sDest d (f s x) }) h _

/-! ## After the end of a word -/

/-- What may follow the end of a word: tests that are owed, free choices, and which group a unit holds or a core runs. -/
structure Same (a b : State) : Prop where
  rest : ({ b with cores := a.cores, due := a.due, late := a.late, free := a.free } : State) = a
  cores : ∀ k, ({ b.core k with held := (a.core k).held, running := (a.core k).running } : LCore) = a.core k


theorem Same.refl (a : State) : Same a a := ⟨rfl, fun _ => rfl⟩

/-- It may follow in turn. -/
theorem Same.trans {a b c : State} (h : Same a b) (k : Same b c) : Same a c := by
  refine ⟨?_, fun n => ?_⟩
  · have h1 := k.rest
    have := congrArg (fun u : State => { u with cores := a.cores, due := a.due, late := a.late, free := a.free }) h1
    exact this.trans h.rest
  · have h1 := congrArg (fun u : LCore => { u with held := (a.core n).held, running := (a.core n).running }) (k.cores n)
    exact h1.trans (h.cores n)


/-- An owed test. -/
theorem Same.owe (a : State) (d : Due) : Same a (a.owe d) := by
  obtain ⟨_, _, h⟩ := a.owe_rest d
  rw [h]
  exact ⟨rfl, fun _ => rfl⟩

theorem Same.oweAll (a : State) (ds : List Due) : Same a (a.oweAll ds) := by
  induction ds generalizing a with
  | nil => exact Same.refl a
  | cons d ds ih => exact (Same.owe a d).trans (ih _)

/-- A switch point, and what it may do. -/
theorem Same.giveWay (a : State) (x : Path) : Same a (a.giveWay x) := by
  unfold State.giveWay
  split
  · refine ⟨by unfold State.modCore; split <;> rfl, fun k => ?_⟩
    rw [State.core_modCore]
    · split
      · next h => subst h; rfl
      · rfl
    · intro c; rfl
  · exact Same.refl a

theorem Same.switchPoint (a : State) (x : Path) : Same a (a.switchPoint x) := by
  unfold State.switchPoint
  split
  · exact Same.refl a
  · exact Same.giveWay a x


theorem Same.wgs {a b : State} (h : Same a b) : b.wgs = a.wgs := by have := congrArg State.wgs h.rest; exact this

theorem Same.wg? {a b : State} (h : Same a b) (i : Nat) : b.wg? i = a.wg? i := by unfold State.wg?; rw [h.wgs]

theorem Keeps.same {m a b : State} {x : Path} (k : Keeps m a x) (h : Same a b) : Keeps m b x := by
  refine ⟨?_, fun i hi => (h.wg? i).trans (k.others i hi), fun n => ?_⟩
  · have := congrArg (fun u : State => { u with wgs := m.wgs, cores := m.cores, due := m.due, late := m.late, free := m.free }) h.rest
    exact this.trans k.rest
  · have h1 := congrArg (fun u : LCore => { u with held := (m.core n).held, running := (m.core n).running }) (h.cores n)
    exact h1.trans (k.cores n)

theorem Acts.same {a b : State} {x : Path} {hold : Bool} {pc : Lane → Nat} {g : Lane → Thread} {w' : WG}
    (k : Acts a x hold pc g w') (h : Same a b) : Acts b x hold pc g w' := by
  unfold Acts at *; rw [h.wg?]; exact k

/-- How a word completes that ends in `finish`, followed by nothing but what `Same` allows. -/
theorem Does.of_finish {s m t : State} {i : Instr} {nfo : Info} {x : Path} {ck : Path → Checks} {body : Path → State → State}
    {pc : Lane → Nat} {f : Lane → Thread → Thread} {h : WG → WG} {hold : Bool} {g : Lane → Thread} {w' : WG}
    (hi : Issues s i nfo x (ck x)) (he : exec i s = s.word i ck body)
    (hb : body x s = t) (hm : m.wg? x.w.wid = some x.w) (ht : Same (x.finish m hold pc f h) t)
    (hw : ∀ w, (h w).wid = w.wid)
    (hh : ∀ (w : WG) (ts : List Thread),
      ({ (h { w with threads := ts }) with threads := w.threads } : WG) = h w ∧ (h { w with threads := ts }).threads = ts)
    (hg : ∀ ln, f ln ln.t = g ln) (hw' : h x.w = w') : Does s i x hold pc g m w' := by
  obtain ⟨k, a⟩ := Path.finish_acts hi.path hm hold pc f h hw hh
  have e : (fun ln => f ln ln.t) = g := funext hg
  rw [e, hw'] at a
  exact ⟨t, by rw [he, State.word_next hi, hb], k.same ht, a.same ht⟩

end Sys2Proof.Machine
end

