-- ==== Sys2Proof/Laws/Shared.lean ====
section
/-! SUPPORT. The shared operations: what each can change, said once, and that each keeps the canonical form of memory. -/

namespace Sys2Proof.Machine

/-! ## What an operation can change -/

/-- Taking a fatal trap changes the launches only: no lane writes. -/
theorem State.raise_rest (s : State) (lid core rank sub : Nat) (rs : List TrapRec) :
    ({ s.raise lid core rank sub rs with launches := s.launches } : State) = s := rfl

theorem State.raise_launch (s : State) (lid core rank sub : Nat) (rs : List TrapRec) {l : Launch} (h : s.launch? lid = some l)
    (hc : l.phase ≠ .complete) :
    (s.raise lid core rank sub rs).launch? lid
      = some { l with phase := .dying, traps := l.traps ++ [⟨s.ck, core, rank, sub, rs⟩] } := by
  have hl : l.lid = lid := by have := List.find?_some h; simpa using this
  unfold State.raise
  rw [State.launch?_modLaunch _ _ _ _ (fun l => by split <;> rfl), h]
  simp [hl, hc]

theorem State.raiseReturn_rest (s : State) (lid core : Nat) (r : TrapRec) :
    ({ s.raiseReturn lid core r with launches := s.launches } : State) = s := by
  unfold State.raiseReturn
  split
  · rfl
  · split <;> rfl

theorem Path.trap_rest (x : Path) (s : State) (cls : Nat) (who : List (Lane × Nat × Nat × Nat)) :
    ({ x.trap s cls who with launches := s.launches } : State) = s := rfl

theorem Path.hold_rest (x : Path) (s : State) (ls : List Lane) (w : Lane → Wait) :
    ({ x.hold s ls w with wgs := s.wgs } : State) = s := rfl

/-- Giving up the reads of some WAITVs changes the monitors, the requests and replies, and the page-fault requests only. -/
theorem State.dropReads_rest (s : State) (mine : Nat → Nat → Bool) :
    ({ s.dropReads mine with monitors := s.monitors, slices := s.slices, replies := s.replies, faults := s.faults } : State) = s := rfl

/-- Parking a group changes its workgroup, and what the reads of its WAITVs have under way. -/
theorem State.parkGroup_rest (s : State) (wid gid : Nat) :
    ({ s.parkGroup wid gid with
       wgs := s.wgs, monitors := s.monitors, slices := s.slices, replies := s.replies, faults := s.faults } : State) = s := rfl

/-- A stop that a group meets is noted in it and owes its taking; nothing else changes. -/
theorem State.stopGroup_rest (s : State) (wid gid : Nat) (all : Bool) (es : List DbgEv) :
    ({ s.stopGroup wid gid all es with wgs := s.wgs, due := s.due, late := s.late } : State) = s := by
  obtain ⟨_, _, h⟩ := (s.modWG wid (fun w => w.modGroup gid (fun g => g.note all es))).owe_rest (.stops wid gid)
  unfold State.stopGroup
  rw [h]
  rfl

theorem State.setDgen_rest (s : State) (ctx : Nat) (t : Trans) : ({ s.setDgen ctx t with mem := s.mem } : State) = s := by
  unfold State.setDgen
  dsimp only
  split <;> rfl

theorem State.retirePage_rest (s : State) (line : Nat) : ({ s.retirePage line with retired := s.retired, repairs := s.repairs } : State) = s := by
  unfold State.retirePage
  dsimp only
  split
  · rfl
  · split <;> rfl

/-- A page-fault request changes the requests only. -/
theorem State.sendFault_rest (s : State) (ctx va : Nat) (kind : Access) (src : FaultSrc) :
    ({ s.sendFault ctx va kind src with faults := s.faults } : State) = s := by
  unfold State.sendFault
  dsimp only
  split <;> rfl

theorem State.wakeLine_rest (s : State) (line ctx : Nat) :
    ({ s.wakeLine line ctx with wgs := s.wgs, monitors := s.monitors } : State) = s := rfl

/-- The checks of an access do not look at the last-level cache. -/
@[simp] theorem State.access_cacheOf (s t : State) (ctx va n al : Nat) (r w x : Bool) :
    (s.cacheOf t).access ctx va n al r w x = s.access ctx va n al r w x := rfl

/-- A prefetch moves what belongs to the last-level cache, and nothing else (R400). -/
theorem State.prefetch_rest (s : State) (key line : Nat) (first : Bool) :
    s.prefetch key line first = s.cacheOf (s.prefetch key line first) := by
  unfold State.prefetch
  rw [s.fetchLine_rest]

theorem State.writeM_twice_rest (s : State) (ctx key : Nat) (cs ds : List Host.Cell) : ∃ m t,
    (s.writeM ctx key cs).writeM ctx key ds = { s.cacheOf t with mem := m } := by
  obtain ⟨_, h⟩ := s.writeM_rest ctx key cs
  obtain ⟨t, h'⟩ := (s.writeM ctx key cs).writeM_rest ctx key ds
  exact ⟨_, t, by rw [h', h]⟩

/-- Every RAS record takes the next number, written or not (R264), and changes memory, what belongs to the last-level cache and the ring's
count at most. -/
theorem State.ras_eq (s : State) (r : Ras) :
    ∃ m t g, s.ras r = { s.cacheOf t with mem := m, rasSeq := s.rasSeq + 1, rasRing := g } := by
  unfold State.ras
  split
  · exact ⟨s.mem, s, s.rasRing, rfl⟩
  · dsimp only
    split
    · generalize hw : (s.writeM 0 0 _).writeM 0 0 _ = w
      obtain ⟨m, t, h⟩ := s.writeM_twice_rest 0 0 _ _
      exact ⟨m, t, _, by rw [← hw, h]⟩
    · exact ⟨s.mem, s, _, rfl⟩

/-- A trace record changes memory, what belongs to the last-level cache and the partition's count at most. -/
theorem State.trace_eq (s : State) (part kind wgid gid ncore pc unit stall act : Nat) :
    ∃ m t ps, s.trace part kind wgid gid ncore pc unit stall act = { s.cacheOf t with mem := m, parts := ps } := by
  unfold State.trace
  dsimp only
  split
  · exact ⟨s.mem, s, s.parts, rfl⟩
  · generalize hw : s.writeM 0 0 _ = w
    obtain ⟨t, h⟩ := s.writeM_rest 0 0 _
    exact ⟨_, t, _, by rw [← hw, h]; rfl⟩

/-! ## The canonical form of memory -/

theorem State.memWf_of_mem {s t : State} (h : s.memWf) (e : t.mem = s.mem) : t.memWf := by
  unfold State.memWf
  rw [e]
  exact h

/-- What keeps the canonical form keeps it over a list. -/
theorem foldl_memWf {α : Type} (f : State → α → State) (hf : ∀ s a, s.memWf → (f s a).memWf) (l : List α) (s : State) (h : s.memWf) :
    (l.foldl f s).memWf := by
  induction l generalizing s with
  | nil => exact h
  | cons a l ih => exact ih _ (hf s a h)

theorem State.publishMarked_wf {s : State} (h : s.memWf) (key : Nat) (marks : List Bool) : (s.publishMarked key marks).memWf := by
  unfold State.publishMarked
  dsimp only
  refine State.memWf_of_mem ?_ (State.modCore_mem _ _ _)
  refine foldl_memWf _ (fun s p hs => ?_) _ _ h
  split
  · exact State.writeM_wf hs _ _ _
  · exact hs

theorem State.publish_wf {s : State} (h : s.memWf) (key : Nat) (must : UStore → Bool) : (s.publish key must).memWf :=
  State.publishMarked_wf h key _

theorem State.publishAll_wf {s : State} (h : s.memWf) (key : Nat) (mine : UStore → Bool) : (s.publishAll key mine).memWf :=
  State.publishMarked_wf h key _

theorem State.publishLine_wf {s : State} (h : s.memWf) (key : Nat) (clk : Clock) (line : Nat) : (s.publishLine key clk line).memWf :=
  State.publishMarked_wf (State.memWf_of_mem h (State.modCore_mem _ _ _)) key _

theorem State.lodgeWrite_wf {s : State} (h : s.memWf) (ctx va : Nat) (bs : List Byte) : (s.lodgeWrite ctx va bs).1.memWf := by
  unfold State.lodgeWrite
  split
  · split
    · exact h
    · exact State.writeM_wf (State.setDgen_wf h _ _) _ _ _
  · exact h

theorem State.lodgeExch_wf {s : State} (h : s.memWf) (ctx va x : Nat) : (s.lodgeExch ctx va x).1.memWf := by
  have hw := State.lodgeWrite_wf h ctx va (bytesOf 8 x)
  unfold State.lodgeExch
  dsimp only
  split
  · split
    · exact State.memWf_of_mem hw rfl
    · exact hw
  · exact hw

theorem State.ringPut_wf {s : State} (h : s.memWf) (ctx : Nat) (r : Ring) (i : Nat) (bs : List Byte) : (s.ringPut ctx r i bs).memWf := by
  have hw := State.lodgeWrite_wf h ctx (r.base + 64 * (i % 2 ^ r.k)) bs
  unfold State.ringPut
  dsimp only
  split
  · split
    · exact hw
    · split
      · exact State.lodgeExch_wf hw _ _ _
      · exact h
  · exact h

theorem State.sendFault_wf {s : State} (h : s.memWf) (ctx va : Nat) (kind : Access) (src : FaultSrc) : (s.sendFault ctx va kind src).memWf :=
  by
  unfold State.sendFault
  dsimp only
  split <;> exact h

theorem State.ringWrite_wf {s : State} (h : s.memWf) (ctx : Nat) (dbg : Bool) (r : Ring) (bs : List Byte) :
    (s.ringWrite ctx dbg r bs).1.memWf := by
  unfold State.ringWrite
  split
  · exact State.sendFault_wf h _ _ _ _
  · split
    · exact State.ringPut_wf h _ _ _ _
    · exact h

theorem State.ringFlush_wf {s : State} (h : s.memWf) (ctx : Nat) (dbg : Bool) (drop : Nat → Bool) (r : Ring) (es : List (Nat × List Byte)) :
    (s.ringFlush ctx dbg drop r es).1.memWf := by
  induction es generalizing s with
  | nil => exact h
  | cons e es ih =>
    unfold State.ringFlush
    split
    · split
      · exact ih h
      · exact State.sendFault_wf h _ _ _ _
    · exact ih (State.ringPut_wf h _ _ _ _)

theorem State.ras_wf {s : State} (h : s.memWf) (r : Ras) : (s.ras r).memWf := by
  have hr : ∀ (u : State) (q : Nat) (g : Option Ring), u.memWf → ({ u with rasSeq := q, rasRing := g } : State).memWf :=
    fun _ _ _ hu => hu
  unfold State.ras
  split
  · exact h
  · dsimp only
    split
    · exact hr _ _ _ (State.writeM_wf (State.writeM_wf h 0 0 _) 0 0 _)
    · exact hr _ _ _ h

theorem State.trace_wf {s : State} (h : s.memWf) (part kind wgid gid ncore pc unit stall act : Nat) :
    (s.trace part kind wgid gid ncore pc unit stall act).memWf := by
  unfold State.trace
  dsimp only
  generalize cellsAt _ _ = c
  split
  · exact h
  · exact State.memWf_of_mem (State.writeM_wf h 0 0 c) rfl

theorem State.writeRecords_wf {s : State} (h : s.memWf) (ctx : Nat) (dropped : Bool) (es : List (TrapRec × Bool)) :
    (State.writeRecords ctx dropped s es).memWf := by
  induction es generalizing s with
  | nil => exact h
  | cons e es ih =>
    unfold State.writeRecords
    split
    · exact h
    · exact ih (State.memWf_of_mem (State.ringWrite_wf h _ _ _ _) rfl)

/-! ## Words -/

/-- A word that computes in each lane, issued through the shared operation, has the effect that its results say. -/
theorem State.alu_yields {s : State} {i : Instr} {nfo : Info} {x : Path} {d : Opnd} {decl : Path → List Nat}
    {f : State → Path → Lane → LaneRes} {f' : Lane → LaneRes} (h : Issues s i nfo x { decl := decl x, uniform := sDest d f' })
    (hf : ∀ ln, f s x ln = f' ln) :
    ∃ t, s.alu i d decl f = .next t ∧ Computes s t x nfo.head (shiftCount i nfo) d f' := by
  have e : f s x = f' := funext hf
  subst e
  exact State.alu_computes (decl := decl) h

/-- A word that is not ready changes nothing. -/
theorem State.alu_waits {s : State} {i : Instr} {nfo : Info} {x : Path} {d : Opnd} {decl : Path → List Nat}
    {f : State → Path → Lane → LaneRes} (hi : info i = some nfo) (hx : s.path = some x) (hr : s.readyWord i nfo x = false) :
    s.alu i d decl f = .next s := by
  unfold State.alu
  rw [hi]
  exact State.word_waits hi hx hr _ _

end Sys2Proof.Machine
end

