-- ==== Sys2Proof/Tests/Slice0.lean ====
section
/-! SUPPORT. Tests: words of the spec decoded, ill-formed terms refused, single steps, and for every statement a concrete state and
operands that meet its hypotheses. -/

namespace Sys2Proof.Tests

open Sys2Proof Sys2Proof.Machine

set_option Elab.async false

/-! ## Words to test with -/

/-- Always executed, outside a hold region. -/
def hd : Head := ⟨false, false, 7⟩
def v (r : BitVec 7) : Opnd := .v r
/-- A small immediate, a mask name or a predicate name. -/
def im (x : BitVec 5) : Opnd := .imm x
def fw (d a b c : Opnd) (ty : Ty) (mods : BitVec 12) : FWord := ⟨hd, false, d, a, b, c, ty, mods⟩
def iw (d a : Opnd) (k : BitVec 32) : IWord := ⟨hd, false, d, a, false, k⟩
def mw (d a : Opnd) (width space : BitVec 3) : MWord := ⟨hd, false, d, a, 0, width, space, false, 0, false, 0, 0⟩

/-! ## A state in which a word issues -/

/-- The word placed, with its path standing at it. -/
def at_ (i : Instr) : State :=
  { State.reset.withFetchWord 64 (((encode i).getD 0).toNat) with issue := [], cur := some loadCur }

/-- Whether a word issues. -/
def issuesNow (s : State) (i : Instr) (ck : Path → Checks) : Bool :=
  match info i, s.path with
  | some n, some x => s.readyWord i n x && (s.ctx x.ctx).dbg.breakAt x.cur.pc == none && (s.firstTrap i x n (ck x)).isNone
      && !(x.exec n.head).isEmpty
  | _, _ => false

theorem issues_of {s : State} {i : Instr} {ck : Path → Checks} (h : issuesNow s i ck = true) :
    ∃ nfo x, Issues s i nfo x (ck x) := by
  unfold issuesNow at h
  split at h
  · next n x hn hx =>
    simp only [Bool.and_eq_true, beq_iff_eq, Option.isNone_iff_eq_none, Bool.not_eq_true', List.isEmpty_eq_false_iff] at h
    exact ⟨n, x, hn, hx, h.1.1.1, h.1.1.2, h.1.2, h.2⟩
  · cases h

/-- Every word of a list issues with no further checks. -/
def allIssue (l : List Instr) : Bool := l.all (fun i => isWord i && formOk i && issuesNow (at_ i) i (fun _ => {}))

abbrev N : Opnd := .none
def d3 (t : Ty) (m : BitVec 12) : FWord := fw (v 10) (v 1) (v 2) (v 3) t m
def d2 (t : Ty) (m : BitVec 12) : FWord := fw (v 10) (v 1) (v 2) N t m
def d1 (t : Ty) (m : BitVec 12) : FWord := fw (v 10) (v 1) N N t m
def bare (m : BitVec 12) : FWord := fw N N N N .b32 m

def integerWords : List Instr :=
  [.iadd (d2 .i32 0), .isub (d2 .i32 0), .imul (d2 .i32 0), .imad (d3 .i32 0), .imin (d2 .i32 0), .imax (d2 .i32 0), .iabs (d1 .i32 0),
   .ineg (d1 .i32 0), .imulhi (d2 .i32 0), .iaddc (d2 .n32 0x38), .isubb (d2 .n32 0x38), .icmp (d2 .i32 0), .ipopc (d1 .b32 0),
   .iclz (d1 .b32 0), .ibrev (d1 .b32 0), .ibfe (d2 .i32 0), .ibfi (d3 .b32 0), .lop (d3 .b32 0x96), .lea (fw (v 10) (v 2) (v 4) N .b64 1),
   .shl (d2 .b32 0), .shr (d2 .b32 0), .sar (d2 .b32 0)]
def immediateWords : List Instr :=
  [.iaddImm (iw (v 10) (v 1) 5), .isubImm (iw (v 10) (v 1) 5), .imulImm (iw (v 10) (v 1) 5), .iminImm (iw (v 10) (v 1) 5),
   .imaxImm (iw (v 10) (v 1) 5), .imulhiImm (iw (v 10) (v 1) 5), .leaImm (iw (v 10) (v 2) 5), .shlImm (iw (v 10) (v 1) 5),
   .shrImm (iw (v 10) (v 1) 5), .sarImm (iw (v 10) (v 1) 5), .movi (iw (v 10) N 5), .faddImm (iw (v 10) (v 1) 5),
   .fmulImm (iw (v 10) (v 1) 5), .fminImm (iw (v 10) (v 1) 5), .fmaxImm (iw (v 10) (v 1) 5)]
def moveWords : List Instr :=
  [.nop (bare 0), .sel (d2 .b32 0), .mov (d1 .b32 0), .movSpecial (fw (v 10) N N N .b32 4), .movSpecial (fw (v 10) N N N .b32 0x13),
   .plop (fw N (im 16) (im 17) (im 18) .b32 0x080), .pmovToReg (fw (v 10) N N N .b32 0x7F), .pmovFromReg (fw N (v 1) N N .b32 0x47F),
   .pmovPred (fw (v 10) N N N .b32 0x800)]
def floatWords : List Instr :=
  [.fadd (d2 .f32 0), .fsub (d2 .f32 0), .fmul (d2 .f32 0), .ffma (d3 .f32 0), .fmin (d2 .f32 0), .fmax (d2 .f32 0), .fabs (d1 .f32 0),
   .fneg (d1 .f32 0), .fclass (d1 .f32 0), .frnd (d1 .f32 0), .fcmp (d2 .f32 0), .fcvt (d1 .f32 0x20), .frcp (d1 .f32 0), .frsq (d1 .f32 0),
   .fsqrt (d1 .f32 0), .fexp2 (d1 .f32 0), .flog2 (d1 .f32 0), .ftanh (d1 .f32 0), .npack (fw (v 10) (v 4) (im 16) N .e4m3 0),
   .nunpk (fw (v 8) (v 1) (im 16) N .e4m3 0), .nscale (fw (v 10) (v 4) N N .e4m3 0)]
def groupWords : List Instr :=
  [.gshfl (d2 .b32 0), .gbfly (d2 .b32 0), .gred (d1 .i32 0), .gscan (d1 .i32 0), .gvote (d1 .b32 0), .gmatch (d1 .b32 0), .grank (d1 .b32 0)]
def maskWords : List Instr :=
  [.join (fw N (im 16) N N .b32 0), .leave (fw N (im 16) N N .b32 0), .kwait (fw N (im 16) N N .b32 0), .kmov (fw N (im 16) N (im 27) .b32 0),
   .kand (fw N (im 16) (im 17) (im 27) .b32 0), .kor (fw N (im 16) (im 17) (im 27) .b32 0), .krd (fw (v 10) (im 27) N N .b32 0)]
def controlWords : List Instr :=
  [.yield (bare 0), .exit (bare 0), .bkpt (bare 0), .trap (fw N (im 16) N N .b32 0), .switch (fw N (v 1) N N .b32 0),
   .time (fw (v 10) N N N .b64 0)]
def memoryWords : List Instr :=
  [.ld (mw (v 10) (v 2) 2 0), .lds (mw (v 10) (v 1) 2 1), .lda (mw (v 10) (v 2) 2 2), .ldb (mw (v 10) (v 2) 7 0), .ldb (mw (v 10) (v 1) 7 1),
   .st (mw (v 10) (v 2) 2 0), .sts (mw (v 10) (v 1) 2 1), .pref (mw N (v 2) 0 0), .phasePub (bare 1), .phaseRef (bare 2), .phase (bare 3),
   .fence (bare 0), .wake (fw N (v 2) N N .b32 0), .waitv (fw (v 10) (v 2) (v 4) N .b32 0)]

/-- Whether a word issues under the checks of its entry, and its path meets the other conditions of a statement. -/
def meets (s : State) (i : Instr) (ck : Path → Checks) (hyp : Path → Bool) : Bool := wf i && issuesNow s i ck && s.path.any hyp

def size (x : Path) : Nat := x.l.hdr.scr * 8192
def first (x : Path) (f : Lane → Bool) : Bool := match x.exec hd with | ln :: _ => f ln | [] => false
def withWG (f : WG → WG) (s : State) : State := s.modWG 1 f
def withS (r : Nat) (n : Nat) (s : State) : State :=
  let f := fun (w : WG) => { w with groups := w.groups.map (fun g => { g with s := g.s.putAll 0 r [BitVec.ofNat 32 n] }) }
  { s with wgs := s.wgs.map f, before := s.before.map f }
/-- A barrier object, set up for n threads. -/
def withBar (b : Nat) (o : Bar) (s : State) : State := withWG (fun w => w.setBar 2097152 b o) s
def bar16 : Bar := ⟨0, false, 16, 0, 0, 0, 0⟩

def branch (t : Nat) (_ : Path) : Checks := { lane := fun _ => if t % 8 ≠ 0 then [13] else [], target := some (fun _ => t) }
def uni (more : List (Nat × (Lane → Nat))) : Checks := { uniform := more }

/-- Every executing lane may access its bytes, and no watchpoint covers them. -/
def mayAccess (s : State) (va : Path → Lane → Nat) (n align : Nat) (r w : Bool) (x : Path) : Bool :=
  (x.exec hd).all (fun ln => match s.access x.ctx (va x ln) n align r w false with | .ok [_] => true | _ => false)
  && (s.watched x false r w (fun ln => rangeBytes (va x ln) n) (x.exec hd)).isEmpty
def zeroVa (_ : Path) (_ : Lane) : Nat := 0

def kset0 : FWord := fw N (v 2) N (im 27) .b32 0
def regroup0 : Instr := .regroup ⟨hd, false, N, 2, false, 8⟩
def atom0 : FWord := fw (v 10) (v 2) (v 4) N .n32 0
def lrcall0 : FWord := fw (v 10) (v 2) (v 4) (im 17) .b64 64
/-- The same under p0. -/
def lrcallP : FWord := { lrcall0 with hd := ⟨false, false, 0⟩ }
def atomScr0 : FWord := fw (v 10) (v 1) (v 4) N .n32 0x20
def lrdef0 (n : BitVec 5) : FWord := fw N (.s 20) (im n) N .b32 0
def lrdefS : FWord := fw N (.s 20) (.s 30) N .b32 0
def lrdrop0 (n : BitVec 5) : FWord := fw N N (im n) N .b32 0
def lrdropS : FWord := fw N N (.s 30) N .b32 0
def routines (x : Path) : Checks := uni [(1, fun ln => x.pair ln (.s 20)), (2, fun ln => x.read32 ln (im 16))]

/-- A SWITCH under p0, which is false in every lane. -/
def switchOff : Instr := .switch { fw N (v 1) N N .b32 0 with hd := ⟨false, false, 0⟩ }

def controlOk : List Bool :=
  [meets (at_ (.kset kset0)) (.kset kset0) (fun x => uni [(1, fun ln => x.read ln .b32 (v 2))]) (fun x => first x (fun _ => true)),
   meets (at_ (.bra (iw N N 8))) (.bra (iw N N 8)) (branch 0x10088) (fun _ => true),
   meets (at_ (.call (iw (v 4) N 8))) (.call (iw (v 4) N 8)) (branch 0x10088) (fun _ => true),
   meets (at_ (.brx (fw N (v 2) N N .b64 0))) (.brx (fw N (v 2) N N .b64 0)) (branch 0) (fun _ => true),
   meets (at_ (.ret (fw N (v 2) N N .b64 0))) (.ret (fw N (v 2) N N .b64 0)) (branch 0) (fun _ => true),
   meets (at_ (.switch (fw N (v 1) N N .b32 0))) (.switch (fw N (v 1) N N .b32 0)) (fun _ => {})
     (fun x => match (at_ (.switch (fw N (v 1) N N .b32 0))).fetch x.l 0x10088 with | .word e => e == 0 | _ => false),
   (match info switchOff, (at_ switchOff).path with
    | some n, some x => (at_ switchOff).readyWord switchOff n x && ((at_ switchOff).firstTrap switchOff x n {}).isNone && (x.exec n.head).isEmpty
        && (match (at_ switchOff).fetch x.l 0x10088 with | .word e => e == 0 | _ => false)
    | _, _ => false),
   meets (withWG (fun w => { w with groups := w.groups.map (fun g => { g with stage := 1 }) }) (at_ regroup0)) regroup0 (fun _ => {})
     (fun x => 2 ≤ x.l.hdr.regs),
   meets (at_ (.exit (bare 0))) (.exit (bare 0)) (fun _ => {}) (fun x => (x.w.poisonedBar (size x)).isNone),
   meets (withWG (fun w => w.modThreads (fun i t => if i < 8 then t else { t with slot := some ⟨.none, 1, false⟩ })) (at_ (.exit (bare 0)))) (.exit (bare 0))
     (fun _ => {}) (fun x => (x.w.poisonedBar (size x)).isNone && (x.exec hd).any (fun ln => ln.t.slot.isSome)),
   isLocal 0 && (State.reset.waysAt (State.reset.setOf 0)).length == 16 && State.reset.quarantined.isEmpty
     && State.reset.struckWays.get 0 (State.reset.setOf 0) == 0]

/-- The placed program's page on DET pages, its launch deterministic. -/
def onDet (s : State) : State :=
  { s with mem := { s.mem with bytes := s.mem.bytes.put unlisted (2 ^ 21) 63 }, launches := s.launches.map (fun l => { l with det := true }) }
/-- A window that holds its 256 requests, of another workgroup. -/
def fullWindow (s : State) : State :=
  { s with launches := s.launches.map (fun l => { l with window := List.replicate 256 windowReq }) }
where windowReq : Req :=
  { kind := .lrcall, lid := 1, wid := 9, tid := 0, core := 0, ctx := 0, key := 1, va := 0, pa := 0, r := 64, opnds := [1], d := .none, pc := 0x10080,
    ordinal := 0, phc := 0, detn := 0, det := true, wgid := 0, clk := [], lvl := 3, ea := 0, base := 0 }

def memoryOk : List Bool :=
  [meets (at_ (.ld (mw (v 10) (v 2) 2 0))) (.ld (mw (v 10) (v 2) 2 0)) (fun _ => {})
     (mayAccess (at_ (.ld (mw (v 10) (v 2) 2 0))) zeroVa 4 4 true false),
   meets (at_ (.ldb (mw (v 10) (v 2) 7 0))) (.ldb (mw (v 10) (v 2) 7 0)) (fun _ => {})
     (mayAccess (at_ (.ldb (mw (v 10) (v 2) 7 0))) zeroVa 34 (globalAlign 7) true false),
   meets (at_ (.st (mw (v 10) (v 2) 2 0))) (.st (mw (v 10) (v 2) 2 0)) (fun _ => {})
     (mayAccess (at_ (.st (mw (v 10) (v 2) 2 0))) zeroVa 4 4 false true),
   meets (at_ (.lds (mw (v 10) (v 1) 2 1))) (.lds (mw (v 10) (v 1) 2 1)) (fun _ => {})
     (fun x => 4 ≤ size x && scrAligned (mw (v 10) (v 1) 2 1) 0),
   meets (at_ (.ldb (mw (v 10) (v 1) 7 1))) (.ldb (mw (v 10) (v 1) 7 1)) (fun _ => {})
     (fun x => 34 ≤ size x && scrAligned (mw (v 10) (v 1) 7 1) 0),
   meets (at_ (.sts (mw (v 10) (v 1) 2 1))) (.sts (mw (v 10) (v 1) 2 1)) (fun _ => {})
     (fun x => 4 ≤ bermOf (size x) && scrAligned (mw (v 10) (v 1) 2 1) 0),
   meets (at_ (.stb (mw (v 10) (v 2) 5 0))) (.stb (mw (v 10) (v 2) 5 0)) (fun _ => {})
     (mayAccess (at_ (.stb (mw (v 10) (v 2) 5 0))) zeroVa (memBytes 5) (globalAlign 5) false true),
   meets (at_ (.stb (mw (v 10) (v 1) 7 1))) (.stb (mw (v 10) (v 1) 7 1)) (fun _ => {})
     (fun x => (scrBytes (mw (v 10) (v 1) 7 1) 0).all (fun b => b < bermOf (size x)) && scrAligned (mw (v 10) (v 1) 7 1) 0),
   meets (at_ (.lda (mw (v 10) (v 2) 2 2))) (.lda (mw (v 10) (v 2) 2 2)) (fun _ => {})
     (mayAccess (at_ (.lda (mw (v 10) (v 2) 2 2))) zeroVa 4 4 true false),
   meets (at_ (.wake (fw N (v 2) N N .b32 0))) (.wake (fw N (v 2) N N .b32 0)) (fun _ => {})
     (mayAccess (at_ (.wake (fw N (v 2) N N .b32 0))) zeroVa 1 1 true false),
   meets (at_ (.waitv (fw (v 10) (v 2) (v 4) N .b32 0))) (.waitv (fw (v 10) (v 2) (v 4) N .b32 0)) (fun _ => {})
     (mayAccess (at_ (.waitv (fw (v 10) (v 2) (v 4) N .b32 0))) zeroVa 4 4 true false),
   meets (at_ (.atom atom0)) (.atom atom0) (fun _ => {}) (mayAccess (at_ (.atom atom0)) zeroVa 4 4 true true),
   meets (at_ (.lrcall lrcall0)) (.lrcall lrcall0) (fun _ => {}) (mayAccess (at_ (.lrcall lrcall0)) zeroVa (lrAlign 64) (lrAlign 64) true true),
   (let s := withWG (fun w => w.modThreads (fun i t => { t with p := if i = 0 then 0 else 1 })) (fullWindow (onDet (at_ (.lrcall lrcallP))))
    meets s (.lrcall lrcallP) (fun _ => {}) (fun x => 256 ≤ x.l.window.length && !(x.exec lrcallP.hd).isEmpty
      && (x.exec lrcallP.hd).all (fun ln => (match s.access x.ctx 0 (lrAlign 64) (lrAlign 64) true true false with | .ok [t] => t.det | _ => false)
        && s.frontierOf x.l != some (ln.t.phc, x.w.wgid, ln.tid, ln.t.detc)))),
   meets (at_ (.atomScr atomScr0)) (.atomScr atomScr0) (fun _ => {}) (fun x =>
     (x.exec hd).all (fun _ => scrFault (size x) [0, 1, 2, 3] true true == 0) && ((x.exec hd).map (fun ln => ln.lane)).Nodup
       && ((x.exec hd).map (fun ln => ln.tid)).Nodup),
   meets (at_ (.lrdef (lrdef0 16))) (.lrdef (lrdef0 16)) routines (fun x => mayAccess (at_ (.lrdef (lrdef0 16))) zeroVa 128 128 true false x
     && imageStatus 0 != 0),
   meets (withS 30 64 (at_ (.lrdef lrdefS))) (.lrdef lrdefS) (fun x => uni [(1, fun ln => x.pair ln (.s 20)), (2, fun ln => x.read32 ln (.s 30))])
     (fun x => first x (fun ln => 64 ≤ x.read32 ln (.s 30))),
   meets (withS 30 64 (at_ (.lrdrop lrdropS))) (.lrdrop lrdropS) (fun x => uni [(2, fun ln => x.read32 ln (.s 30))])
     (fun x => first x (fun ln => 64 ≤ x.read32 ln (.s 30))),
   meets (at_ (.lrdrop (lrdrop0 16))) (.lrdrop (lrdrop0 16)) (fun x => uni [(2, fun ln => x.read32 ln (im 16))])
     (fun x => match (at_ (.lrdrop (lrdrop0 16))).checkPage x.ctx ((at_ (.lrdrop (lrdrop0 16))).entryVa x.ctx 0) true false false with
       | .ok _ => true | _ => false)]

def conf0 : Conf := ⟨0, BitVec.ofNat 64 (((encode (.ffma (d3 .f32 0))).getD 0).toNat), 0, 0, 0, 5, 1⟩
def withConf (s : State) : State := withWG (fun w => w.modThreads (fun _ t => { t with conf := some conf0 })) s
def sysrd0 : FWord := fw (v 10) N N N .b32 0x42
def syswr0 : FWord := fw N N (v 1) N .b32 0x40
def trap0 : FWord := fw N (im 16) N N .b32 0
def stamp0 (form : BitVec 12) : FWord := if form = 0 then fw N (im 16) (im 16) (.s 20) .b32 0 else fw N (im 16) N N .b32 form

def systemOk : List Bool :=
  [meets (at_ (.sysrd sysrd0)) (.sysrd sysrd0) (fun x => { sysChecks sysrd0 false x with uniform := [] }) (fun _ => true),
   meets (at_ (.syswr syswr0)) (.syswr syswr0) (sysChecks syswr0 true) (fun _ => true),
   meets (withConf (at_ (.trapret (bare 0)))) (.trapret (bare 0)) (fun _ => {}) (fun x => x.lanes.all (fun ln => ln.t.conf == some conf0)),
   meets (at_ (.trap trap0)) (.trap trap0) (fun _ => {}) (fun _ => true),
   meets ((at_ (.bkpt (bare 0))).modCtx 0 (fun c => { c with dbg := { c.dbg with holder := some 1 } })) (.bkpt (bare 0)) (fun _ => {})
     (fun x => x.lanes.any (fun ln => !ln.t.skip)),
   meets (at_ (.stampIn (stamp0 0))) (.stampIn (stamp0 0)) (stampChecks (stamp0 0) 0) (fun x => !(x.w.stamp 0).isOpen),
   meets (withWG (fun g => g.modStamp 0 (fun z => { z with isOpen := true })) (at_ (.stampIn (stamp0 0)))) (.stampIn (stamp0 0))
     (stampChecks (stamp0 0) 0) (fun x => (x.w.stamp 0).isOpen),
   meets (at_ (.stampMma (stamp0 1))) (.stampMma (stamp0 1)) (stampChecks (stamp0 1) 1) (fun x => first x (fun _ => true)),
   meets (at_ (.stampOut (stamp0 2))) (.stampOut (stamp0 2)) (stampChecks (stamp0 2) 2) (fun x => first x (fun _ => true))]

def bar0 (d b : Opnd) : FWord := fw d (im 16) b N .b32 0
def barCk (more : List (Nat × (Path → Lane → Nat))) (x : Path) : Checks :=
  { lane := fun ln => if 1024 ≤ x.read32 ln (im 16) then [14] else [],
    uniform := (1, fun ln => x.read32 ln (im 16)) :: more.map (fun p => (p.1, p.2 x)) }
def barHyp (f : Bar → Bool) (x : Path) : Bool := first x (fun _ => f (x.w.bar (size x) 0))

def barrierOk : List Bool :=
  [meets (withBar 0 bar16 (at_ (.bararv (bar0 (v 10) N)))) (.bararv (bar0 (v 10) N)) (barCk [])
     (fun x => barHyp (fun o => o.expect != 0 && o.arrived + (x.exec hd).length ≤ o.expect) x),
   meets (withBar 0 bar16 (at_ (.bar (bar0 (v 10) N)))) (.bar (bar0 (v 10) N)) (barCk [])
     (fun x => barHyp (fun o => o.expect != 0 && !o.poison && o.arrived + (x.exec hd).length ≤ o.expect) x),
   meets (withWG (fun w => w.modThreads (fun _ t => { t with resumed := some (2, 0) }))
       (withBar 0 { bar16 with arrived := 16 } (at_ (.bar (bar0 (v 10) N))))) (.bar (bar0 (v 10) N)) (barCk [])
     (fun x => barHyp (fun o => o.expect != 0 && !o.poison && o.arrived ≤ o.expect) x
       && (x.exec hd).all (fun ln => ln.t.resumed.any (fun r => r.1 = 2))),
   meets (withBar 0 bar16 (at_ (.barwait (bar0 (v 10) (v 2))))) (.barwait (bar0 (v 10) (v 2))) (barCk [])
     (barHyp (fun o => o.expect != 0 && !o.poison)),
   meets (withBar 0 bar16 (at_ (.bartx (bar0 N (im 20))))) (.bartx (bar0 N (im 20))) (barCk [(2, fun x ln => x.read32 ln (im 20))])
     (barHyp (fun o => o.expect != 0)),
   meets (at_ (.barinit (bar0 N (im 20)))) (.barinit (bar0 N (im 20))) (barCk [(2, fun x ln => x.read32 ln (im 20))])
     (barHyp (fun o => o.arrived == 0 && o.pend == 0)),
   meets (at_ (.xbarv (bar0 N N))) (.xbarv (bar0 N N)) (barCk []) (fun x => (x.l.xbar 0).member.getLsbD 0 && !(x.l.xbar 0).arrived.getLsbD 0),
   meets (at_ (.xbwait (bar0 N (v 2)))) (.xbwait (bar0 N (v 2))) (barCk [(2, fun x ln => x.read32 ln (v 2))]) (fun x => (x.l.xbar 0).gen == 0),
   meets (withS 30 1 (at_ (.xbwait (bar0 N (.s 30))))) (.xbwait (bar0 N (.s 30))) (barCk [(2, fun x ln => x.read32 ln (.s 30))]) (fun x => (x.l.xbar 0).gen != 1),
   meets (withWG (fun w => { w with win := w.win.put 0 0 1 }) (at_ (.xbset (bar0 N (.s 30))))) (.xbset (bar0 N (.s 30)))
     (barCk [(2, fun x ln => x.read32 ln (.s 30))])
     (fun x => natOfBytes (x.w.win.getN 0 0 32) != 0 && lowBit (x.l.xbar 0).member == 0 && 32 ≤ size x)]

def copy0 (b : Opnd) : FWord := fw N (.s 24) b N .b32 0
def copyOk (row : (FWord → Instr) × Nat × List Nat) (desc : Nat → Nat) : Bool :=
  let w := copy0 (if row.2.1 = 5 then .s 20 else N)
  let s := (List.range 8).foldl (fun s i => withS (24 + i) (desc i) s) (at_ (row.1 w))
  issuesNow s (row.1 w) (fun _ => {}) && s.path.any (fun x => first x (fun ln =>
    let desc := wordsOf 8 (readRegs x.old.s ln.t w.a 8)
    let d := descNum desc
    let es := elemsOf row.2.1 d 0 (readList x.w.win row.2.1 d)
    let rd := s.detRuns x.ctx false (readRuns d es)
    let wr := s.detRuns x.ctx true (writeRuns row.2.1 d es)
    let new := newRanges 0 rd.2 wr.2
    (x.copyChecks s w.hd row.2.1 row.2.2 0 d).isNone && rd.1.isNone && wr.1.isNone && x.w.openRanges + new.length ≤ 64
      && ((x.w.queues.getD 0 []).filter (fun c => !c.done)).length < 32 && !rangeClash x.w.ranges 0 rd.2 wr.2))

def cb0 (d b : Opnd) (m : BitVec 12) : FWord := fw d (im 16) b N .b32 m
def cbCk (w : FWord) (more : List (Nat × (Path → Lane → Nat))) (x : Path) : Checks := cbChecks w (more.map (fun p => (p.1, p.2 x))) x
def withCb (b : CBuf) (s : State) : State := withWG (fun w => w.modCb 0 (fun _ => b)) s
def queueOk : List Bool :=
  [meets (at_ (.qfence (bare 1))) (.qfence (bare 1)) (fun _ => {}) (fun x => 1 < 2 ^ x.l.hdr.queues && ((x.w.queues.getD 0 []).filter (fun c => !c.done)).length < 32),
   meets (at_ (.qwait (bare 1))) (.qwait (bare 1)) (fun _ => {}) (fun x => !x.w.pendingBelow 1 x.w.serial),
   meets (at_ (.cbrelCfg (cb0 N (im 20) 1))) (.cbrelCfg (cb0 N (im 20) 1)) (cbCk (cb0 N (im 20) 1) [(2, fun x ln => x.read32 ln (im 20))])
     (fun x => first x (fun ln => (x.w.cb 0).slots == 0 && x.read32 ln (im 20) == 4)),
   meets (withCb ⟨2, 2, 0, 0, 0, 0⟩ (at_ (.cbacq (cb0 (v 10) N 0)))) (.cbacq (cb0 (v 10) N 0)) (cbCk (cb0 (v 10) N 0) [])
     (fun x => (x.w.cb 0).slots != 0 && (x.w.cb 0).filled == 0),
   meets (withCb ⟨2, 1, 1, 0, 1, 0⟩ (at_ (.cbacq (cb0 (v 10) N 0)))) (.cbacq (cb0 (v 10) N 0)) (cbCk (cb0 (v 10) N 0) [])
     (fun x => (x.w.cb 0).slots != 0 && (x.w.cb 0).filled != 0),
   meets (withCb ⟨2, 1, 0, 1, 1, 1⟩ (at_ (.cbrel (cb0 N N 0)))) (.cbrel (cb0 N N 0)) (cbCk (cb0 N N 0) [])
     (fun x => (x.w.cb 0).slots != 0 && (x.w.cb 0).held != 0)]

def cvput0 : FWord := fw N (.s 20) (v 2) (v 4) .b64 0
def cvseal0 : FWord := fw (.s 20) N N N .b64 0
def launch0 : FWord := fw (.s 20) (.s 30) (.s 22) N .b64 0
/-- A LAUNCH that has read its record and waits for room. -/
def relaunching : State := withWG (fun w => w.modThreads (fun _ t => { t with launchAt := some (some 1) })) (at_ (.launch launch0))
def codeOk : List Bool :=
  [meets (at_ (.cvput cvput0)) (.cvput cvput0) (fun x => uni [(1, fun ln => x.pair ln (.s 20))])
     (fun x => ((at_ (.cvput cvput0)).openImage x.ctx 0 0).isSome),
   meets (at_ (.cvseal cvseal0)) (.cvseal cvseal0) (fun _ => {}) (fun x => (((at_ (.cvseal cvseal0)).ctx x.ctx).handle 0).isNone),
   meets (at_ (.launch launch0)) (.launch launch0)
     (fun x => { lane := fun ln => if 4096 ≤ x.read32 ln (.s 30) ∨ ((at_ (.launch launch0)).queue (x.read32 ln (.s 30))).ctx ≠ x.ctx then [14] else [] })
     (fun x => mayAccess (at_ (.launch launch0)) zeroVa 128 128 true true x && !((at_ (.launch launch0)).queue 0).full
       && x.lanes.all (fun ln => ln.t.launchAt.isNone)),
   meets relaunching (.launch launch0)
     (fun x => { lane := fun ln => if 4096 ≤ x.read32 ln (.s 30) ∨ (relaunching.queue (x.read32 ln (.s 30))).ctx ≠ x.ctx then [14] else [] })
     (fun x => mayAccess relaunching zeroVa 128 128 true true x && !(relaunching.queue 0).full
       && (x.exec hd).all (fun ln => ln.t.launchAt == some (some 1)))]

def descOfRow (n : Nat) (i : Nat) : Nat :=
  match n with
  | 2 => if i = 5 then 12 * 2 ^ 20 + 12 * 2 ^ 25 else if i = 7 then 2 ^ 28 else 0
  | 4 | 7 => if i = 7 then 2 ^ 27 else 0
  | _ => 0
def copiesOk : List Bool := copyRows.zipIdx.map (fun p => copyOk p.1 (descOfRow p.2))

/-- A CPIN from a DET page while 64 ranges are open. -/
def crowdedOk : Bool :=
  let w := copy0 N
  let s := withS 27 (64 * 2 ^ 16 + 1) (withWG (fun g => { g with ranges := List.replicate 64 ⟨0, false, [], none⟩ }) (onDet (at_ (.cpin w))))
  issuesNow s (.cpin w) (fun _ => {}) && s.path.any (fun x => first x (fun ln =>
    let d := descNum (wordsOf 8 (readRegs x.old.s ln.t w.a 8))
    let es := elemsOf 1 d 0 (readList x.w.win 1 d)
    let rd := s.detRuns x.ctx false (readRuns d es)
    let wr := s.detRuns x.ctx true (writeRuns 1 d es)
    (x.copyChecks s w.hd 1 [0] 0 d).isNone && rd.1.isNone && wr.1.isNone && 64 < x.w.openRanges + (newRanges 0 rd.2 wr.2).length
      && x.l.hdr.queues ≤ 8 && (List.range 8).all (fun i => ((x.w.queues.getD i []).filter (fun c => !c.done)).length < 31)))

/-- An int8 shape of one tile. -/
def shape0 : Nat := 2 * 2 ^ 8 + 2 * 2 ^ 13
def span0 : Span := ⟨0x10078, 16, 1, 8, [], [0, 1, 2, 3], [], [], false⟩
def inSpan (s : State) : State := withWG (fun w =>
  { w with groups := w.groups.map (fun g => { g with span := some span0 }), descs := [descOf (shapeOf shape0)] }) s
def mldb0 : FWord := fw N N (.s 20) (.s 30) .b32 0
def mma0 : FWord := fw N (im 16) (.s 20) (.s 30) .b32 0
def span1 : SpanWord := ⟨hd, false, .v 16, N, 8, .b32, 0⟩
def mzero0 : FWord := fw N (im 16) (im 20) N .b32 0
def mlda0 : FWord := fw N (im 16) (.s 20) N .f32 0
def matrixOk : List Bool :=
  [meets (withS 30 shape0 (at_ (.mldb mldb0))) (.mldb mldb0)
     (fun x => { decl := statCauses x [0], lane := fun ln => if mldbBad (shapeOf (x.read32 ln (.s 30))) then [9] else [],
                 slot := physOf ((withS 30 shape0 (at_ (.mldb mldb0))).slotView x.w).1 })
     (fun x => storedFault (size x) 0 (storedB (shapeOf shape0)) == 0),
   meets (at_ (.mswap (bare 4))) (.mswap (bare 4)) (fun x => { decl := statCauses x [0, 1] }) (fun _ => true),
   meets (inSpan (withS 30 shape0 (at_ (.mma mma0)))) (.mma mma0)
     (fun x => { decl := statCauses x [0] ++ (if isLit mma0.a then accCauses x mma0.a else []),
                 lane := fun ln => mmaCauses (inSpan (withS 30 shape0 (at_ (.mma mma0)))) x (x.read32 ln (im 16)) (shapeOf (x.read32 ln (.s 30))) none 0 })
     (fun x => storedFault (size x) 0 (storedA (shapeOf shape0) none) == 0),
   meets (inSpan (withS 30 shape0 (at_ (.mmaw mma0)))) (.mmaw mma0)
     (fun x => { decl := statCauses x [0] ++ (if isLit mma0.a then accCauses x mma0.a else []),
                 lane := fun ln => mmaCauses (inSpan (withS 30 shape0 (at_ (.mmaw mma0)))) x (x.read32 ln (im 16)) (shapeOf (x.read32 ln (.s 30)))
                   (some (x.num (nextS (.s 30)))) 0 })
     (fun x => storedFault (size x) 0 (storedA (shapeOf shape0) (some (x.num (nextS (.s 30))))) == 0),
   meets (at_ (.mzero mzero0)) (.mzero mzero0) (fun _ => {}) (fun x => 1 ≤ x.num (im 20) && x.num (im 16) + x.num (im 20) ≤ x.l.hdr.acc),
   meets (at_ (.mlda mlda0)) (.mlda mlda0) (fun _ => {}) (fun x => tileFault (size x) 0 .f32 false == 0 && 0 < x.l.hdr.acc),
   meets (at_ (.msta mlda0)) (.msta mlda0) (fun _ => {}) (fun x => tileFault (size x) 0 .f32 true == 0 && 0 < x.l.hdr.acc),
   meets (at_ (.mspan span1)) (.mspan span1) (fun _ => {}) (fun x => (List.range 16).all (fun e => (x.w.stamp e).mmaG != some x.g.gid)),
   meets (inSpan (at_ (.mcommit (bare 0)))) (.mcommit (bare 0)) (fun _ => {}) (fun x => x.g.span == some span0)]

/-- A device with one running launch of one workgroup, its path at a NOP, and the lodge's firmware ready. -/
def dev : State := { at_ (.nop (bare 0)) with lodge := { (at_ (.nop (bare 0))).lodge with ready := true } }
def devWG (f : WG → WG) : State := withWG f dev
def devThreads (f : Nat → Thread → Thread) : State := devWG (fun w => w.modThreads f)
def devLaunch (f : Launch → Launch) : State := dev.modLaunch 1 f
def oneWG (s : State) (f : WG → Launch → Bool) : Bool :=
  match s.wg? 1, s.launch? 1 with | some w, some l => f w l | _, _ => false

def aged : State := devThreads (fun _ t => { t with age := 256 })
def starving : State := { devWG (fun w => { w with groups := w.groups.map (fun g => { g with ready := 1 }) }) with ck := 100000 }
def issueOk : List Bool :=
  [dev.issue.isEmpty, dev.coreUp 0 && ((dev.core 0).held.getD 0 none).isNone && !(dev.ready 0 0).isEmpty
     && (dev.ready 0 0).all (fun q => !dev.starved q.g && q.g.stage == 0),
   oneWG aged (fun w l => match w.group? 0 with
     | none => false
     | some g => match (pathsOfGroup w g).find? (fun p => p.any (fun ln => ln.tid == 0)) with
       | none => false
       | some p => !l.isDet && l.runs && aged.unitFree w.core g.unit && ((aged.core w.core).held.getD g.unit none).isNone && 256 ≤ ageOf p
           && primaryPath false (fun q => aged.pathReady (curOf w g g.unit false q)) (pathsOfGroup w g) == some p),
   oneWG starving (fun w _ => match w.group? 0 with
     | none => false
     | some g => match (starving.ready w.core g.unit).find? (fun p => p.w.wid == 1 && p.g.gid == 0) with
       | none => false
       | some _ => starving.unitFree w.core g.unit && starving.starved g && ((starving.core w.core).held.getD g.unit none).isNone)]

def pooled (n : Nat) : State := devWG (fun w =>
  { w with
    threads := w.threads.mapIdx (fun i t => if i < n then { t with run := .pool, pc := 0x10080, stage := 0 } else { t with run := .exited }),
    groups := [] })
def rejoining : State := devWG (fun w =>
  { w.modThreads (fun i t => { t with run := .wait (.kwait (if i < 8 then 0 else 1)) }) with
    groups := w.groups.map (fun g => { g with k := [(0, 0xFFFF), (1, 0xFFFF)] }) })
def atBarrier : State := devThreads (fun _ t => { t with run := .wait (.bar 0 0 .none) })
def inCbuf : State := withCb ⟨2, 1, 1, 0, 1, 0⟩ (withWG (fun w => w.modThreads (fun _ t => { t with run := .wait (.cbuf 0 (v 10)) }))
  (at_ (.cbacq (cb0 (v 10) N 0))))
def groupEventOk : List Bool :=
  [oneWG ((pooled 16).modLaunch 1 (fun l => { l with allStop := true })) (fun w l =>
     let tids := (w.pool.filter (fun p => p.2.pc == 0x10080 && p.2.stage == 0)).map (fun p => p.1)
     !l.isDet && l.allStop && l.phase == .bound && 16 * 2 ^ l.hdr.gsz ≤ tids.length && w.formation < 2 ^ 32 - 1 && dev.coreUp w.core && !dev.lodge.therm),
   oneWG (pooled 3) (fun w l => l.phase == .bound && !l.allStop && w.quiet && !w.pool.isEmpty && w.formation + 1 ≤ 2 ^ 32 - 1 && (pooled 3).coreUp w.core),
   oneWG rejoining (fun w _ => match w.group? 0 with
     | none => false
     | some g => rejoinStuck w g && minOf (groupTids w g) == some 0 && (w.threads[0]?).any (fun t => t.kwaits == some 0)),
   oneWG atBarrier (fun w l => l.phase == .bound && w.threads.any (fun t => t.run != .exited)
     && w.threads.all (fun t => t.run == .exited || t.deadWait w) && w.queues.all (fun q => q.all (fun c => c.cmd == 0 || c.done))
     && !w.groups.any (fun g => g.parked)),
   oneWG inCbuf (fun w l =>
     let ts := w.threads.zipIdx.filter (fun p => p.1.gid == 0 && p.1.onCbuf)
     match w.group? 0, minOf (ts.map (fun p => p.1.pc)) with
     | some g, some pc => (ts.filter (fun p => p.1.pc == pc)).findSome? (fun p => p.1.cbufWait) == some (0, v 10) && (w.cb 0).slots != 0
         && (w.cb 0).filled != 0 && l.phase == .bound && !g.parked && inCbuf.coreUp w.core && inCbuf.mayRun w.core w g
     | _, _ => false)]

def load0 (bad : Option (Nat × Nat)) : LoadFly := ⟨0x10080, .v 10, [7], false, 0, bad, [0]⟩
def loading (bad : Option (Nat × Nat)) : State := devThreads (fun _ t => { t with loads := [load0 bad] })
/-- An s destination's lanes 0 and 1, of which some have data. -/
def gathering (got : List (Nat × List Word)) : State := devWG (fun w =>
  { w with groups := w.groups.map (fun g => { g with gathers := [⟨0x10080, .s 10, [0, 1], got⟩] }) })
def req0 (kind : ReqKind) : Req :=
  { kind := kind, lid := 1, wid := 1, tid := 0, core := 0, ctx := 0, key := 1, va := 0, pa := 0, r := 64, opnds := [1], d := .v 10, pc := 0x10080,
    ordinal := 0, phc := 0, detn := 0, det := false, wgid := 0, clk := [], lvl := 3, ea := 0, base := 0 }
def replying (kind : ReqKind) (code : Nat) : State := { dev with replies := [⟨req0 kind, code, 0, 1, 5, 0, []⟩] }
def wv (mon woken reading : Bool) (since interval : Nat) : WaitV :=
  { va := 0, pa := 0, key := 1, w64 := false, cmp := 0, d := .v 10, start := 0, since := since, interval := interval, mon := mon, woken := woken,
    reading := reading, last := 0 }
def waiting (z : WaitV) (ck : Nat) : State := { devThreads (fun _ t => { t with run := .wait (.waitv z) }) with ck := ck }
def returnOk : List Bool :=
  [oneWG (loading none) (fun w _ => dev.clocked w.core && (w.threads[0]?).any (fun t => t.loads == [load0 none])),
   oneWG (loading (some (0, 1))) (fun w _ => (w.threads[0]?).any (fun t => t.loads == [load0 (some (0, 1))]))]
  ++ [[], [(1, [7])], [(1, [8])]].map (fun got =>
    oneWG (gathering got) (fun w _ => (gatherFor w 0 0x10080).any (fun g => w.group? g.gid == some g
      && g.gathers == [⟨0x10080, .s 10, [0, 1], got⟩])))
  ++ [(ReqKind.atom false, 0), (.lrcall, 0), (.atom true, 4), (.lrcall, 3), (.wake, 0), (.lda 2 false false, 0), (.lda 2 false false, 5)].map (fun p =>
    ((replying p.1 p.2).replies.find? (fun q => q.req.wid == 1 && q.req.tid == 0)).any (fun q => q.code == p.2 && q.req.kind == p.1))
  ++ [((waiting (wv true true false 0 0) 5).waitv? 1 0).any (fun z => !z.reading && z.mon && z.woken),
      ((waiting (wv false false false 0 4096) 4096).waitv? 1 0).any (fun z => !z.reading && !z.mon && z.since + z.interval ≤ 4096),
      ((waiting (wv true false false 0 0) 65536).waitv? 1 0).any (fun z => !z.reading && z.mon && z.since + 65536 ≤ 65536)]

/-- A routine table whose first entry is a valid routine of one word; a device with no page table. -/
def tabled : State :=
  let e := 1 + 2 ^ 8 + (0x20 * 2 ^ 26 + 20 * 2 ^ 21 + 30 * 2 ^ 16 + 5) * 2 ^ 64
  { dev with mem := { dev.mem with bytes := SMap.putAll unlisted dev.mem.bytes 0 (bytesOf 128 e) } }
def idle0 : State := { State.reset with lodge := { State.reset.lodge with ready := true } }
def sliced : State := { dev with slices := [(0, [req0 (.atom false)])] }
def windowed : State := devLaunch (fun l => { l with det := true, window := [{ req0 (.atom false) with det := true }] })
def sliceOk : List Bool :=
  [sliced.slices.get [] 0 == [req0 (.atom false)] && !sliced.paused.contains 0 && sliced.faults.isEmpty
     && sliced.launches.all (fun l => l.window.isEmpty) && (req0 (.atom false)).ctx == 0 && (req0 (.atom false)).va == 0,
   (windowed.launch? 1).any (fun l => l.phase == .bound && match l.window.find? (fun r => some r.key4 == windowed.frontierOf l) with
     | some r => !windowed.tableWaits r && windowed.gbSt r.core == 1 && !windowed.paused.contains (windowed.sliceOf r.pa) && !(windowed.runReq r).tableWaits r
     | none => false),
   (match tabled.entryFor (tabled.sliceOf 0) 0 0 with | .entry e => slAnum e == 0 && isPeer 0 == false && (tabled.poisoned 0 1).isNone | _ => false),
   (match dev.entryFor (dev.sliceOf 0) 0 0 with | .invalid => true | _ => false),
   (match idle0.entryFor 0 0 0 with | .absent _ => true | _ => false),
   (dev.poisoned 0 (memBytes 2)).isNone && ({ dev with paused := [0] } : State).paused.contains 0,
   (let u : UStore := ⟨1, 5, 1, 0, 1, [(0, 7)], [], false⟩
    u.precedes 5 [] && !u.pub && u.seq ≤ SMap.get 0 [(5, 1)] 5 && u.cells.any (fun c => c.1 / 128 == 0)
      && (dev.launch? u.lid).all (fun l => l.phase != .dying))]

def cmd0 : CopyCmd :=
  { serial := 0, cmd := 5, q := 0, mask := 1, pc := 0x10080, desc := [0, 0, 256, 64 * 2 ^ 16 + 1, 0, 0, 0, 0], pat := 0, taken := none, started := false, done := false,
    sectors := 0, idx := none, clk := [], fl := 0, stampIn := [], stampOut := [], dests := [], srcs := [] }
/-- One byte of four to the scratchpad of a buffer's free slot. -/
def cmdCb : CopyCmd := { cmd0 with cmd := 1, desc := (List.range 8).map (fun i => if i = 6 then 0x200000 else 0) }
def copying (c : CopyCmd) : State := devWG (fun w => { w with queues := w.queues.mapIdx (fun i q => if i = 0 then [c] else q) })
/-- The sectors of a copy at the head of queue 0. -/
def sectorsNow (s : State) : Nat := match s.wg? 1 with
  | some w => match w.head? 0 with
    | some c => (sectorsOf (({ c with idx := some (c.idx.getD (readList w.win c.cmd (descNum c.desc))) } : CopyCmd).elems w)).length
    | none => 0
  | none => 0
def copyReady (s : State) : Bool := oneWG s (fun w l => (w.head? 0).any (fun c =>
  l.phase == .bound && s.coreUp w.core && c.cmd != 0 && !s.copyStalled 1 0 && !w.qerr.contains 0 && c.hasSlot && !c.isReduction))
def copyEventOk : List Bool :=
  [oneWG (withCb ⟨2, 2, 0, 0, 0, 0⟩ (copying cmdCb)) (fun w l => (w.head? 0).any (fun c =>
     c.cmd != 0 && dCben (descNum c.desc) && c.taken.isNone && (w.cb (dCbuf (descNum c.desc))).free != 0 && l.phase == .bound)),
   oneWG (copying { cmd0 with cmd := 0 }) (fun w _ => (w.head? 0).any (fun c =>
     c.cmd == 0 && (setBits 8 c.mask).all (fun i => ((w.head? i).map (fun e => e.serial)) == some c.serial))),
   copyReady (copying cmd0) && sectorsNow (copying cmd0) == 1,
   copyReady (copying { cmd0 with sectors := 1, started := true }) && sectorsNow (copying cmd0) == 1,
   copyReady (copying { cmd0 with desc := [0, 0, 256, 64 * 2 ^ 16 + 1, 0, 63 * 2 ^ 8, 0, 0] })
     && 2 ≤ sectorsNow (copying { cmd0 with desc := [0, 0, 256, 64 * 2 ^ 16 + 1, 0, 63 * 2 ^ 8, 0, 0] }),
   ((dev.modCore 0 (fun c => { c with mq := [⟨1, 0, false, false, .mzero 0 1⟩] })).core 0).mq.length == 1,
   ((dev.modCore 0 (fun c => { c with zeroing := [(0, 0, 1)] })).core 0).zeroing.length == 1 && !dev.lodge.therm,
   oneWG dev (fun w _ => dev.coreUp w.core)]

/-- What the first sector of a copy takes: its elements, and whether each has its bytes. -/
def sectorNow (s : State) (c : CopyCmd) : List (CElem × Bool) :=
  oneWG' s (fun w =>
    let es := c.elems w
    match sectorsOf es with
    | sec :: _ =>
      let here := es.filter (fun e => e.sectors.contains sec)
      here.map (fun e => (e, match s.elemBytes 0 (c.readPlaces s w.win 0 here) e with | .ok b _ => b.length == e.n | _ => false))
    | [] => [])
where oneWG' (s : State) (f : WG → List (CElem × Bool)) : List (CElem × Bool) := match s.wg? 1 with | some w => f w | none => []
/-- A CPIN of four bytes at virtual address 0, and one at an address that no page maps. -/
def cpinAt (va : Nat) : CopyCmd := { cmd0 with cmd := 1, idx := some [], desc := (List.range 8).map (fun i =>
  if i = 0 then BitVec.ofNat 32 (va % 2 ^ 32) else if i = 1 then BitVec.ofNat 32 (va / 2 ^ 32) else if i = 3 then 64 * 2 ^ 16 + 1 else 0) }
def sectorOk : List Bool :=
  [!(sectorNow dev (cpinAt 0)).isEmpty && (sectorNow dev (cpinAt 0)).all (fun e => e.2) && !destGlobal 1 (dMode (descNum (cpinAt 0).desc)),
   !(sectorNow dev (cpinAt (2 ^ 55))).isEmpty && (sectorNow dev (cpinAt (2 ^ 55))).all (fun e => !e.2),
   !(sectorNow dev { cmd0 with idx := some [] }).isEmpty && (sectorNow dev { cmd0 with idx := some [] }).all (fun e => e.2)
     && destGlobal 5 (dMode (descNum cmd0.desc)) && (match dev.checkPage 0 0 false true false with | .ok _ => true | _ => false),
   dev.domain.isEmpty && dev.lodge.domain == 0]

/-- A device after bring-up, with no partition. -/
def idle : State := { State.reset with lodge := { State.reset.lodge with ready := true } }
def filled : State := { idle with gbt := (List.range 256).map (fun i => (i, BitVec.ofNat 64 (2 ^ 63 + i * 2 ^ 16 + i / 64 * 68 + i % 64))) }
def rec0 : Nat := 1 + 2 + 2 ^ 32
/-- The launch off its slot, and one with its slot asked to stop. -/
def unbound : State := { devLaunch (fun l => { l with slot := none, phase := .queued, placed := false }) with slots := [] }
def stalled : State := { devLaunch (fun l => { l with window := [req0 (.atom false)], frontierCk := 0 }) with ck := 2 ^ 20 }
/-- Two logical cores on one physical core, the resident one at rest. -/
def shared_ : State := { { atBarrier with gbt := [(0, BitVec.ofNat 64 (2 ^ 63 + 2 ^ 61 + 2 ^ 9)), (1, BitVec.ofNat 64 (2 ^ 63 + 2 ^ 62 + 2 ^ 12 + 2 ^ 9))] } with
  wgs := atBarrier.wgs ++ (dev.wgs.map (fun w => { w with wid := 2, core := 1 })) }
/-- The same with none of them resident. -/
def rested : State := shared_.setSt 0 2
def bindingOk : List Bool :=
  [idle.lodge.ready && gbPart (2 ^ 63) == 0 && gbMuxl (2 ^ 63) < 5 && idle.gbSt 0 % 2 == 0,
   ({ idle with units := [(unitKey .core 0, .underTest)] } : State).service .core 0 == .underTest, dev.gbSt 0 == 1, filled.partOk 0, !idle.partOk 0,
   !idle.launches.any (fun l => l.binds 0), dev.launches.any (fun l => l.binds 0), !(idle.part 0).locked,
   bindV rec0 && bindSt rec0 == 1 && bindPart rec0 == (unbound.ctx (bindCtx rec0)).part
     && (unbound.bindLaunch rec0).any (fun l => !(unbound.ctx l.ctx).dead && l.slot.isNone),
   bindV (dev.bind 0) && bindSt (dev.bind 0) == 1 && !(dev.ctx (bindCtx (dev.bind 0))).dead
     && !dev.launches.any (fun l => l.slot == some 0 && (l.phase == .stopped || l.phase == .queued)),
   (devLaunch (fun l => { l with phase := .stopped })).launches.any (fun l => l.slot == some 0 && l.phase == .stopped),
   bindSt (rec0 + 2 ^ 12) == 1 && bindPart (rec0 + 2 ^ 12) != (dev.ctx (bindCtx (rec0 + 2 ^ 12))).part,
   (dev.launches.find? (fun l => l.slot == some 0 && dev.needsSlot l)).any (fun l => bindLid rec0 == l.lid % 2 ^ 32 && bindCtx rec0 == l.ctx
     && bindPart rec0 == l.part && bindPart rec0 == (dev.ctx l.ctx).part && bindSt (dev.bind 0) == 1),
   (stalled.launch? 1).any (fun l => l.slot == some 0 && !l.window.isEmpty && l.frontierCk + 2 ^ 20 ≤ stalled.ck),
   (match (shared_.turnOrder 0 15).find? (fun key => shared_.gbSt key == 1) with
    | some old => gbMuxl (shared_.gbe old).toNat != 0 && shared_.coreRests old && shared_.coreDrained old
    | none => false),
   ((rested.turnOrder 0 15).find? (fun key => rested.gbSt key == 1)).isNone && (rested.nextTurn 0).isSome && (rested.zeroingOn 0).isEmpty
     && rested.service .core 0 == .inService,
   ((idle.turnOrder 0 15).find? (fun key => idle.gbSt key == 1)).isNone && (idle.nextTurn 0).isNone && !idle.lodge.therm]

/-- A queue of context 0 with one packet at address 0x40000. -/
def queue0 : QDesc := { QDesc.reset with ring := 0x40000, size := 4, en := true, wr := 1 }
def queued (packet : Nat) : State :=
  { dev with queues := [(0, queue0)], mem := { dev.mem with bytes := SMap.putAll unlisted dev.mem.bytes 0x40000 (bytesOf 128 packet) } }
def launchPk : Nat := 1 + 2 ^ 8
def launchRec (kernel : Nat) : Nat := 1 + kernel
def packetIs (s : State) (f : Nat → Bool) : Bool := match s.readPacket 0 with | .packet n => f n | _ => false
def waitPk : Nat := 2 + 0x40 * 2 ^ 320 + 1 * 2 ^ 512
def held (n : Nat) : State := { dev with queues := [(0, { queue0 with holding := some (0x40, n) })] }
def queueEventOk : List Bool :=
  [(idle.queue 0).accepts 0, !(idle.queue 0).accepts 1, (queued 3).parses 0 && (queued 3).preCode 0 == 0,
   ({ idle with queues := [(0, queue0)] } : State).parses 0 && ({ idle with queues := [(0, queue0)] } : State).preCode 0 != 0,
   packetIs (queued 3) (fun n => n % 256 != 1 && n % 256 != 2),
   packetIs (queued 1) (fun n => n % 256 == 1 && (minOf ((queued 1).launchCodes queue0 n false)).isSome),
   packetIs (queued waitPk) (fun n => n % 256 == 2 && (minOf (waitCodes n)).isNone),
   packetIs (queued (waitPk + 2 ^ 8)) (fun n => n % 256 == 2 && (minOf (waitCodes n)).isSome),
   ((held 1).queue 0).holding == some (0x40, 1) && ((held 1).poisoned 0x40 8).isNone
     && (match (held 1).access 0 0x40 8 8 true false false with | .ok [t] => natOfBytes ((held 1).mem.readN t.key t.pa 8) == 0 | _ => false)]

def unplaced : State := { dev with wgs := [], launches := [{ loadLaunch with next := 0 }], slots := [(0, BitVec.ofNat 64 rec0)] }
def pendingOne : State := { dev with wgs := [], launches := [{ loadLaunch with pending := [(0, 0)] }] }
def exited : State := devThreads (fun _ t => { t with run := .exited })
def stopping : State := devLaunch (fun l => { l with phase := .draining, stopping := true })
def launchOk : List Bool :=
  [(unplaced.part 0).nextPlace ≤ unplaced.ck && !unplaced.lodge.therm
     && ((unplaced.placers 0).find? (fun l => l.count = 0 || (unplaced.placeCore l).isSome)).any (fun l => l.count != 0),
   (pendingOne.launch? 1).any (fun l => l.phase == .bound && pendingOne.usable 0 && pendingOne.countsFree 0 l.hdr
     && pendingOne.panelsFree 0 0 l.hdr.scr && pendingOne.clocked 0 && !pendingOne.behindRelaunch 1 0 0 && (l.pending.find? (fun p => p.1 == 0)).isSome),
   oneWG exited (fun w l => exited.clocked w.core &&  w.threads.all (fun t => t.run == .exited) && w.queues.all (fun q => q.all (fun c => c.done)) && l.phase != .dying
     && (w.poisonedBar (exited.windowOf w)).isNone),
   ((devLaunch (fun l => { l with heldSig := true })).launch? 1).any (fun l => l.heldSig && l.phase != .complete && l.lastSig.isNone),
   ((devLaunch (fun l => { l with tlimit := 1, ckUsed := 65536 })).launch? 1).any (fun l => l.phase == .bound && l.tlimit != 0 && l.placed
     && l.tlimit * 65536 ≤ l.ckUsed),
   (dev.launch? 1).any (fun l => l.phase == .bound && !(dev.ctx l.ctx).dead && l.slot == some 0 && !dev.lodge.therm),
   (stopping.launch? 1).any (fun l => l.phase == .draining && stopping.drained l && !stopping.lodge.therm),
   !idle.launches.any (fun l => l.ctx == 0) && ((idle.modCtx 0 (fun c => { c with defined := true })).ctx 0).defined]

def faulting : State := devThreads (fun _ t => { t with run := .wait (.page 3 .load (some 0x30000)) })
def faulted : State := { faulting with faults := [⟨0, 3, 0x30000, .load, [.word 1 0]⟩] }
def dying : State := devLaunch (fun l => { l with phase := .dying })
def faultOk : List Bool :=
  [!(faulting.pageWaiters 0 3).isEmpty, (faulted.faultReq? 0 3).isSome && faulted.lodge.ready,
   (dying.launch? 1).any (fun l => l.phase == .dying && !l.recorded && (dying.killLaunch l).recordsOut l.ctx),
   idle.struckThere .lodgeMemory && ((idle.corrected.get [] (idle.struckPlace .lodgeMemory)).filter (fun t => idle.ck < t + 2 ^ 30)).length < 15,
   idle.lodge.ready && idle.repairs.isEmpty,
   oneWG dev (fun w l => !l.canRelaunch w),
   oneWG (devLaunch (fun l => { l with hdr := { l.hdr with idem := true } })) (fun w l => l.canRelaunch w)]

def up1 : State := { idle with domain := [(1, 4)] }
def linkOk : List Bool :=
  [(match idle.access 0 0 1 1 false true false with | .error _ => true | _ => false),
   (match dev.access 0 0 1 1 false true false with | .ok [_] => true | _ => false),
   (match dev.access 0 0 4 1 true false false with | .ok ts => (placeBytes 0 4 ts).all (fun p => (dev.poisoned p.1 1).isNone) | _ => false),
   isLocal 0 && tierOk 0 && (dev.poisoned 0 8).isNone, !(isLocal (2 ^ 50) && tierOk (2 ^ 50)), (up1.domain.get 0 1).getLsbD 2]

def serving (k : UnitKind) (v : Service) : State := { idle with units := [(unitKey k 0, v)] }
def rebooted : State := { State.reset with
  lodge := { State.reset.lodge with bank := false }, fw := { State.reset.fw with restart := some false, okA := true, verA := 0xFFFFFFFF } }
def lodgeOk : List Bool :=
  [rebooted.lodge.ready == false && rebooted.fw.restart == some false && rebooted.fw.ok false && !rebooted.lodge.bank,
   !({ rebooted with fw := { rebooted.fw with okA := false } } : State).fw.ok false,
   idle.lodge.ready && !idle.lodge.busy && ((idle.lodge.cmd.set 0 12).headD 0).toNat % 256 == 12,
   (serving .slice .draining).service .slice 0 == .draining && !(serving .slice .draining).paused.contains 0,
   (serving .polder .draining).service .polder 0 == .draining && (serving .polder .draining).polderEmpty 0,
   (serving .farChannel .draining).service .farChannel 0 == .draining,
   (serving .core .draining).service .core 0 == .draining && ((serving .core .draining).keysOn 0).all (fun k => (serving .core .draining).gbSt k != 1),
   (let s : State := { dev with units := [(unitKey .core 0, .draining)] }
    s.service .core 0 == .draining && (s.keysOn 0).any (fun k => s.gbSt k == 1) && s.saveable 0 && s.lodge.ready),
   [UnitKind.core, .slice, .polder, .farChannel].all (fun k => (serving k .underTest).service k 0 == .underTest),
   ((idle.modPart 0 (fun p => { p with trace := true })).part 0).trace
     && (idle.ck - (idle.part 0).ckStart) % 2 ^ ((idle.modPart 0 (fun p => { p with trace := true })).part 0).sper == 0]

def blk (w0 w1 w2 w3 w4 w5 : Nat) : MailBlock :=
  ⟨BitVec.ofNat 64 w0, BitVec.ofNat 64 w1, BitVec.ofNat 64 w2, BitVec.ofNat 64 w3, BitVec.ofNat 64 w4, BitVec.ofNat 64 w5, 0, 0⟩
def accepted (s : State) (b : MailBlock) (op : Nat) : Bool := s.lodge.ready && !s.lodge.busy && (cmdOf 1 b).op == op
/-- Agent 1 holds the debug right of context 0. -/
def debugged (s : State) : State := s.modCtx 0 (fun c => { c with dbg := { c.dbg with holder := some 1 } })
def parked : State := debugged (devWG (fun w => w.setParked true))
def debugOk (s : State) (b : MailBlock) (op : Nat) (hyp : Cmd → Bool) : Bool :=
  let c := cmdOf 1 b
  accepted s b op && (s.ctx c.ctx).dbg.holder == some 1 && !c.rsv && bitsOf (c.arg 2) 56 8 == 0 && c.tgt < 6 && (c.args.drop 4).all (· == 0)
    && hyp c
def hasTarget (s : State) (p : Bool) (c : Cmd) : Bool := (s.targets c).any (fun q => q.2.parked == p)
def aimed (s : State) (p : Bool) (c : Cmd) : Bool := match s.target c with
  | .ok q => q.1.isParked q.2 == p
  | _ => false
def edited : State := parked.modCtx 0 (fun c => { c with dbg := { c.dbg with overlay := [(cmdOf 1 (blk 8 0 0 0 5 0)).edit] } })
/-- An overlay of a register, bytes of the window and bytes of global memory. -/
def editing : State := parked.modCtx 0 (fun c => { c with dbg := { c.dbg with overlay :=
  [(cmdOf 1 (blk 8 0 0 0 5 0)).edit, (cmdOf 1 (blk 8 0 (4 * 2 ^ 32 + 8 * 2 ^ 48) 0 5 0)).edit, (cmdOf 1 (blk 8 0 (5 * 2 ^ 32 + 8 * 2 ^ 48) 0x40 5 0)).edit] } })
/-- A group that has met a stop, or none, in a hold region or outside. -/
def stoppable (p : Option Stop) (inside : Bool) : Bool :=
  oneWG (devWG (fun w => { w.modThreads (fun _ t => if inside then { t with hold := 1 } else t) with groups := w.groups.map (fun g => { g with stops := p }) }))
    (fun w l => (w.group? 0).any (fun g => !g.parked && g.stops == p) && l.phase != .dying && w.inRegion 0 == inside)
def debugAllOk : List Bool :=
  [debugOk (debugged dev) (blk 1 0 0 0 0 0) 1 (hasTarget (debugged dev) false), debugOk parked (blk 2 0 0 0 0 0) 2 (hasTarget parked true),
   debugOk parked (blk 3 0 0 0 0 0) 3 (fun c => c.gid != 0xFFFFFFFF && (parked.targets c).any (fun q => q.1.isParked q.2)),
   debugOk (debugged dev) (blk 4 (2 ^ 64 - 2 ^ 32) 0 0 0 0) 4 (fun c => !((debugged dev).launchesAt c.ctx c.wgid).isEmpty),
   stoppable none false, stoppable (some ⟨false, []⟩) false, stoppable (some ⟨true, []⟩) false, stoppable (some ⟨false, []⟩) true,
   debugOk parked (blk 5 0 0 0 0 0) 5 (fun _ => true), debugOk parked (blk 6 0 0 0 0 0) 6 (fun c => aimed parked true c && c.tgt ≤ 3),
   debugOk parked (blk 6 0 (4 * 2 ^ 32 + 8 * 2 ^ 48) 0 0 0) 6 (fun c => aimed parked true c && c.tgt == 4),
   debugOk parked (blk 7 0 0 0 5 0) 7 (fun c => aimed parked true c && c.tgt ≤ 3),
   debugOk edited (blk 6 0 0 0 0 0) 6 (fun c => aimed edited true c && (edited.ctx 0).dbg.overlay.any (fun e => e.names c)),
   debugOk parked (blk 6 0 (5 * 2 ^ 32 + 8 * 2 ^ 48) 0x40 0 0) 6 (fun c => aimed parked true c && c.tgt == 5 && match parked.access 0 c.addr c.size 1 true false false with
     | .ok ts => (placeBytes c.addr c.size ts).all (fun p => (parked.poisoned p.1 1).isNone) | _ => false),
   debugOk parked (blk 6 0 (5 * 2 ^ 32 + 8 * 2 ^ 48) (2 ^ 56) 0 0) 6 (fun c => aimed parked true c && match parked.access 0 c.addr c.size 1 true false false with
     | .ok _ => false | _ => true),
   debugOk parked (blk 7 0 (5 * 2 ^ 32 + 8 * 2 ^ 48) 0x40 9 0) 7 (fun c => aimed parked true c && match parked.access 0 c.addr c.size 1 false true false with
     | .ok _ => (parked.ctx 0).dbg.overlay.length < 4096 | _ => false),
   debugOk editing (blk 8 0 0 0 0 0) 8 (fun _ => (editing.ctx 0).dbg.overlay.length == 3 && (editing.ctx 0).dbg.overlay.all (fun e =>
     (editing.editGroup 0 e).any (fun p => p.1.isParked p.2 && (firstThread p.1 p.2).isSome && editing.wg? p.1.wid == some p.1)
       && (e.tgt != 5 || (match editing.access 0 e.addr e.size 1 false true false with | .ok _ => true | _ => false)))),
   debugOk edited (blk 9 0 0 0 0 0) 9 (fun _ => true), debugOk parked (blk (10 + 7 * 2 ^ 17) 0 0 8 0 0) 10 (fun c => c.index == 7 && c.addr == 8),
   debugOk parked (blk (11 + 3 * 2 ^ 17) 0 0 0 0 0) 11 (fun c => c.index == 3 && watchOk c.addr c.value),
   accepted dev (blk 1 0 0 0 0 0) 1 && (dev.ctx 0).dbg.holder != some 1,
   ({ dev with lodge := { dev.lodge with busy := true, agent := 2 } } : State).lodge.busy]

def lodgeMeets (s : State) (b : MailBlock) (op n : Nat) (hyp : Cmd → Bool) : Bool :=
  let c := cmdOf 1 b
  accepted s b op && !c.rsv && (c.args.drop n).all (· == 0) && hyp c
def banked : State := { idle with fw := { idle.fw with okB := true } }
def lodgeAllOk : List Bool :=
  [lodgeMeets idle (blk 32 (2 ^ 32 - 1) (2 ^ 13) 0 15 (2 ^ 32 - 1)) 32 5 (fun c => c.arg 1 < 2 ^ 32 && c.arg 4 == 15),
   lodgeMeets dev (blk 33 4096 8 16 0 0) 33 3 (fun c => ringOk (c.arg 1) (c.arg 2) (c.arg 3) && (dev.ctx 0).defined),
   lodgeMeets idle (blk 34 4096 8 4 0 0) 34 3 (fun c => ringOk (c.arg 1) (c.arg 2) (c.arg 3)),
   lodgeMeets dev (blk 35 4096 4 0 0 0) 35 2 (fun c => ringOk (c.arg 1) 0 (c.arg 2) && (dev.ctx 0).dbg.holder.isNone),
   lodgeMeets parked (blk 36 0 0 0 0 0) 36 0 (fun _ => true), lodgeMeets idle (blk 37 1023 0 0 0 0) 37 2 (fun c => !idle.hasKey (c.arg 1)),
   lodgeMeets idle (blk 38 1 0 0 0 0) 38 1 (fun c => c.arg 1 == 1 && idle.ctxs.isEmpty),
   lodgeMeets idle (blk 39 0 4096 0 0 0) 39 2 (fun c => placeOk (c.arg 1) 32 && placeOk (c.arg 2) 2585),
   lodgeMeets idle (blk 40 0 0 0 0 0) 40 2 (fun c => placeOk (c.arg 1) (c.arg 2)), lodgeMeets banked (blk 41 0 0 0 0 0) 41 0 (fun _ => banked.fw.ok true),
   lodgeMeets idle (blk 42 1 127 1 0 0) 42 3 (fun c => moveOk (idle.service .slice (c.arg 2)) .draining && idle.partnerOk .slice (c.arg 2)),
   lodgeMeets (serving .core .outOfService) (blk 42 0 0 4 0 0) 42 3 (fun _ => moveOk ((serving .core .outOfService).service .core 0) .retired),
   lodgeMeets idle (blk 43 255 3 0 0 0) 43 2 (fun c => c.arg 1 == 255), lodgeMeets idle (blk 44 255 1023 1 0 0) 44 3 (fun c => c.arg 2 == 1023),
   lodgeMeets idle (blk 45 15 2 0 0 0) 45 2 (fun _ => idle.powerOk 15 .off || idle.powerOk 15 .active), lodgeMeets idle (blk 45 15 0 0 0 0) 45 2 (fun _ => idle.powerOk 15 .active || idle.powerOk 15 .idle)]

/-- An image of one kernel of 16 threads that passes the seal. -/
def goodImg : List Byte :=
  bytesOf 64 1 ++ bytesOf 64 (packBits [(32, 128), (2, 0), (11, 16), (11, 1), (11, 1), (8, 2), (9, 2), (9, 0), (3, 0), (4, 1), (5, 0),
    (7, 1), (49, 0), (3, 0), (2, 2)]) ++ bytesOf 8 0x001DFFFFFFFE0000
/-- A launch record of kernel 0 of version 1, with one workgroup. -/
def goodPk : Nat := 1 + 2 ^ 64 + 2 ^ 192 + 2 ^ 224 + 2 ^ 240
def sealed (s : State) : State := { s with codes := [⟨0, 1, goodImg, 0x10000⟩] }
def sealing : State := (at_ (.cvseal cvseal0)).modCtx 0 (fun c => c.setHandle 0 (some ⟨0, goodImg⟩))
def goodRecord : List DWord := (List.range 16).map (fun i => BitVec.ofNat 64 (goodPk / 2 ^ (64 * i)))
def halting : State := sealed (({ dev with wgs := [] } : State).modLaunch 1 (fun l => { l with phase := .draining, stopping := true, record := goodRecord, hdr := headerOf goodImg 0 }))
def haltingLaunch : Launch := (halting.launch? 1).getD loadLaunch
def haltedImage : List Byte := halting.imageOf haltingLaunch false
/-- The launch stopped, its image in memory under the owner's key. -/
def halted : State :=
  let at_ := halting.imageBase
  { halting.modLaunch 1 (fun l => { l with phase := .stopped }) with
    images := [halting.imageInfo haltingLaunch haltedImage.length]
    mem := { halting.mem with
      bytes := halting.mem.bytes ++ (cellsAt at_ haltedImage).filter (fun c => c.2 != unlisted)
      keys := (List.range (haltedImage.length / 128)).map (fun i => (at_ / 128 + i, halting.mem.keyOf (halting.ownerKey 0))) } }
def restoring : Bool :=
   match halted.images.find? (fun i => i.lid == 1) with
   | some i =>
     let bs := halted.imageBytes i
     let n := natOfBytes ((bs.drop 64).take 128)
     match halted.kernelOf i.ctx n with
     | some h =>
       let l := halted.launchOfImage i bs 0 h (halted.launch? 1)
       let ps := ((dirOf bs).filter (fun e => e.ty == 3)).map (fun e => partsOf h (sect bs e))
       halted.lodge.ready && (halted.ctx i.ctx).defined && !(halted.ctx i.ctx).dead && (halted.part 0).started
         && (halted.launch? 1).any (fun l => l.phase == .stopped) && loadable h bs
         && (halted.version i.ctx (pkVersion n)).map (fun v => sha3Bytes v.image) == some ((bs.drop 24).take 32)
         && (({ halted with launches := putLaunch halted.launches l } : State).plantAll l i ps).isSome
     | none => false
   | none => false
def codeEventOk : List Bool :=
  [meets sealing (.cvseal cvseal0) (fun _ => {}) (fun x => ((sealing.ctx x.ctx).handle 0).any (fun h => imageOk h.image)),
   packetIs (sealed (queued goodPk)) (fun n => n % 256 == 1 && (minOf ((sealed (queued goodPk)).launchCodes queue0 n false)).isNone
     && ((sealed (queued goodPk)).kernelOf 0 n).isSome && queue0.devRecs.isEmpty)]

/-- A routine of one word, MOVI T0, 5 (R197 to R199). -/
def routine0 : Nat := 1 + (0x20 * 2 ^ 26 + 20 * 2 ^ 21 + 30 * 2 ^ 16 + 5) * 2 ^ 64
def withImage (e : Nat) (s : State) : State := { s with mem := { s.mem with bytes := SMap.putAll unlisted s.mem.bytes 0 (bytesOf 128 e) } }
def defining : State := withImage routine0 (at_ (.lrdef (lrdef0 16)))
def waitingCopy : State :=
  (at_ (.qwait (bare 1))).modWG 1 (fun w =>
    { w with queues := w.queues.mapIdx (fun i q => if i = 0 then [cmd0] else q), serial := 1 })
def moreOk : List Bool :=
  [meets defining (.lrdef (lrdef0 16)) routines (fun x => match defining.access x.ctx 0 128 128 true false false with
     | .ok [tr] => imageStatus (natOfBytes (defining.mem.readN tr.key tr.pa 128)) == 0
         && (match defining.checkPage x.ctx (defining.entryVa x.ctx 0) true false false with | .ok _ => true | _ => false)
     | _ => false),
   meets waitingCopy (.qwait (bare 1)) (fun _ => {}) (fun x => x.w.pendingBelow 1 x.w.serial)]

/-- A word that its own bits make illegal: an ordered comparison of a bit type (R102, R358). -/
def ordered0 : Instr := .icmp (d2 .b32 0x010)

def paired0 : Instr := match decode 0xA8820303C10901E0 with | .ok i => i | .illegal _ => .nop (bare 0)

/-- A word that waits for a load. -/
def owed : State := withWG (fun w => w.modThreads (fun _ t => { t with loads := [load0 none] })) (at_ (.iadd (d2 .i32 0)))
def slotTaken : State := withWG (fun w => w.modThreads (fun _ t => { t with slot := some ⟨.none, 1, false⟩ })) (at_ (.lrcall lrcall0))
def leaving : State := withWG (fun w => w.modThreads (fun _ t => { t with loads := [load0 none] })) (at_ (.exit (bare 0)))
def crammed : State := (at_ (.mswap (bare 4))).modCore 0 (fun c => { c with mq := List.replicate 8 ⟨2, 0, false, false, .mswap 0 1⟩ })

/-! ## Words of the spec's own examples, with the bits written out from its encodings (R86 to R105) -/

def decodesTo (w : DWord) (i : Instr) : Bool := decode w == .ok i
def pd1 : Head := ⟨false, false, 1⟩
def mem16 : MWord := ⟨hd, false, .v 4, .v 2, 0x10, 2, 0, false, 0, false, 0, 0⟩

def specWords : List (DWord × Instr) :=
  [(0x001DFFFFFFFE0000, .nop (bare 0)),
   (0x401DFFFFFFFE0000, .nop { bare 0 with hd := ⟨true, false, 7⟩ }),
   (0x4CC41404070AC400, .ffma ⟨⟨true, false, 1⟩, false, .v 10, .v 2, .v 3, .s 5, .f32, 0x400⟩),
   (0xA8820303C10901E0, .pairedWord ⟨false, ⟨true, 0x11, false, 4, .v 6, .v 7⟩, ⟨true, 1, false, 9, .v 1, .latch 0⟩⟩),
   (0x00DC12020BFE8009, .iaddc (fw (v 9) (v 1) (v 5) N .n32 9)),
   (0x005C2021A3FE4000, .iadd (fw (v 16) (v 16) (im 17) N .i32 0)),
   (0x081C0BFE3F800000, .movi (iw (v 5) N 0x3F800000)),
   (0x061C07FFFFFE0004, .movSpecial (fw (v 3) N N N .b32 4)),
   (0x065DFFA3A5AE03C0, .plop (fw N (im 17) (im 18) (im 23) .b32 0x3C0)),
   (0x051C0205A7FE0000, .shl (fw (v 1) (v 2) (im 19) N .b32 0)),
   (0x05DC020407FE0004, .sel (fw (v 1) (v 2) (v 3) N .b32 4)),
   (0x04DC0204060A00E8, .lop (fw (v 1) (v 2) (v 3) (v 5) .b32 0xE8)),
   (0x0B1C06063DCCCCCD, .fmulImm (iw (v 3) (v 3) 0x3DCCCCCD)),
   (0x0EDC0A05FFFEE260, .fcvt (fw (v 5) (v 2) N N .e4m3 0x260)),
   (0x121C281107FEE000, .npack (fw (v 20) (v 8) (.s 3) N .e4m3 0)),
   (0x129C2A19FFFEE000, .nscale (fw (v 21) (v 12) N N .e4m3 0))]
def specWords2 : List (DWord × Instr) :=
  [(0x149C100DFFFEC000, .gred (fw (v 8) (v 6) N N .f32 0)),
   (0x155C1409FFFE0000, .gmatch (fw (v 10) (v 4) N N .b32 0)),
   (0x159C1609FFFE0000, .grank (fw (v 11) (v 4) N N .b32 0)),
   (0x161DFFA7FFFE0000, .join (fw N (im 19) N N .b32 0)),
   (0x169DFFA7FFFE0000, .kwait (fw N (im 19) N N .b32 0)),
   (0x1805FFFEFFFFFFF0, .bra ⟨pd1, false, N, N, false, 0xFFFFFFF0⟩),
   (0x189C29FE00000200, .call (iw (v 20) N 0x200)),
   (0x18DDFE29FFFE1000, .ret (fw N (v 20) N N .b64 0)),
   (0x191DFE0BFFFE0001, .switch (fw N (v 5) N N .b32 1)),
   (0x195DFE0800000080, .regroup ⟨hd, false, N, 4, false, 0x80⟩),
   (0x199DFFFFFFFE0000, .yield (bare 0)), (0x19DDFFFFFFFE0000, .exit (bare 0)),
   (0x1A1DFFAFFFFE0000, .trap (fw N (im 23) N N .b32 0)), (0x1A9DFFFFFFFE0000, .bkpt (bare 0)),
   (0x1B5DFFA70D100004, .stampIn (fw N (im 19) (.s 6) (.s 8) .b32 4)),
   (0x1B9D0DFFFFFE1000, .time (fw (.s 6) N N N .b64 0))]
def specWords3 : List (DWord × Instr) :=
  [(0x1C1C080400820000, .ld mem16), (0x1C5C080400820000, .st mem16),
   (0x1C1C080C00023400, .lds ⟨hd, false, .v 4, .v 6, 0, 2, 1, true, 1, false, 0, 0⟩),
   (0x1C9DFE0404000000, .pref ⟨hd, false, N, .v 2, 0x80, 0, 0, false, 0, false, 0, 0⟩),
   (0x1CDC0805A3FE8000, .atom (fw (v 4) (v 2) (im 17) N .n32 0)),
   (0x1CDC0805A3FE8020, .atomScr (fw (v 4) (v 2) (im 17) N .n32 0x20)),
   (0x1D1C100409A41011, .lrcall (fw (v 8) (v 2) (v 4) (im 18) .b64 0x011)),
   (0x1DDC10040DFE0000, .waitv (fw (v 8) (v 2) (v 6) N .b32 0)),
   (0x1E5DFFFFFFFE0001, .phasePub (bare 1)), (0x1E9DFFFFFFFE0000, .fence (bare 0)),
   (0x215D05A7FFFE0000, .xbarv (fw (.s 2) (im 19) N N .b32 0)),
   (0x221DFF21FFFE0001, .cpin (fw N (.s 16) N N .b32 1)),
   (0x269D291115FE1000, .launch (fw (.s 20) (.s 8) (.s 10) N .b64 0)),
   (0x289DFF1113140000, .mma (fw N (.s 8) (.s 9) (.s 10) .b32 0)),
   (0x291C21FE00080000, .mspan ⟨hd, false, .v 16, N, 4, .b32, 0⟩), (0x295DFFFFFFFE0000, .mcommit (bare 0))]

theorem test_decode_arithmetic : specWords.all (fun p => decodesTo p.1 p.2) = true := by decide +kernel
theorem test_decode_control : specWords2.all (fun p => decodesTo p.1 p.2) = true := by decide +kernel
theorem test_decode_memory : specWords3.all (fun p => decodesTo p.1 p.2) = true := by decide +kernel

/-- A reserved type code is cause 2, a major opcode of no row is cause 1, and a nonzero reserved field is cause 3 (R102). -/
theorem test_decode_refuses : (match decode 0x001DFFFFFFFEFFFF with | .ok _ => false | .illegal _ => true) = true
    ∧ decode 0x3FDDFFFFFFFE0000 = .illegal 1 := by decide +kernel

/-! ## Ill-formed terms, one for each check -/

/-- An operand that no code stands for, a type that no code stands for, a word of another row's form, a row that has no word of its own, and a
word that its own bits make illegal. -/
theorem test_wellformed_refuses :
    [Instr.iadd (fw (v 10) (.const 3) (v 2) N .i32 0), .iadd (fw (v 10) (.rsv 15) (v 2) N .i32 0), .iadd (d2 (.rsv 3) 0),
      .mspan ⟨hd, false, .v 16, .const 0, 8, .b32, 0⟩, .regroup ⟨hd, false, .const 0, 2, false, 0⟩, .movi (iw (.const 1) N 5),
      .pairedWord ⟨false, ⟨true, 1, false, 4, .const 0, .v 7⟩, ⟨true, 1, false, 9, .v 1, .v 2⟩⟩,
      .ld (mw (v 10) (v 2) 2 1), .lds (mw (v 10) (v 1) 2 0), .lda (mw (v 10) (v 2) 2 0), .ldb (mw (v 10) (v 2) 2 0), .st (mw (v 10) (v 2) 2 1),
      .sts (mw (v 10) (v 1) 2 0), .stb (mw (v 10) (v 2) 2 0), .mov (fw (v 10) N N N .b32 0), .movSpecial (d1 .b32 0), .atom atomScr0,
      .atomScr atom0, .phasePub (bare 2), .phaseRef (bare 1), .phase (bare 1), .stampIn (bare 1), .stampMma (bare 2), .stampOut (bare 0),
      .pmovToReg (bare 0x400), .pmovFromReg (bare 0), .pmovPred (bare 0), .cbrel (bare 1), .cbrelCfg (bare 0),
      .cpoutDomainReduction (bare 0), .cpgathDigest (bare 0), .cpfillScratchpad (bare 0), ordered0].all (fun i => !wf i) = true := by
  decide +kernel

/-! ## Single steps -/

/-- The state with a word placed and registers v1 to v4 of every lane set. -/
def with_ (i : Instr) (rs : List Nat) : State :=
  withWG (fun w => w.modThreads (fun _ t => t.setV 1 (rs.map (BitVec.ofNat 32)))) (State.reset.withFetchWord 64 (((encode i).getD 0).toNat))
def lane0 (o : Host.Outcome State Fault Refusal) : Option Thread := match o with
  | .next t => match t.wg? 1 with | some w => w.threads[0]? | none => none
  | _ => none
def v10 (o : Host.Outcome State Fault Refusal) : Option Nat := (lane0 o).map (fun t => (t.v.get 0 10).toNat)

/-- A NOP advances its threads by 8 (R86). -/
theorem test_nop_advances : (lane0 (step (with_ (.nop (bare 0)) []))).map (fun t => t.pc) = some 0x10088 := by decide +kernel
/-- IADD.i32 wraps (R350). -/
theorem test_iadd_wraps : v10 (step (with_ (.iadd (d2 .i32 0)) [0x7FFFFFFF, 1])) = some 0x80000000 := by decide +kernel
/-- A subtraction that borrows (R350). -/
theorem test_isub_wraps : v10 (step (with_ (.isub (d2 .n32 0)) [0, 1])) = some 0xFFFFFFFF := by decide +kernel
/-- The upper half of a signed product (R359). -/
theorem test_imulhi_signed : v10 (step (with_ (.imulhi (d2 .i32 0)) [0xFFFFFFFF, 2])) = some 0xFFFFFFFF := by decide +kernel
/-- LOP looks each bit up with a as the highest index bit: 0xE8 is the majority (R375). -/
theorem test_lop_majority : v10 (step (with_ (.lop (d3 .b32 0xE8)) [0xF0F0, 0xFF00, 0xAAAA])) = some 0xFAA0 := by decide +kernel
/-- 1 + 2^-24 is a tie and rounds to even (R114, R331). -/
theorem test_fadd_tie : v10 (step (with_ (.fadd (d2 .f32 0)) [0x3F800000, 0x33800000])) = some 0x3F800000 := by decide +kernel
/-- INEG of 1 (R350). -/
theorem test_ineg : v10 (step (with_ (.ineg (d1 .i32 0)) [1])) = some 0xFFFFFFFF := by decide +kernel
/-- BRA adds its offset to the address of the word (R401). -/
theorem test_bra_back : (lane0 (step (with_ (.bra (iw N N 8)) []))).map (fun t => t.pc) = some 0x10088 := by decide +kernel
/-- EXIT ends the thread. -/
theorem test_exit : (lane0 (step (with_ (.exit (bare 0)) []))).map (fun t => t.run) = some .exited := by decide +kernel
/-- A word that its own bits make illegal raises a trap, and nothing of it happens (R102, R251). -/
theorem test_illegal_traps : v10 (step (with_ ordered0 [])) = some 0 ∧ (match step (with_ ordered0 []) with | .next t => (t.launch? 1).any (fun l => !l.traps.isEmpty) | _ => false) = true := by
  decide +kernel
/-- Digests are SHA3-256 (FIPS 202: the digest of the empty message). -/
theorem test_sha3_empty : natOfBytes (sha3Bytes []) = 0x4A43F8804B0AD882FA493BE44DFF80F562D661A05647C15166D71EBFF8C6FFA7 := by decide +kernel

/-- AES-256 of the example vector of FIPS 197, appendix C.3. -/
theorem test_aes : natOfBytes (bytesOfNums (aesEncrypt (List.range 32) ((List.range 16).map (fun i => 17 * i)))).reverse
      = 0x8EA2B7CA516745BFEAFC49904B496089 := by decide +kernel
/-! ## For every statement, a state and operands that meet its hypotheses

A list holds one entry for each clause. `issues_of` turns `issuesNow` into the statements' `Issues`. -/

theorem witness_WordsThatCompute : allIssue (integerWords ++ immediateWords ++ moveWords) = true := by decide +kernel
theorem witness_FloatWords : allIssue (floatWords ++ groupWords) = true := by decide +kernel
theorem witness_MaskControlMemoryWords : allIssue (maskWords ++ controlWords ++ memoryWords) = true := by decide +kernel
theorem witness_PairedWords : issuesNow (at_ paired0) paired0 (fun _ => {}) = true := by decide +kernel
theorem witness_IntegerCompare : (isBit .b32 && decide (2 ≤ bitsOf (FSpec (d2 .b32 0x010)) 3 4)) = true := by decide +kernel
/-- 1.0 is a normal number of binary32. -/
theorem witness_OneRounding : decodeF (fmtOf .f32) 0x3F800000 = .fin false (2 ^ 23) (-23) ∧ 2 ^ (fmtOf .f32).mb ≤ 2 ^ 23
    ∧ (2 ^ 23 : Nat) ≠ 0 := by decide +kernel
/-- A byte of a load, and a store that precedes it. -/
theorem witness_ThreadsView : ([(0, 1)] : List (Nat × Nat))[0]? = some (0, 1)
    ∧ ({ lid := 1, uid := 5, seq := 1, ctx := 0, key := 1, cells := [(0, 7)], rel := [], pub := false } : UStore).precedes 5 [] = true := by decide +kernel
theorem witness_ScratchpadForm : scrAligned ⟨hd, false, .v 4, .v 6, 0, 2, 1, true, 1, false, 0, 0⟩ 0 = true := by decide +kernel
theorem witness_ControlWords : controlOk.all id = true := by decide +kernel
theorem witness_MemoryWords : memoryOk.all id = true := by decide +kernel
theorem witness_SystemWords : systemOk.all id = true := by decide +kernel
theorem witness_BarrierWords : barrierOk.all id = true := by decide +kernel
theorem witness_BarrierTest : oneWG (withBar 0 { bar16 with arrived := 16 } dev) (fun w _ =>
    (w.bar (dev.windowOf w) 0).expect == 16 && (w.bar (dev.windowOf w) 0).arrived == 16) = true := by decide +kernel
theorem witness_CopyWords : copiesOk.all id = true := by decide +kernel
theorem witness_CrowdedRanges : crowdedOk = true := by decide +kernel
theorem witness_QueueWords : queueOk.all id = true := by decide +kernel
theorem witness_CodeWords : codeOk.all id = true := by decide +kernel
theorem witness_MatrixWords : matrixOk.all id = true := by decide +kernel
theorem witness_MatrixEntries : mldbBad (shapeOf shape0) = false ∧ physOf [0, 1, 2, 3] 0 < 4 ∧ widthOf .f32 = 32
    ∧ (decodeF w48 (defaultNan w48)).isNan = true ∧ zeroTimesInf (.fin false 0 0) (.inf false) = true := by decide +kernel
/-- The sum of one product 1 · 1 to an accumulator of 0 is 1. -/
theorem witness_ChunkSum : (decodeF w48 0 = .fin false 0 (1 - (w48.bias : Int) - (w48.mb : Int)))
    ∧ (if false = true then (-1 : ℚ) else 1) * ((1 : Nat) : ℚ) * 2 ^ (0 : Int)
      = finVal (.fin false 0 0) + (([(FVal.fin false 1 0, FVal.fin false 1 0)] : List (FVal × FVal)).map (fun p => finVal p.1 * finVal p.2)).sum := by
  refine ⟨by decide +kernel, by norm_num [finVal]⟩
theorem witness_Rollback : oneWG (inSpan dev) (fun w _ => (w.group? 0).any (fun g => g.span == some span0)) = true := by decide +kernel
theorem witness_IssueEvents : issueOk.all id = true := by decide +kernel
theorem witness_GroupEvents : groupEventOk.all id = true := by decide +kernel
theorem witness_ReturningData : returnOk.all id = true := by decide +kernel
theorem witness_SliceEvents : sliceOk.all id = true := by decide +kernel
theorem witness_CopyEvents : copyEventOk.all id = true := by decide +kernel
theorem witness_CopySectors : sectorOk.all id = true := by decide +kernel
theorem witness_BindingEvents : bindingOk.all id = true := by decide +kernel
theorem witness_QueueEvents : queueEventOk.all id = true := by decide +kernel
theorem witness_LaunchEvents : launchOk.all id = true := by decide +kernel
theorem witness_FaultEvents : faultOk.all id = true := by decide +kernel
theorem witness_LinkEvents : linkOk.all id = true := by decide +kernel
theorem witness_LodgeEvents : lodgeOk.all id = true := by decide +kernel
/-- The version of the bank is the highest, whatever the fused minimum. -/
theorem witness_FirmwareBoots : rebooted.fw.min.toNat ≤ (rebooted.fw.version false).toNat :=
  Nat.le_of_lt_succ rebooted.fw.min.isLt
theorem witness_DebugCommands : debugAllOk.all id = true := by decide +kernel
theorem witness_LodgeCommands : lodgeAllOk.all id = true := by decide +kernel
theorem witness_SealedCode : codeEventOk.all id = true := by decide +kernel
theorem witness_MoreWords : moreOk.all id = true := by decide +kernel
theorem witness_ImageRestore : restoring = true := by decide +kernel
theorem witness_Encodings : wf (.iadd (d2 .i32 0)) = true ∧ decode 0x001DFFFFFFFE0000 = .ok (.nop (bare 0)) := by decide +kernel
/-- A path selected, its word fetched and decoded; a test owed; a move on the agenda. -/
theorem witness_StepRuns :
    (let s := State.reset.withFetchWord 64 0x001DFFFFFFFE0000
     match s.issue with
     | c :: cs => ({ s with issue := cs, cur := some c } : State).path.any (fun x =>
         match ({ s with issue := cs, cur := some c } : State).fetch x.l x.cur.pc with
         | .word d => decode d == .ok (.nop (bare 0))
         | _ => false)
     | [] => false) = true
    ∧ selects (.issueOpportunity []) = true ∧ (dev.movePlace .thermalHalt ≤ dev.movePlace (.turnSwitch 0))
    ∧ ({ dev with agenda := [⟨0, 1, [], .thermalHalt⟩] } : State).nowMoves = [⟨0, 1, [], .thermalHalt⟩]
    ∧ dev.issue = [] ∧ dev.agenda = [] ∧ dev.late = []
    ∧ ({ dev with due := [.bar 1 0] } : State).issue = []
    ∧ ({ dev with agenda := [⟨1, 1, [], .thermalHalt⟩] } : State).due = []
    ∧ ({ dev with agenda := [⟨1, 1, [], .thermalHalt⟩], late := [.deadlock 1] } : State).late ≠ [] := by decide +kernel
/-- An integer word that waits for a load, a routine call whose return slot is taken, an EXIT with a load in flight, and a matrix word at a full
queue. -/
theorem witness_WordsWait : [(Instr.iadd (d2 .i32 0), owed), (.lrcall lrcall0, slotTaken), (.exit (bare 0), leaving), (.mswap (bare 4), crammed)].all
    (fun p => match info p.1, p.2.path with
      | some n, some x => !p.2.readyWord p.1 n x
      | _, _ => false) = true := by decide +kernel
theorem witness_StepKeepsMemoryForm : (match step State.reset with | .next _ => true | _ => false) = true := by decide +kernel

end Sys2Proof.Tests
end

/-! SUPPORT and PROOF of the lodge's events (O51): its registers, its firmware, the fuse map, and the units that leave and rejoin
service. -/

namespace Sys2Proof.Machine

/-! ## The mailbox's registers (R289, R290) -/

theorem listedOp_iff (op : Nat) : listedOp op = true ↔ (1 ≤ op ∧ op ≤ 11) ∨ (32 ≤ op ∧ op ≤ 45) := by
  simp [listedOp]

/-- The OP of the command block. -/
def Lodge.op (d : Lodge) : Nat := (d.cmd.headD 0).toNat % 256

theorem State.answerUnlisted_eq (s : State) :
    s.answerUnlisted = if s.lodge.ready && s.lodge.busy && !listedOp s.lodge.op then s.respond s.lodge.op 4 0 else s := rfl

/-- The lodge answers of itself only a running command of a ready lodge whose OP is in no table (R271, R289). -/
theorem State.answerUnlisted_same {s : State} (h : s.lodge.ready = false ∨ s.lodge.busy = false ∨ listedOp s.lodge.op = true) :
    s.answerUnlisted = s := by
  rw [State.answerUnlisted_eq]
  obtain h | h | h := h <;> simp [h]

/-- An unlisted OP is an illegal field: status 4 (R289). -/
theorem State.answerUnlisted_responds {s : State} (hr : s.lodge.ready = true) (hb : s.lodge.busy = true)
    (hl : listedOp s.lodge.op = false) : s.answerUnlisted = s.respond s.lodge.op 4 0 := by
  simp [State.answerUnlisted_eq, hr, hb, hl]

theorem Lodge.writeCmd_other {d : Lodge} (hb : d.busy = false) (agent : Nat) {i : Fin 8} (hi : i ≠ 0) (x : DWord) :
    d.writeCmd agent i x = { d with cmd := d.cmd.set i x } := by
  simp [Lodge.writeCmd, hb, hi]

theorem Lodge.writeCmd_starts {d : Lodge} (hb : d.busy = false) (agent : Nat) (x : DWord) :
    d.writeCmd agent 0 x = { d with cmd := d.cmd.set 0 x, busy := true, agent := agent } := by
  simp [Lodge.writeCmd, hb]

theorem Lodge.writeCmd_busy {d : Lodge} (hb : d.busy = true) (agent : Nat) (x : DWord) :
    d.writeCmd agent 0 x = { d with busy8 := true } := by
  simp [Lodge.writeCmd, hb]

theorem exec_writeCommand (s : State) (agent : Nat) (i : Fin 8) (x : DWord) :
    exec (.registerWrite agent (.command i) x) s
      = .next ({ s with lodge := s.lodge.writeCmd agent i x } : State).answerUnlisted := rfl

/-- A word of the command block beside word 0 is stored, and nothing else happens (R290). -/
theorem exec_writeCommand_other {s : State} (hb : s.lodge.busy = false) (agent : Nat) {i : Fin 8} (hi : i ≠ 0) (x : DWord) :
    exec (.registerWrite agent (.command i) x) s = .next { s with lodge := { s.lodge with cmd := s.lodge.cmd.set i x } } := by
  rw [exec_writeCommand, Lodge.writeCmd_other hb agent hi]
  exact congrArg _ (State.answerUnlisted_same (.inr (.inl hb)))

/-- Word 0 starts a command that is listed, or that waits for the firmware (R268, R290). -/
theorem exec_writeCommand_starts {s : State} (hb : s.lodge.busy = false) (agent : Nat) (x : DWord)
    (h : listedOp (((s.lodge.cmd.set 0 x).headD 0).toNat % 256) = true ∨ s.lodge.ready = false) :
    exec (.registerWrite agent (.command 0) x) s
      = .next { s with lodge := { s.lodge with cmd := s.lodge.cmd.set 0 x, busy := true, agent := agent } } := by
  rw [exec_writeCommand, Lodge.writeCmd_starts hb]
  exact congrArg _ (State.answerUnlisted_same (h.elim (fun hl => .inr (.inr hl)) .inl))

/-- Word 0 with an OP of no table is answered with status 4 at once (R271, R289). -/
theorem exec_writeCommand_unlisted {s : State} (hb : s.lodge.busy = false) (hr : s.lodge.ready = true) (agent : Nat) (x : DWord)
    (h : listedOp (((s.lodge.cmd.set 0 x).headD 0).toNat % 256) = false) :
    exec (.registerWrite agent (.command 0) x) s
      = .next { s with lodge := { s.lodge with
          cmd := s.lodge.cmd.set 0 x, agent := agent, busy := false, done := true, mailIrq := true, respStatus := 4,
          respOp := ((s.lodge.cmd.set 0 x).headD 0).toNat % 256, value := 0 } } := by
  rw [exec_writeCommand, Lodge.writeCmd_starts hb]
  exact congrArg _ (State.answerUnlisted_responds (s := { s with lodge := _ }) hr rfl h)

/-- Word 0 written while a command runs raises BUSY8 and starts nothing (R290). -/
theorem exec_writeCommand_busy {s : State} (hb : s.lodge.busy = true) (agent : Nat) (x : DWord)
    (h : s.lodge.ready = false ∨ listedOp s.lodge.op = true) :
    exec (.registerWrite agent (.command 0) x) s = .next { s with lodge := { s.lodge with busy8 := true } } := by
  rw [exec_writeCommand, Lodge.writeCmd_busy hb]
  exact congrArg _ (State.answerUnlisted_same (h.imp id .inr))

/-! ## The fuse map (R2, R15) -/

/-- Spares are taken out of the cores, each at most once. -/
theorem takeSpares_subperm (polder : Nat) {k : Nat} {cs : List Nat} (h : k ≤ cs.length) : (takeSpares polder k cs).Subperm cs := by
  induction k generalizing cs with
  | zero => exact List.nil_subperm
  | succ k ih =>
    have hlt : Config.spareCore (4 * polder + k) % cs.length < cs.length := Nat.mod_lt _ (by omega)
    have hmem : cs.getD (Config.spareCore (4 * polder + k) % cs.length) 0 ∈ cs := by
      rw [List.getD_eq_getElem _ _ hlt]
      exact List.getElem_mem hlt
    have hrest := ih (cs := cs.erase (cs.getD (Config.spareCore (4 * polder + k) % cs.length) 0))
      (by rw [List.length_erase_of_mem hmem]; omega)
    exact ((List.subperm_cons _).2 hrest).trans (List.perm_cons_erase hmem).symm.subperm

theorem takeSpares_length (polder k : Nat) (cs : List Nat) : (takeSpares polder k cs).length = k := by
  induction k generalizing cs with
  | zero => rfl
  | succ k ih => simp [takeSpares, ih]

/-- The four spares of a polder, out of its 68 cores. -/
def polderSpares (p : Nat) : List Nat := takeSpares p 4 ((List.range 68).map (68 * p + ·))

theorem fuseMap_eq : fuseMap = (List.range 4).flatMap polderSpares := rfl

theorem polderSpares_subperm (p : Nat) : (polderSpares p).Subperm ((List.range 68).map (68 * p + ·)) :=
  takeSpares_subperm p (by simp)

theorem polderSpares_nodup (p : Nat) : (polderSpares p).Nodup := by
  obtain ⟨l, hp, hs⟩ := polderSpares_subperm p
  have hall : ((List.range 68).map (68 * p + ·)).Nodup :=
    List.nodup_range.map (fun _ _ h => Nat.add_left_cancel h)
  exact hp.nodup_iff.1 (hall.sublist hs)

/-- A spare of a polder is a core of that polder. -/
theorem polder_of_mem_polderSpares {p c : Nat} (h : c ∈ polderSpares p) : c / 68 = p := by
  obtain ⟨i, hi, rfl⟩ := List.mem_map.1 ((polderSpares_subperm p).subset h)
  have := List.mem_range.1 hi
  omega

theorem polderSpares_filter (p q : Nat) :
    (polderSpares q).filter (fun c => c / 68 == p) = if q = p then polderSpares q else [] := by
  split
  · next h => exact List.filter_eq_self.2 (fun c hc => by simp [polder_of_mem_polderSpares hc, h])
  · next h => exact List.filter_eq_nil_iff.2 (fun c hc => by simp [polder_of_mem_polderSpares hc, h])

theorem fuseMap_nodup : fuseMap.Nodup := by
  rw [fuseMap_eq, List.nodup_flatMap]
  refine ⟨fun p _ => polderSpares_nodup p, List.nodup_range.imp ?_⟩
  intro p q hne c hp hq
  exact hne ((polder_of_mem_polderSpares hp).symm.trans (polder_of_mem_polderSpares hq))

theorem fuseMap_lt {c : Nat} (h : c ∈ fuseMap) : c < 272 := by
  obtain ⟨p, hp, hc⟩ := List.mem_flatMap.1 (fuseMap_eq ▸ h)
  have := List.mem_range.1 hp
  have := polder_of_mem_polderSpares hc
  omega

/-- Four spares are marked in each polder. -/
theorem fuseMap_perPolder {p : Nat} (hp : p < 4) : (fuseMap.filter (fun c => c / 68 == p)).length = 4 := by
  have h4 : (polderSpares p).length = 4 := takeSpares_length p 4 _
  rw [fuseMap_eq, List.filter_flatMap]
  simp only [polderSpares_filter]
  interval_cases p <;> simpa [List.range_succ] using h4

/-! ## Firmware (R268, R292) -/

theorem Firmware.boots_iff (f : Firmware) (bank : Bool) :
    f.boots bank = true ↔ f.ok bank = true ∧ f.min.toNat ≤ (f.version bank).toNat := by
  simp [Firmware.boots]

theorem Firmware.boots_eq_false_iff (f : Firmware) (bank : Bool) :
    f.boots bank = false ↔ f.ok bank = false ∨ (f.version bank).toNat < f.min.toNat := by
  simp [Firmware.boots, imp_iff_not_or]

theorem exec_firmwareReady_up {s : State} {old : Bool} (hr : s.lodge.ready = false) (ho : s.fw.restart = some old)
    (hb : s.fw.boots s.lodge.bank = true) : exec .firmwareReady s = .next s.firmwareUp := by
  simp [exec_firmwareReady, execFirmwareReady, hr, ho, hb]

theorem exec_firmwareReady_refused {s : State} (hb : s.fw.boots s.lodge.bank = false) : exec .firmwareReady s = .next s := by
  simp [exec_firmwareReady, execFirmwareReady, hb]

theorem exec_firmwareReadyTimeout_back {s : State} {old : Bool} (hr : s.lodge.ready = false) (ho : s.fw.restart = some old) :
    exec .firmwareReadyTimeout s = .next { s with lodge := { s.lodge with bank := old } } := by
  simp [exec_firmwareReadyTimeout, execFirmwareReadyTimeout, hr, ho]

/-! ## Bit fields -/

/-- A field that ends within a word is not changed by the end of the word. -/
theorem bitsOf_mod_two_pow (x : Nat) {lo w n : Nat} (h : lo + w ≤ n) : bitsOf (x % 2 ^ n) lo w = bitsOf x lo w := by
  refine Nat.eq_of_testBit_eq (fun i => ?_)
  simp only [bitsOf, Nat.testBit_mod_two_pow, Nat.testBit_shiftRight]
  by_cases hi : i < w
  · simp [show lo + i < n by omega]
  · simp [hi]

/-- The field that `putBits` writes reads as what was written. -/
theorem bitsOf_putBits_same (x lo w : Nat) {v : Nat} (h : v < 2 ^ w) : bitsOf (putBits x lo w v) lo w = v := by
  have hmod := Nat.div_add_mod (x / 2 ^ lo) (2 ^ w)
  calc bitsOf (putBits x lo w v) lo w
      = (x / 2 ^ lo - x / 2 ^ lo % 2 ^ w + v) % 2 ^ w := by
        rw [putBits, bitsOf, bitsOf, Nat.shiftRight_eq_div_pow, Nat.shiftRight_eq_div_pow, Nat.mod_eq_of_lt h,
          Nat.add_mul_div_right _ _ (Nat.two_pow_pos lo), Nat.mul_comm, Nat.sub_mul_div]
    _ = (2 ^ w * (x / 2 ^ lo / 2 ^ w) + v) % 2 ^ w := by congr 2; omega
    _ = v := by rw [Nat.mul_add_mod, Nat.mod_eq_of_lt h]

/-! ## Service states and the entries of a core (R18, R266) -/

theorem State.ras_units (s : State) (r : Ras) : (s.ras r).units = s.units := by
  obtain ⟨_, _, _, h⟩ := s.ras_eq r
  rw [h]

theorem State.service_setService (s : State) (k : UnitKind) (n : Nat) (v : Service) : (s.setService k n v).service k n = v := by
  have h : (s.setService k n v).units = s.units.put .inService (unitKey k n) v := State.ras_units _ _
  rw [State.service, h, SMap.get_put_same]

theorem State.gbSt_setSt (s : State) (key j : Nat) {st : Nat} (h : st < 4) :
    (s.setSt key st).gbSt j = if j = key then st else s.gbSt j := by
  unfold State.gbSt State.gbe State.setSt
  split
  · next e => rw [e, SMap.get_put_same, BitVec.toNat_ofNat, bitsOf_mod_two_pow _ (by decide), bitsOf_putBits_same _ _ _ h]
  · next e => rw [SMap.get_put_other _ _ _ e]

/-- The service state of a unit does not rest on the group binding table. -/
theorem State.service_gbt (s : State) (g : SMap DWord) (k : UnitKind) (n : Nat) :
    ({ s with gbt := g } : State).service k n = s.service k n := rfl

@[simp] theorem State.service_setSt (s : State) (key st : Nat) (k : UnitKind) (n : Nat) :
    (s.setSt key st).service k n = s.service k n := State.service_gbt s _ k n

theorem State.service_setSts (ks : List Nat) (st : Nat) (s : State) (k : UnitKind) (n : Nat) :
    (ks.foldl (fun s key => s.setSt key st) s).service k n = s.service k n := by
  induction ks generalizing s with
  | nil => rfl
  | cons key ks ih => rw [List.foldl_cons, ih, State.service_setSt]

/-- Entries set one after the other: each of them holds the value, and no other is changed. -/
theorem State.gbSt_setSts (ks : List Nat) {st : Nat} (h : st < 4) (s : State) (j : Nat) :
    (ks.foldl (fun s key => s.setSt key st) s).gbSt j = if j ∈ ks then st else s.gbSt j := by
  induction ks generalizing s with
  | nil => simp
  | cons key ks ih =>
    rw [List.foldl_cons, ih, State.gbSt_setSt s key j h]
    by_cases hj : j ∈ ks <;> simp [hj]

/-- A core leaves service with the entries that name it marked as without a target (R18). -/
theorem State.leaveService_eq (s : State) (n : Nat) :
    s.leaveService n = (s.keysOn n).foldl (fun s key => s.setSt key 3) (s.setService .core n .outOfService) := rfl

theorem State.drainCore_saves {s : State} {n : Nat} (hk : ∃ key ∈ s.keysOn n, s.gbSt key = 1) (hs : s.saveable n = true) :
    s.drainCore n = (s.keysOn n).foldl State.offCore s := by
  have hany : (s.keysOn n).any (fun key => s.gbSt key == 1) = true := by simpa using hk
  simp [State.drainCore, hany, hs]

theorem State.drainCore_leaves {s : State} {n : Nat} (hk : ∀ key ∈ s.keysOn n, s.gbSt key ≠ 1) : s.drainCore n = s.leaveService n := by
  have hany : (s.keysOn n).any (fun key => s.gbSt key == 1) = false := by simpa using hk
  simp [State.drainCore, hany]

/-! ## Units that leave and rejoin service (R263, R266) -/

theorem exec_unitDrainComplete_core {s : State} {n : Nat} (hr : s.lodge.ready = true) (hd : s.service .core n = .draining) :
    exec (.unitDrainComplete .core n) s = .next (s.drainCore n) := by
  simp [exec_unitDrainComplete, execUnitDrainComplete, State.up, hr, hd]

theorem exec_unitDrainComplete_slice {s : State} {n : Nat} (hr : s.lodge.ready = true) (hd : s.service .slice n = .draining)
    (hp : n ∉ s.paused) :
    exec (.unitDrainComplete .slice n) s = .next (((s.emptySlice n).setService .slice n .outOfService).reroute n) := by
  simp [exec_unitDrainComplete, execUnitDrainComplete, State.up, hr, hd, hp]

theorem exec_unitDrainComplete_polder {s : State} {n : Nat} (hr : s.lodge.ready = true) (hd : s.service .polder n = .draining)
    (he : s.polderEmpty n = true) :
    exec (.unitDrainComplete .polder n) s = .next (s.setService .polder n .outOfService) := by
  simp [exec_unitDrainComplete, execUnitDrainComplete, State.up, hr, hd, he]

theorem exec_unitDrainComplete_farChannel {s : State} {n : Nat} (hr : s.lodge.ready = true) (hd : s.service .farChannel n = .draining) :
    exec (.unitDrainComplete .farChannel n) s = .next (s.setService .farChannel n .outOfService) := by
  simp [exec_unitDrainComplete, execUnitDrainComplete, State.up, hr, hd]

theorem State.service_leaveService (s : State) (n : Nat) : (s.leaveService n).service .core n = .outOfService := by
  rw [State.leaveService_eq, State.service_setSts, State.service_setService]

theorem State.gbSt_leaveService {s : State} {n key : Nat} (h : key ∈ s.keysOn n) : (s.leaveService n).gbSt key = 3 := by
  rw [State.leaveService_eq, State.gbSt_setSts _ (by decide), if_pos h]

theorem exec_unitTestPassed_other {s : State} {k : UnitKind} {n : Nat} (hr : s.lodge.ready = true) (hk : k = .polder ∨ k = .farChannel)
    (ht : s.service k n = .underTest) : exec (.unitTestPassed k n) s = .next (s.setService k n .inService) := by
  obtain rfl | rfl := hk <;> simp [exec_unitTestPassed, execUnitTestPassed, State.up, hr, ht]

theorem exec_unitTestPassed_slice {s : State} {n : Nat} (hr : s.lodge.ready = true) (ht : s.service .slice n = .underTest) :
    exec (.unitTestPassed .slice n) s
      = .next (((s.emptySlice (n ^^^ 1)).setService .slice n .inService).reroute (n ^^^ 1)) := by
  simp [exec_unitTestPassed, execUnitTestPassed, State.up, hr, ht]

theorem exec_unitTestPassed_core {s : State} {n : Nat} (hr : s.lodge.ready = true) (ht : s.service .core n = .underTest) :
    exec (.unitTestPassed .core n) s
      = .next (((s.setService .core n .inService).keysOn n).foldl State.backSt (s.setService .core n .inService)) := by
  simp [exec_unitTestPassed, execUnitTestPassed, State.up, hr, ht]

/-! ## Samples of the trace (R282) -/

/-- Folding keeps what each step keeps. -/
theorem foldl_keeps {σ α β : Type} {g : σ → β} {f : σ → α → σ} (hf : ∀ s a, g (f s a) = g s) (l : List α) (s : σ) :
    g (l.foldl f s) = g s := by
  induction l generalizing s with
  | nil => rfl
  | cons a l ih => rw [List.foldl_cons, ih, hf]

/-- What the steps keep can be read before the first of them or before each. -/
theorem foldl_reads {σ α β : Type} {g : σ → β} {f : β → σ → α → σ} (hf : ∀ b s a, g (f b s a) = g s) (l : List α) (s : σ) :
    l.foldl (fun t a => f (g t) t a) s = l.foldl (f (g s)) s := by
  induction l generalizing s with
  | nil => rfl
  | cons a l ih => rw [List.foldl_cons, List.foldl_cons, ih, hf]

/-- The place of the samples in their round. -/
def State.sampleRound (part : Nat) (s : State) : Nat := (s.part part).traceRr

/-- A trace record moves no place of the samples. -/
theorem State.trace_sampleRound (s : State) (j part kind wgid gid ncore pc unit stall act : Nat) :
    (s.trace part kind wgid gid ncore pc unit stall act).sampleRound j = s.sampleRound j := by
  unfold State.trace
  dsimp only
  generalize cellsAt _ _ = cs
  have hw : ∀ i, (s.writeM 0 0 cs).part i = s.part i := fun i => by
    obtain ⟨_, h⟩ := s.writeM_rest 0 0 cs
    rw [h]
    rfl
  split
  · rfl
  · rw [State.sampleRound, State.part_modPart]
    split
    · next e => rw [hw, e]; rfl
    · rw [hw]; rfl

theorem State.sampleUnit_sampleRound (part place key j : Nat) (s : State) (u : Nat) :
    (State.sampleUnit part place s key u).sampleRound j = s.sampleRound j := by
  unfold State.sampleUnit
  dsimp only
  split
  · rfl
  · exact State.trace_sampleRound _ _ _ _ _ _ _ _ _ _ _

/-- The samples of the four issue units of a logical core. -/
def State.sampleCore (part place : Nat) (s : State) (key : Nat) : State :=
  (List.range 4).foldl (fun s u => State.sampleUnit part place s key u) s

theorem State.sampleCore_sampleRound (part place j : Nat) (s : State) (key : Nat) :
    (State.sampleCore part place s key).sampleRound j = s.sampleRound j :=
  foldl_keeps (fun s u => State.sampleUnit_sampleRound part place key j s u) _ s

/-- The samples of a period all go by the place that their partition has at its start. -/
theorem State.sampleCores_eq (part : Nat) (keys : List Nat) (s : State) :
    keys.foldl (fun s key => (List.range 4).foldl (fun s u => State.sampleUnit part (s.part part).traceRr s key u) s) s
      = keys.foldl (State.sampleCore part (s.part part).traceRr) s := by
  have hunits : ∀ (t : State) (key : Nat),
      (List.range 4).foldl (fun s u => State.sampleUnit part (s.part part).traceRr s key u) t
        = State.sampleCore part (t.sampleRound part) t key := fun t key =>
    foldl_reads (g := State.sampleRound part) (f := fun place s u => State.sampleUnit part place s key u)
      (fun place s u => State.sampleUnit_sampleRound part place key part s u) _ t
  simp only [hunits]
  exact foldl_reads (g := State.sampleRound part) (fun place s key => State.sampleCore_sampleRound part place part s key) keys s

theorem exec_traceSample_off {s : State} {part : Nat} (h : (s.part part).trace = false) : exec (.traceSample part) s = .next s := by
  simp [exec_traceSample, execTraceSample, h]

/-- The logical cores of a partition that are resident. -/
def State.residentKeys (s : State) (part : Nat) : List Nat :=
  (s.gbt.filter (fun e => e.1 / 256 = part && bitsOf e.2.toNat 61 2 = 1)).map (fun e => e.1)

theorem exec_traceSample_period {s : State} {part : Nat} (h : (s.part part).trace = true)
    (hp : (s.ck - (s.part part).ckStart) % 2 ^ (s.part part).sper = 0) :
    exec (.traceSample part) s = .next (((s.residentKeys part).foldl (State.sampleCore part (s.part part).traceRr) s).modPart part
      (fun p => { p with traceRr := p.traceRr + 1 })) := by
  rw [exec_traceSample]
  exact congrArg Host.Outcome.next (if_neg (by simp [h, hp]))

end Sys2Proof.Machine

section

open Sys2Proof Sys2Proof.Machine

/-- Settles O51: each event by the lemma that says what it does. -/
theorem lodgeEvents : Obligations.LodgeEvents := by
  unfold Obligations.LodgeEvents
  refine ⟨?registers, ?firmware, fun s => ⟨rfl, rfl⟩, fun s straps => rfl, ?units, ?samples⟩
  case registers =>
    refine fun s agent value => ⟨rfl, rfl, fun i hb hi => exec_writeCommand_other hb agent hi value, ?_, ?_⟩
    · intro hb op listed taken
      refine ⟨fun h => exec_writeCommand_starts hb agent value (h.imp (listedOp_iff op).2 id), fun hl hr => ?_⟩
      exact exec_writeCommand_unlisted hb hr agent value (Bool.eq_false_iff.2 (mt (listedOp_iff op).1 hl))
    · intro hb op h
      exact exec_writeCommand_busy hb agent value (h.imp id (listedOp_iff op).2)
  case firmware =>
    refine fun s old hr ho => ⟨?_, fun h => ?_, ?_⟩
    · intro hok hver m
      exact ⟨fuseMap_nodup, fun _ => fuseMap_lt, fun _ => fuseMap_perPolder,
        exec_firmwareReady_up hr ho ((Firmware.boots_iff _ _).2 ⟨hok, hver⟩)⟩
    · exact exec_firmwareReady_refused ((Firmware.boots_eq_false_iff _ _).2 h)
    · exact exec_firmwareReadyTimeout_back hr ho
  case units =>
    refine fun s num hr => ⟨exec_unitDrainComplete_slice hr, exec_unitDrainComplete_polder hr, exec_unitDrainComplete_farChannel hr,
      fun hd hk hs => ?_, ?_, fun k => exec_unitTestPassed_other hr, exec_unitTestPassed_slice hr, exec_unitTestPassed_core hr⟩
    · rw [exec_unitDrainComplete_core hr hd, State.drainCore_saves hk hs]
      rfl
    · intro hd hk m t
      refine ⟨?_, State.service_leaveService s num, fun key => State.gbSt_leaveService⟩
      rw [exec_unitDrainComplete_core hr hd, State.drainCore_leaves hk]
      rfl
  case samples =>
    refine fun s part => ⟨exec_traceSample_off, ?_⟩
    -- the statement reads the place of the samples in the state of each sample
    intro ht hp keys
    rw [exec_traceSample_period ht hp, State.sampleCores_eq]
    rfl

end

/-! SUPPORT and PROOF of the binding events (O46): the group binding table, the start of a partition, the locked clock and the power
cap, bind records, and turns on a shared physical core. -/

namespace Sys2Proof.Machine

/-! ## Bits beside a written field -/

theorem bitsOf_lt (x lo w : Nat) : bitsOf x lo w < 2 ^ w := Nat.mod_lt _ (Nat.two_pow_pos w)

theorem testBit_bitsOf (x lo w i : Nat) : (bitsOf x lo w).testBit i = (decide (i < w) && x.testBit (lo + i)) := by
  rw [bitsOf, Nat.testBit_mod_two_pow, Nat.testBit_shiftRight]

/-- The number that `putBits` leaves is the bits below the field, the field, and the bits above it. -/
theorem putBits_eq (x lo w v : Nat) :
    putBits x lo w v = 2 ^ lo * (2 ^ w * (x / 2 ^ lo / 2 ^ w) + v % 2 ^ w) + x % 2 ^ lo := by
  have hfield : 2 ^ lo * (x / 2 ^ lo) = 2 ^ lo * (2 ^ w * (x / 2 ^ lo / 2 ^ w)) + x / 2 ^ lo % 2 ^ w * 2 ^ lo := by
    conv_lhs => rw [← Nat.div_add_mod (x / 2 ^ lo) (2 ^ w)]
    rw [Nat.mul_add, Nat.mul_comm (2 ^ lo) (_ % _)]
  have hx := Nat.div_add_mod x (2 ^ lo)
  rw [putBits, bitsOf, Nat.shiftRight_eq_div_pow, Nat.mul_add, Nat.mul_comm (2 ^ lo) (v % _)]
  omega

/-- A bit outside the field that `putBits` writes stays. -/
theorem testBit_putBits_other (x v : Nat) {lo w i : Nat} (h : i < lo ∨ lo + w ≤ i) : (putBits x lo w v).testBit i = x.testBit i := by
  rw [putBits_eq, Nat.testBit_two_pow_mul_add _ (Nat.mod_lt x (Nat.two_pow_pos lo))]
  obtain h | h := h
  · rw [if_pos h, Nat.testBit_mod_two_pow, decide_eq_true h, Bool.true_and]
  · rw [if_neg (by omega), Nat.testBit_two_pow_mul_add _ (Nat.mod_lt v (Nat.two_pow_pos w)), if_neg (by omega),
      Nat.testBit_div_two_pow, Nat.testBit_div_two_pow]
    congr 1
    omega

/-- A bit of a field that `putBits` writes is that of what was written. -/
theorem testBit_putBits_field (x v : Nat) {lo w i : Nat} (hi : i < w) : (putBits x lo w v).testBit (lo + i) = v.testBit i := by
  rw [putBits_eq, Nat.testBit_two_pow_mul_add _ (Nat.mod_lt x (Nat.two_pow_pos lo)), if_neg (by omega), Nat.add_sub_cancel_left,
    Nat.testBit_two_pow_mul_add _ (Nat.mod_lt v (Nat.two_pow_pos w)), if_pos hi, Nat.testBit_mod_two_pow, decide_eq_true hi,
    Bool.true_and]

/-- A field apart from the one that `putBits` writes stays. -/
theorem bitsOf_putBits_other (x v : Nat) {lo w lo' w' : Nat} (h : lo' + w' ≤ lo ∨ lo + w ≤ lo') :
    bitsOf (putBits x lo w v) lo' w' = bitsOf x lo' w' := by
  refine Nat.eq_of_testBit_eq (fun i => ?_)
  rw [testBit_bitsOf, testBit_bitsOf]
  by_cases hi : i < w'
  · rw [testBit_putBits_other x v (by omega)]
  · simp [hi]

/-! ## The group binding table (R18, R19) -/

/-- An entry of the group binding table as a write stores it: ST as given, and the reserved bits clear (R18). -/
def storedEntry (e st : Nat) : DWord := BitVec.ofNat 64 (putBits (putBits (putBits e 61 2 st) 52 9 0) 46 2 0)

theorem storedEntry_st (e : Nat) {st : Nat} (h : st < 4) : bitsOf (storedEntry e st).toNat 61 2 = st := by
  rw [storedEntry, BitVec.toNat_ofNat, bitsOf_mod_two_pow _ (by decide), bitsOf_putBits_other _ _ (by decide),
    bitsOf_putBits_other _ _ (by decide), bitsOf_putBits_same _ _ _ h]

/-- The fields that software writes are stored as they are. -/
theorem storedEntry_written (e : DWord) (st : Nat) {i : Nat} (h : i < 46 ∨ (48 ≤ i ∧ i < 52) ∨ i = 63) :
    (storedEntry e.toNat st).getLsbD i = e.getLsbD i := by
  rw [storedEntry, BitVec.getLsbD_ofNat, testBit_putBits_other _ _ (by omega), testBit_putBits_other _ _ (by omega),
    testBit_putBits_other _ _ (by omega), decide_eq_true (by omega), Bool.true_and]
  rfl

/-- The reserved bits are stored as zeros. -/
theorem storedEntry_reserved (e st : Nat) {i : Nat} (h : (46 ≤ i ∧ i < 48) ∨ (52 ≤ i ∧ i < 61)) :
    (storedEntry e st).getLsbD i = false := by
  rw [storedEntry, BitVec.getLsbD_ofNat]
  obtain ⟨hlo, hhi⟩ | ⟨hlo, hhi⟩ := h
  · obtain ⟨j, rfl⟩ := Nat.exists_eq_add_of_le hlo
    rw [testBit_putBits_field _ _ (by omega), Nat.zero_testBit, Bool.and_false]
  · obtain ⟨j, rfl⟩ := Nat.exists_eq_add_of_le hlo
    rw [testBit_putBits_other _ _ (by omega), testBit_putBits_field _ _ (by omega), Nat.zero_testBit, Bool.and_false]

theorem State.gbSt_lt (s : State) (key : Nat) : s.gbSt key < 4 := bitsOf_lt _ 61 2

theorem State.coreOut_iff (s : State) (pcore : Nat) :
    s.coreOut pcore = true ↔ s.service .core pcore ∈ [Service.outOfService, .underTest, .retired] := by
  unfold State.coreOut
  cases s.service .core pcore <;> decide

theorem State.newSt_eq (s : State) (index : Nat) (e : DWord) : s.newSt index e.toNat =
    if e.getLsbD 63 = true ∧ s.service .core (gbPcore e.toNat) ∈ [Service.outOfService, .underTest, .retired] then 3
    else s.gbSt index := by
  simp only [State.newSt, Bool.and_eq_true, State.coreOut_iff]
  rfl

theorem State.newSt_lt (s : State) (index e : Nat) : s.newSt index e < 4 := by
  unfold State.newSt
  split
  · decide
  · exact s.gbSt_lt index

/-- A write whose fields are legal, to an entry that is idle or saved, is stored (R18). -/
theorem exec_groupBindingEntryWrite_stores {s : State} {index : Nat} {e : DWord} (hr : s.lodge.ready = true) (hi : index < 4096)
    (hpart : gbPart e.toNat = index / 256) (hmuxl : gbMuxl e.toNat < 5) (hpcore : gbPcore e.toNat < 272) (hst : s.gbSt index % 2 = 0) :
    exec (.groupBindingEntryWrite index e) s
      = .next { s with gbt := s.gbt.put 0 index (storedEntry e.toNat (s.newSt index e.toNat)) } := by
  simp only [exec_groupBindingEntryWrite, execGroupBindingEntryWrite]
  rw [if_neg (by simp [State.up, hr, hi]), if_neg (by simp [hpart, hmuxl, hpcore, hst])]
  rfl

/-- A write with an illegal field, or to an entry that is resident or without a target, only raises the binding-error bit (R18, R19). -/
theorem exec_groupBindingEntryWrite_rejects {s : State} {index : Nat} {e : DWord} (hr : s.lodge.ready = true) (hi : index < 4096)
    (h : gbPart e.toNat ≠ index / 256 ∨ 5 ≤ gbMuxl e.toNat ∨ 272 ≤ gbPcore e.toNat ∨ s.gbSt index % 2 = 1) :
    exec (.groupBindingEntryWrite index e) s = .next s.bindError := by
  simp only [exec_groupBindingEntryWrite, execGroupBindingEntryWrite]
  rw [if_neg (by simp [State.up, hr, hi]), if_pos (by simpa [or_assoc] using h)]

/-! ## Partitions (R20, R246, R247, R296) -/

theorem exec_partitionStart_starts {s : State} {part : Nat} (hr : s.lodge.ready = true) (hp : part < 16)
    (hs : (s.part part).started = false) (hok : s.partOk part = true) :
    exec (.partitionStart part) s = .next (s.modPart part (fun p =>
      { p with started := true, cores := (s.partCores part).length, ckStart := s.ck, nextPlace := s.ck }.traced
        (Config.traceRing part))) := by
  simp [exec_partitionStart, execPartitionStart, State.up, hr, hp, hs, hok]

theorem exec_partitionStart_rejects {s : State} {part : Nat} (hr : s.lodge.ready = true) (hp : part < 16)
    (hs : (s.part part).started = false) (hok : s.partOk part = false) : exec (.partitionStart part) s = .next s.bindError := by
  simp [exec_partitionStart, execPartitionStart, State.up, hr, hp, hs, hok]

theorem exec_lockedClockMode_sets {s : State} {part : Nat} (on : Bool) (hr : s.lodge.ready = true) (hp : part < 16)
    (hb : s.launches.any (fun l => l.binds part) = false) :
    exec (.lockedClockMode part on) s = .next (s.modPart part (fun p => { p with locked := on })) := by
  simp only [exec_lockedClockMode, execLockedClockMode]
  rw [if_neg (by simp [State.up, hr, hp]), if_neg (by simp [hb])]

theorem exec_lockedClockMode_rejects {s : State} {part : Nat} (on : Bool) (hr : s.lodge.ready = true) (hp : part < 16)
    (hb : s.launches.any (fun l => l.binds part) = true) : exec (.lockedClockMode part on) s = .next s.bindError := by
  simp only [exec_lockedClockMode, execLockedClockMode]
  rw [if_neg (by simp [State.up, hr, hp]), if_pos hb]

theorem exec_powerCapAdjust_sets {s : State} {part steps : Nat} (hr : s.lodge.ready = true) (hp : part < 16) (hs : steps ≤ 10)
    (hl : (s.part part).locked = false) :
    exec (.powerCapAdjust part steps) s = .next (s.modPart part (fun p => { p with clockStep := steps })) := by
  simp [exec_powerCapAdjust, execPowerCapAdjust, State.up, hr, hp, hs, hl]

/-! ## Bind records (R241, R243) -/

/-- A record as a write stores it: STALL and the reserved bits clear (R241). -/
def storedRecord (record : DWord) : Nat := putBits (putBits record.toNat 18 1 0) 19 13 0

/-- No launch needs a record that none names. -/
theorem State.find_needsSlot_none {s : State} {slot : Nat} (h : ∀ m ∈ s.launches, m.slot ≠ some slot) :
    s.launches.find? (fun l => l.slot == some slot && s.needsSlot l) = none :=
  List.find?_eq_none.2 (fun m hm => by simp [h m hm])

theorem State.needsSlot_unbound (s : State) {l : Launch} (h : l.slot = none) : s.needsSlot l = false := by
  simp [State.needsSlot, h]

/-- A slot that no launch names has nothing to give up. -/
theorem State.freeSlot_unnamed {s : State} {slot : Nat} (h : ∀ m ∈ s.launches, m.slot ≠ some slot) : s.freeSlot slot = s := by
  have hnone : s.launches.filter (fun l => l.slot == some slot) = [] :=
    List.filter_eq_nil_iff.2 (fun m hm => by simp [h m hm])
  have hsame : s.launches.map (fun (l : Launch) => if l.slot = some slot then { l with slot := none } else l) = s.launches :=
    (List.map_congr_left (fun m hm => if_neg (h m hm))).trans (List.map_id' _)
  rw [State.freeSlot, hnone, hsame, List.foldl_nil]

/-- A record whose V and ST agree passes the first check of the write (R241). -/
theorem bindRun_passes {s : State} {slot : Nat} {record : DWord} (hr : s.lodge.ready = true) (hs : slot < 512)
    (hst : bindSt (storedRecord record) = if bindV (storedRecord record) = true then 1 else 0) :
    ¬ (!s.up || 512 ≤ slot || bindSt (storedRecord record) ≠ if bindV (storedRecord record) = true then 1 else 0) = true := by
  simp [State.up, hr, hs, ← hst]

/-- A record in a free slot binds the launch that it names (R241). -/
theorem exec_bindRun_binds {s : State} {slot : Nat} {record : DWord} {l : Launch} (hr : s.lodge.ready = true) (hs : slot < 512)
    (hfree : ∀ m ∈ s.launches, m.slot ≠ some slot) (hv : bindV (storedRecord record) = true) (hst : bindSt (storedRecord record) = 1)
    (hpart : bindPart (storedRecord record) = (s.ctx (bindCtx (storedRecord record))).part)
    (hl : s.bindLaunch (storedRecord record) = some l) (hdead : (s.ctx l.ctx).dead = false) (hslot : l.slot = none)
    (hplaced : l.phase = .queued → l.placed = true → l.part = bindPart (storedRecord record)) :
    exec (.bindRun slot record) s
      = .next ((s.setBind slot (storedRecord record)).bindTo slot (bindPart (storedRecord record)) l) := by
  rw [exec_bindRun, execBindRun, ← storedRecord]
  dsimp only
  rw [if_neg (bindRun_passes hr hs (by rw [hst, if_pos hv])), if_neg (not_not.2 hpart)]
  simp only [State.find_needsSlot_none hfree, hv, hl, hslot, State.freeSlot_unnamed hfree]
  rw [if_neg (by decide), if_neg (by simpa [hdead, s.needsSlot_unbound hslot] using hplaced)]

/-- A record for another partition than its context's is rejected (R241). -/
theorem exec_bindRun_rejects {s : State} {slot : Nat} {record : DWord} (hr : s.lodge.ready = true) (hs : slot < 512)
    (hst : bindSt (storedRecord record) = if bindV (storedRecord record) = true then 1 else 0)
    (hpart : bindPart (storedRecord record) ≠ (s.ctx (bindCtx (storedRecord record))).part) :
    exec (.bindRun slot record) s = .next s.bindError := by
  rw [exec_bindRun, execBindRun, ← storedRecord]
  dsimp only
  rw [if_neg (bindRun_passes hr hs hst), if_pos hpart]

/-- The record of a running launch written again: PRIO is taken, and STALL stays (R241). -/
theorem exec_bindRun_rebinds {s : State} {slot : Nat} {record : DWord} {l : Launch} (hr : s.lodge.ready = true) (hs : slot < 512)
    (hst : bindSt (storedRecord record) = if bindV (storedRecord record) = true then 1 else 0)
    (huser : s.launches.find? (fun l => l.slot == some slot && s.needsSlot l) = some l)
    (hpart : bindPart (storedRecord record) = (s.ctx (bindCtx (storedRecord record))).part) (hv : bindV (storedRecord record) = true)
    (hrun : bindSt (s.bind slot) = 1) (hlid : bindLid (storedRecord record) = l.lid % 2 ^ 32)
    (hctx : bindCtx (storedRecord record) = l.ctx) (hlpart : bindPart (storedRecord record) = l.part) :
    exec (.bindRun slot record) s
      = .next (s.setBind slot (putBits (storedRecord record) 18 1 (bitsOf (s.bind slot) 18 1))) := by
  have hrebind : s.rebind slot (storedRecord record) l
      = s.setBind slot (putBits (storedRecord record) 18 1 (bitsOf (s.bind slot) 18 1)) := by
    simp [State.rebind, hv, hrun, hlid, hctx, hlpart]
  rw [exec_bindRun, execBindRun, ← storedRecord, ← hrebind]
  dsimp only
  rw [if_neg (bindRun_passes hr hs hst), if_neg (not_not.2 hpart), huser]

theorem State.atRest_iff (s : State) (slot : Nat) :
    s.atRest slot = true ↔ ∃ l ∈ s.launches, l.slot = some slot ∧ (l.phase = .stopped ∨ l.phase = .queued) := by
  simp [State.atRest]

/-- A stop of a running record: requested, or done at once where nothing of the launch stands on the cores (R243). -/
theorem exec_bindStopRequest_stops {s : State} {slot : Nat} (hr : s.lodge.ready = true) (hv : bindV (s.bind slot) = true)
    (hst : bindSt (s.bind slot) = 1) (hdead : (s.ctx (bindCtx (s.bind slot))).dead = false) :
    exec (.bindStopRequest slot) s
      = .next (s.setBind slot (putBits (s.bind slot) 1 2 (if s.atRest slot = true then 3 else 2))) := by
  simp [exec_bindStopRequest, execBindStopRequest, State.up, hr, hv, hst, hdead]

/-- A frontier that has not moved for 2^20 ck over a window that holds a request sets STALL (R191, R241). -/
theorem exec_reorderStall_stalls {s : State} {lid slot : Nat} {l : Launch} (hl : s.launch? lid = some l) (hslot : l.slot = some slot)
    (hw : l.window ≠ []) (hck : l.frontierCk + 2 ^ 20 ≤ s.ck) :
    exec (.reorderStall lid) s = .next (s.setBind slot (putBits (s.bind slot) 18 1 1)) := by
  have hmoves : (l.window.isEmpty || decide (s.ck < l.frontierCk + 2 ^ 20)) = false := by
    simpa [List.isEmpty_iff, hw] using hck
  simp only [exec_reorderStall, execReorderStall, hl, hslot]
  rw [if_neg (by rw [hmoves]; decide)]

/-! ## Turns on a shared physical core (R22, R148) -/

theorem State.turnOver_iff (s : State) (key : Nat) :
    s.turnOver key = true ↔ gbMuxl (s.gbe key).toNat ≠ 0 ∧ s.coreRests key = true ∧ s.coreDrained key = true := by
  simp [State.turnOver, and_assoc]

/-- A logical core whose turn has ended is saved. -/
theorem State.gbSt_endTurn (s : State) (key : Nat) : (s.endTurn key).gbSt key = 2 := by
  rw [State.endTurn, State.gbSt_setSt _ _ _ (by decide), if_pos rfl]

/-- A physical core with a resident logical core ends its turn where it is over, and else does nothing. -/
theorem exec_turnSwitch_resident {s : State} {pcore old : Nat} (ht : s.lodge.therm = false)
    (hres : (s.turnOrder pcore 15).find? (fun key => s.gbSt key = 1) = some old) :
    exec (.turnSwitch pcore) s = .next (if s.turnOver old = true then s.endTurn old else s) := by
  simp [exec_turnSwitch, execTurnSwitch, ht, hres]

/-- With none resident and the panels zeroed, the next logical core that can run is taken. -/
theorem exec_turnSwitch_enters {s : State} {pcore new : Nat} (ht : s.lodge.therm = false)
    (hres : (s.turnOrder pcore 15).find? (fun key => s.gbSt key = 1) = none) (hnext : s.nextTurn pcore = some new)
    (hz : s.zeroingOn pcore = []) (hserv : s.service .core pcore = .inService) :
    exec (.turnSwitch pcore) s = .next (s.enter new) := by
  simp [exec_turnSwitch, execTurnSwitch, ht, hres, hnext, hz, hserv]

/-- A physical core none of whose logical cores can run idles. -/
theorem exec_turnSwitch_idles {s : State} {pcore : Nat} (ht : s.lodge.therm = false)
    (hres : (s.turnOrder pcore 15).find? (fun key => s.gbSt key = 1) = none) (hnext : s.nextTurn pcore = none) :
    exec (.turnSwitch pcore) s = .next s := by
  simp [exec_turnSwitch, execTurnSwitch, ht, hres, hnext]

end Sys2Proof.Machine

section

open Sys2Proof Sys2Proof.Machine

/-- Settles O46: each event by the lemma that says what it does. -/
theorem bindingEvents : Obligations.BindingEvents := by
  unfold Obligations.BindingEvents
  intro s hr
  refine ⟨?write, fun index e hi h => exec_groupBindingEntryWrite_rejects hr hi h,
    fun part hp hs => ⟨exec_partitionStart_starts hr hp hs, exec_partitionStart_rejects hr hp hs⟩,
    fun part on hp => ⟨exec_lockedClockMode_sets on hr hp, exec_lockedClockMode_rejects on hr hp⟩,
    fun part steps hp hs hl => exec_powerCapAdjust_sets hr hp hs hl, ?bind, ?stop, ?bound,
    fun lid slot l hl hslot hw hck => exec_reorderStall_stalls hl hslot hw hck, ?turn⟩
  case write =>
    intro index e hi hpart hmuxl hpcore hst
    dsimp only
    rw [← s.newSt_eq index e]
    exact ⟨exec_groupBindingEntryWrite_stores hr hi hpart hmuxl hpcore hst, storedEntry_st _ (s.newSt_lt index _),
      fun i h => storedEntry_written e _ h, fun i h => storedEntry_reserved _ _ h⟩
  case bind =>
    exact fun slot record l hs hfree hv hst hpart hl hdead hslot hplaced =>
      exec_bindRun_binds hr hs hfree hv hst hpart hl hdead hslot hplaced
  case stop =>
    intro slot _ r hv hst hdead rests
    refine ⟨fun h => ?_, fun h => ?_⟩
    · rw [exec_bindStopRequest_stops hr hv hst hdead, if_neg (mt (s.atRest_iff slot).1 h)]
    · rw [exec_bindStopRequest_stops hr hv hst hdead, if_pos ((s.atRest_iff slot).2 h)]
  case bound =>
    exact fun slot record hs hst => ⟨exec_bindRun_rejects hr hs hst, fun l huser hpart hv hrun hlid hctx hlpart =>
      exec_bindRun_rebinds hr hs hst huser hpart hv hrun hlid hctx hlpart⟩
  case turn =>
    intro pcore ht resident waiting
    refine ⟨fun old hres => ⟨fun hm hrest hdrain => ⟨?_, s.gbSt_endTurn old⟩, fun h => ?_⟩,
      fun new hres hnext hz hserv => exec_turnSwitch_enters ht hres hnext hz hserv,
      fun hres hnext => exec_turnSwitch_idles ht hres hnext⟩
    · rw [exec_turnSwitch_resident ht hres, if_pos ((s.turnOver_iff old).2 ⟨hm, hrest, hdrain⟩)]
    · have hgoes : s.turnOver old ≠ true := fun hover => by
        obtain ⟨hm, hrest, hdrain⟩ := (s.turnOver_iff old).1 hover
        simp [hm, hrest, hdrain] at h
      rw [exec_turnSwitch_resident ht hres, if_neg hgoes]

end

/-! SUPPORT and PROOF of the words that wait (O58): the shared issue of every word, which does nothing while the word is not ready. -/

namespace Sys2Proof.Machine

/-! ## Words that wait (R33, R35) -/

/-- Every instruction word means the shared issue of a word, with checks and a body of its own. -/
theorem exec_isWord (s : State) {i : Instr} (h : isWord i = true) : ∃ ck body, exec i s = s.word i ck body := by
  cases i with
  | ldb w =>
    by_cases hs : w.space = 1#3
    · exact ⟨_, _, (exec_ldb s).trans (if_pos hs)⟩
    · exact ⟨_, _, (exec_ldb s).trans (if_neg hs)⟩
  | stb w =>
    by_cases hs : w.space = 1#3
    · exact ⟨_, _, (exec_stb s).trans (if_pos hs)⟩
    · exact ⟨_, _, (exec_stb s).trans (if_neg hs)⟩
  | nop w | pairedWord w | iadd w | iaddImm w | isub w | isubImm w | iaddc w | isubb w | imul w | imulImm w | imulhi w
  | imulhiImm w | imad w | imin w | iminImm w | imax w | imaxImm w | iabs w | ineg w | icmp w | ipopc w | iclz w | ibrev w
  | ibfe w | ibfi w | lea w | leaImm w | lop w | shl w | shr w | sar w | shlImm w | shrImm w | sarImm w | sel w | mov w
  | movSpecial w | movi w | plop w | pmovToReg w | pmovFromReg w | pmovPred w | fadd w | faddImm w | fsub w | fmul w | fmulImm w
  | ffma w | fmin w | fminImm w | fmax w | fmaxImm w | fabs w | fneg w | fcmp w | fclass w | frnd w | fcvt w | frcp w | frsq w
  | fsqrt w | fexp2 w | flog2 w | ftanh w | npack w | nunpk w | nscale w | gshfl w | gbfly w | gred w | gscan w | gvote w
  | gmatch w | grank w | join w | leave w | kwait w | kmov w | kand w | kor w | krd w | kset w | bra w | brx w | call w | ret w
  | switch w | regroup w | yield w | exit w | trap w | trapret w | bkpt w | sysrd w | syswr w | stampIn w | stampMma w
  | stampOut w | time w | ld w | lds w | lda w | st w | sts w | pref w | atom w | atomScr w | lrcall w | lrdef w | lrdrop w
  | waitv w | wake w | phasePub w | phaseRef w | phase w | fence w | bar w | bararv w | barwait w | bartx w | barinit w | xbarv w
  | xbwait w | xbset w | cpin w | cpout w | cpoutDomainReduction w | cpgath w | cpgathDigest w | cpscat w | cpfill w
  | cpfillScratchpad w | qfence w | qwait w | cbacq w | cbrel w | cbrelCfg w | cvput w | cvseal w | launch w | mldb w | mswap w
  | mma w | mmaw w | mspan w | mcommit w | mzero w | mlda w | msta w => exact ⟨_, _, rfl⟩
  | _ => exact nomatch h

/-- A word that is not ready leaves the state as it is. -/
theorem exec_waits {s : State} {i : Instr} {x : Path} {nfo : Info} (hx : s.path = some x) (hi : info i = some nfo)
    (hr : s.readyWord i nfo x = false) : exec i s = .next s := by
  obtain ⟨ck, body, h⟩ := exec_isWord s (i := i) (by simp [isWord, hi])
  rw [h, State.word_waits hi hx hr]

/-- A ready word is owed nothing that it names, by its group or its lanes, and has room in the matrix queue where it enters it (R35). -/
theorem State.readyWord_ready {s : State} {i : Instr} {nfo : Info} {x : Path} (h : s.readyWord i nfo x = true) :
    x.g.owed.any (fun r => (nfo.reads ++ nfo.writes).any (fun q => r.meets q)) = false ∧ x.lanesReady i nfo = true
      ∧ (entersMatrix i = true → (s.core x.w.core).mq.length < 8) := by
  simp only [State.readyWord, Bool.and_eq_true, Bool.or_eq_true, Bool.not_eq_true', decide_eq_true_eq] at h
  obtain ⟨⟨⟨hlanes, howed⟩, hroom⟩, -⟩ := h
  refine ⟨?_, hlanes, fun hm => hroom.resolve_left (by simp [hm])⟩
  simpa only [List.any_eq_false, List.all_eq_true, Bool.not_eq_true', Bool.not_eq_true] using howed

end Sys2Proof.Machine

section

open Sys2Proof Sys2Proof.Machine

/-- Settles O58: a ready word is owed nothing, and the shared issue of a word does nothing where it is not ready. -/
theorem wordsWait : Obligations.WordsWait := by
  unfold Obligations.WordsWait
  intro s i x nfo hx hi
  have refuse : ∀ {p : Prop}, (s.readyWord i nfo x = true → ¬ p) → p → s.readyWord i nfo x = false :=
    fun h hp => Bool.eq_false_iff.2 fun hr => h hr hp
  refine ⟨refuse fun hr h => ?owed, refuse fun hr h => ?lanes, fun hm => refuse fun hr h => ?queue, exec_waits hx hi⟩
  case owed => exact absurd (h.symm.trans (State.readyWord_ready hr).1) (by simp)
  case lanes => exact absurd (h.symm.trans (State.readyWord_ready hr).2.1) (by simp)
  case queue => exact absurd ((State.readyWord_ready hr).2.2 hm) (Nat.not_lt.2 h)

end

/-! SUPPORT and PROOF of the step (O57): what acts next in a ck, and what the passing of time leaves alone. -/

namespace Sys2Proof.Machine

/-! ## The least of some numbers -/

theorem minOf_mem {xs : List Nat} {m : Nat} (h : minOf xs = some m) : m ∈ xs := by
  induction xs generalizing m with
  | nil => cases h
  | cons x xs ih =>
    rw [minOf] at h
    split at h
    · cases h; exact List.mem_cons_self
    · next y hy =>
      cases h
      obtain hx | hx := Nat.le_total x y
      · rw [Nat.min_eq_left hx]; exact List.mem_cons_self
      · rw [Nat.min_eq_right hx]; exact List.mem_cons_of_mem _ (ih hy)

/-- A first number that none is below is the least. -/
theorem minOf_cons_le {x : Nat} {xs : List Nat} (h : ∀ y ∈ xs, x ≤ y) : minOf (x :: xs) = some x := by
  rw [minOf]
  split
  · rfl
  · next y hy => rw [Nat.min_eq_left (h y (minOf_mem hy))]

/-! ## What time and the writes of others leave alone -/

/-- The move of a frontier changes launches and bind records, and nothing else. -/
theorem State.moveFrontier_rest (s : State) (lid : Nat) :
    ∃ launches slots, s.moveFrontier lid = { s with launches := launches, slots := slots } := by
  unfold State.moveFrontier
  split
  · exact ⟨s.launches, s.slots, rfl⟩
  · split
    · exact ⟨s.launches, s.slots, rfl⟩
    · split
      · exact ⟨s.launches, s.slots, rfl⟩
      · dsimp only
        split
        · exact ⟨_, _, rfl⟩
        · exact ⟨_, s.slots, rfl⟩

theorem State.moveFrontier_issue (s : State) (lid : Nat) : (s.moveFrontier lid).issue = s.issue := by
  obtain ⟨_, _, h⟩ := s.moveFrontier_rest lid
  rw [h]

theorem State.moveFrontier_ck (s : State) (lid : Nat) : (s.moveFrontier lid).ck = s.ck := by
  obtain ⟨_, _, h⟩ := s.moveFrontier_rest lid
  rw [h]

@[simp] theorem State.tick_issue (s : State) (dck dns : Nat) : (s.tick dck dns).issue = s.issue := by
  unfold State.tick
  dsimp only
  split
  · rfl
  · exact foldl_keeps (g := State.issue) State.moveFrontier_issue _ _

/-- The arithmetic clocks run but under a thermal halt (R246, R296). -/
theorem State.tick_ck {s : State} (h : s.lodge.therm = false) (dck dns : Nat) : (s.tick dck dns).ck = s.ck + dck := by
  unfold State.tick
  simp only [h, Bool.false_eq_true, if_false]
  exact foldl_keeps (g := State.ck) State.moveFrontier_ck _ _

theorem State.outside_issue (s : State) (e : Nat × List Byte) : (s.outside e).issue = s.issue := by
  unfold State.outside
  split <;> rfl

@[simp] theorem State.reach_issue (s : State) (q : Cue) : (s.reach q).issue = s.issue :=
  (foldl_keeps (g := State.issue) State.outside_issue _ _).trans (s.tick_issue _ _)

/-! ## What acts next in a ck (R141, R147, R224) -/

theorem State.nowMoves_of_nil {s : State} (h : s.agenda = []) : s.nowMoves = [] := by
  simp [State.nowMoves, h]

/-- Moves of later ck are not of the running one. -/
theorem State.nowMoves_later {s : State} (h : ∀ q, s.agenda.head? = some q → q.dck ≠ 0) : s.nowMoves = [] := by
  unfold State.nowMoves
  cases hq : s.agenda with
  | nil => rfl
  | cons q qs => simp [h q (by simp [hq])]

theorem State.nowMoves_cons {s : State} {q : Cue} {qs : List Cue} (ha : s.agenda = q :: qs) (hq : q.dck = 0) :
    s.nowMoves = q :: qs.takeWhile (fun q => q.dck == 0) := by
  simp [State.nowMoves, ha, hq]

theorem State.pickNext_idle {s : State} (hi : s.issue = []) (hn : s.nowMoves = []) : s.pickNext = .idle := by
  simp [State.pickNext, hi, hn]

/-- A word comes before moves whose place is not before its own. -/
theorem State.pickNext_word {s : State} {c : Cur} {cs : List Cur} (hi : s.issue = c :: cs)
    (hm : ∀ q ∈ s.nowMoves, selects q.move = false ∧ s.wordPlace c ≤ s.movePlace q.move) : s.pickNext = .word c cs := by
  unfold State.pickNext
  cases hn : s.nowMoves with
  | nil => simp [hi]
  | cons q qs =>
    rw [hn] at hm
    have hsel : (q :: qs).any (fun m => selects m.move) = false := by
      simpa only [List.any_eq_false, Bool.not_eq_true] using fun m h => (hm m h).1
    have hget : (q :: qs).getD (s.leastMove (q :: qs)) q ∈ q :: qs := by
      rw [List.getD_eq_getElem?_getD]
      cases hg : (q :: qs)[s.leastMove (q :: qs)]? with
      | none => exact List.mem_cons_self
      | some m => exact List.mem_of_getElem? hg
    simp only [hi, hsel, Bool.false_eq_true, if_false, if_pos (hm _ hget).2]

theorem State.moveAt_zero {s : State} {q : Cue} {qs : List Cue} (ha : s.agenda = q :: qs) : s.moveAt 0 = .move q qs := by
  simp [State.moveAt, ha]

/-- A move by which units select has no place of its own. -/
theorem State.movePlace_of_selects (s : State) {i : Instr} (h : selects i = true) : s.movePlace i = 112 := by
  unfold selects at h
  split at h
  · rfl
  · rfl
  · rfl
  · cases h

/-- The first move of the agenda comes where it selects, or where its place is the earliest and before the next word's. -/
theorem State.pickNext_move {s : State} {q : Cue} {qs : List Cue} (ha : s.agenda = q :: qs) (hq : q.dck = 0)
    (h : selects q.move = true
      ∨ (∀ m ∈ s.nowMoves, selects m.move = false ∧ s.movePlace q.move ≤ s.movePlace m.move)
        ∧ ∀ c cs, s.issue = c :: cs → s.movePlace q.move < s.wordPlace c) : s.pickNext = .move q qs := by
  unfold State.pickNext
  rw [State.nowMoves_cons ha hq] at *
  obtain hsel | ⟨hleast, hwords⟩ := h
  · have hany : (q :: qs.takeWhile (fun q => q.dck == 0)).any (fun m => selects m.move) = true := by simp [hsel]
    simp only [hany, if_true]
    rw [List.findIdx_cons, s.movePlace_of_selects hsel]
    exact State.moveAt_zero ha
  · have hany : (q :: qs.takeWhile (fun q => q.dck == 0)).any (fun m => selects m.move) = false := by
      simpa only [List.any_eq_false, Bool.not_eq_true] using fun m h => (hleast m h).1
    have hzero : s.leastMove (q :: qs.takeWhile (fun q => q.dck == 0)) = 0 := by
      unfold State.leastMove
      dsimp only
      rw [List.map_cons, minOf_cons_le fun y hy => ?_]
      · simp [List.findIdx_cons]
      · obtain ⟨m, hm, rfl⟩ := List.mem_map.1 hy
        exact (hleast m (List.mem_cons_of_mem _ hm)).2
    simp only [hany, Bool.false_eq_true, if_false, hzero]
    cases hi : s.issue with
    | nil => exact State.moveAt_zero ha
    | cons c cs =>
      have := hwords c cs hi
      simp only [List.getD_cons_zero, Nat.not_le.2 this, if_false]
      exact State.moveAt_zero ha

/-! ## One step -/

theorem parse_of_decode {w : DWord} {i : Instr} (h : decode w = .ok i) : parse w = some i := by
  unfold decode at h
  split at h
  · cases h
  · next hp =>
    split at h
    · cases h; exact hp
    · cases h

theorem step_word {s : State} {c : Cur} {cs : List Cur} (h : s.pickNext = .word c cs) :
    step s = stepWord { s with issue := cs, cur := some c } := by
  simp [step, h]

theorem step_move {s : State} {q : Cue} {qs : List Cue} (h : s.pickNext = .move q qs) :
    step s = exec q.move (({ s with agenda := qs } : State).reach q) := by
  simp [step, h]

theorem step_due {s : State} {d : Due} {ds : List Due} (h : s.pickNext = .idle) (hd : s.due = d :: ds) :
    step s = ({ s with due := ds } : State).runDue d := by
  simp [step, h, hd]

theorem step_startCk {s : State} (h : s.pickNext = .idle) (hd : s.due = []) (hl : s.late ≠ []) : step s = .next s.startCk := by
  simp [step, h, hd, hl]

theorem step_nextMove {s : State} (h : s.pickNext = .idle) (hd : s.due = []) (hl : s.late = []) :
    step s = exec s.nextMove.1 s.nextMove.2 := by
  simp [step, h, hd, hl]

/-- A path that stands at a word runs its instruction. -/
theorem stepWord_runs {s : State} {x : Path} {d : DWord} {i : Instr} (hx : s.path = some x) (hf : s.fetch x.l x.cur.pc = .word d)
    (hd : parse d = some i) : stepWord s = exec i s := by
  simp [stepWord, hx, Path.fetchWord, hf, hd]

/-- The next move of a later ck is the agenda's, where no other of its ck follows. -/
theorem State.nextMove_cons {s : State} {q : Cue} {qs : List Cue} (hi : s.issue = []) (ha : s.agenda = q :: qs)
    (hq : ∀ m, qs.head? = some m → m.dck ≠ 0) :
    s.nextMove = (q.move, ({ s.reach q with agenda := qs } : State).tick 0 0) := by
  have hone : ∀ m ∈ (s.comeTo q qs).nowMoves, m.move = q.move := by
    rw [State.nowMoves_cons (s := s.comeTo q qs) rfl rfl]
    cases qs with
    | nil => simp
    | cons m ms => simp [hq m rfl]
  have hissue : (s.comeTo q qs).issue = [] := (s.reach_issue q).trans hi
  have hpick := State.pickNext_move (s := s.comeTo q qs) (q := { q with dck := 0, dns := 0, ext := [] }) (qs := qs) rfl rfl <| by
    by_cases hsel : selects q.move = true
    · exact .inl hsel
    · exact .inr ⟨fun m hm => by rw [hone m hm]; exact ⟨by simpa using hsel, Nat.le_refl _⟩, by simp [hissue]⟩
  unfold State.nextMove
  rw [ha]
  simp only [hpick]
  rfl

end Sys2Proof.Machine

section

open Sys2Proof Sys2Proof.Machine

/-- Settles O57: by what acts next in the ck, the step runs a word, a move, an owed test or the start of the next ck. -/
theorem stepRunsWordsAndMoves : Obligations.StepRunsWordsAndMoves := by
  unfold Obligations.StepRunsWordsAndMoves
  refine ⟨?word, ?now, ?due, ?start, ?next, ?auto⟩
  case word =>
    intro s c cs x d i hi hm hx hf hd
    rw [step_word (State.pickNext_word hi hm), stepWord_runs hx hf (hd.elim parse_of_decode id)]
  case now =>
    intro s q qs ha hq h
    rw [step_move (State.pickNext_move ha hq h), State.reach, hq]
  case due =>
    exact fun s d ds hi ha hd => step_due (State.pickNext_idle hi (State.nowMoves_later ha)) hd
  case start =>
    intro s hi ha hd hl
    exact ⟨_, step_startCk (State.pickNext_idle hi (State.nowMoves_later ha)) hd hl, rfl, rfl, rfl, fun ht => State.tick_ck ht _ _⟩
  case next =>
    intro s q qs hi hd hl ha hq hqs
    have hidle := State.pickNext_idle hi (State.nowMoves_later (by simpa [ha] using hq))
    rw [step_nextMove hidle hd hl, State.nextMove_cons hi ha hqs]
    rfl
  case auto =>
    intro s hi hd hl ha
    refine ⟨?_, fun h => if_pos h⟩
    rw [step_nextMove (State.pickNext_idle hi (State.nowMoves_of_nil ha)) hd hl, State.nextMove, ha]

end

/-! SUPPORT of the refutations: the placed program's state with parts of it changed, and what an outcome leaves of it. -/

namespace Sys2Proof.Machine

/-! ## The state of a placed program, with parts of it changed -/

/-- The placed program at rest: one launch, one workgroup of 16 threads in one group. -/
def placed : State := { State.reset.place [] with issue := [] }

/-- The workgroup of the placed program. -/
def placedGroup : WG := (placed.wg? 1).get (by decide +kernel)

/-- The path of the placed program at a word, in some lanes of its group. -/
def placedCur (lanes : List Nat) : Cur := { loadCur with lanes := lanes }

/-- A thread that an outcome leaves, by the place of its workgroup among the workgroups. -/
def threadAtPlace (o : Host.Outcome State Fault Refusal) (n tid : Nat) : Option Thread :=
  match o with
  | .next t => (t.wgs[n]?).bind (fun w => w.threads[tid]?)
  | _ => none

/-- A thread that an outcome leaves, by the number of its workgroup. -/
def threadAfter (o : Host.Outcome State Fault Refusal) (wid tid : Nat) : Option Thread :=
  match o with
  | .next t => (t.wg? wid).bind (fun w => w.threads[tid]?)
  | _ => none

theorem threadAfter_next {t : State} {wid tid : Nat} {v : WG} {b : Thread} (hv : t.wg? wid = some v) (hb : v.threads[tid]? = some b) :
    threadAfter (.next t) wid tid = some b := by
  simp [threadAfter, hv, hb]

end Sys2Proof.Machine

/-! PROOF that the mask words' statement fails (O17): the test of a group's masks where two workgroups have one number. -/

namespace Sys2Proof.Machine

/-- All threads of a workgroup in one run state. -/
def WG.allRun (w : WG) (r : Run) : WG := w.modThreads (fun _ t => { t with run := r })

/-- Two workgroups of one number: the threads of the first have exited, those of the second wait at mask 0, which is satisfied. -/
def twins : State := { placed with wgs := [placedGroup.allRun .exited, placedGroup.allRun (.wait (.kwait 0))] }

/-- The one group of the first of them. -/
def twinsGroup : Group := ((placedGroup.allRun .exited).group? 0).get (by decide +kernel)

end Sys2Proof.Machine

section

open Sys2Proof Sys2Proof.Machine

/-- Refutes O17: of two workgroups with one number, the test of the masks lets the threads of both go on by each one's own live lanes, and
the statement's next state by those of the first alone. In `twins` the test lets thread 0 of the second go on, and that state does not. -/
theorem not_maskWords : ¬ Obligations.MaskWords := by
  unfold Obligations.MaskWords
  intro h
  obtain ⟨-, -, hrelease⟩ := h
  obtain ⟨v, hexec, -⟩ := hrelease twins 1 0 (placedGroup.allRun .exited) twinsGroup rfl (Option.some_get _).symm
  have hruns := congrArg (fun o => (threadAtPlace o 1 0).map (fun t => t.run)) hexec
  exact absurd hruns (by decide +kernel)

end

/-! PROOF that the statement of REGROUP and EXIT fails (O20): an EXIT on a path that names a lane twice. -/

namespace Sys2Proof.Machine

/-- EXIT, always executed, outside a hold region. -/
def exitWord : FWord := ⟨⟨false, false, 7⟩, false, .none, .none, .none, .none, .b32, 0⟩

def exitInfo : Info := (info (.exit exitWord)).get rfl

/-- Thread 0 has aged, and thread 1 waits for its return slot. -/
def agedGroup : WG :=
  (placedGroup.modThread 0 (fun t => { t with age := 1 })).modThread 1 (fun t => { t with slot := some ⟨.none, 1, false⟩ })

/-- A path that names lane 0 before lane 1 and behind it. -/
def crossed : State := { placed with wgs := [agedGroup], cur := some (placedCur [0, 1, 0]) }

def crossedPath : Path := (crossed.path).get (by decide +kernel)

theorem crossed_path : crossed.path = some crossedPath := (Option.some_get _).symm

/-- The lane of the path in which thread 0 stands. -/
def crossedLane : Lane := (crossedPath.laneOf 0).get (by decide +kernel)

theorem crossed_issues : Issues crossed (.exit exitWord) exitInfo crossedPath {} where
  word := rfl
  path := crossed_path
  ready := by decide +kernel
  noBreak := by decide +kernel
  passes := by decide +kernel
  runs := by decide +kernel

/-- The EXIT takes thread 0, but it does not move it past the word: its ageing counter stays. -/
theorem crossed_exit_age : 
    (threadAfter (exec (.exit exitWord) crossed) crossedPath.w.wid 0).map (fun t => t.age) = some 1 := by decide +kernel

end Sys2Proof.Machine

section

open Sys2Proof Sys2Proof.Machine

/-- Refutes O20: where the path names lane 0 again behind a lane that still waits, the EXIT takes thread 0 in its first place and keeps it
in its second, so that its counter of age is not cleared, as the statement says of a thread that exits. -/
theorem not_regroupAndExit : ¬ Obligations.RegroupAndExit := by
  unfold Obligations.RegroupAndExit
  intro h
  obtain ⟨-, hexit⟩ := h
  obtain ⟨t, v, hexec, -, hv, -, -, -, hlanes⟩ :=
    hexit crossed exitWord exitInfo crossedPath (by decide +kernel) crossed_issues
  obtain ⟨b, hb, hmoved⟩ := hlanes 0 crossedLane (Option.some_get _).symm
  rw [if_pos (by decide +kernel)] at hmoved
  have hage := crossed_exit_age
  rw [hexec, threadAfter_next hv hb, Option.map_some, hmoved.age] at hage
  cases hage

end

/-! SUPPORT. Words that block, and the end of a word beside a change of the launches or of the words to issue. -/

namespace Sys2Proof.Machine

/-! ## Words that block (R33, R46) -/

/-- Every lane of a path is its thread in the workgroup. -/
theorem State.path_mem {s : State} {x : Path} (h : s.path = some x) {ln : Lane} (hln : ln ∈ x.lanes) :
    x.w.threads[ln.tid]? = some ln.t := by
  obtain ⟨-, -, -, -, -, -, hlanes⟩ := State.path_parts h
  rw [hlanes, lanesOf, List.mem_filterMap] at hln
  obtain ⟨n, -, hn⟩ := hln
  split at hn
  · obtain ⟨q, hq, rfl⟩ := Option.map_eq_some_iff.1 hn
    exact hq
  · cases hn

/-- Lanes of a path in which one thread stands are alike in it. -/
theorem State.path_lane_unique {s : State} {x : Path} (h : s.path = some x) {a b : Lane} (ha : a ∈ x.lanes) (hb : b ∈ x.lanes)
    (hab : a.tid = b.tid) : a.t = b.t :=
  Option.some.inj ((State.path_mem h ha).symm.trans ((congrArg (x.w.threads[·]?) hab).trans (State.path_mem h hb)))

/-- The executing lane of a thread is its lane of the path, where that executes. -/
theorem State.path_exec_find {s : State} {x : Path} (h : s.path = some x) (hd : Head) (tid : Nat) :
    (x.exec hd).find? (fun ln => ln.tid == tid) = (x.laneOf tid).filter (fun ln => ln.t.executes hd) := by
  have key : ∀ ls : List Lane, (∀ a ∈ ls, ∀ b ∈ ls, a.tid = b.tid → a.t = b.t) →
      (ls.filter (fun ln => ln.t.executes hd)).find? (fun ln => ln.tid == tid)
        = (ls.find? (fun ln => ln.tid == tid)).filter (fun ln => ln.t.executes hd) := by
    intro ls
    induction ls with
    | nil => exact fun _ => rfl
    | cons l ls ih =>
      intro hone
      have ih := ih fun a ha b hb => hone a (List.mem_cons_of_mem _ ha) b (List.mem_cons_of_mem _ hb)
      by_cases ht : l.tid = tid
      · by_cases he : l.t.executes hd = true
        · simp [ht, he, Option.filter]
        · have hnone : ((ls.filter (fun ln => ln.t.executes hd)).find? (fun ln => ln.tid == tid)) = none := by
            rw [List.find?_eq_none]
            intro a ha hat
            obtain ⟨ha, hae⟩ := List.mem_filter.1 ha
            rw [hone a (List.mem_cons_of_mem _ ha) l List.mem_cons_self (by rw [ht]; simpa using hat)] at hae
            exact he hae
          simp [ht, he, hnone, Option.filter]
      · by_cases he : l.t.executes hd = true
        · simp [ht, he, ih]
        · simp [ht, he, ih]
  exact key x.lanes fun a ha b hb => State.path_lane_unique h ha hb

/-- Changing a workgroup and setting the hold of a unit do not meet. -/
theorem State.setHeld_modWG (s : State) (x : Path) (hold : Bool) (wid : Nat) (f : WG → WG) :
    (s.setHeld x hold).modWG wid f = (s.modWG wid f).setHeld x hold := by
  unfold State.setHeld State.modCore
  split
  · next h => rw [if_pos (by exact h)]; rfl
  · next h => rw [if_neg (by exact h)]; rfl

theorem State.modWG_modWG (s : State) (wid : Nat) {f : WG → WG} (hf : ∀ w, (f w).wid = w.wid) (g : WG → WG) :
    (s.modWG wid f).modWG wid g = s.modWG wid (fun w => g (f w)) := by
  simp only [State.modWG, List.map_map]
  congr 1
  refine List.map_congr_left fun w _ => ?_
  by_cases h : w.wid = wid <;> simp [h, hf]

/-- A thread past a word that it then waits at is one that waits, past the word. -/
theorem Thread.past_waits (t : Thread) (hold : Bool) (pc : Nat) (z : Wait) :
    ({ t.past hold pc with run := .wait z, age := 0 } : Thread) = ({ t with run := .wait z } : Thread).past hold pc := by
  cases hold <;> rfl

/-- What a word that blocks does to a thread that stands in a lane of its path. -/
def blockThread (hd : Head) (wait : Lane → Wait) (ln : Lane) (t : Thread) : Thread :=
  if ln.t.executes hd then { t with run := .wait (wait ln) } else t

/-- To move all lanes and then to hold the executing ones at their waits is to make them wait and then to move all. -/
theorem Path.hold_finish {s m : State} {x : Path} (hx : s.path = some x) (hd : Head) (hold : Bool) (pc : Lane → Nat) (wait : Lane → Wait) :
    x.hold (x.finish m hold pc (fun _ t => t) id) (x.exec hd) wait = x.finish m hold pc (blockThread hd wait) id := by
  unfold Path.hold Path.finish
  rw [State.setHeld_modWG]
  refine congrArg (State.setHeld · x hold) ((State.modWG_modWG m x.w.wid ?_ _).trans (congrArg (m.modWG x.w.wid) ?_))
  · exact fun _ => rfl
  funext w
  simp only [id, Path.onLanes, WG.modThreads, List.mapIdx_mapIdx]
  congr 2
  funext i t
  simp only [Function.comp]
  rw [State.path_exec_find hx]
  unfold Path.laneOf
  cases x.lanes.find? (fun ln => ln.tid == i) with
  | none => rfl
  | some ln =>
    by_cases he : ln.t.executes hd = true
    · simp only [Option.filter, blockThread, he, if_true]
      exact Thread.past_waits t hold (pc ln) (wait ln)
    · simp [Option.filter, blockThread, he]

/-- A word that blocks: its executing lanes wait at it and the others advance. -/
theorem Path.block_acts {s : State} {x : Path} (hx : s.path = some x) (hd : Head) (wait : Lane → Wait) :
    Keeps s (x.block s hd wait) x ∧ Acts (x.block s hd wait) x hd.hold (blockedAt x hd) (blocked hd wait) x.w := by
  have hsame : Same (x.finish s hd.hold (blockedAt x hd) (blockThread hd wait) id) (x.block s hd wait) := by
    rw [← Path.hold_finish hx]
    exact (Same.switchPoint _ x).trans (Same.oweAll _ _)
  obtain ⟨hkeeps, hacts⟩ := Path.finish_acts hx (State.path_parts hx).2.1 hd.hold (blockedAt x hd) (blockThread hd wait) id
    (fun _ => rfl) (fun _ _ => ⟨rfl, rfl⟩)
  exact ⟨hkeeps.same hsame, hacts.same hsame⟩

/-! ## The end of a word beside other changes -/

/-- The end of a word and a change of a launch do not meet. -/
theorem Path.finish_modLaunch (x : Path) (s : State) (lid : Nat) (c : Launch → Launch) (hold : Bool) (pc : Lane → Nat)
    (f : Lane → Thread → Thread) (h : WG → WG) :
    (x.finish s hold pc f h).modLaunch lid c = x.finish (s.modLaunch lid c) hold pc f h := by
  unfold Path.finish State.setHeld State.modCore
  split
  · next hc => rw [if_pos (by exact hc)]; rfl
  · next hc => rw [if_neg (by exact hc)]; rfl

/-- The end of a word moves none of the words that are to issue. -/
theorem Path.finish_issue (x : Path) (s : State) (q : List Cur) (hold : Bool) (pc : Lane → Nat) (f : Lane → Thread → Thread) (h : WG → WG) :
    ({ x.finish s hold pc f h with issue := q } : State) = x.finish { s with issue := q } hold pc f h := by
  unfold Path.finish State.setHeld State.modCore
  split
  · next hc => rw [if_pos (by exact hc)]; rfl
  · next hc => rw [if_neg (by exact hc)]; rfl

theorem State.giveWay_issue (s : State) (x : Path) (q : List Cur) :
    ({ s.giveWay x with issue := q } : State) = ({ s with issue := q } : State).giveWay x := by
  unfold State.giveWay State.modCore
  split
  · exact apply_ite (fun t : State => ({ t with issue := q } : State)) _ _ _
  · rfl

/-- The end of a word moves no running group. -/
theorem Path.finish_running (x : Path) (s : State) (hold : Bool) (pc : Lane → Nat) (f : Lane → Thread → Thread) (h : WG → WG) (k : Nat) :
    ((x.finish s hold pc f h).core k).running = (s.core k).running := by
  have hheld : ({ (x.finish s hold pc f h).core k with held := (s.core k).held } : LCore) = s.core k := by
    rw [← State.core_modWG s x.w.wid k (fun w => h (x.onLanes (fun ln t => (f ln t).past hold (pc ln)) w))]
    exact (State.setHeld_keeps (s.modWG x.w.wid (fun w => h (x.onLanes (fun ln t => (f ln t).past hold (pc ln)) w))) x hold).2 k
  have hrunning := congrArg LCore.running hheld
  exact hrunning

/-- After a switch point of a deterministic launch no group of its core runs (R46). -/
theorem State.giveWay_running (s : State) (x : Path) :
    ((s.giveWay x).core x.w.core).running = if x.l.isDet then none else (s.core x.w.core).running := by
  unfold State.giveWay
  split
  · have hcore := State.core_modCore s x.w.core x.w.core (f := fun c => { c with running := none }) (fun _ => rfl)
    exact congrArg (fun c : LCore => c.running) (hcore.trans (if_pos rfl))
  · rfl

theorem Same.spend (s : State) (n : Nat) : Same s (s.spend n) := ⟨rfl, fun _ => rfl⟩

theorem WG.setS_over_threads (w : WG) (gid : Nat) (d : Opnd) (r : List Word) (ts : List Thread) :
    ({ ({ w with threads := ts } : WG).setS gid d r with threads := w.threads } : WG) = w.setS gid d r
      ∧ (({ w with threads := ts } : WG).setS gid d r).threads = ts := by
  cases d <;> exact ⟨rfl, rfl⟩

end Sys2Proof.Machine

/-! SUPPORT and PROOF of the words that advance (O19): what a line's way into the last-level cache leaves there, and NOP, YIELD, BKPT and PREF. -/

namespace Sys2Proof.Machine

/-! ## A line comes into its set (R176, R178, R400) -/

/-- A way of a set takes a line: the line is there, other sets have not changed, and no line leaves its set but the one whose way it is. -/
theorem State.setWay_ways (s t : State) (set i new : Nat) (hi : i < (s.waysAt set).length)
    (ht : t.ways = s.ways.put (List.replicate 16 0) set ((s.waysAt set).set i new)) :
    new ∈ t.waysAt set
    ∧ (∀ j, j ≠ set → t.waysAt j = s.waysAt j)
    ∧ (∀ a ∈ s.waysAt set, a ∈ t.waysAt set ∨ (s.waysAt set).getD i 0 = a) := by
  have hset : t.waysAt set = (s.waysAt set).set i new := by
    unfold State.waysAt at *
    rw [ht, SMap.get_put_same]
  refine ⟨?_, fun j hj => ?_, fun a ha => ?_⟩
  · rw [hset]
    exact List.mem_iff_getElem.2 ⟨i, by simpa using hi, by simp⟩
  · unfold State.waysAt
    rw [ht, SMap.get_put_other _ _ _ hj]
  · obtain ⟨j, hj, rfl⟩ := List.mem_iff_getElem.1 ha
    by_cases hij : i = j
    · exact .inr (by simp [List.getD, hij, hj])
    · refine .inl ?_
      rw [hset]
      exact List.mem_iff_getElem.2 ⟨j, by simpa using hj, by simp [hij]⟩

/-- The ways of a set that a fill may take: those that are neither quarantined nor struck (R432). -/
def State.openWays (s : State) (set : Nat) : List Nat :=
  (List.range 16).filter (fun i => !s.quarantined.contains (set / 1024, i) && s.struckWays.get 0 set != i + 1)

theorem State.mem_openWays {s : State} {set i : Nat} :
    i ∈ s.openWays set ↔ i < 16 ∧ (set / 1024, i) ∉ s.quarantined ∧ s.struckWays.get 0 set ≠ i + 1 := by
  simp [State.openWays]

/-- A line of the device's own memory comes into a set with an open way: it is there, other sets have not changed, and a line that has left
the set was in an open way of a set without an empty one, and has no tag any more (R176). -/
theorem State.fillLine_ways (s : State) (line : Nat) (hl : isLocal (line * 128) = true) (hlen : (s.waysAt (s.setOf line)).length = 16)
    (hopen : ∃ i, i < 16 ∧ (s.setOf line / 1024, i) ∉ s.quarantined ∧ s.struckWays.get 0 (s.setOf line) ≠ i + 1) :
    line + 1 ∈ (s.fillLine line).waysAt (s.setOf line)
    ∧ (∀ set, set ≠ s.setOf line → (s.fillLine line).waysAt set = s.waysAt set)
    ∧ (∀ l, l + 1 ∈ s.waysAt (s.setOf line) → l + 1 ∈ (s.fillLine line).waysAt (s.setOf line)
        ∨ ((∀ i, i < 16 → (s.setOf line / 1024, i) ∉ s.quarantined → s.struckWays.get 0 (s.setOf line) ≠ i + 1 →
              (s.waysAt (s.setOf line)).getD i 0 ≠ 0)
          ∧ line + 1 ∉ s.waysAt (s.setOf line) ∧ (s.fillLine line).tags.get 0 l = 0)) := by
  have hne : s.openWays (s.setOf line) ≠ [] := List.ne_nil_of_mem (State.mem_openWays.2 hopen.choose_spec)
  by_cases hin : line + 1 ∈ s.waysAt (s.setOf line)
  · have hsame : s.fillLine line = s := if_pos (by simp [hin])
    rw [hsame]
    exact ⟨hin, fun _ _ => rfl, fun _ h => .inl h⟩
  have hgo : (!isLocal (line * 128) || (s.waysAt (s.setOf line)).contains (line + 1) || (s.openWays (s.setOf line)).isEmpty) = false := by
    simp [hl, hin, hne]
  cases hempty : (s.openWays (s.setOf line)).find? (fun i => (s.waysAt (s.setOf line)).getD i 0 == 0) with
  | some i =>
    have hfill : s.fillLine line = { s with
        ways := s.ways.put (List.replicate 16 0) (s.setOf line) ((s.waysAt (s.setOf line)).set i (line + 1)),
        struckWays := s.struckWays.put 0 (s.setOf line) 0 } :=
      (if_neg (by rw [← State.openWays, hgo]; simp)).trans (by rw [← State.openWays, hempty])
    have hi := (State.mem_openWays.1 (List.mem_of_find?_eq_some hempty)).1
    have hzero : (s.waysAt (s.setOf line)).getD i 0 = 0 := by simpa using List.find?_some hempty
    obtain ⟨hthere, hothers, hkept⟩ := s.setWay_ways (s.fillLine line) (s.setOf line) i (line + 1) (by omega) (by rw [hfill])
    refine ⟨hthere, hothers, fun l hlm => .inl ((hkept _ hlm).resolve_right ?_)⟩
    rw [hzero]
    omega
  | none =>
    let way := ((s.openWays (s.setOf line)).find? (fun i => s.evictFirst.contains ((s.waysAt (s.setOf line)).getD i 0 - 1))).getD
      ((s.openWays (s.setOf line)).getD (Config.victim s.free % (s.openWays (s.setOf line)).length) 0)
    have hfill : s.fillLine line = { s with
        ways := s.ways.put (List.replicate 16 0) (s.setOf line) ((s.waysAt (s.setOf line)).set way (line + 1)),
        struckWays := s.struckWays.put 0 (s.setOf line) 0,
        evictFirst := s.evictFirst.filter (fun l => l + 1 != (s.waysAt (s.setOf line)).getD way 0),
        tags := s.tags.put 0 ((s.waysAt (s.setOf line)).getD way 0 - 1) 0, free := s.free + 1 } :=
      (if_neg (by rw [← State.openWays, hgo]; simp)).trans (by rw [← State.openWays, hempty])
    have hway : way ∈ s.openWays (s.setOf line) := by
      show Option.getD _ _ ∈ _
      cases hfirst : (s.openWays (s.setOf line)).find? (fun i => s.evictFirst.contains ((s.waysAt (s.setOf line)).getD i 0 - 1)) with
      | some i => exact List.mem_of_find?_eq_some hfirst
      | none =>
        have hlt := Nat.mod_lt (Config.victim s.free) (List.length_pos_iff.2 hne)
        rw [Option.getD_none, List.getD_eq_getElem _ _ hlt]
        exact List.getElem_mem _
    obtain ⟨hthere, hothers, hkept⟩ := s.setWay_ways (s.fillLine line) (s.setOf line) way (line + 1)
      (by have := (State.mem_openWays.1 hway).1; omega) (by rw [hfill])
    refine ⟨hthere, hothers, fun l hlm => (hkept _ hlm).imp_right fun hold => ⟨fun i h16 hq hs => ?_, hin, ?_⟩⟩
    · simpa using List.find?_eq_none.1 hempty i (State.mem_openWays.2 ⟨h16, hq, hs⟩)
    · rw [hfill, hold]
      exact SMap.get_put_same 0 s.tags l 0

theorem mem_insertSet_iff {a x : Nat} {xs : List Nat} : a ∈ insertSet x xs ↔ a = x ∨ a ∈ xs := by
  induction xs with
  | nil => simp [insertSet]
  | cons y ys ih =>
    unfold insertSet
    split
    · exact List.mem_cons
    · split
      · next h => simp [h]
      · rw [List.mem_cons, ih, List.mem_cons]
        exact or_left_comm

/-- A line that is held under another key is written back: no tag of it is left (R178). -/
theorem State.prefetch_foreign (s : State) (key line : Nat) (first : Bool) (h0 : s.mem.keys.get .none line ≠ .none)
    (hk : s.mem.keys.get .none line ≠ s.mem.keyOf key) : (s.prefetch key line first).tags.get 0 line = 0 := by
  have hforeign : s.foreign key line = true := by simp [State.foreign, h0, hk]
  unfold State.prefetch State.fetchLine
  simp only [hforeign, if_true]
  exact SMap.get_put_same _ _ _ _

/-- A tag that a fill has taken stays taken when the line's own is taken too. -/
theorem State.fetchLine_tags (s : State) (key line l : Nat) (h : (s.fillLine line).tags.get 0 l = 0) :
    (s.fetchLine key line).tags.get 0 l = 0 := by
  unfold State.fetchLine
  dsimp only
  split
  · by_cases hl : l = line
    · rw [hl]; exact SMap.get_put_same _ _ _ _
    · rw [SMap.get_put_other _ _ _ hl]; exact h
  · exact h

/-- The prefetches of a word's lanes move what belongs to the last-level cache, and nothing else. -/
theorem State.prefetches_rest {α : Type} (s : State) (f : State → α → State) (hf : ∀ m a, f m a = m.cacheOf (f m a)) (l : List α) :
    l.foldl f s = s.cacheOf (l.foldl f s) := by
  induction l generalizing s with
  | nil => rfl
  | cons a l ih => rw [List.foldl_cons, ih, hf s a]

/-- The check of the address of a lane of a PREF (R400). -/
def Path.prefetchCheck (x : Path) (w : MWord) (s : State) (ln : Lane) : Except Nat (List Trans) :=
  s.access x.ctx (x.memAddr w ln) 1 1 true false false

/-- The prefetch of one lane of a PREF, by the lanes' checks. -/
def prefetchLane (w : MWord) (check : Lane → Except Nat (List Trans)) (m : State) (ln : Lane) : State :=
  match check ln with
  | .ok (t :: _) => m.prefetch t.key (t.pa / 128) (w.cp == 1#2)
  | _ => m

theorem prefetchLane_rest (w : MWord) (check : Lane → Except Nat (List Trans)) (m : State) (ln : Lane) :
    prefetchLane w check m ln = m.cacheOf (prefetchLane w check m ln) := by
  unfold prefetchLane
  split
  · exact m.prefetch_rest _ _ _
  · rfl

/-- A lane's prefetch changes no check. -/
theorem Path.prefetchCheck_prefetchLane (x : Path) (w : MWord) (check : Lane → Except Nat (List Trans)) (m : State) (ln : Lane) :
    x.prefetchCheck w (prefetchLane w check m ln) = x.prefetchCheck w m := by
  rw [prefetchLane_rest]
  rfl

/-! ## YIELD (R46, R431) -/

/-- The end of a word that advances and gives way leaves the words that are to issue. -/
theorem Path.advance_giveWay_issue (x : Path) (s : State) (hold : Bool) : ((x.advance s hold).giveWay x).issue = s.issue := by
  have hheld : ∀ m : State, (m.setHeld x hold).issue = m.issue := fun m => by
    unfold State.setHeld State.modCore
    split <;> rfl
  have hway : ∀ m : State, (m.giveWay x).issue = m.issue := fun m => by
    unfold State.giveWay State.modCore
    split
    · split <;> rfl
    · rfl
  rw [hway]
  exact hheld _

/-- The effect of a YIELD: the path advances, its core gives way, and the words of its group that were still to issue do not (R431). -/
theorem Path.yield_state (x : Path) (s : State) (hold : Bool) (p : Cur → Bool) :
    ({ (x.advance s hold).giveWay x with issue := ((x.advance s hold).giveWay x).issue.filter p } : State)
      = (x.advance { s with issue := s.issue.filter p } hold).giveWay x := by
  rw [x.advance_giveWay_issue, State.giveWay_issue]
  unfold Path.advance
  rw [x.finish_issue]

end Sys2Proof.Machine

section

open Sys2Proof Sys2Proof.Machine

/-- Settles O19: each of the words ends in the path's advance; PREF's prefetches before it move what belongs to the last-level cache
(`prefetches_rest`), where a line takes a way as `fillLine_ways` says. -/
theorem advanceWords : Obligations.AdvanceWords := by
  unfold Obligations.AdvanceWords
  refine ⟨fun s w k nfo x => ⟨fun hi => ?nop, fun hi => ?yield, fun hfree hi => ?bkpt, fun hi => ?pref, ?kept⟩,
    fun s key line first hl hlen hopen => ?cache⟩
  case nop =>
    exact Does.of_finish hi (exec_nop s) rfl (State.path_parts hi.path).2.1 (f := fun _ t => t) (Same.refl _) (fun _ => rfl)
      (fun _ _ => ⟨rfl, rfl⟩) (fun _ => rfl) rfl
  case yield =>
    obtain ⟨hkeeps, hacts⟩ := Path.finish_acts (m := { s with issue := s.issue.filter (fun c => !(c.wid == x.w.wid && c.gid == x.g.gid)) })
      hi.path (State.path_parts hi.path).2.1 w.hd.hold (fun _ => x.next) (fun _ t => t) id (fun _ => rfl) (fun _ _ => ⟨rfl, rfl⟩)
    refine ⟨_, (exec_yield s).trans (State.word_next hi _), ?_⟩
    rw [x.yield_state]
    refine ⟨hkeeps.same (Same.giveWay _ x), hacts.same (Same.giveWay _ x), ?_⟩
    rw [State.giveWay_running]
    unfold Path.advance
    rw [Path.finish_running]
    rfl
  case bkpt =>
    refine Does.of_finish hi (exec_bkpt s) (if_pos (by simp [hfree])) (State.path_parts hi.path).2.1 (f := fun _ t => t) (Same.refl _)
      (fun _ => rfl) (fun _ _ => ⟨rfl, rfl⟩) (fun _ => rfl) rfl
  case pref =>
    refine Does.of_finish hi (exec_pref s) ?_ ?_ (f := fun _ t => t) (Same.refl _) (fun _ => rfl) (fun _ _ => ⟨rfl, rfl⟩) (fun _ => rfl) rfl
    · exact congrArg (x.advance · k.hd.hold)
        (foldl_reads (g := x.prefetchCheck k) (f := prefetchLane k) (x.prefetchCheck_prefetchLane k) (x.exec k.hd) s)
    · have hwgs := congrArg State.wgs (s.prefetches_rest _ (prefetchLane_rest k (x.prefetchCheck k s)) (x.exec k.hd))
      have hfind := congrArg (fun ws : List WG => ws.find? (fun w => w.wid == x.w.wid)) hwgs
      exact hfind.trans (State.path_parts hi.path).2.1
  case kept =>
    have hrest := s.prefetches_rest _ (prefetchLane_rest k (x.prefetchCheck k s)) (x.exec k.hd)
    have hkept := congrArg (fun t : State => ({ t with
      ways := s.ways, struckWays := s.struckWays, evictFirst := s.evictFirst, tags := s.tags, free := s.free } : State)) hrest
    exact hkept
  case cache =>
    obtain ⟨hthere, hothers, hkept⟩ := s.fillLine_ways line hl hlen hopen
    refine ⟨hthere, hothers, fun l hlm => (hkept l hlm).imp_right ?_, fun hfirst => ?_, s.prefetch_foreign key line first⟩
    · exact fun ⟨hfull, hnew, htag⟩ => ⟨hfull, hnew, s.fetchLine_tags key line l htag⟩
    · unfold State.prefetch
      rw [hfirst]
      simp only [Bool.true_and, hl, if_true]
      exact mem_insertSet_iff.2 (.inl rfl)

end

/-! SUPPORT and PROOF of the cross-core barriers' words (O35). -/

namespace Sys2Proof.Machine

/-! ## No trap where every check passes -/

/-- A barrier word none of whose causes is set does not trap. -/
theorem Path.barTrap_none (x : Path) (s : State) (b : Nat) {cs : List (Lane × Nat)} (h : ∀ p ∈ cs, p.2 = 0) : x.barTrap s b cs = none := by
  have hbad : cs.filter (fun p => p.2 != 0) = [] := List.filter_eq_nil_iff.2 fun p hp => by simp [h p hp]
  simp [Path.barTrap, hbad]

/-- A barrier word whose lanes have one cause, which is not set, does not trap. -/
theorem Path.barTrap_zero (x : Path) (s : State) (b : Nat) (ls : List Lane) {c : Nat} (h : c = 0) :
    x.barTrap s b (ls.map (fun l => (l, c))) = none :=
  x.barTrap_none s b fun p hp => by
    obtain ⟨l, -, rfl⟩ := List.mem_map.1 hp
    exact h

/-- A scratchpad access without a fault in any lane does not trap. -/
theorem scrTrap_none (x : Path) (s : State) (cause addr : Lane → Nat) {ls : List Lane} (h : ∀ ln ∈ ls, cause ln = 0) :
    scrTrap x s cause addr ls = none := by
  have hbad : ls.filter (fun ln => cause ln != 0) = [] := List.filter_eq_nil_iff.2 fun ln hl => by simp [h ln hl]
  simp [scrTrap, hbad]

/-- An aligned read within the window has no fault (R144). -/
theorem scrFault_read {size a n : Nat} (h : a + n ≤ size) : scrFault size ((List.range n).map (a + ·)) true false = 0 := by
  have hin : ((List.range n).map (a + ·)).any (fun b => decide (size ≤ b)) = false := by
    rw [List.any_eq_false]
    intro b hb
    obtain ⟨i, hi, rfl⟩ := List.mem_map.1 hb
    have := List.mem_range.1 hi
    simp
    omega
  simp [scrFault, hin]

theorem bit1_eq_toNat (b : Bool) : bit1 b = b.toNat := by cases b <;> rfl

/-- The lanes that execute a word, from the first on. -/
theorem Path.exec_cons {x : Path} {hd : Head} {ln : Lane} (h : (x.exec hd).head? = some ln) : ∃ ls, x.exec hd = ln :: ls :=
  List.head?_eq_some_iff.1 h

/-- An s destination and a mark of the workgroup leave its threads. -/
theorem WG.setS_mark_over_threads (w : WG) (gid : Nat) (d : Opnd) (r : List Word) (ts : List Thread) :
    ({ ({ ({ w with threads := ts } : WG).setS gid d r with noRelaunch := true } : WG) with threads := w.threads } : WG)
        = { w.setS gid d r with noRelaunch := true }
      ∧ ({ ({ w with threads := ts } : WG).setS gid d r with noRelaunch := true } : WG).threads = ts := by
  cases d <;> exact ⟨rfl, rfl⟩

end Sys2Proof.Machine

section

open Sys2Proof Sys2Proof.Machine

/-- Settles O35: each word's first executing lane names the barrier; with the checks passed, XBARV and XBSET end in an advance beside a change
of the launch's barrier, and XBWAIT in a block or in an advance. -/
theorem crossCoreBarriers : Obligations.CrossCoreBarriers := by
  unfold Obligations.CrossCoreBarriers
  intro s w nfo x ln num b core token ck second put next hln
  obtain ⟨ls, hls⟩ := Path.exec_cons hln
  refine ⟨fun hi hmember hnew => ?arrive, fun hi hgen => ?wait, fun hi hgen => ?done, fun hi halign hin => ?set⟩
  case arrive =>
    refine Does.of_finish (m := s.modLaunch x.l.lid (fun l => l.setXbar (num ln) (b.arrive x.l.isDet s.ck core)))
      (f := fun _ t => t) (h := fun g => { g.setS x.g.gid w.d [BitVec.ofNat 32 b.gen] with noRelaunch := true })
      hi (exec_xbarv s) ?_ (State.path_parts hi.path).2.1 (Same.refl _) (fun g => g.setS_wid _ _ _)
      (fun v ts => v.setS_mark_over_threads x.g.gid w.d _ ts) (fun _ => rfl) rfl
    have hcode : (if !(x.l.xbar (barNum x w ln)).member.getLsbD x.ncore then 5
        else if (x.l.xbar (barNum x w ln)).arrived.getLsbD x.ncore then 6 else 0) = 0 := by
      rw [show (x.l.xbar (barNum x w ln)).member.getLsbD x.ncore = true from hmember,
        show (x.l.xbar (barNum x w ln)).arrived.getLsbD x.ncore = false from hnew]
      rfl
    simp only [hls]
    rw [Path.barTrap_zero x s _ (ln :: ls) hcode]
    exact x.finish_modLaunch s _ _ _ _ _ _
  case wait =>
    obtain ⟨hkeeps, hacts⟩ := Path.block_acts hi.path w.hd (fun _ => .xbar (num ln) token w.d)
    refine ⟨_, (exec_xbwait s).trans ((State.word_next hi _).trans (congrArg _ ?_)), hkeeps, hacts⟩
    simp only [hls]
    exact if_pos hgen
  case done =>
    refine Does.of_finish (f := fun l t => if l.t.executes w.hd then t.xresult w.d (b.role? core token) else t)
      (h := fun g => g.setS x.g.gid w.d [BitVec.ofNat 32 (b.role? core token)]) hi (exec_xbwait s) ?_
      (State.path_parts hi.path).2.1 (Same.switchPoint _ x)
      (fun g => g.setS_wid _ _ _) (fun v ts => v.setS_over_threads x.g.gid w.d _ ts) (fun l => ?_) ?_
    · simp only [hls]
      exact if_neg hgen
    · rw [XBar.role?, bit1_eq_toNat]
      rfl
    · rw [XBar.role?, bit1_eq_toNat]
      rfl
  case set =>
    intro set hset hlow
    refine Does.of_finish (f := fun _ t => t) hi (exec_xbset s) ?_ (State.path_parts hi.path).2.1 (Same.refl _) (fun _ => rfl)
      (fun _ _ => ⟨rfl, rfl⟩) (fun _ => rfl) rfl
    have hfault : scrFault x.window ((List.range 32).map (x.read32 ln w.b + ·)) (x.read32 ln w.b % 32 == 0) false = 0 := by
      rw [show (x.read32 ln w.b % 32 == 0) = true by simpa using halign]
      exact scrFault_read hin
    have hcode : (if decide (BitVec.ofNat 256 (natOfBytes (x.w.win.getN 0 (x.read32 ln w.b) 32)) = 0)
        || decide (lowBit (x.l.xbar (barNum x w ln)).member ≠ x.ncore) then 7 else 0) = 0 :=
      if_neg fun h => (Bool.or_eq_true_iff.1 h).elim (fun h => hset (of_decide_eq_true h)) (fun h => absurd hlow (of_decide_eq_true h))
    simp only [hls]
    rw [scrTrap_none x s _ _ (fun _ _ => hfault)]
    dsimp only
    rw [Path.barTrap_zero x s _ (ln :: ls) hcode]
    exact x.finish_modLaunch s _ _ _ _ _ _

end

/-! SUPPORT and PROOF of the global loads (O22): a word whose lanes all pass and meet no watchpoint, and what each lane is sent. -/

namespace Sys2Proof.Machine

/-! ## Lanes of a word and their places -/

/-- Finding in a list that has been numbered and mapped is to find in the list, with the number of the place. -/
theorem find?_mapIdx {α β : Type} (p : β → Bool) (q : α → Bool) (l : List α) (f : Nat → α → β) (h : ∀ i a, p (f i a) = q a) :
    (l.mapIdx f).find? p = (l.find? q).map (f (l.findIdx q)) := by
  induction l generalizing f with
  | nil => rfl
  | cons a l ih =>
    rw [List.mapIdx_cons, List.find?_cons, List.find?_cons, List.findIdx_cons, h]
    cases q a with
    | true => rfl
    | false => exact ih _ fun i => h (i + 1)

/-- Where every lane passes the checks of a global word, the word has its lanes with their translations (R173). -/
theorem State.globalCheck_ok {s : State} {x : Path} {ls : List Lane} {va : Lane → Nat} {n align : Nat} {r w : Bool} {tr : Lane → List Trans}
    (h : ∀ ln ∈ ls, s.access x.ctx (va ln) n align r w false = .ok (tr ln)) :
    s.globalCheck x ls va n align r w = .ok (ls.map (fun ln => (ln, tr ln))) := by
  have hrs : ls.map (fun ln => (ln, s.access x.ctx (va ln) n align r w false)) = ls.map (fun ln => (ln, .ok (tr ln))) :=
    List.map_congr_left fun ln hln => by rw [h ln hln]
  unfold State.globalCheck
  rw [hrs]
  simp [List.filterMap_map, List.filter_map, Function.comp_def]

/-- A global word whose lanes all pass and meet no watchpoint acts on all of them. -/
theorem State.globalWord_acts {s : State} {x : Path} {ls : List Lane} {va : Lane → Nat} {n align : Nat} {r w wr wd : Bool}
    {tr : Lane → List Trans} (act : Path → List (Lane × List Trans) → State → State)
    (h : ∀ ln ∈ ls, s.access x.ctx (va ln) n align r w false = .ok (tr ln))
    (hw : s.watched x false wr wd (fun ln => rangeBytes (va ln) n) ls = []) :
    s.globalWord x ls va n align r w wr wd act = act x (ls.map (fun ln => (ln, tr ln))) s := by
  unfold State.globalWord
  rw [State.globalCheck_ok h]
  simp [hw, State.stopWatched]

/-! ## The loads of a word -/

/-- What a lane's free choices begin from: behind those of the lanes before it. -/
def Path.choicesFrom (x : Path) (s : State) (hd : Head) (ln : Lane) : Nat :=
  s.free + (x.exec hd).findIdx (fun e => e.tid == ln.tid) * (loadSectors * (s.core x.w.core).ulist.length)

/-- The thread of an executing lane with its load sent (R369, R374). -/
def Path.sent (x : Path) (s : State) (w : MWord) (tr : Lane → List Trans) (ln : Lane) : Thread :=
  let pas := placeBytes (x.memAddr w ln) (memBytes w.width.toNat) (tr ln)
  let ld := s.loadBytes x ln (x.choicesFrom s w.hd ln) pas
  ln.t.send x.cur.pc w.d (loadWords w.width.toNat w.sx ld.bytes) (isS w.d) (x.memAddr w ln) (s.poisonAt pas) ((tr ln).map (fun t => t.pa)) ld

/-- The group of an s destination gathers the lanes of its load (R374). -/
def Path.gathering (x : Path) (w : MWord) (v : WG) : WG :=
  if isS w.d then
    v.modGroup x.g.gid (fun g => { g with gathers := g.gathers ++ [⟨x.cur.pc, w.d, (x.exec w.hd).map (fun ln => ln.tid), []⟩] })
  else v

theorem Path.gathering_wid (x : Path) (w : MWord) (v : WG) : (x.gathering w v).wid = v.wid := by
  unfold Path.gathering
  split <;> rfl

theorem Path.gathering_over_threads (x : Path) (w : MWord) (v : WG) (ts : List Thread) :
    ({ x.gathering w { v with threads := ts } with threads := v.threads } : WG) = x.gathering w v
      ∧ (x.gathering w { v with threads := ts }).threads = ts := by
  unfold Path.gathering
  split <;> exact ⟨rfl, rfl⟩

/-- What the word does to the thread of a lane, of those that it sends for. -/
def Path.sendLane (x : Path) (s : State) (w : MWord) (tr : Lane → List Trans) (ln : Lane) (t : Thread) : Thread :=
  let got := ((x.exec w.hd).map (fun ln => (ln, tr ln))).mapIdx (fun i a =>
    let pas := placeBytes (x.memAddr w a.1) (memBytes w.width.toNat) a.2
    (a.1, pas, s.loadBytes x a.1 (s.free + i * (loadSectors * (s.core x.w.core).ulist.length)) pas, a.2.map (fun t => t.pa)))
  match got.find? (fun g => g.1.tid == ln.tid) with
  | some g => t.send x.cur.pc w.d (loadWords w.width.toNat w.sx g.2.2.1.bytes) (isS w.d) (x.memAddr w g.1) (s.poisonAt g.2.1) g.2.2.2 g.2.2.1
  | none => t

/-- Of the lanes of a path that stand for their threads, the executing ones have their loads sent. -/
theorem Path.sendLane_eq {s : State} {x : Path} (hx : s.path = some x) (w : MWord) (tr : Lane → List Trans) {ln : Lane}
    (hln : x.laneOf ln.tid = some ln) : x.sendLane s w tr ln ln.t = if ln.t.executes w.hd then x.sent s w tr ln else ln.t := by
  have hfind := State.path_exec_find hx w.hd ln.tid
  rw [hln] at hfind
  unfold Path.sendLane
  dsimp only
  rw [find?_mapIdx _ (fun a : Lane × List Trans => a.1.tid == ln.tid) _ _ (fun _ _ => rfl), List.find?_map]
  rw [show ((fun a : Lane × List Trans => a.1.tid == ln.tid) ∘ fun ln => (ln, tr ln)) = fun e => e.tid == ln.tid from rfl, hfind]
  by_cases hex : ln.t.executes w.hd = true
  · simp only [Option.filter, hex, if_true, Option.map_some, List.findIdx_map]
    rfl
  · simp [Option.filter, hex]

/-- The loads of a word whose executing lanes all pass (R181, R369): the path ends its word, and free choices are spent. -/
theorem Path.sendLoads_eq (x : Path) (s : State) (w : MWord) (tr : Lane → List Trans) (hne : x.exec w.hd ≠ []) :
    x.sendLoads s w ((x.exec w.hd).map (fun ln => (ln, tr ln)))
      = (x.finish s w.hd.hold (fun _ => x.next) (x.sendLane s w tr) (x.gathering w)).spend
        (((x.exec w.hd).map (fun ln => (ln, tr ln))).length * (loadSectors * (s.core x.w.core).ulist.length)) := by
  have hgather : x.gathering w = fun v : WG =>
      if isS w.d && !((x.exec w.hd).map (fun ln => (ln, tr ln))).isEmpty then
        v.modGroup x.g.gid (fun g => { g with
          gathers := g.gathers ++ [⟨x.cur.pc, w.d, ((x.exec w.hd).map (fun ln => (ln, tr ln))).map (fun a => a.1.tid), []⟩] })
      else v := by
    funext v
    simp [Path.gathering, hne, Function.comp_def]
  rw [hgather]
  rfl

/-- What a word does in its lanes need only be said of the lanes that stand for their threads. -/
theorem Acts.congr {t : State} {x : Path} {hold : Bool} {pc : Lane → Nat} {g g' : Lane → Thread} {w' : WG} (h : Acts t x hold pc g w')
    (hg : ∀ ln, x.laneOf ln.tid = some ln → g ln = g' ln) : Acts t x hold pc g' w' := by
  obtain ⟨v, hv, hrest, hother, hlanes⟩ := h
  refine ⟨v, hv, hrest, hother, fun tid ln hln => ?_⟩
  have htid : ln.tid = tid := by simpa using List.find?_some hln
  rw [← hg ln (by rw [htid]; exact hln)]
  exact hlanes tid ln hln

/-- LD and global LDB where every lane passes and no watchpoint is met. -/
theorem State.globalLoad_does {s : State} {i : Instr} {nfo : Info} {x : Path} {w : MWord} {tr : Lane → List Trans}
    (hexec : exec i s = s.globalLoad i w) (hi : Issues s i nfo x {}) (hhd : nfo.head = w.hd)
    (hpass : ∀ ln ∈ x.exec w.hd,
      s.access x.ctx (x.memAddr w ln) (memBytes w.width.toNat) (globalAlign w.width.toNat) true false false = .ok (tr ln))
    (hwatch : s.watched x false true false (fun ln => rangeBytes (x.memAddr w ln) (memBytes w.width.toNat)) (x.exec w.hd) = []) :
    Does s i x w.hd.hold (fun _ => x.next) (fun ln => if ln.t.executes w.hd then x.sent s w tr ln else ln.t) s (x.gathering w x.w) := by
  obtain ⟨hkeeps, hacts⟩ := Path.finish_acts hi.path (State.path_parts hi.path).2.1 w.hd.hold (fun _ => x.next) (x.sendLane s w tr)
    (x.gathering w) (x.gathering_wid w) (x.gathering_over_threads w)
  have hsent := x.sendLoads_eq s w tr (hhd ▸ hi.runs)
  have hword := (State.globalWord_acts (fun x acc s => x.sendLoads s w acc) hpass hwatch).trans hsent
  exact ⟨_, hexec.trans ((State.word_next hi _).trans (congrArg _ hword)), hkeeps.same (Same.spend _ _),
    (hacts.congr fun ln hln => Path.sendLane_eq hi.path w tr hln).same (Same.spend _ _)⟩

end Sys2Proof.Machine

section

open Sys2Proof Sys2Proof.Machine

/-- Settles O22: both words are the shared global load, whose lanes' free choices begin behind those of the lanes before them. -/
theorem globalLoads : Obligations.GlobalLoads := by
  unfold Obligations.GlobalLoads
  rintro s i w nfo x tr n va pas ex (rfl | ⟨rfl, hspace⟩) hpass hwatch hi
  · exact ⟨x.choicesFrom s w.hd, State.globalLoad_does (exec_ld s) hi (by cases hi.word; rfl) hpass hwatch⟩
  · exact ⟨x.choicesFrom s w.hd,
      State.globalLoad_does ((exec_ldb s).trans (if_neg hspace)) hi (by cases hi.word; rfl) hpass hwatch⟩

end

/-! SUPPORT and PROOF of the issue events (O41): what a selection moves, which paths it selects, and the order of the words that issue. -/

namespace Sys2Proof.Machine

/-! ## What a selection moves (R29, R34, R35) -/

theorem Selects.refl (s : State) : Selects s s where
  rest := rfl
  cores := fun _ => rfl
  count := rfl
  groups := fun i w u hw hu => by
    obtain rfl : w = u := Option.some.inj (hw.symm.trans hu)
    refine ⟨rfl, rfl, rfl, fun j a b ha hb => ?_, fun j a b ha hb => ?_⟩
    · obtain rfl : a = b := Option.some.inj (ha.symm.trans hb)
      rfl
    · obtain rfl : a = b := Option.some.inj (ha.symm.trans hb)
      rfl

/-- A place of a list is one of each list of its length. -/
theorem getElem?_of_length_eq {α β : Type} {xs : List α} {ys : List β} (h : ys.length = xs.length) {i : Nat} {a : α}
    (ha : xs[i]? = some a) : ∃ b, ys[i]? = some b :=
  ⟨_, List.getElem?_eq_getElem (h ▸ (List.getElem?_eq_some_iff.1 ha).1)⟩

/-- One selection after another is a selection. -/
theorem Selects.trans {a b c : State} (h : Selects a b) (k : Selects b c) : Selects a c where
  rest := by
    have hrest := congrArg (fun u : State => ({ u with wgs := a.wgs, cores := a.cores, issue := a.issue, due := a.due } : State)) k.rest
    exact hrest.trans h.rest
  cores := fun n => by
    have hcore := congrArg (fun u : LCore => ({ u with rr := (a.core n).rr, running := (a.core n).running } : LCore)) (k.cores n)
    exact hcore.trans (h.cores n)
  count := k.count.trans h.count
  groups := fun i w u hw hu => by
    obtain ⟨v, hv⟩ := getElem?_of_length_eq h.count hw
    obtain ⟨hgrp1, hts1, hgs1, hth1, hgr1⟩ := h.groups i w v hw hv
    obtain ⟨hgrp2, hts2, hgs2, hth2, hgr2⟩ := k.groups i v u hv hu
    refine ⟨?_, hts2.trans hts1, hgs2.trans hgs1, fun j x z hx hz => ?_, fun j x z hx hz => ?_⟩
    · have hgrp := congrArg (fun q : WG => ({ q with threads := w.threads, groups := w.groups } : WG)) hgrp2
      exact hgrp.trans hgrp1
    · obtain ⟨y, hy⟩ := getElem?_of_length_eq hts1 hx
      have hth := congrArg (fun q : Thread => ({ q with age := x.age } : Thread)) (hth2 j y z hy hz)
      exact hth.trans (hth1 j x y hx hy)
    · obtain ⟨y, hy⟩ := getElem?_of_length_eq hgs1 hx
      have hgr := congrArg (fun q : Group => ({ q with ready := x.ready } : Group)) (hgr2 j y z hy hz)
      exact hgr.trans (hgr1 j x y hx hy)

/-- Which cores issue is no part of what a selection moves. -/
theorem Selects.coreUp {a b : State} (h : Selects a b) (k : Nat) : b.coreUp k = a.coreUp k := by
  have hup := congrArg (State.coreUp · k) h.rest
  exact hup

/-- Another list of words that issue, and other owed tests. -/
theorem Selects.issued {a b : State} (h : Selects a b) (q : List Cur) (ds : List Due) : Selects a { b with issue := q, due := ds } where
  rest := h.rest
  cores := h.cores
  count := h.count
  groups := h.groups

/-- A test that falls in the same ck is owed among `due`. -/
theorem State.owe_now (s : State) {d : Due} (h : d.inNext = false) : ∃ ds, s.owe d = { s with due := ds } := by
  unfold State.owe
  rw [h]
  by_cases hd : s.due.contains d = true
  · exact ⟨s.due, if_pos hd⟩
  · exact ⟨_, if_neg hd⟩

theorem State.oweAll_now (s : State) {ds : List Due} (h : ∀ d ∈ ds, d.inNext = false) : ∃ due, s.oweAll ds = { s with due := due } := by
  induction ds generalizing s with
  | nil => exact ⟨s.due, rfl⟩
  | cons d ds ih =>
    obtain ⟨due1, h1⟩ := s.owe_now (h d List.mem_cons_self)
    obtain ⟨due2, h2⟩ := ih (s.owe d) fun e he => h e (List.mem_cons_of_mem _ he)
    exact ⟨due2, by rw [State.oweAll, List.foldl_cons, ← State.oweAll, h2, h1]⟩

/-- The counters of a workgroup at an opportunity (R34, R35). -/
theorem WG.waited_keeps (w : WG) (now : Nat) (ready : List (Nat × Nat)) (sel : Option (Nat × Nat)) (u : Nat) :
    ({ w.waited now ready sel u with threads := w.threads, groups := w.groups } : WG) = w
    ∧ (w.waited now ready sel u).threads.length = w.threads.length
    ∧ (w.waited now ready sel u).groups.length = w.groups.length
    ∧ (∀ (j : Nat) (a b : Thread), w.threads[j]? = some a → (w.waited now ready sel u).threads[j]? = some b →
        ({ b with age := a.age } : Thread) = a)
    ∧ ∀ (j : Nat) (a b : Group), w.groups[j]? = some a → (w.waited now ready sel u).groups[j]? = some b →
        ({ b with ready := a.ready } : Group) = a := by
  refine ⟨rfl, by simp [WG.waited, WG.modThreads], by simp [WG.waited, WG.modThreads], fun j a b ha hb => ?_, fun j a b ha hb => ?_⟩
  · simp only [WG.waited, WG.modThreads, List.getElem?_mapIdx, ha, Option.map_some, Option.some.injEq] at hb
    rw [← hb]
    split <;> rfl
  · simp only [WG.waited, WG.modThreads, List.getElem?_map, ha, Option.map_some, Option.some.injEq] at hb
    rw [← hb]
    split
    · rfl
    · split
      · rfl
      · split <;> rfl

/-- Counting the waits of a unit's groups moves counters only. -/
theorem State.countWaits_selects (s : State) (key u : Nat) (ps : List Pick) (sel : Option (Nat × Nat)) :
    Selects s (s.countWaits key u ps sel) where
  rest := rfl
  cores := fun _ => rfl
  count := List.length_map ..
  groups := fun i w v hw hv => by
    simp only [State.countWaits, List.getElem?_map, hw, Option.map_some, Option.some.injEq] at hv
    rw [← hv]
    split
    · exact w.waited_keeps ..
    · exact (Selects.refl s).groups i w w hw hw

/-- The round-robin places and the running group of a core are all that a selection moves there. -/
theorem State.modCore_selects (s : State) (key : Nat) {f : LCore → LCore}
    (hf : ∀ c, ({ f c with rr := c.rr, running := c.running } : LCore) = c) : Selects s (s.modCore key f) where
  rest := by
    unfold State.modCore
    split <;> rfl
  cores := fun k => by
    have hkey : ∀ c, (f c).key = c.key := fun c => by
      have hc := congrArg LCore.key (hf c)
      exact hc
    rw [State.core_modCore s key k f hkey]
    split
    · next h => rw [h]; exact hf _
    · rfl
  count := by
    unfold State.modCore
    split <;> rfl
  groups := by
    have hwgs : (s.modCore key f).wgs = s.wgs := by
      unfold State.modCore
      split <;> rfl
    rw [hwgs]
    exact (Selects.refl s).groups

/-- The state of a selection but for the words that issue and the ends of steps. -/
def State.counted (s : State) (key u : Nat) (ps : List Pick) (p : Pick) : State :=
  (s.countWaits key u ps (some (p.w.wid, p.g.gid))).modCore key (fun c =>
    { c with rr := c.rr.mapIdx (fun i x => if i = u && p.g.stage ≠ 0 then entryKey p.w p.g else x),
             running := if ((s.launch? p.w.lid).map (fun l => l.isDet)).getD false then some (p.w.wid, p.g.gid) else c.running })

theorem State.counted_selects (s : State) (key u : Nat) (ps : List Pick) (p : Pick) : Selects s (s.counted key u ps p) :=
  (s.countWaits_selects key u ps _).trans (State.modCore_selects _ key fun _ => rfl)

/-- The words that a pick issues on a unit: its primary path's and, where it has one, its secondary path's (R29, R30). -/
def Pick.words (p : Pick) (u : Nat) : List Cur :=
  curOf p.w p.g u false p.first :: (match p.second with | some q => [curOf p.w p.g u true q] | none => [])

theorem Pick.words_unit {p : Pick} {u : Nat} {c : Cur} (h : c ∈ p.words u) : c.core = p.w.core ∧ c.unit = u := by
  unfold Pick.words at h
  rcases List.mem_cons.1 h with rfl | h
  · exact ⟨rfl, rfl⟩
  · split at h
    · obtain rfl := List.mem_singleton.1 h
      exact ⟨rfl, rfl⟩
    · exact absurd h List.not_mem_nil

/-- A selection adds its pick's words to those that issue, counts, and owes the ends of steps. -/
theorem State.select_eq (s : State) (key u : Nat) (ps : List Pick) (p : Pick) :
    ∃ ds, s.select key u ps p = { s.counted key u ps p with issue := s.issue ++ p.words u, due := ds } := by
  have hissue : (s.counted key u ps p).issue = s.issue := by
    unfold State.counted State.modCore
    split <;> rfl
  obtain ⟨ds, hds⟩ := State.oweAll_now ({ s.counted key u ps p with issue := (s.counted key u ps p).issue ++ [curOf p.w p.g u false p.first]
      ++ (match p.second with | some q => [curOf p.w p.g u true q] | none => []) })
    (ds := (if p.g.stops.isSome then [.stops p.w.wid p.g.gid] else []) ++ (if p.g.stepping then [.stepEnd p.w.wid p.g.gid] else []))
    (fun d hd => by
      rcases List.mem_append.1 hd with hd | hd
      · split at hd
        · rw [List.mem_singleton.1 hd]; rfl
        · exact absurd hd List.not_mem_nil
      · split at hd
        · rw [List.mem_singleton.1 hd]; rfl
        · exact absurd hd List.not_mem_nil)
  refine ⟨ds, Eq.trans hds ?_⟩
  rw [hissue, List.append_assoc]
  rfl

theorem State.select_selects (s : State) (key u : Nat) (ps : List Pick) (p : Pick) : Selects s (s.select key u ps p) := by
  obtain ⟨ds, h⟩ := s.select_eq key u ps p
  rw [h]
  exact (s.counted_selects key u ps p).issued _ _

theorem State.select_issue (s : State) (key u : Nat) (ps : List Pick) (p : Pick) : (s.select key u ps p).issue = s.issue ++ p.words u := by
  obtain ⟨ds, h⟩ := s.select_eq key u ps p
  rw [h]

/-! ## The order of the words (R29, R141) -/

theorem insertWord_perm (e : (Nat × Nat) × Cur) (l : List ((Nat × Nat) × Cur)) : (insertWord e l).Perm (e :: l) := by
  induction l with
  | nil => exact .refl _
  | cons q qs ih =>
    unfold insertWord
    split
    · exact .refl _
    · exact (ih.cons q).trans (.swap e q qs)

theorem sortWords_perm (l : List ((Nat × Nat) × Cur)) : (l.foldr insertWord []).Perm l := by
  induction l with
  | nil => exact .refl _
  | cons e l ih => exact (insertWord_perm e _).trans (ih.cons e)

/-- The words in their order are the words. -/
theorem State.mem_ordered_issue (s : State) (c : Cur) : c ∈ s.ordered.issue ↔ c ∈ s.issue := by
  have hperm := (sortWords_perm (s.issue.map (fun c => ((s.wordPlace c, c.core), c)))).map (·.2)
  have hmap : (s.issue.map (fun c => ((s.wordPlace c, c.core), c))).map (·.2) = s.issue := by simp [Function.comp_def]
  rw [hmap] at hperm
  exact hperm.mem_iff

theorem State.ordered_selects (s : State) : Selects s s.ordered := (Selects.refl s).issued _ _

/-- A selected path is among the words that issue, in their order. -/
theorem State.select_first_mem (s : State) (key u : Nat) (ps : List Pick) (p : Pick) :
    curOf p.w p.g u false p.first ∈ (s.select key u ps p).ordered.issue := by
  rw [State.mem_ordered_issue, State.select_issue]
  exact List.mem_append_right _ List.mem_cons_self

/-! ## Which group a unit selects (R31, R35) -/

/-- What a group of a core would issue is a pick of that core. -/
theorem State.ready_core {s : State} {key u : Nat} {p : Pick} (h : p ∈ s.ready key u) : p.w.core = key := by
  obtain ⟨⟨w, g⟩, hq, hp⟩ := List.mem_filterMap.1 h
  obtain ⟨v, hv, hvw⟩ := List.mem_flatMap.1 (List.mem_filter.1 hq).1
  obtain ⟨_, _, heq⟩ := List.mem_map.1 hvw
  obtain ⟨rfl, rfl⟩ := Prod.mk.inj heq
  have hpw : p.w = v := by
    simp only [State.pick] at hp
    split at hp
    · cases hp
    · obtain ⟨_, -, rfl⟩ := Option.map_eq_some_iff.1 hp
      rfl
  rw [hpw]
  simpa using (List.mem_filter.1 hv).2

theorem afterPlace_mem {place : Nat} {ps : List Pick} {p : Pick} (h : afterPlace place ps = some p) : p ∈ ps := List.mem_of_find?_eq_some h

theorem minOf_eq_none {xs : List Nat} (h : minOf xs = none) : xs = [] := by
  cases xs with
  | nil => rfl
  | cons x xs =>
    rw [minOf] at h
    split at h <;> cases h

/-- Of some groups, one is the first after a place. -/
theorem afterPlace_some (place : Nat) {ps : List Pick} (h : ps ≠ []) : ∃ p, afterPlace place ps = some p := by
  have hkey : ∃ k ∈ ps.map (fun p => entryKey p.w p.g),
      (minOf ((ps.map (fun p => entryKey p.w p.g)).filter (fun k => place < k)) <|> minOf (ps.map (fun p => entryKey p.w p.g))) = some k := by
    cases hnext : minOf ((ps.map (fun p => entryKey p.w p.g)).filter (fun k => place < k)) with
    | some k => exact ⟨k, (List.mem_filter.1 (minOf_mem hnext)).1, rfl⟩
    | none =>
      cases hmin : minOf (ps.map (fun p => entryKey p.w p.g)) with
      | some k => exact ⟨k, minOf_mem hmin, rfl⟩
      | none => exact absurd (List.map_eq_nil_iff.1 (minOf_eq_none hmin)) h
  obtain ⟨k, hk, hbest⟩ := hkey
  obtain ⟨p, hp, rfl⟩ := List.mem_map.1 hk
  unfold afterPlace
  dsimp only
  rw [hbest]
  exact Option.isSome_iff_exists.1 (List.find?_isSome.2 ⟨p, hp, by simp⟩)

/-- What an issue unit may select among its ready groups (R31, R35): its own group where it is held, else a starved one, else one of stage 0,
else any. -/
def State.dueOn (s : State) (key u : Nat) (ps : List Pick) (q : Pick) : Prop :=
  match (s.core key).held.getD u none with
  | some h => (q.w.wid, q.g.gid) = h
  | none => s.starved q.g = true ∨ (∀ r ∈ ps, s.starved r.g = false) ∧ (q.g.stage = 0 ∨ ∀ r ∈ ps, r.g.stage ≠ 0)

theorem State.choose_mem {s : State} {key u : Nat} {ps : List Pick} {p : Pick} (h : s.choose key u ps = some p) : p ∈ ps := by
  unfold State.choose at h
  split at h
  · exact List.mem_of_find?_eq_some h
  · dsimp only at h
    split at h
    · next q hq => exact Option.some.inj h ▸ List.mem_of_find?_eq_some hq
    · split at h
      · next q hq => exact Option.some.inj h ▸ (List.mem_filter.1 (afterPlace_mem hq)).1
      · exact afterPlace_mem h

/-- Where one of the ready groups is due, a unit chooses one that is due. -/
theorem State.choose_due {s : State} {key u : Nat} {ps : List Pick} (hdue : ∃ q ∈ ps, s.dueOn key u ps q) :
    ∃ p, s.choose key u ps = some p ∧ s.dueOn key u ps p := by
  obtain ⟨q, hq, hqdue⟩ := hdue
  unfold State.dueOn State.choose at *
  cases hheld : (s.core key).held.getD u none with
  | some h =>
    rw [hheld] at hqdue
    obtain ⟨p, hp⟩ := Option.isSome_iff_exists.1
      (List.find?_isSome (p := fun p : Pick => (p.w.wid, p.g.gid) == h).2 ⟨q, hq, by simpa using hqdue⟩)
    exact ⟨p, hp, by simpa using List.find?_some hp⟩
  | none =>
    dsimp only
    cases hstarved : ps.find? (fun p => s.starved p.g) with
    | some p => exact ⟨p, rfl, .inl (by simpa using List.find?_some hstarved)⟩
    | none =>
      have hnone : ∀ r ∈ ps, s.starved r.g = false := fun r hr => by simpa using List.find?_eq_none.1 hstarved r hr
      by_cases hzero : ps.filter (fun p => p.g.stage == 0) = []
      · obtain ⟨p, hp⟩ := afterPlace_some ((s.core key).rr.getD u 0) (List.ne_nil_of_mem hq)
        rw [hzero]
        refine ⟨p, hp, .inr ⟨hnone, .inr fun r hr => ?_⟩⟩
        simpa using List.filter_eq_nil_iff.1 hzero r hr
      · obtain ⟨p, hp⟩ := afterPlace_some ((s.core key).rr.getD u 0) hzero
        rw [hp]
        exact ⟨p, rfl, .inr ⟨hnone, .inl (by simpa using (List.mem_filter.1 (afterPlace_mem hp)).2)⟩⟩

/-! ## The opportunities of a ck (R29) -/

theorem State.opportunity_selects (s : State) (sel : UnitSel) : Selects s (s.opportunity sel) := by
  unfold State.opportunity
  split
  · exact Selects.refl s
  · dsimp only
    split
    · exact s.countWaits_selects ..
    · exact s.select_selects ..

/-- A word that an opportunity adds is of the unit that it names, on a core that issues. -/
theorem State.opportunity_issue {s : State} {sel : UnitSel} {c : Cur} (h : c ∈ (s.opportunity sel).issue) :
    c ∈ s.issue ∨ ⟨c.core, c.unit⟩ = sel ∧ s.coreUp sel.core = true := by
  unfold State.opportunity at h
  split at h
  · exact .inl h
  · next hfree =>
    dsimp only at h
    split at h
    · exact .inl h
    · next p hp =>
      rw [State.select_issue] at h
      refine (List.mem_append.1 h).imp_right fun hc => ?_
      obtain ⟨hcore, hunit⟩ := Pick.words_unit hc
      rw [State.ready_core (State.choose_mem hp)] at hcore
      refine ⟨by rw [hcore, hunit], ?_⟩
      have hup : s.unitFree sel.core sel.unit = true := by simpa using hfree
      exact (Bool.and_eq_true_iff.1 hup).1

theorem State.opportunities_selects (s : State) (sel : List UnitSel) : Selects s (sel.foldl State.opportunity s) := by
  induction sel generalizing s with
  | nil => exact Selects.refl s
  | cons e es ih => exact (s.opportunity_selects e).trans (ih _)

/-- The words that the opportunities of a ck add are of units that they name, on cores that issue. -/
theorem State.opportunities_issue {s : State} {sel : List UnitSel} {c : Cur} (h : c ∈ (sel.foldl State.opportunity s).issue) :
    c ∈ s.issue ∨ ⟨c.core, c.unit⟩ ∈ sel ∧ s.coreUp c.core = true := by
  induction sel generalizing s with
  | nil => exact .inl h
  | cons e es ih =>
    rcases ih h with h | ⟨hmem, hup⟩
    · refine (State.opportunity_issue h).imp_right fun ⟨heq, hup⟩ => ?_
      refine ⟨heq ▸ List.mem_cons_self, ?_⟩
      rw [← heq] at hup
      exact hup
    · exact .inr ⟨List.mem_cons_of_mem _ hmem, ((s.opportunity_selects e).coreUp _).symm.trans hup⟩

theorem mem_unionSet {a : Nat} {xs ys : List Nat} : a ∈ unionSet xs ys ↔ a ∈ xs ∨ a ∈ ys := by
  induction xs with
  | nil => simp [unionSet]
  | cons x xs ih =>
    rw [unionSet, List.foldr_cons, mem_insertSet_iff, ← unionSet, ih, List.mem_cons, or_assoc]

/-- The units of an opportunity in their order are those of the four units that it names. -/
theorem mem_sortUnits {u : UnitSel} {sel : List UnitSel} : u ∈ sortUnits sel ↔ u ∈ sel ∧ u.unit < 4 := by
  simp only [sortUnits, List.mem_map, mem_unionSet, List.mem_filter, List.not_mem_nil, or_false, decide_eq_true_eq]
  constructor
  · rintro ⟨_, ⟨v, ⟨hv, hlt⟩, rfl⟩, rfl⟩
    have hunit : (⟨(4 * v.core + v.unit) / 4, (4 * v.core + v.unit) % 4⟩ : UnitSel) = v := by
      cases v
      simp only [UnitSel.mk.injEq] at hlt ⊢
      omega
    rw [hunit]
    exact ⟨hv, hlt⟩
  · rintro ⟨hu, hlt⟩
    refine ⟨_, ⟨u, ⟨hu, hlt⟩, rfl⟩, ?_⟩
    cases u
    simp only [UnitSel.mk.injEq] at hlt ⊢
    omega

theorem sortUnits_one {core unit : Nat} (h : unit < 4) : sortUnits [⟨core, unit⟩] = [⟨core, unit⟩] := by
  have hdiv : (4 * core + unit) / 4 = core := by omega
  have hmod : (4 * core + unit) % 4 = unit := by omega
  simp [sortUnits, unionSet, insertSet, h, hdiv, hmod]

end Sys2Proof.Machine

section

open Sys2Proof Sys2Proof.Machine

/-- Settles O41: every opportunity counts and adds the words of picks of its unit (`opportunities_issue`), and the choice among the ready groups
is one that is due (`choose_due`). -/
theorem issueEvents : Obligations.IssueEvents := by
  unfold Obligations.IssueEvents
  refine ⟨fun s sel hissue => ?units, fun s core unit hissue hunit hup => ?one, ?promoted, ?starved⟩
  case units =>
    refine ⟨exec_issueOpportunity s, (s.opportunities_selects _).trans (State.ordered_selects _), fun c hc => ?_⟩
    rw [State.mem_ordered_issue] at hc
    have hadded := State.opportunities_issue hc
    rw [hissue] at hadded
    obtain ⟨hmem, hcore⟩ := hadded.resolve_left List.not_mem_nil
    obtain ⟨hsel, hlt⟩ := mem_sortUnits.1 hmem
    exact ⟨hsel, hlt, hcore⟩
  case one =>
    intro ps due hdue
    obtain ⟨p, hp, hpdue⟩ := State.choose_due (s := s) (key := core) (u := unit) hdue
    have hfree : s.unitFree core unit = true := by simp [State.unitFree, State.unitTaken, hup, hissue]
    have hone : (sortUnits [⟨core, unit⟩]).foldl State.opportunity s = s.select core unit ps p := by
      rw [sortUnits_one hunit, List.foldl_cons, List.foldl_nil, State.opportunity, hfree]
      simp only [Bool.not_true, Bool.false_eq_true, if_false]
      rw [hp]
    refine ⟨_, (exec_issueOpportunity s).trans (congrArg (fun t : State => Host.Outcome.next t.ordered) hone),
      (s.select_selects ..).trans (State.ordered_selects _), p, State.choose_mem hp, hpdue, s.select_first_mem ..⟩
  case promoted =>
    intro s wid gid tid w g l p hw hg hl hp hdet hstops hfree hheld hage hprimary t
    refine ⟨(exec_ageingPromotion s).trans ?_, (s.select_selects ..).trans (State.ordered_selects _), s.select_first_mem ..⟩
    unfold execAgeingPromotion
    simp only [hw, hg, hl, hp]
    rw [hheld, if_neg (by simp [hdet, hstops, hfree, hage, hprimary])]
  case starved =>
    intro s wid gid w g p hw hg hp hfree hstarved hheld t
    refine ⟨(exec_groupStarvationSelect s).trans ?_, (s.select_selects ..).trans (State.ordered_selects _), s.select_first_mem ..⟩
    unfold execGroupStarvationSelect
    simp only [hw, hg, hp]
    rw [hheld, if_neg (by simp [hfree, hstarved])]

end

/-! SUPPORT and PROOF of the group events (O42): groups formed one after another, the release of a cross-core barrier in every workgroup, and the
paths that wait at a CBACQ. -/

namespace Sys2Proof.Machine

/-! ## The forming of groups (R42, R43) -/

theorem Launch.runs_of_bound {l : Launch} (h : l.phase = .bound) : l.runs = true := by
  rw [Launch.runs, h]
  rfl

/-- Where the formation counter does not run out, the first of some groups is formed, and parked under an all-stop. -/
theorem State.formAll_cons {s : State} {wid : Nat} {w : WG} {l : Launch} (hw : s.wg? wid = some w) (hl : s.launch? w.lid = some l)
    (hroom : w.formation < 2 ^ 32 - 1) (gsz : Nat) (args : List Word) (b : Nat × List Nat) (rest : List (Nat × List Nat)) :
    s.formAll wid gsz args (b :: rest)
      = (if l.allStop = true then (s.modWG wid (fun w => w.form b.1 gsz args b.2)).parkGroup wid w.formation
          else s.modWG wid (fun w => w.form b.1 gsz args b.2)).formAll wid gsz args rest := by
  rw [State.formAll]
  simp only [hw]
  rw [if_neg (Nat.not_le.2 hroom), hl]
  rfl

/-- Without an all-stop, groups are formed one after another. -/
theorem State.formAll_eq_foldl {wid : Nat} {l : Launch} (hstop : l.allStop = false) (gsz : Nat) (args : List Word)
    (bs : List (Nat × List Nat)) {s : State} {w : WG} (hw : s.wg? wid = some w) (hl : s.launch? w.lid = some l)
    (hroom : w.formation + bs.length ≤ 2 ^ 32 - 1) :
    s.formAll wid gsz args bs = bs.foldl (fun s b => s.modWG wid (fun w => w.form b.1 gsz args b.2)) s := by
  induction bs generalizing s w with
  | nil => rfl
  | cons b bs ih =>
    rw [List.length_cons] at hroom
    rw [State.formAll_cons hw hl (by omega), hstop, List.foldl_cons]
    simp only [Bool.false_eq_true, if_false]
    exact ih (w := w.form b.1 gsz args b.2) (State.wg?_modWG_same s wid (fun w => w.form b.1 gsz args b.2) (fun _ => rfl) hw) hl
      (by show w.formation + 1 + bs.length ≤ _; omega)

/-! ## The release of a cross-core barrier (R228) -/

theorem XBar.role?_eq (b : XBar) (core tok : Nat) :
    b.role? core tok = if core = b.role ∧ tok % 2 ^ 22 = (b.gen + 2 ^ 22 - 1) % 2 ^ 22 then 1 else 0 :=
  if_congr (Bool.and_eq_true_iff.trans (and_congr beq_iff_eq beq_iff_eq)) rfl rfl

/-- The destinations of the groups whose threads a release frees. -/
def WG.xroles (v : WG) (x : Nat) (b : XBar) (core : Nat) : WG :=
  (v.xreleased x b.gen).foldl (fun g e => g.setS e.1 e.2.2 [BitVec.ofNat 32 (b.role? core e.2.1)]) v

/-- A thread that a release frees, past its word with its result; every other one as it is. -/
def Thread.xfreed (t : Thread) (x : Nat) (b : XBar) (core : Nat) : Thread :=
  match t.run with
  | .wait (.xbar y tok d) => if y = x ∧ tokGen tok ≠ b.gen then (t.xresult d (b.role? core tok)).release else t
  | _ => t

/-- What a release does to a workgroup of its core. -/
def WG.xfree (v : WG) (x : Nat) (b : XBar) (core : Nat) : WG := (v.xroles x b core).modThreads (fun _ t => t.xfreed x b core)

/-- The s destinations of a release lie in the groups. -/
theorem WG.xroles_keeps (v : WG) (x : Nat) (b : XBar) (core : Nat) : ({ v.xroles x b core with groups := v.groups } : WG) = v := by
  unfold WG.xroles
  generalize v.xreleased x b.gen = es
  induction es using List.reverseRecOn with
  | nil => rfl
  | append_singleton es e ih =>
    rw [List.foldl_append, List.foldl_cons, List.foldl_nil]
    have hset := congrArg (fun u : WG => ({ u with groups := v.groups } : WG)) (WG.setS_rest
      (es.foldl (fun g e => g.setS e.1 e.2.2 [BitVec.ofNat 32 (b.role? core e.2.1)]) v) e.1 e.2.2 [BitVec.ofNat 32 (b.role? core e.2.1)])
    exact hset.trans ih

theorem WG.xroles_threads (v : WG) (x : Nat) (b : XBar) (core : Nat) : (v.xroles x b core).threads = v.threads := by
  have h := congrArg WG.threads (v.xroles_keeps x b core)
  exact h

theorem WG.xroles_core (v : WG) (x : Nat) (b : XBar) (core : Nat) : (v.xroles x b core).core = v.core := by
  have h := congrArg WG.core (v.xroles_keeps x b core)
  exact h

/-- A release moves nothing of a workgroup but its threads and groups. -/
theorem WG.xfree_keeps (v : WG) (x : Nat) (b : XBar) (core : Nat) :
    ({ v.xfree x b core with threads := v.threads, groups := v.groups } : WG) = v := by
  have h := congrArg (fun u : WG => ({ u with threads := v.threads } : WG)) (v.xroles_keeps x b core)
  exact h

/-- A thread that waits for a generation that is over goes on past its word. -/
theorem WG.xfree_thread {v : WG} {x tok core tid : Nat} {b : XBar} {d : Opnd} {t : Thread} (ht : v.threads[tid]? = some t)
    (hrun : t.run = .wait (.xbar x tok d)) (hgen : tok % 2 ^ 22 ≠ b.gen) :
    ∃ t', (v.xfree x b core).threads[tid]? = some t' ∧ t'.run = .ready ∧ t'.pc = t.pc + 8 := by
  have hfreed : t.xfreed x b core = (t.xresult d (b.role? core tok)).release := by
    unfold Thread.xfreed
    rw [hrun]
    exact if_pos ⟨rfl, hgen⟩
  refine ⟨(t.xresult d (b.role? core tok)).release, ?_, rfl, ?_⟩
  · show ((v.xroles x b core).threads.mapIdx (fun _ t => t.xfreed x b core))[tid]? = some (t.xresult d (b.role? core tok)).release
    rw [List.getElem?_mapIdx, v.xroles_threads, ht, Option.map_some, hfreed]
  · cases d <;> rfl

/-- The release reaches the workgroups of its launch on its core (R228). -/
theorem exec_xbarRelease_eq {s : State} {lid x core : Nat} {l : Launch} (hl : s.launch? lid = some l) (htherm : s.lodge.therm = false) :
    exec (.xbarRelease lid x core) s = .next { s with wgs := s.wgs.map (fun v =>
      if v.lid = lid ∧ v.core % 256 = core then v.xfree x (l.xbar x) core else v) } := by
  rw [exec_xbarRelease]
  unfold execXbarRelease
  simp only [hl, htherm, Bool.false_eq_true, if_false]
  congr 2
  refine List.map_congr_left fun v _ => ?_
  split
  · next h =>
    obtain ⟨-, rfl⟩ := h
    have hthreads := congrArg (fun core => (v.xroles x (l.xbar x) (v.core % 256)).modThreads (fun _ t => t.xfreed x (l.xbar x) core))
      (congrArg (· % 256) (v.xroles_core x (l.xbar x) (v.core % 256)))
    exact hthreads
  · rfl

/-! ## Paths that wait at a CBACQ (R146, R315) -/

theorem insertSet_sorted {a : Nat} {xs : List Nat} (h : xs.Pairwise (· < ·)) : (insertSet a xs).Pairwise (· < ·) := by
  induction xs with
  | nil => exact List.pairwise_singleton _ _
  | cons y ys ih =>
    obtain ⟨hy, hys⟩ := List.pairwise_cons.1 h
    unfold insertSet
    split
    · next hlt =>
      refine List.pairwise_cons.2 ⟨fun b hb => ?_, h⟩
      rcases List.mem_cons.1 hb with rfl | hb
      · exact hlt
      · exact hlt.trans (hy b hb)
    · split
      · exact h
      · next hle hne =>
        refine List.pairwise_cons.2 ⟨fun b hb => ?_, ih hys⟩
        rcases mem_insertSet_iff.1 hb with rfl | hb
        · omega
        · exact hy b hb

theorem unionSet_sorted (xs : List Nat) : (unionSet xs []).Pairwise (· < ·) := by
  induction xs with
  | nil => exact List.Pairwise.nil
  | cons x xs ih => exact insertSet_sorted ih

/-- A path waits at a CBACQ where a thread of its group does. -/
theorem WG.mem_cbufPaths {w : WG} {gid : Nat} {k : Nat × Nat × Opnd} :
    k ∈ w.cbufPaths gid ↔ ∃ t ∈ w.threads, t.gid = gid ∧ t.pc = k.1 ∧ t.cbufWait = some k.2 := by
  obtain ⟨pc, e⟩ := k
  simp only [WG.cbufPaths, List.mem_flatMap, mem_unionSet, List.not_mem_nil, or_false, List.mem_map, List.mem_filter, List.mem_dedup,
    List.mem_filterMap, Prod.mk.injEq, Bool.and_eq_true, beq_iff_eq]
  constructor
  · rintro ⟨_, -, _, ⟨t, ⟨⟨ht, hgid, -⟩, hpc⟩, hwait⟩, rfl, rfl⟩
    exact ⟨t, ht, hgid, hpc, hwait⟩
  · rintro ⟨t, ht, hgid, hpc, hwait⟩
    have hon : t.onCbuf = true := by rw [Thread.onCbuf, hwait]; rfl
    exact ⟨pc, ⟨t, ⟨ht, hgid, hon⟩, hpc⟩, e, ⟨t, ⟨⟨ht, hgid, hon⟩, hpc⟩, hwait⟩, rfl, rfl⟩

/-- The paths that wait at a CBACQ are in the order of their PCs. -/
theorem WG.cbufPaths_sorted (w : WG) (gid : Nat) : (w.cbufPaths gid).Pairwise (fun a b => a.1 ≤ b.1) := by
  unfold WG.cbufPaths
  refine List.pairwise_flatMap.2 ⟨fun pc _ => ?_, (unionSet_sorted _).imp fun {p q} hlt a ha b hb => ?_⟩
  · exact List.pairwise_map.2 (List.pairwise_of_forall_mem_list fun _ _ _ _ => Nat.le_refl _)
  · obtain ⟨_, -, rfl⟩ := List.mem_map.1 ha
    obtain ⟨_, -, rfl⟩ := List.mem_map.1 hb
    exact Nat.le_of_lt hlt

end Sys2Proof.Machine

section

open Sys2Proof Sys2Proof.Machine

/-- Settles O42: groups are formed one after another while the counter has room (`formAll_eq_foldl`), a release frees each workgroup of its core
(`exec_xbarRelease_eq`), and the deadlocks and the retry are the tests that the statement names. -/
theorem groupEvents : Obligations.GroupEvents := by
  unfold Obligations.GroupEvents
  intro s wid w l hw hl
  refine ⟨?fullBin, ?quiescence, ?rejoin, ?barrier, ?release, ?retry, ?path⟩
  case fullBin =>
    intro pc stage tids g formed hdet hphase hup hg hroom
    rw [exec_groupFormationFullBin]
    unfold execGroupFormationFullBin
    simp only [hw, hl]
    rw [if_pos (by rw [hdet, Launch.runs_of_bound hphase, hup]; exact decide_eq_true hg), State.formAll_cons hw hl hroom, State.formAll]
    rfl
  case quiescence =>
    intro hphase hstop hup hquiet hpool gs hroom
    rw [exec_groupFormationQuiescence]
    unfold execGroupFormationQuiescence
    simp only [hw, hl]
    rw [if_pos (by simp [Launch.runs_of_bound hphase, hup, hquiet, hpool])]
    exact congrArg (fun t : State => Host.Outcome.next (t.modWG wid WG.dropEmpty)) (State.formAll_eq_foldl hstop _ _ gs hw hl hroom)
  case rejoin =>
    intro g tid t k hg hstuck hmin ht hk
    rw [exec_rejoinDeadlock]
    unfold execRejoinDeadlock
    simp only [hw, hg, hstuck, if_true, hmin, ht, hk, Option.getD_some]
  case barrier =>
    intro tid t hphase hsome hall hqueues hparked hfind
    have hdead : w.deadlocked = true := by rw [WG.deadlocked, hsome, hall, hqueues, hparked]; rfl
    rw [exec_barrierDeadlock]
    unfold execBarrierDeadlock
    simp only [hw, hl, hdead, hfind, Option.map_some, Option.getD_some, Launch.runs_of_bound hphase, Bool.and_self, if_true]
  case release =>
    intro x core htherm b role free t
    have hfree : ∀ v : WG, free v = v.xfree x b core := fun v => by
      simp only [WG.xfree, WG.xroles, Thread.xfreed, XBar.role?_eq]
      rfl
    have hwgs : t.wgs = s.wgs.map (fun v => if v.lid = w.lid ∧ v.core % 256 = core then v.xfree x b core else v) :=
      List.map_congr_left fun v _ => by rw [hfree]
    have hexec := (exec_xbarRelease_eq hl htherm).trans
      (congrArg (fun ws => Host.Outcome.next ({ s with wgs := ws } : State)) hwgs.symm)
    refine ⟨hexec, fun v hv hother => ?_, ?_, fun i v u hv hu => ?_⟩
    · rw [hwgs]
      exact List.mem_map.2 ⟨v, hv, if_neg hother⟩
    · rw [hwgs, List.length_map]
    · rw [hwgs, List.getElem?_map, hv, Option.map_some, Option.some.injEq] at hu
      rw [← hu]
      by_cases hon : v.lid = w.lid ∧ v.core % 256 = core
      · rw [if_pos hon]
        exact ⟨v.xfree_keeps x b core, fun tid th hth _ _ tok d hrun hgen => WG.xfree_thread hth hrun hgen⟩
      · rw [if_neg hon]
        exact ⟨rfl, fun _ _ _ hlid hcore => absurd ⟨hlid, hcore⟩ hon⟩
  case retry =>
    intro gid g hg hphase hparked hup hturn
    refine ⟨?_, w.cbufPaths_sorted gid, fun k => WG.mem_cbufPaths⟩
    rw [exec_cbacqRetry]
    unfold execCbacqRetry
    simp only [hw, hg, hl]
    rw [if_neg (by simp [Launch.runs_of_bound hphase, hparked, hup, hturn])]
  case path =>
    intro gid pc n d tids
    unfold State.retryPath
    simp only [hw]
    refine ⟨fun h => if_pos (by simpa using h), fun hslots hfilled => if_neg (by simp [hslots, hfilled])⟩

end

/-! SUPPORT and PROOF of the returning data (O43): a load's data, the gathers of an s destination, and the replies. -/

namespace Sys2Proof.Machine

/-! ## Gathers (R48) -/

theorem WG.modGroup_modGroup (w : WG) (gid : Nat) {f : Group → Group} (hf : ∀ g, (f g).gid = g.gid) (h : Group → Group) :
    (w.modGroup gid f).modGroup gid h = w.modGroup gid (fun g => h (f g)) := by
  simp only [WG.modGroup, List.map_map]
  congr 1
  refine List.map_congr_left fun g _ => ?_
  by_cases hg : g.gid = gid <;> simp [hg, hf]

/-- A lane whose data is missing puts it among the others'. -/
theorem Gather.take_missing {q : Gather} {pc tid : Nat} (hpc : q.pc = pc) (htid : tid ∈ q.tids) (hnew : ∀ e ∈ q.got, e.1 ≠ tid)
    (ws : List Word) : q.take pc tid ws = { q with got := insertGot (tid, ws) q.got } := by
  refine if_pos ⟨hpc, by simpa using htid, ?_⟩
  rw [List.any_eq_true]
  rintro ⟨e, he, heq⟩
  exact hnew e he (by simpa using heq)

/-- The gathers of a group changed. -/
def State.modGathers (s : State) (wid gid : Nat) (h : List Gather → List Gather) : State :=
  s.modWG wid (fun v => v.modGroup gid (fun g => { g with gathers := h g.gathers }))

theorem State.modGathers_modGathers (s : State) (wid gid : Nat) (h k : List Gather → List Gather) :
    (s.modGathers wid gid h).modGathers wid gid k = s.modGathers wid gid (fun qs => k (h qs)) := by
  refine (State.modWG_modWG s wid (f := fun v => v.modGroup gid (fun g => { g with gathers := h g.gathers })) (fun _ => rfl) _).trans ?_
  exact congrArg (s.modWG wid) (funext fun v =>
    v.modGroup_modGroup gid (f := fun g => { g with gathers := h g.gathers }) (fun _ => rfl) _)

theorem State.modGathers_group {s : State} {wid gid : Nat} {w : WG} {g : Group} (hw : s.wg? wid = some w) (hg : w.group? gid = some g)
    (h : List Gather → List Gather) :
    ((s.modGathers wid gid h).wg? wid).bind (fun v => v.group? gid) = some { g with gathers := h g.gathers } := by
  have hwg := State.wg?_modWG_same s wid (fun v => v.modGroup gid (fun g => { g with gathers := h g.gathers })) (fun _ => rfl) hw
  rw [State.modGathers, hwg, Option.bind_some]
  exact WG.group?_modGroup_same w gid (fun g => { g with gathers := h g.gathers }) (fun _ => rfl) hg

/-- Whether a gather has the data of each of its lanes. -/
def Gather.full (q : Gather) : Bool := q.tids.all (fun i => q.got.any (fun e => e.1 == i))

theorem Gather.full_iff {q : Gather} : q.full = true ↔ ∀ i ∈ q.tids, ∃ e ∈ q.got, e.1 = i := by
  simp [Gather.full]

/-- The arrival of one lane's data for a group with one gather: the gather waits on, or it is complete and closed. -/
theorem State.arrive_gathers {s : State} {wid tid : Nat} {w : WG} {t : Thread} {f : LoadFly} {g : Group} {q : Gather}
    (hw : s.wg? wid = some w) (ht : w.threads[tid]? = some t) (hbad : f.bad = none) (hgather : f.gather = true)
    (hfor : gatherFor w tid f.pc = some g) (hg : w.group? g.gid = some g) (hq : g.gathers = [q]) (hpc : q.pc = f.pc)
    (htid : tid ∈ q.tids) (hnew : ∀ e ∈ q.got, e.1 ≠ tid) :
    let q' : Gather := { q with got := insertGot (tid, f.vals) q.got }
    let took := (s.modWG wid (fun v => v.modThread tid f.deliver)).modGathers wid g.gid (fun qs => qs.map (fun q => q.take f.pc tid f.vals))
    s.arrive wid tid f = if q'.full then took.closeGather w { g with gathers := [q'] } q' else took := by
  intro q' took
  have hwg : (s.modWG wid (fun v => v.modThread tid f.deliver)).wg? wid = some (w.modThread tid f.deliver) :=
    State.wg?_modWG_same s wid (fun v => v.modThread tid f.deliver) (fun _ => rfl) hw
  have hgroup := State.modGathers_group hwg (g := g) (gid := g.gid) hg (fun qs => qs.map (fun q => q.take f.pc tid f.vals))
  rw [hq, List.map_singleton, Gather.take_missing hpc htid hnew] at hgroup
  have hmine : (q'.pc == f.pc) = true := beq_iff_eq.2 hpc
  unfold State.arrive
  simp only [hw, ht, hbad, hgather, hfor, Bool.not_true, Bool.false_eq_true, if_false]
  rw [← State.modGathers, hgroup]
  dsimp only
  rw [List.find?_cons, hmine, Bool.true_and, ← Gather.full]
  cases q'.full <;> rfl

/-- A gather that is closed leaves its group; equal data is written, else the lanes that differ are named (R48). -/
theorem State.closeGather_eq (s : State) (w : WG) (g : Group) (q : Gather) (wid : Nat) (hwid : w.wid = wid) (h : List Gather → List Gather) :
    let shut := s.modGathers wid g.gid (fun qs => (h qs).filter (fun r => r != q))
    let value := ((q.got.filter (fun e => e.1 = q.tids.headD 0)).headD (0, [])).2
    let bad := q.got.filter (fun e => e.2 != value)
    (bad = [] → (s.modGathers wid g.gid h).closeGather w g q = shut.modWG wid (fun v => v.setS g.gid q.d value))
    ∧ ∀ b more, bad = b :: more → (s.modGathers wid g.gid h).closeGather w g q = shut.raise w.lid w.core 3 b.1 (bad.map (fun e =>
        s.record w 5 0 false e.1 g.gid (((w.threads[e.1]?).map (fun t => t.lane)).getD 0) q.pc 0 0)) := by
  intro shut value bad
  have hshut : (s.modGathers wid g.gid h).modGathers w.wid g.gid (fun qs => qs.filter (fun r => r != q)) = shut := by
    rw [hwid]
    exact s.modGathers_modGathers wid g.gid h _
  have hclose : (s.modGathers wid g.gid h).closeGather w g q = (match bad with
      | [] => shut.modWG w.wid (fun u => u.setS g.gid q.d value)
      | e :: _ => shut.raise w.lid w.core 3 e.1 (bad.map (fun e =>
          shut.record w 5 0 false e.1 g.gid (((w.threads[e.1]?).map (fun t => t.lane)).getD 0) q.pc 0 0))) := by
    rw [← hshut]
    rfl
  refine ⟨fun hnone => ?_, fun b more hsome => ?_⟩
  · rw [hclose, hnone, hwid]
  · rw [hclose, hsome]
    rfl

/-! ## Replies (R204, R210, R302) -/

/-- The reply that a thread takes is one of its own. -/
theorem reply_own {ps : List Reply} {wid tid : Nat} {p : Reply} (h : ps.find? (fun p => p.req.wid == wid && p.req.tid == tid) = some p) :
    p.req.wid = wid ∧ p.req.tid = tid := by
  simpa using List.find?_some h

end Sys2Proof.Machine

section

open Sys2Proof Sys2Proof.Machine

/-- Settles O43: a reply is taken from those under way and acts by its kind; a load's data goes to its thread, or to its group's gather, which waits
on or is closed (`arrive_gathers`, `closeGather_eq`). -/
theorem returningData : Obligations.ReturningData := by
  unfold Obligations.ReturningData
  refine ⟨fun s wid tid w t hw ht hclock => ⟨fun f rest hloads => ?load, fun p hp => ?reply⟩, fun s wid tid w t f hw ht => ?data⟩
  case load =>
    rw [exec_loadReturn]
    unfold execLoadReturn
    simp only [hw, Option.bind_some, ht, hloads, Option.map_some, Option.getD_some, hclock, if_true]
  case reply =>
    intro m freed got fails
    obtain ⟨hwid, htid⟩ := reply_own hp
    have hwwid := State.wg?_wid hw
    have hexec : exec (.reply wid tid) s = .next (match p.req.kind with
        | .atom _ | .lrcall => m.routineReply w t p
        | .lda width sx gather => m.ldaReply w p width sx gather
        | .waitv _ => match t.run with
          | .wait (.waitv z) => m.waitvReply w t p z
          | _ => m
        | .wake => m.modWG wid (fun v => v.modThread tid (fun t => { t with slot := none }))
        | .peer _ => m) := by
      rw [exec_reply]
      unfold execReply
      simp only [hp, hw, Option.map_some, Option.getD_some, hclock, Bool.not_true, Bool.false_eq_true, if_false]
      rw [show ({ s with replies := s.replies.erase p } : State).wg? wid = some w from hw]
      simp only [ht]
      rfl
    have hroutine : m.routineReply w t p
        = if p.code ≠ 0 && (match p.req.kind with | .atom _ => true | _ => p.req.d == .none) then fails else got := by
      unfold State.routineReply State.routineError
      rw [hwwid, htid]
      rfl
    refine ⟨fun b hkind hcode => ?_, fun b hkind hcode => ?_, fun hkind hcode => ?_, fun hkind => ?_, fun b z hkind hrun => ?_,
      fun width sx gather hkind => ?_⟩
    · rw [hexec]
      rcases hkind with hkind | hkind
      · simp only [hkind, hroutine, hcode]
        rfl
      · simp only [hkind, hroutine, hcode]
        rfl
    · rw [hexec]
      simp only [hkind, hroutine]
      rw [if_pos (by simp [hcode])]
    · rw [hexec]
      simp only [hkind, hroutine]
      by_cases hd : p.req.d = .none
      · rw [if_pos (by simp [hcode, hd]), if_pos hd]
      · rw [if_neg (by simp [hd]), if_neg hd]
    · rw [hexec]
      simp only [hkind]
    · rw [hexec]
      simp only [hkind, hrun]
    · rw [hexec]
      simp only [hkind]
      unfold State.ldaReply
      rw [hwwid, htid]
      simp only [ne_eq, ite_not]
      rfl
  case data =>
    intro m
    have hm : s.modWG wid (fun v => v.modThread tid f.deliver) = m := rfl
    refine ⟨fun hbad hone => ?_, fun line seq hbad => ?_, fun g q hbad hgather hfor hg hq hpc htid hnew => ?_⟩
    · unfold State.arrive
      simp only [hw, ht, hbad, hone, Bool.not_false, if_true]
      exact hm
    · unfold State.arrive
      simp only [hw, ht, hbad]
    · intro q' took has shut all value bad
      have hfull : q'.full = true ↔ all := Gather.full_iff
      have harrive := State.arrive_gathers hw ht hbad hgather hfor hg hq hpc htid hnew
      obtain ⟨hequal, hdiffer⟩ := State.closeGather_eq m w { g with gathers := [q'] } q' wid (State.wg?_wid hw) took
      refine ⟨?_, fun hnot => ?_, fun hall hnone => ?_, fun b more hall hsome => ?_⟩
      · rw [show took [q] = [q.take f.pc tid f.vals] from rfl, Gather.take_missing hpc htid hnew]
      · exact harrive.trans (if_neg fun h => hnot (hfull.1 h))
      · exact harrive.trans ((if_pos (hfull.2 hall)).trans (hequal hnone))
      · refine harrive.trans ((if_pos (hfull.2 hall)).trans ((hdiffer b more hsome).trans ?_))
        rw [show q'.pc = f.pc from hpc]
        rfl

end

/-! PROOF that the launch events' statement fails (O48): the image of a launch whose number a second launch has too. -/

namespace Sys2Proof.Machine

/-! ## What the launches hold when an image stands (R63, R243) -/

theorem State.trace_launches (s : State) (part kind wgid gid ncore pc unit stall act : Nat) :
    (s.trace part kind wgid gid ncore pc unit stall act).launches = s.launches := by
  obtain ⟨_, _, _, h⟩ := s.trace_eq part kind wgid gid ncore pc unit stall act
  rw [h]

theorem State.setSt_launches (s : State) (key st : Nat) : (s.setSt key st).launches = s.launches := by
  rw [State.setSt]

theorem State.vacate_launches (s : State) (key : Nat) : (s.vacate key).launches = s.launches := by
  rw [State.vacate, apply_ite State.launches, s.setSt_launches, ite_self]

theorem State.vacateAll_launches (s : State) (keys : List Nat) : (s.vacateAll keys).launches = s.launches :=
  foldl_keeps State.vacate_launches keys s

/-- Storing an image and clearing a launch from the cores leave the launches. -/
theorem State.imageStands_launches (s : State) (i : Image) (bs : List Byte) (lid : Nat) (cores : List Nat) (l : Launch) (kind : Nat) :
    ((((s.storeImage i bs).sweepLaunch lid).vacateAll cores).traceLaunch l kind).launches = s.launches :=
  (State.trace_launches ..).trans ((State.vacateAll_launches ..).trans (s.writeM_launches i.ctx (s.ownerKey i.ctx) (cellsAt i.addr bs)))

/-- A launch's state as its drain ends: nothing of it waits or is open any more (R63 steps 2 to 4). -/
def State.drainEnded (s : State) (l : Launch) : State :=
  ((((s.abandonWaits l.owns).rollBackAll l.owns).publishLaunch l).settleBars l).interruptStamps l.owns

/-- Its logical cores saved. -/
def State.drainSaved (s : State) (l : Launch) (lid : Nat) : State := ((s.drainEnded l).coresOf lid).foldl State.saveCore (s.drainEnded l)

/-- Its image stored, of the launch `k` with its waiting workgroups, and its cores cleared of it. -/
def State.drainCleared (s : State) (l : Launch) (lid : Nat) (k : Launch) : State :=
  let p := (s.drainSaved l lid).placeWaiting l
  ((((s.drainSaved l lid).storeImage (p.imageInfo k (p.imageOf k false).length) (p.imageOf k false)).sweepLaunch lid).vacateAll
    ((s.drainEnded l).coresOf lid)).traceLaunch l 5

theorem State.drainCleared_launches (s : State) (l : Launch) (lid : Nat) (k : Launch) :
    (s.drainCleared l lid k).launches = (s.drainSaved l lid).launches :=
  State.imageStands_launches ..

/-- A launch without a bind record that has drained: the model marks every launch of its number, with its own held-back signal. -/
theorem exec_serialiserPublishWrite_eq {s : State} {lid : Nat} {l k : Launch} (hl : s.launch? lid = some l)
    (hgo : (s.lodge.therm || decide (l.phase ≠ .draining) || !s.drained l) = false) (hslot : l.slot = none)
    (hk : ((s.drainSaved l lid).placeWaiting l).launch? lid = some k) :
    exec (.serialiserPublishWrite lid) s = .next ((s.drainCleared l lid k).modLaunch lid (fun m =>
      { m with phase := .stopped, stopping := false, pending := [], window := [], heldSig := l.heldSig || s.signalWaits lid })) := by
  rw [exec_serialiserPublishWrite]
  unfold execSerialiserPublishWrite
  simp only [hl]
  rw [hgo, if_neg Bool.false_ne_true]
  unfold State.drainSaved State.drainEnded at hk
  simp only [hk, hslot]
  rfl

/-! ## Two launches with one number -/

/-- The launch of the placed program, draining, without a bind record. -/
def drainingLaunch : Launch := { (placed.launch? 1).get (by decide +kernel) with phase := .draining, slot := none, heldSig := false }

/-- A second launch with its number, whose signal is held back. -/
def secondLaunch : Launch := { drainingLaunch with heldSig := true }

/-- Both of them, and no workgroups. -/
def doubled : State := { placed with wgs := [], launches := [drainingLaunch, secondLaunch] }

theorem doubled_second (k : Launch) : (doubled.drainCleared drainingLaunch 1 k).launches[1]? = some secondLaunch :=
  (congrArg (fun ls : List Launch => ls[1]?) (State.drainCleared_launches ..)).trans (by decide +kernel)

/-- Whether the signal of the second launch of an outcome is held back. -/
def secondHeld (o : Host.Outcome State Fault Refusal) : Option Bool :=
  match o with
  | .next t => (t.launches[1]?).map (fun l => l.heldSig)
  | _ => none

theorem secondHeld_modLaunch {s : State} {lid : Nat} {q : Launch} (hq : s.launches[1]? = some q) (hlid : q.lid = lid) (f : Launch → Launch) :
    secondHeld (.next (s.modLaunch lid f)) = some (f q).heldSig := by
  simp [secondHeld, State.modLaunch, hq, hlid]

end Sys2Proof.Machine

section

open Sys2Proof Sys2Proof.Machine

/-- Refutes O48: the number of the draining launch of `doubled` is also the number of a second launch, whose signal is held back. When the image
stands, the model gives both the first one's hold, which is none, and the statement leaves the second its own. -/
theorem not_launchEvents : ¬ Obligations.LaunchEvents := by
  unfold Obligations.LaunchEvents
  intro h
  obtain ⟨-, -, hpublish, -⟩ := h
  have hdrained : doubled.drained drainingLaunch = true := by decide +kernel
  have htherm : doubled.lodge.therm = false := by decide +kernel
  obtain ⟨k, hk, m, hexec, -⟩ := hpublish doubled 1 drainingLaunch rfl rfl hdrained htherm
  have hgo : (doubled.lodge.therm || decide (drainingLaunch.phase ≠ .draining) || !doubled.drained drainingLaunch) = false := by
    rw [htherm, hdrained]
    rfl
  have hlid : secondLaunch.lid = 1 := by decide +kernel
  have hheld := congrArg secondHeld ((exec_serialiserPublishWrite_eq rfl hgo rfl hk).symm.trans hexec)
  have hkept := (secondHeld_modLaunch (doubled_second k) hlid _).symm.trans
    (hheld.trans (secondHeld_modLaunch (s := doubled.drainCleared drainingLaunch 1 k) (doubled_second k) hlid (fun l =>
      { l with phase := .stopped, stopping := false, pending := [], window := [], heldSig := l.heldSig || doubled.signalWaits 1 })))
  exact absurd hkept (by decide +kernel)

end

/-! SUPPORT and PROOF of the span words (O40): what does not look at a workgroup's threads, tiles that are copied, and what is put back. -/

namespace Sys2Proof

/-- What goes by the keys of a map keeps the places of the keys that it keeps. -/
theorem SMap.get_filter_key {α : Type} (d : α) {p : Nat → Bool} (m : SMap α) {k : Nat} (hk : p k = true) :
    SMap.get d (m.filter (fun e => p e.1)) k = SMap.get d m k := by
  induction m with
  | nil => rfl
  | cons e m ih =>
    by_cases he : e.1 = k
    · simp [SMap.get, he, hk]
    · cases hp : p e.1 <;> simp [SMap.get, he, hp, ih]

/-- Writes at other places leave a place as it was. -/
theorem SMap.get_foldl_put_other {α : Type} [DecidableEq α] (d : α) (es m : SMap α) {k : Nat} (hk : ∀ e ∈ es, e.1 ≠ k) :
    SMap.get d (es.foldl (fun m e => SMap.put d m e.1 e.2) m) k = SMap.get d m k := by
  induction es generalizing m with
  | nil => rfl
  | cons e es ih =>
    rw [List.foldl_cons, ih _ fun e he => hk e (List.mem_cons_of_mem _ he), SMap.get_put_other d m e.2 (hk e List.mem_cons_self).symm]

end Sys2Proof

namespace Sys2Proof.Machine

/-! ## Tiles that are copied (R59, R162) -/

/-- A copy of some tiles leaves the others as they were. -/
theorem copyTiles_get_other (src dst : SMap (BitVec 48)) {p : Nat → Bool} {k : Nat} (hk : p (k / 256) = false) :
    (copyTiles src dst p).get 0 k = dst.get 0 k := by
  unfold copyTiles
  rw [SMap.get_foldl_put_other]
  · exact SMap.get_filter_key 0 (p := fun k => !p (k / 256)) dst (by simp [hk])
  · rintro e he rfl
    rw [(List.mem_filter.1 he).2] at hk
    cases hk

/-! ## Stamps (R168) -/

/-- A change of a workgroup looks at its stamps and changes them, and nothing else. -/
def StampsAlone (f : WG → WG) : Prop := ∃ z : List Stamp → List Stamp, ∀ w : WG, f w = { w with stamps := z w.stamps }

theorem StampsAlone.foldl {f : WG → Nat → WG} (hf : ∀ n, StampsAlone (f · n)) (ns : List Nat) : StampsAlone (ns.foldl f) := by
  induction ns with
  | nil => exact ⟨id, fun _ => rfl⟩
  | cons n ns ih =>
    obtain ⟨y, hy⟩ := hf n
    obtain ⟨z, hz⟩ := ih
    exact ⟨fun ss => z (y ss), fun w => (congrArg (ns.foldl f) (hy w)).trans (hz _)⟩

theorem StampsAlone.ite {f : WG → WG} (hf : StampsAlone f) (c : List Stamp → Prop) [DecidablePred c] :
    StampsAlone (fun w => if c w.stamps then f w else w) := by
  obtain ⟨z, hz⟩ := hf
  refine ⟨fun ss => if c ss then z ss else ss, fun w => ?_⟩
  by_cases hc : c w.stamps <;> simp [hc, hz]

theorem WG.modStamp_alone (n : Nat) (f : Stamp → Stamp) : StampsAlone (WG.modStamp · n f) :=
  ⟨fun ss => ((List.range 16).map (fun i => ss.getD i Stamp.free)).mapIdx (fun i e => if i = n then f e else e), fun _ => rfl⟩

theorem WG.spanStamps_alone (gid : Nat) (f : Stamp → Stamp) : StampsAlone (WG.spanStamps · gid f) :=
  StampsAlone.foldl (fun n => WG.modStamp_alone n _) _

/-- Whether entry n of the stamps, which is `z`, waits for the span that a path's group opens: it waited before the ck, and was not opened in it. -/
def Path.attaches (x : Path) (s : State) (n : Nat) (z : Stamp) : Bool :=
  z.mmaG = some x.g.gid && (((s.before.find? (fun v => v.wid == x.w.wid)).getD x.w).stamp n).mmaG = some x.g.gid && z.openCk ≠ s.ck

/-- An entry of the stamps that waits for the span attaches to it. -/
def Path.attachStamp (x : Path) (s : State) (w : WG) (n : Nat) : WG :=
  if x.attaches s n (w.stamp n) then w.modStamp n (fun z => { z with mmaG := none, spanG := some x.g.gid }) else w

theorem Path.attachStamp_alone (x : Path) (s : State) (n : Nat) : StampsAlone (x.attachStamp s · n) :=
  (WG.modStamp_alone n (fun z => { z with mmaG := none, spanG := some x.g.gid })).ite
    (fun ss => x.attaches s n (ss.getD n Stamp.free) = true)

theorem Path.attachStamp_none {x : Path} {w : WG} {n : Nat} (s : State) (h : (w.stamp n).mmaG ≠ some x.g.gid) : x.attachStamp s w n = w := by
  simp [Path.attachStamp, Path.attaches, h]

/-! ## The words (R381, R389, R390) -/

/-- What MSPAN does to the workgroup of its path beside the threads. -/
def Path.openSpan (x : Path) (s : State) (sp : Span) (w : WG) : WG :=
  ((List.range 16).foldl (x.attachStamp s) w).modGroup x.g.gid (fun g => { g with span := some sp })

/-- Opening a span changes stamps, and opens it in its group. -/
theorem Path.openSpan_eq (x : Path) (s : State) (sp : Span) : ∃ z : List Stamp → List Stamp, ∀ w : WG,
    x.openSpan s sp w = ({ w with stamps := z w.stamps } : WG).modGroup x.g.gid (fun g => { g with span := some sp }) := by
  obtain ⟨z, hz⟩ := StampsAlone.foldl (x.attachStamp_alone s) (List.range 16)
  exact ⟨z, fun w => congrArg (WG.modGroup · x.g.gid _) (hz w)⟩

/-- Where no stamp waits for a span of the group, MSPAN opens the span and does nothing else to the workgroup. -/
theorem Path.openSpan_unstamped {x : Path} (h : ∀ n, (x.w.stamp n).mmaG ≠ some x.g.gid) (s : State) (sp : Span) :
    x.openSpan s sp x.w = x.w.modGroup x.g.gid (fun g => { g with span := some sp }) := by
  unfold Path.openSpan
  rw [List.foldl_fixed' fun n => Path.attachStamp_none s (h n)]

/-- What MCOMMIT does to the workgroup of its path beside the threads. -/
def Path.closeSpan (x : Path) (now : Nat) (tiles : List Nat) (w : WG) : WG :=
  let v := w.spanStamps x.g.gid (fun z => { z with t5 := now, spanG := none })
  ({ v with commit := copyTiles v.tiles v.commit (fun t => tiles.contains t) }).modGroup x.g.gid (fun g => { g with span := none, struck := false })

/-- Closing a span changes stamps, copies its tiles to the commit plane, and closes it in its group. -/
theorem Path.closeSpan_eq (x : Path) (now : Nat) (tiles : List Nat) : ∃ z : List Stamp → List Stamp, ∀ w : WG,
    x.closeSpan now tiles w = ({ w with
      stamps := z w.stamps, commit := copyTiles w.tiles w.commit (fun t => tiles.contains t) } : WG).modGroup x.g.gid
        (fun g => { g with span := none, struck := false }) := by
  obtain ⟨z, hz⟩ := WG.spanStamps_alone x.g.gid (fun z => { z with t5 := now, spanG := none })
  refine ⟨z, fun w => ?_⟩
  dsimp only at hz
  unfold Path.closeSpan
  rw [hz]

/-! ## Rollback (R60, R162) -/

/-- A thread that is put back at its MSPAN. -/
theorem Thread.rollBack_stands (t : Thread) (sp : Span) (tid : Nat) :
    (t.rollBack sp tid).pc = sp.pc ∧ (t.rollBack sp tid).hold = 0 ∧ (t.rollBack sp tid).latches = [none, none, none, none] := by
  unfold Thread.rollBack
  dsimp only
  split <;> exact ⟨rfl, rfl, rfl⟩

/-- A thread that the checkpoint holds has its predicates and the registers of the span as they were saved. -/
theorem Thread.rollBack_saved (t : Thread) {sp : Span} {tid : Nat} {e : Nat × List Word × BitVec 7}
    (he : sp.saved.find? (fun e => e.1 = tid) = some e) :
    (t.rollBack sp tid).p = e.2.2 ∧ ∀ r, (t.rollBack sp tid).v.get 0 r = regAfter [(sp.f, e.2.1)] r (t.v.get 0 r) := by
  unfold Thread.rollBack
  simp only [he]
  exact ⟨trivial, Thread.setV_get _ [(sp.f, e.2.1)]⟩

/-- A workgroup in which a group's span is rolled back, where `smap` is the map of its slots after that. -/
def WG.rolledBack (w : WG) (gid : Nat) (sp : Span) (smap : List Nat) : WG :=
  (({ w with tiles := copyTiles w.commit w.tiles (fun t => sp.wtiles.contains t), smap := smap } : WG).modThreads (fun i t =>
    if t.gid = gid && t.run != .exited && t.run != .pool then t.rollBack sp i else t)).modGroup gid (fun g => { g with span := none })

theorem State.rollBack_wg {s : State} {wid gid : Nat} {w : WG} {g : Group} {sp : Span} (hw : s.wg? wid = some w)
    (hg : w.group? gid = some g) (hsp : g.span = some sp) : ∃ smap, (s.rollBack wid gid).wg? wid = some (w.rolledBack gid sp smap) := by
  unfold State.rollBack
  simp only [hw, hg, hsp, Option.bind_some]
  exact ⟨_, State.wg?_modWG_same (f := fun w => w.rolledBack gid sp _) _ wid (fun _ => rfl) ((State.wg?_modCore ..).trans hw)⟩

theorem WG.rolledBack_span {w : WG} {gid : Nat} {g : Group} (hg : w.group? gid = some g) (sp : Span) (smap : List Nat) :
    ((w.rolledBack gid sp smap).group? gid).map (fun g => g.span) = some none :=
  congrArg (Option.map (fun g : Group => g.span)) (WG.group?_modGroup_same _ gid (fun g => { g with span := none }) (fun _ => rfl) hg)

theorem WG.rolledBack_thread {w : WG} {gid tid : Nat} {t : Thread} (ht : w.threads[tid]? = some t) (hgid : t.gid = gid)
    (hexited : t.run ≠ .exited) (hpool : t.run ≠ .pool) (sp : Span) (smap : List Nat) :
    (w.rolledBack gid sp smap).threads[tid]? = some (t.rollBack sp tid) :=
  (WG.threads_modThreads ..).trans (by simp [ht, hgid, hexited, hpool])

end Sys2Proof.Machine

section

open Sys2Proof Sys2Proof.Machine

/-- Settles O40: MSPAN and MCOMMIT end in an advance beside a change of the workgroup that does not look at its threads, and MCOMMIT's beside a
change of its core's queue; a rollback changes the workgroup and each of its group's threads. -/
theorem spanWords : Obligations.SpanWords := by
  unfold Obligations.SpanWords
  refine ⟨fun s w nfo x => ?opens, fun s w nfo x sp hsp hi => ?closes, fun s wid gid w g sp hw hg hsp => ?back⟩
  case opens =>
    intro f n sp hstamp hi
    obtain ⟨z, hz⟩ := x.openSpan_eq s sp
    exact Does.of_finish (f := fun _ t => t) (h := x.openSpan s sp) hi (exec_mspan s) rfl (State.path_parts hi.path).2.1 (Same.refl _)
      (fun v => by rw [hz]; rfl) (fun v ts => by rw [hz, hz]; exact ⟨rfl, rfl⟩) (fun _ => rfl) (Path.openSpan_unstamped hstamp s sp)
  case closes =>
    intro closed
    obtain ⟨z, hz⟩ := x.closeSpan_eq closed.now sp.wtiles
    refine ⟨x.closeSpan closed.now sp.wtiles x.w, ?_, ?_⟩
    · refine Does.of_finish (m := closed) (f := fun _ t => t) (h := x.closeSpan closed.now sp.wtiles) hi (exec_mcommit s) ?_
        ((State.wg?_modCore ..).trans (State.path_parts hi.path).2.1) (Same.refl _)
        (fun v => by rw [hz]; rfl) (fun v ts => by rw [hz, hz]; exact ⟨rfl, rfl⟩) (fun _ => rfl) rfl
      rw [hsp]
      rfl
    · rw [hz]
      exact ⟨rfl, fun k hk => copyTiles_get_other x.w.tiles x.w.commit (p := fun t => sp.wtiles.contains t) hk, rfl, rfl, rfl⟩
  case back =>
    obtain ⟨smap, hback⟩ := State.rollBack_wg hw hg hsp
    refine ⟨_, hback, rfl, fun k hk => copyTiles_get_other w.commit w.tiles (p := fun t => sp.wtiles.contains t) hk,
      WG.rolledBack_span hg sp smap, rfl, rfl, fun tid t ht hgid hexited hpool => ?_⟩
    obtain ⟨hpc, hhold, hlatches⟩ := t.rollBack_stands sp tid
    exact ⟨_, WG.rolledBack_thread ht hgid hexited hpool sp smap, hpc, hhold, hlatches, fun e he => t.rollBack_saved he⟩

end

/-! SUPPORT and PROOF of the routine calls (O25): requests that leave their core beside the end of a word, and lanes that wait for room in the
reorder window. -/

namespace Sys2Proof.Machine

/-! ## Requests sent beside the end of a word (R74, R204) -/

/-- Two changes of a logical core, one after the other. -/
theorem State.modCore_modCore (s : State) (k : Nat) {f : LCore → LCore} (hf : ∀ c, (f c).key = c.key) (g : LCore → LCore) :
    (s.modCore k f).modCore k g = s.modCore k (fun c => g (f c)) := by
  by_cases hlisted : s.cores.any (fun c => c.key == k) = true
  · have hkey : ∀ c : LCore, (if c.key = k then f c else c).key = c.key := fun c => by split <;> simp [hf]
    have hstill : (s.cores.map (fun c => if c.key = k then f c else c)).any (fun c => c.key == k) = true := by
      simpa [List.any_map, Function.comp_def, hkey] using hlisted
    simp only [State.modCore, hlisted, hstill, if_true, List.map_map]
    congr 1
    refine List.map_congr_left fun c _ => ?_
    by_cases hc : c.key = k <;> simp [hc, hf]
  · have hother : ∀ c ∈ s.cores, ¬ c.key = k := by simpa using hlisted
    have hmap : s.cores.map (fun c => if c.key = k then g c else c) = s.cores :=
      (List.map_congr_left fun c hc => if_neg (hother c hc)).trans (List.map_id' _)
    have hkey : (f (LCore.fresh k)).key = k := hf _
    simp [State.modCore, hlisted, hkey, hmap]

/-- Two changes of a logical core that do not meet may be made in either order. -/
theorem State.modCore_comm (s : State) (k : Nat) {f g : LCore → LCore} (hf : ∀ c, (f c).key = c.key) (hg : ∀ c, (g c).key = c.key)
    (hfg : ∀ c, g (f c) = f (g c)) : (s.modCore k f).modCore k g = (s.modCore k g).modCore k f := by
  rw [State.modCore_modCore s k hf, State.modCore_modCore s k hg]
  exact congrArg (s.modCore k) (funext hfg)

/-- Changing a workgroup and changing a logical core do not meet. -/
theorem State.modCore_modWG (s : State) (wid k : Nat) (f : WG → WG) (g : LCore → LCore) :
    (s.modWG wid f).modCore k g = (s.modCore k g).modWG wid f := by
  unfold State.modCore
  split
  · next hc => rw [if_pos (by exact hc)]; rfl
  · next hc => rw [if_neg (by exact hc)]; rfl

theorem LCore.modView_key (c : LCore) (lid : Nat) (f : View → View) : (c.modView lid f).key = c.key := by
  unfold LCore.modView
  split <;> rfl

/-- The end of a word and a change of a launch's view of the word's core do not meet. -/
theorem Path.finish_modView (x : Path) (s : State) (lid : Nat) (v : View → View) (hold : Bool) (pc : Lane → Nat)
    (f : Lane → Thread → Thread) (h : WG → WG) :
    (x.finish s hold pc f h).modView x.w.core lid v = x.finish (s.modView x.w.core lid v) hold pc f h := by
  unfold Path.finish State.setHeld State.modView
  refine (State.modCore_comm _ x.w.core ?_ (fun c => c.modView_key lid v) fun c => ?_).trans
    (congrArg (State.modCore · x.w.core _) (State.modCore_modWG ..))
  · exact fun _ => rfl
  · unfold LCore.modView
    split <;> rfl

/-- The end of a word and a request that comes to its slice do not meet. -/
theorem Path.finish_toSlice (x : Path) (s : State) (r : Req) (hold : Bool) (pc : Lane → Nat) (f : Lane → Thread → Thread) (h : WG → WG) :
    (x.finish s hold pc f h).toSlice r = x.finish (s.toSlice r) hold pc f h := by
  unfold Path.finish State.setHeld State.modCore
  split
  · next hc => rw [if_pos (by exact hc)]; rfl
  · next hc => rw [if_neg (by exact hc)]; rfl

theorem Path.finish_dispatchReq (x : Path) (s : State) (r : Req) (hold : Bool) (pc : Lane → Nat) (f : Lane → Thread → Thread)
    (h : WG → WG) : (x.finish s hold pc f h).dispatchReq r = x.finish (s.dispatchReq r) hold pc f h := by
  unfold State.dispatchReq
  split
  · exact x.finish_modLaunch s _ _ hold pc f h
  · exact x.finish_toSlice s r hold pc f h

/-- The end of a word moves no view of a launch. -/
theorem Path.finish_view (x : Path) (s : State) (k lid : Nat) (hold : Bool) (pc : Lane → Nat) (f : Lane → Thread → Thread) (h : WG → WG) :
    (x.finish s hold pc f h).view k lid = s.view k lid := by
  have hheld := (State.setHeld_keeps (s.modWG x.w.wid (fun w => h (x.onLanes (fun ln t => (f ln t).past hold (pc ln)) w))) x hold).2 k
  rw [State.core_modWG] at hheld
  have hviews := congrArg LCore.views hheld
  exact congrArg (fun vs : List View => (vs.find? (fun v => v.lid == lid)).getD (View.fresh lid)) hviews

/-- Requests of a word's core may be sent before the end of the word or after it. -/
theorem Path.finish_sendAll (x : Path) (s : State) (hold : Bool) (pc : Lane → Nat) (f : Lane → Thread → Thread) (h : WG → WG)
    {rs : List Req} (hrs : ∀ r ∈ rs, r.core = x.w.core) : (x.finish s hold pc f h).sendAll rs = x.finish (s.sendAll rs) hold pc f h := by
  induction rs generalizing s with
  | nil => rfl
  | cons r rs ih =>
    have hr : r.core = x.w.core := hrs r List.mem_cons_self
    unfold State.sendAll
    dsimp only
    rw [hr, Path.finish_view, Path.finish_modView, Path.finish_dispatchReq, ih _ fun q hq => hrs q (List.mem_cons_of_mem _ hq)]

theorem State.dispatchReq_wg? (s : State) (r : Req) (j : Nat) : (s.dispatchReq r).wg? j = s.wg? j := by
  unfold State.dispatchReq
  split <;> rfl

theorem State.sendAll_wg? (s : State) (rs : List Req) (j : Nat) : (s.sendAll rs).wg? j = s.wg? j := by
  induction rs generalizing s with
  | nil => rfl
  | cons r rs ih => exact (ih _).trans ((State.dispatchReq_wg? ..).trans (State.wg?_modCore ..))

/-! ## The requests of a word (R204, R213) -/

/-- Where the reorder window has room for every request to a DET page, all lanes send. -/
theorem State.windowFit_all (s : State) (x : Path) {room : Nat} {acc : List (Lane × List Trans)}
    (h : (acc.filter (fun a => (oneTrans a.2).det)).length ≤ room) : s.windowFit x room acc = acc := by
  induction acc generalizing room with
  | nil => rfl
  | cons a as ih =>
    unfold State.windowFit
    cases hdet : (oneTrans a.2).det with
    | false =>
      rw [List.filter_cons_of_neg (by simp [hdet])] at h
      simp [ih h]
    | true =>
      rw [List.filter_cons_of_pos (by exact hdet), List.length_cons] at h
      have hroom : room ≠ 0 := by omega
      simp [hroom, ih (room := room - 1) (by omega)]

/-- Where the reorder window has no room and no lane's request has the frontier's key, no lane sends to a DET page. -/
theorem State.windowFit_none {s : State} {x : Path} {acc : List (Lane × List Trans)} (hdet : ∀ a ∈ acc, (oneTrans a.2).det = true)
    (hkey : ∀ a ∈ acc, s.frontierOf x.l ≠ some (a.1.t.phc, x.w.wgid, a.1.tid, a.1.t.detc)) : s.windowFit x 0 acc = [] := by
  induction acc with
  | nil => rfl
  | cons a as ih =>
    unfold State.windowFit
    simp [hdet a List.mem_cons_self, hkey a List.mem_cons_self,
      ih (fun b hb => hdet b (List.mem_cons_of_mem _ hb)) (fun b hb => hkey b (List.mem_cons_of_mem _ hb))]

/-- A word whose requests all fit sends them all. -/
theorem Path.sendFit_all {x : Path} {s : State} {hd : Head} {slot : SlotHold} {req : Lane × List Trans → Req} {acc : List (Lane × List Trans)}
    (hlanes : x.lanes ≠ []) (hfit : s.windowFit x (256 - x.l.window.length) acc = acc) :
    x.sendFit s hd slot req acc = x.send s hd slot (acc.map req) := by
  have hsame : ∀ w : WG, w.modThreads (fun _ t => t) = w := fun w =>
    congrArg (fun ts => ({ w with threads := ts } : WG)) (List.ext_getElem (by simp) (by simp))
  have hmod : s.modWG x.w.wid (fun w => w.modThreads (fun _ t => t)) = s := by
    simp only [hsame, State.modWG, ite_self, List.map_id']
  simp [Path.sendFit, hfit, hmod, hlanes]

/-- A lane's thread with its request sent: the return slot is taken, and a request to a DET page counts (R191, R204). -/
def Thread.calls (slot : SlotHold) (det : Bool) (t : Thread) : Thread := { t with slot := some slot, detc := t.detc + bit1 det }

/-- What the requests of a word do to the thread of a lane. -/
def callLane (slot : SlotHold) (rs : List Req) (ln : Lane) (t : Thread) : Thread :=
  match rs.find? (fun r => r.tid == ln.tid) with
  | some r => t.calls slot r.det
  | none => t

/-- A request to a DET page keeps its workgroup from relaunch (R265). -/
def WG.called (rs : List Req) (w : WG) : WG := if rs.any (fun r => r.det) then { w with noRelaunch := true } else w

/-- The requests of a word sent at its end are sent beside it. -/
theorem Path.send_acts {s : State} {x : Path} (hx : s.path = some x) (hd : Head) (slot : SlotHold) {rs : List Req}
    (hrs : ∀ r ∈ rs, r.core = x.w.core) :
    Keeps (s.sendAll rs) (x.send s hd slot rs) x
      ∧ Acts (x.send s hd slot rs) x hd.hold (fun _ => x.next) (fun ln => callLane slot rs ln ln.t) (x.w.called rs) := by
  have hsend : x.send s hd slot rs = x.finish (s.sendAll rs) hd.hold (fun _ => x.next) (callLane slot rs) (WG.called rs) :=
    x.finish_sendAll s _ _ (callLane slot rs) (WG.called rs) hrs
  rw [hsend]
  refine Path.finish_acts hx ((State.sendAll_wg? ..).trans (State.path_parts hx).2.1) _ _ _ _ (fun w => ?_) (fun w ts => ?_)
  · unfold WG.called
    split <;> rfl
  · unfold WG.called
    split <;> exact ⟨rfl, rfl⟩

/-- Of the lanes of a path that stand for their threads, the executing ones have their requests sent. -/
theorem Path.callLane_eq {s : State} {x : Path} (hx : s.path = some x) (hd : Head) (slot : SlotHold) {req : Lane → Req}
    (hreq : ∀ ln, (req ln).tid = ln.tid) {ln : Lane} (hln : x.laneOf ln.tid = some ln) :
    callLane slot ((x.exec hd).map req) ln ln.t = if ln.t.executes hd then ln.t.calls slot (req ln).det else ln.t := by
  have hfind := State.path_exec_find hx hd ln.tid
  rw [hln] at hfind
  have htid : (fun r : Req => r.tid == ln.tid) ∘ req = fun e => e.tid == ln.tid := funext fun e => by simp [hreq]
  unfold callLane
  rw [List.find?_map, htid, hfind]
  by_cases hex : ln.t.executes hd = true <;> simp [Option.filter, hex]

/-! ## Lanes that wait for room in the reorder window (R213) -/

/-- Whether a thread stands in an executing lane of a word. -/
def Path.executing (x : Path) (hd : Head) (tid : Nat) : Bool := (x.laneOf tid).any (fun ln => ln.t.executes hd)

theorem Path.exec_any {s : State} {x : Path} (hx : s.path = some x) (hd : Head) (tid : Nat) :
    (x.exec hd).any (fun ln => ln.tid == tid) = x.executing hd tid := by
  rw [← List.isSome_find?, State.path_exec_find hx]
  unfold Path.executing
  cases x.laneOf tid with
  | none => rfl
  | some ln => by_cases hex : ln.t.executes hd = true <;> simp [Option.filter, hex]

/-- A path without the lanes of some threads. -/
def Path.without (x : Path) (late : Nat → Bool) : Path := { x with lanes := x.lanes.filter (fun ln => !late ln.tid) }

theorem Path.without_laneOf (x : Path) (late : Nat → Bool) (tid : Nat) :
    (x.without late).laneOf tid = if late tid then none else x.laneOf tid := by
  unfold Path.without Path.laneOf
  rw [List.find?_filter]
  split
  · next hlate =>
    refine List.find?_eq_none.2 fun ln _ hln => ?_
    obtain ⟨hnot, htid⟩ : late ln.tid = false ∧ ln.tid = tid := by simpa using hln
    rw [htid, hlate] at hnot
    cases hnot
  · next hlate =>
    refine congrArg (x.lanes.find? ·) (funext fun ln => ?_)
    by_cases htid : ln.tid = tid <;> simp [htid, hlate]

/-- Some threads are marked as having issued the word at which they stay, as far as breakpoints go (R273). -/
def WG.skipping (late : Nat → Bool) (w : WG) : WG := w.modThreads (fun i t => if late i then { t with skip := true } else t)

/-- The threads that are marked and the lanes of the path without them do not meet. -/
theorem Path.onLanes_skipping (x : Path) (late : Nat → Bool) (f : Lane → Thread → Thread) (w : WG) :
    (x.without late).onLanes f (w.skipping late) = ((x.without late).onLanes f w).skipping late := by
  simp only [Path.onLanes, WG.skipping, WG.modThreads, List.mapIdx_mapIdx]
  congr 2
  funext i t
  simp only [Function.comp]
  rw [show (x.without late).lanes.find? (fun ln => ln.tid == i) = _ from x.without_laneOf late i]
  by_cases hlate : late i = true <;> simp [hlate]

/-- To mark some threads and then to end the word for the others is to do both at the end of the word. -/
theorem Path.finish_skipping (x : Path) (s : State) (late : Nat → Bool) (hold : Bool) (pc : Lane → Nat) (f : Lane → Thread → Thread) :
    (x.without late).finish (s.modWG x.w.wid (WG.skipping late)) hold pc f id
      = (x.without late).finish s hold pc f (WG.skipping late) := by
  unfold Path.finish
  refine congrArg (State.setHeld · (x.without late) hold) ((State.modWG_modWG s x.w.wid (f := WG.skipping late) (fun _ => rfl) _).trans ?_)
  exact congrArg (s.modWG x.w.wid) (funext fun w => x.onLanes_skipping late _ w)

/-- The end of a word at which some threads stay: they are marked, and the lanes that are left, if any, pass. -/
def Path.passBut (x : Path) (s : State) (hold : Bool) (late : Nat → Bool) : State :=
  if (x.without late).lanes.isEmpty then s.modWG x.w.wid (WG.skipping late)
  else (x.without late).finish s hold (fun _ => x.next) (fun _ t => t) (WG.skipping late)

/-- A word none of whose requests fits: its executing lanes stay at it, and the others pass. -/
theorem Path.sendFit_none {s : State} {x : Path} {hd : Head} {slot : SlotHold} {req : Lane × List Trans → Req}
    {ts : Lane → List Trans} (hx : s.path = some x)
    (hgo : s.windowFit x (256 - x.l.window.length) ((x.exec hd).map (fun ln => (ln, ts ln))) = []) :
    x.sendFit s hd slot req ((x.exec hd).map (fun ln => (ln, ts ln))) = x.passBut s hd.hold (x.executing hd) := by
  have hlate : ∀ tid, ((x.exec hd).map (fun ln => (ln, ts ln))).any (fun a => a.1.tid == tid) = x.executing hd tid := fun tid => by
    rw [List.any_map]
    exact Path.exec_any hx hd tid
  unfold Path.sendFit
  simp only [hgo, hlate, List.any_nil, Bool.not_false, Bool.and_true, List.map_nil]
  exact congrArg (ite _ _) (x.finish_skipping s (x.executing hd) hd.hold (fun _ => x.next) (fun _ t => t))

/-- What is kept where some threads stay at a word, and what becomes of the path's workgroup. -/
theorem Path.passBut_spec {s : State} {x : Path} (hx : s.path = some x) (hold : Bool) (late : Nat → Bool) :
    Keeps s (x.passBut s hold late) x ∧ (x.passBut s hold late).wg? x.w.wid
      = some (((x.without late).onLanes (fun _ t => t.past hold x.next) x.w).skipping late) := by
  have hg := (State.path_parts hx).2.1
  unfold Path.passBut
  split
  · next hempty =>
    have hnone : (x.without late).onLanes (fun _ t => t.past hold x.next) x.w = x.w := by
      unfold Path.onLanes
      rw [List.isEmpty_iff.1 hempty]
      exact congrArg (fun ts => ({ x.w with threads := ts } : WG)) (List.ext_getElem (by simp) (by simp))
    rw [hnone]
    exact ⟨⟨rfl, fun j hj => State.wg?_modWG_other s (WG.skipping late) (fun _ => rfl) hj, fun k => by rw [State.core_modWG]⟩,
      State.wg?_modWG_same s x.w.wid (WG.skipping late) (fun _ => rfl) hg⟩
  · obtain ⟨hkeeps, hwg⟩ := Path.finish_spec (x := x.without late) hg hold (fun _ => x.next) (fun _ t => t) (WG.skipping late)
      (fun _ => rfl)
    exact ⟨⟨hkeeps.rest, hkeeps.others, hkeeps.cores⟩, hwg⟩

/-- What a word at which its executing lanes stay leaves of a thread. -/
theorem Path.passBut_thread {s : State} {x : Path} (hx : s.path = some x) (hd : Head) {tid : Nat} {ln : Lane} (hln : x.laneOf tid = some ln) :
    (((x.without (x.executing hd)).onLanes (fun _ t => t.past hd.hold x.next) x.w).skipping (x.executing hd)).threads[tid]?
      = some (if ln.t.executes hd then { ln.t with skip := true } else ln.t.past hd.hold x.next) := by
  have hlate : x.executing hd tid = ln.t.executes hd := by
    unfold Path.executing
    rw [hln]
    rfl
  have hleft := x.without_laneOf (x.executing hd) tid
  rw [hlate, hln] at hleft
  unfold WG.skipping
  rw [WG.threads_modThreads, hlate]
  by_cases hex : ln.t.executes hd = true
  · rw [if_pos hex] at hleft
    rw [Path.onLanes_none _ _ _ hleft, (State.path_thread hx hln).2]
    simp [hex]
  · rw [if_neg hex] at hleft
    rw [Path.onLanes_some _ _ _ hleft, (State.path_thread hx hln).2]
    simp [hex]

/-- A thread that stands in no lane of the path stays as it is. -/
theorem Path.passBut_other {x : Path} (hd : Head) {tid : Nat} (hnone : x.laneOf tid = none) :
    (((x.without (x.executing hd)).onLanes (fun _ t => t.past hd.hold x.next) x.w).skipping (x.executing hd)).threads[tid]?
      = x.w.threads[tid]? := by
  have hlate : x.executing hd tid = false := by
    unfold Path.executing
    rw [hnone]
    rfl
  have hleft := x.without_laneOf (x.executing hd) tid
  rw [hlate, hnone] at hleft
  unfold WG.skipping
  rw [WG.threads_modThreads, Path.onLanes_none _ _ _ hleft, hlate]
  cases x.w.threads[tid]? <;> rfl

/-! ## ATOM and LRCALL (R203, R302) -/

/-- The request of a lane of a routine call. -/
def Path.callOf (x : Path) (w : FWord) (kind : ReqKind) (r : Nat) (opnds : Lane → List DWord) (tr : Trans) (ln : Lane) : Req :=
  x.request kind r (opnds ln) w.d (x.pair ln w.a) tr tr.det ln

/-- A routine call of n bytes: ATOM and LRCALL. -/
def State.callWord (s : State) (i : Instr) (w : FWord) (n : Nat) (wr : Bool) (slot : SlotHold) (kind : ReqKind) (r : Nat)
    (opnds : Path → Lane → List DWord) : Host.Outcome State Fault Refusal :=
  s.word i (fun _ => {}) (fun x s =>
    s.globalWord x (x.exec w.hd) (fun ln => x.pair ln w.a) n n true wr true true (fun x acc s =>
      x.sendFit s w.hd slot (fun a => x.callOf w kind r (opnds x) (oneTrans a.2) a.1) acc))

theorem exec_atom_call (s : State) (w : FWord) : exec (.atom w) s = s.callWord (.atom w) w (widthOf w.ty / 8) (FSpec w % 32 != 28)
    ⟨w.d, regsOf w.ty, FSpec w % 32 == 28⟩ (.atom (is64 w.ty)) (atomRoutine w) (fun x => atomOpnds x w) := rfl

theorem exec_lrcall_call (s : State) (w : FWord) : exec (.lrcall w) s = s.callWord (.lrcall w) w (lrAlign (bitsOf w.mods.toNat 0 7)) true
    ⟨w.d, 3, false⟩ .lrcall (bitsOf w.mods.toNat 0 7) (fun x => lrOpnds x w) := rfl

section

variable {s : State} {i : Instr} {w : FWord} {nfo : Info} {x : Path} {tr : Lane → Trans} {n : Nat} {wr : Bool} {slot : SlotHold}
  {kind : ReqKind} {r : Nat} {opnds : Path → Lane → List DWord}

/-- A routine call whose lanes all pass, and meet no watchpoint, sends what fits. -/
theorem State.callWord_next (hi : Issues s i nfo x {})
    (hpass : ∀ ln ∈ x.exec w.hd, s.access x.ctx (x.pair ln w.a) n n true wr false = .ok [tr ln])
    (hwatch : s.watched x false true true (fun ln => rangeBytes (x.pair ln w.a) n) (x.exec w.hd) = []) :
    s.callWord i w n wr slot kind r opnds = .next (x.sendFit s w.hd slot (fun a => x.callOf w kind r (opnds x) (oneTrans a.2) a.1)
      ((x.exec w.hd).map (fun ln => (ln, [tr ln])))) :=
  (State.word_next hi _).trans (congrArg _ (State.globalWord_acts (tr := fun ln => [tr ln]) _ hpass hwatch))

/-- A routine call whose requests fit into the reorder window sends one for each executing lane. -/
theorem State.callWord_does (hexec : exec i s = s.callWord i w n wr slot kind r opnds) (hi : Issues s i nfo x {})
    (hpass : ∀ ln ∈ x.exec w.hd, s.access x.ctx (x.pair ln w.a) n n true wr false = .ok [tr ln])
    (hwatch : s.watched x false true true (fun ln => rangeBytes (x.pair ln w.a) n) (x.exec w.hd) = [])
    (hroom : x.l.window.length + ((x.exec w.hd).filter (fun ln => (tr ln).det)).length ≤ 256) :
    let rs := (x.exec w.hd).map (fun ln => x.callOf w kind r (opnds x) (tr ln) ln)
    Does s i x w.hd.hold (fun _ => x.next) (fun ln => if ln.t.executes w.hd then ln.t.calls slot (tr ln).det else ln.t)
      (s.sendAll rs) (x.w.called rs) := by
  intro rs
  have hfit : s.windowFit x (256 - x.l.window.length) ((x.exec w.hd).map (fun ln => (ln, [tr ln])))
      = (x.exec w.hd).map (fun ln => (ln, [tr ln])) :=
    s.windowFit_all x (by
      rw [List.filter_map, List.length_map]
      exact Nat.le_sub_of_add_le' hroom)
  have hsend := Path.sendFit_all (hd := w.hd) (slot := slot) (req := fun a => x.callOf w kind r (opnds x) (oneTrans a.2) a.1)
    (State.path_lanes hi.path) hfit
  rw [List.map_map] at hsend
  have hcore : ∀ q ∈ rs, q.core = x.w.core := fun q hq => by
    obtain ⟨ln, -, rfl⟩ := List.mem_map.1 hq
    rfl
  obtain ⟨hkeeps, hacts⟩ := Path.send_acts hi.path w.hd slot hcore
  exact ⟨_, hexec.trans ((State.callWord_next hi hpass hwatch).trans (congrArg _ hsend)), hkeeps,
    hacts.congr fun ln hln => Path.callLane_eq hi.path w.hd slot (fun _ => rfl) hln⟩

/-- A routine call all of whose lanes would send to a DET page, at a full window that none of their keys is the frontier of, leaves the
lanes at the word. -/
theorem State.callWord_waits (hexec : exec i s = s.callWord i w n wr slot kind r opnds) (hi : Issues s i nfo x {})
    (hpass : ∀ ln ∈ x.exec w.hd, s.access x.ctx (x.pair ln w.a) n n true wr false = .ok [tr ln])
    (hwatch : s.watched x false true true (fun ln => rangeBytes (x.pair ln w.a) n) (x.exec w.hd) = [])
    (hfull : 256 ≤ x.l.window.length) (hdet : ∀ ln ∈ x.exec w.hd, (tr ln).det = true)
    (hkey : ∀ ln ∈ x.exec w.hd, s.frontierOf x.l ≠ some (ln.t.phc, x.w.wgid, ln.tid, ln.t.detc)) :
    exec i s = .next (x.passBut s w.hd.hold (x.executing w.hd)) := by
  have hgo : s.windowFit x (256 - x.l.window.length) ((x.exec w.hd).map (fun ln => (ln, [tr ln]))) = [] := by
    rw [Nat.sub_eq_zero_of_le hfull]
    exact State.windowFit_none (List.forall_mem_map.2 hdet) (List.forall_mem_map.2 hkey)
  exact hexec.trans ((State.callWord_next hi hpass hwatch).trans (congrArg _ (Path.sendFit_none hi.path hgo)))

end

end Sys2Proof.Machine

section

open Sys2Proof Sys2Proof.Machine

/-- Settles O25: both words are one call, which sends every request where the window has room, and leaves its executing lanes at the word where
it has none. -/
theorem routineCalls : Obligations.RoutineCalls := by
  unfold Obligations.RoutineCalls
  intro s w nfo x tr ex sends
  have hcall : ∀ {i : Instr} {n : Nat} {wr ld : Bool} {kind : ReqKind} {r regs : Nat} {opnds : Machine.Path → Lane → List DWord},
      exec i s = s.callWord i w n wr ⟨w.d, regs, ld⟩ kind r opnds → sends i n wr ld kind r regs (opnds x) := by
    intro i n wr ld kind r regs opnds hexec hpass hwatch hi
    refine ⟨fun hroom => State.callWord_does hexec hi hpass hwatch hroom, fun hfull hdet hkey => ?_⟩
    obtain ⟨hkeeps, hwg⟩ := Path.passBut_spec hi.path w.hd.hold (x.executing w.hd)
    refine ⟨_, _, State.callWord_waits hexec hi hpass hwatch hfull hdet hkey, hkeeps, hwg, rfl,
      fun tid hnone => Path.passBut_other w.hd hnone, fun tid ln hln => ⟨_, Path.passBut_thread hi.path w.hd hln, ?_⟩⟩
    split
    · rfl
    · exact Thread.past_moved ..
  exact ⟨hcall (exec_atom_call s w), hcall (exec_lrcall_call s w)⟩

end

/-! SUPPORT and PROOF of the encodings (O1, O2, O56): operand and type codes, the layouts of a word, and the majors of the rows. -/

namespace Sys2Proof

open Machine

/-! ## Codes (R89, R95) -/

theorem codeOf_opndOf (c : BitVec 8) : codeOf (opndOf c) = c := by
  revert c; decide +kernel

theorem opndOf_codeOf {o : Opnd} (h : opndOk o = true) : opndOf (codeOf o) = o := by
  cases o with
  | v r => revert r; decide +kernel
  | s r => revert r; decide +kernel
  | imm x => revert x; decide
  | latch i => revert i; decide
  | const k => revert k; decide
  | rsv k => revert k; decide
  | none => rfl

theorem codeOfTy_tyOfCode (c : BitVec 5) : codeOfTy (tyOfCode c) = c := by
  revert c; decide

theorem tyOfCode_codeOfTy {t : Ty} (h : tyOk t = true) : tyOfCode (codeOfTy t) = t := by
  cases t with
  | rsv c => revert c; decide
  | _ => rfl

/-! ## A word cut into fields -/

theorem bitV_flag (w : DWord) (n : Nat) : bitV (flag w n) = fld w n 1 := by
  ext i hi
  obtain rfl : i = 0 := by omega
  simp [bitV, flag, fld]

theorem getLsbD_bitV (b : Bool) : (bitV b).getLsbD 0 = b := by
  cases b <;> rfl

/-- A field within a field. -/
theorem extractLsb'_fld {w : DWord} {lo len k n : Nat} (h : k + n ≤ len) : (fld w lo len).extractLsb' k n = fld w (lo + k) n := by
  ext i hi
  have hlen : k + i < len := by omega
  simp [fld, hlen, Nat.add_assoc]

theorem getLsbD_fld {w : DWord} {lo len k : Nat} (h : k < len) : (fld w lo len).getLsbD k = flag w (lo + k) := by
  simp [fld, flag, h]

/-- Neighbouring fields are one field. -/
theorem fld_append_fld {w : DWord} {hi lo m n : Nat} (h : hi = lo + n) : fld w hi m ++ fld w lo n = fld w lo (m + n) :=
  BitVec.extractLsb'_append_extractLsb'_eq_extractLsb' h

section

variable {w : DWord} {b : BitVec 8}

/-- The bits above the negate bit, by what they are. -/
theorem fld_top (h : flag w 63 = false) (hb : (fld w 54 8).toNat = b.toNat) : 0#1 = fld w 63 1 ∧ b = fld w 54 8 :=
  ⟨(congrArg bitV h).symm.trans (bitV_flag w 63), (BitVec.eq_of_toNat_eq hb).symm⟩

theorem fbits_fword (h : flag w 63 = false) (hb : (fld w 54 8).toNat = b.toNat) : fbits b (fword w) = w := by
  obtain ⟨hzero, rfl⟩ := fld_top h hb
  simp only [fbits, fword, headOf, codeOf_opndOf, codeOfTy_tyOfCode, bitV_flag, hzero, fld_append_fld]
  exact BitVec.extractLsb'_eq_self

theorem ibits_iword (h : flag w 63 = false) (hb : (fld w 54 8).toNat = b.toNat) : ibits b (iword w) = w := by
  obtain ⟨hzero, rfl⟩ := fld_top h hb
  simp only [ibits, iword, headOf, codeOf_opndOf, bitV_flag, hzero, fld_append_fld]
  exact BitVec.extractLsb'_eq_self

theorem mbits_mword (h : flag w 63 = false) (hb : (fld w 54 8).toNat = b.toNat) : mbits b (mword w) = w := by
  obtain ⟨hzero, rfl⟩ := fld_top h hb
  simp only [mbits, mword, headOf, codeOf_opndOf, bitV_flag, hzero, fld_append_fld]
  exact BitVec.extractLsb'_eq_self

theorem rbits_regroupWord (h : flag w 63 = false) (hb : (fld w 54 8).toNat = b.toNat) : rbits b (regroupWord w) = w := by
  obtain ⟨hzero, rfl⟩ := fld_top h hb
  simp only [rbits, regroupWord, headOf, codeOf_opndOf, bitV_flag, hzero, fld_append_fld]
  exact BitVec.extractLsb'_eq_self

theorem sbits_spanWord (h : flag w 63 = false) (hb : (fld w 54 8).toNat = b.toNat) : sbits b (spanWord w) = w := by
  obtain ⟨hzero, rfl⟩ := fld_top h hb
  simp only [sbits, spanWord, headOf, codeOf_opndOf, codeOfTy_tyOfCode, bitV_flag, hzero, fld_append_fld]
  exact BitVec.extractLsb'_eq_self

theorem hbits_halfAt (w : DWord) (lo : Nat) : hbits (halfAt w lo) = fld w lo 31 := by
  simp (disch := omega) only [hbits, halfAt, codeOf_opndOf, bitV_flag, fld_append_fld]

theorem pbits_pword (h : flag w 63 = true) : pbits (pword w) = w := by
  have hone : 1#1 = fld w 63 1 := (congrArg bitV h).symm.trans (bitV_flag w 63)
  simp only [pbits, pword, hbits_halfAt, bitV_flag, hone, fld_append_fld]
  exact BitVec.extractLsb'_eq_self

end

/-! ## Fields put together in a word -/

theorem getLsbD_append_high {m n i : Nat} {x : BitVec m} {y : BitVec n} (h : n ≤ i) : (x ++ y).getLsbD i = x.getLsbD (i - n) := by
  rw [BitVec.getLsbD_append, if_neg (Nat.not_lt.2 h)]

theorem getLsbD_append_bitV {m : Nat} {x : BitVec m} {b : Bool} : (x ++ bitV b).getLsbD 0 = b := by
  rw [BitVec.getLsbD_append, if_pos Nat.zero_lt_one, getLsbD_bitV]

section

variable {b : BitVec 8}

theorem fword_fbits {w : FWord} (h : w.ok = true) : fword (fbits b w) = w := by
  simp only [FWord.ok, Bool.and_eq_true] at h
  obtain ⟨⟨⟨⟨hd, ha⟩, hb⟩, hc⟩, hty⟩ := h
  simp (disch := decide) only [fword, headOf, flag, fld, fbits, BitVec.extractLsb'_append_eq_of_le, BitVec.extractLsb'_append_eq_right,
    getLsbD_append_high, getLsbD_append_bitV, Nat.reduceSub, opndOf_codeOf hd, opndOf_codeOf ha, opndOf_codeOf hb, opndOf_codeOf hc,
    tyOfCode_codeOfTy hty]

theorem iword_ibits {w : IWord} (h : w.ok = true) : iword (ibits b w) = w := by
  simp only [IWord.ok, Bool.and_eq_true] at h
  obtain ⟨hd, ha⟩ := h
  simp (disch := decide) only [iword, headOf, flag, fld, ibits, BitVec.extractLsb'_append_eq_of_le, BitVec.extractLsb'_append_eq_right,
    getLsbD_append_high, getLsbD_append_bitV, Nat.reduceSub, opndOf_codeOf hd, opndOf_codeOf ha]

theorem mword_mbits {w : MWord} (h : w.ok = true) : mword (mbits b w) = w := by
  simp only [MWord.ok, Bool.and_eq_true] at h
  obtain ⟨hd, ha⟩ := h
  simp (disch := decide) only [mword, headOf, flag, fld, mbits, BitVec.extractLsb'_append_eq_of_le, BitVec.extractLsb'_append_eq_right,
    getLsbD_append_high, getLsbD_append_bitV, Nat.reduceSub, opndOf_codeOf hd, opndOf_codeOf ha]

theorem regroupWord_rbits {w : RegroupWord} (h : opndOk w.d = true) : regroupWord (rbits b w) = w := by
  simp (disch := decide) only [regroupWord, headOf, flag, fld, rbits, BitVec.extractLsb'_append_eq_of_le,
    BitVec.extractLsb'_append_eq_right, getLsbD_append_high, getLsbD_append_bitV, Nat.reduceSub, opndOf_codeOf h]

theorem spanWord_sbits {w : SpanWord} (h : w.ok = true) : spanWord (sbits b w) = w := by
  simp only [SpanWord.ok, Bool.and_eq_true] at h
  obtain ⟨⟨hd, ha⟩, hty⟩ := h
  simp (disch := decide) only [spanWord, headOf, flag, fld, sbits, BitVec.extractLsb'_append_eq_of_le,
    BitVec.extractLsb'_append_eq_right, getLsbD_append_high, getLsbD_append_bitV, Nat.reduceSub, opndOf_codeOf hd, opndOf_codeOf ha,
    tyOfCode_codeOfTy hty]

theorem halfAt_of_fld {w : DWord} {lo : Nat} {h : Half} (hok : h.ok = true) (hw : fld w lo 31 = hbits h) : halfAt w lo = h := by
  have hfld : ∀ k n, k + n ≤ 31 → fld w (lo + k) n = (hbits h).extractLsb' k n := fun k n hk => by rw [← hw, extractLsb'_fld hk]
  have hflag : ∀ k, k < 31 → flag w (lo + k) = (hbits h).getLsbD k := fun k hk => by rw [← hw, getLsbD_fld hk]
  simp only [Half.ok, Bool.and_eq_true] at hok
  obtain ⟨ha, hb⟩ := hok
  have hlow : fld w lo 8 = _ := hfld 0 8 (by decide)
  simp (disch := decide) only [halfAt, hfld, hflag, hlow, hbits, BitVec.extractLsb'_append_eq_of_le, BitVec.extractLsb'_append_eq_right,
    getLsbD_append_high, getLsbD_append_bitV, getLsbD_bitV, Nat.reduceSub, opndOf_codeOf ha, opndOf_codeOf hb]

theorem pword_pbits {w : PWord} (h : w.ok = true) : pword (pbits w) = w := by
  simp only [PWord.ok, Bool.and_eq_true] at h
  obtain ⟨h0, h1⟩ := h
  have hfirst : fld (pbits w) 31 31 = hbits w.h0 := by
    simp (disch := decide) only [fld, pbits, BitVec.extractLsb'_append_eq_of_le, BitVec.extractLsb'_append_eq_right, Nat.reduceSub]
  have hhold : flag (pbits w) 62 = w.hold := by
    simp (disch := decide) only [flag, pbits, getLsbD_append_high, getLsbD_append_bitV, Nat.reduceSub]
  have hsecond : fld (pbits w) 0 31 = hbits w.h1 := BitVec.extractLsb'_append_eq_right
  rw [pword, hhold, halfAt_of_fld h0 hfirst, halfAt_of_fld h1 hsecond]

/-! ## The rows of the majors (R100) -/

/-- A word whose top bit is clear is told by its major. -/
theorem parse_of_top {u : DWord} {hold : Bool} (h : fld u 54 10 = 0#1 ++ bitV hold ++ b) : parse u = parseMajor u b.toNat := by
  have htop : (fld u 54 10).getLsbD 9 = false := by
    rw [h]
    simp (disch := decide) only [getLsbD_append_high, Nat.reduceSub, BitVec.getLsbD_zero]
  have hmajor : (fld u 54 10).extractLsb' 0 8 = b := by rw [h, BitVec.extractLsb'_append_eq_right]
  rw [getLsbD_fld (by decide)] at htop
  rw [extractLsb'_fld (by decide)] at hmajor
  rw [parse, htop, if_neg (by decide), hmajor]

theorem parse_fbits (w : FWord) : parse (fbits b w) = parseMajor (fbits b w) b.toNat :=
  parse_of_top (hold := w.hd.hold) (by
    simp (disch := decide) only [fld, fbits, BitVec.extractLsb'_append_eq_of_le, BitVec.extractLsb'_eq_self, Nat.reduceSub])

theorem parse_ibits (w : IWord) : parse (ibits b w) = parseMajor (ibits b w) b.toNat :=
  parse_of_top (hold := w.hd.hold) (by
    simp (disch := decide) only [fld, ibits, BitVec.extractLsb'_append_eq_of_le, BitVec.extractLsb'_eq_self, Nat.reduceSub])

theorem parse_mbits (w : MWord) : parse (mbits b w) = parseMajor (mbits b w) b.toNat :=
  parse_of_top (hold := w.hd.hold) (by
    simp (disch := decide) only [fld, mbits, BitVec.extractLsb'_append_eq_of_le, BitVec.extractLsb'_eq_self, Nat.reduceSub])

theorem parse_rbits (w : RegroupWord) : parse (rbits b w) = parseMajor (rbits b w) b.toNat :=
  parse_of_top (hold := w.hd.hold) (by
    simp (disch := decide) only [fld, rbits, BitVec.extractLsb'_append_eq_of_le, BitVec.extractLsb'_eq_self, Nat.reduceSub])

theorem parse_sbits (w : SpanWord) : parse (sbits b w) = parseMajor (sbits b w) b.toNat :=
  parse_of_top (hold := w.hd.hold) (by
    simp (disch := decide) only [fld, sbits, BitVec.extractLsb'_append_eq_of_le, BitVec.extractLsb'_eq_self, Nat.reduceSub])

/-- A full word of a major: its row is told by its fields. -/
theorem parse_row {w : FWord} {row : FWord → Instr} (hrow : ∀ u, parseMajor u b.toNat = some (row (fword u))) (h : w.ok = true) :
    parse (fbits b w) = some (row w) := by
  rw [parse_fbits, hrow, fword_fbits h]

/-- A memory-form word of a major, in the same way. -/
theorem parse_memRow {w : MWord} {row : MWord → Instr} (hrow : ∀ u, parseMajor u b.toNat = some (row (mword u))) (h : w.ok = true) :
    parse (mbits b w) = some (row w) := by
  rw [parse_mbits, hrow, mword_mbits h]

/-- An immediate-form word of a major, in the same way. -/
theorem parse_immRow {w : IWord} {row : IWord → Instr} (hrow : ∀ u, parseMajor u b.toNat = some (row (iword u))) (h : w.ok = true) :
    parse (ibits b w) = some (row w) := by
  rw [parse_ibits, hrow, iword_ibits h]

end

/-! ## Rows that share a major (R100, R184, R217, R399, R417) -/

section

variable {w : FWord} {m : MWord}

theorem parse_mov (h : w.ok = true) : parse (fbits 0x18 w) = some (if w.a = .none then .movSpecial w else .mov w) :=
  parse_row (row := fun w => if w.a = .none then .movSpecial w else .mov w) (fun _ => rfl) h

theorem parse_pmov (h : w.ok = true) :
    parse (fbits 0x1A w) = some (if pmovForm w = 1 then .pmovFromReg w else if pmovForm w = 2 then .pmovPred w else .pmovToReg w) :=
  parse_row (row := fun w => if pmovForm w = 1 then .pmovFromReg w else if pmovForm w = 2 then .pmovPred w else .pmovToReg w)
    (fun _ => rfl) h

theorem parse_stamp (h : w.ok = true) :
    parse (fbits 0x6D w) = some (if stampForm w = 1 then .stampMma w else if stampForm w = 2 then .stampOut w else .stampIn w) :=
  parse_row (row := fun w => if stampForm w = 1 then .stampMma w else if stampForm w = 2 then .stampOut w else .stampIn w)
    (fun _ => rfl) h

theorem parse_atom (h : w.ok = true) : parse (fbits 0x73 w) = some (if bitOf w.mods.toNat 5 then .atomScr w else .atom w) :=
  parse_row (row := fun w => if bitOf w.mods.toNat 5 then .atomScr w else .atom w) (fun _ => rfl) h

theorem parse_phase (h : w.ok = true) :
    parse (fbits 0x79 w) = some (if phaseForm w = 1 then .phasePub w else if phaseForm w = 2 then .phaseRef w else .phase w) :=
  parse_row (row := fun w => if phaseForm w = 1 then .phasePub w else if phaseForm w = 2 then .phaseRef w else .phase w)
    (fun _ => rfl) h

theorem parse_cbrel (h : w.ok = true) : parse (fbits 0x91 w) = some (if bitOf w.mods.toNat 0 then .cbrelCfg w else .cbrel w) :=
  parse_row (row := fun w => if bitOf w.mods.toNat 0 then .cbrelCfg w else .cbrel w) (fun _ => rfl) h

theorem parse_load (h : m.ok = true) : parse (mbits 0x70 m)
    = some (if ldForm m = 3 then .ldb m else if ldForm m = 1 then .lds m else if ldForm m = 2 then .lda m else .ld m) :=
  parse_memRow (row := fun m => if ldForm m = 3 then .ldb m else if ldForm m = 1 then .lds m else if ldForm m = 2 then .lda m else .ld m)
    (fun _ => rfl) h

theorem parse_store (h : m.ok = true) :
    parse (mbits 0x71 m) = some (if stForm m = 2 then .stb m else if stForm m = 1 then .sts m else .st m) :=
  parse_memRow (row := fun m => if stForm m = 2 then .stb m else if stForm m = 1 then .sts m else .st m) (fun _ => rfl) h

end

/-! ## Every row -/

/-- What a row's own word is encoded as is read as that word: by its layout and major, and where rows share a major by the row's form. -/
theorem parse_encode {i : Instr} (hword : isWord i = true) (h : formOk i = true) : ∃ w, encode i = some w ∧ parse w = some i := by
  cases i with
  | pairedWord w =>
    have htop : flag (pbits w) 63 = true := by
      simp (disch := decide) only [flag, pbits, getLsbD_append_high, Nat.reduceSub]
      rfl
    exact ⟨_, rfl, by rw [parse, htop, if_pos rfl, pword_pbits h]⟩
  | nop w | iadd w | isub w | iaddc w | isubb w | imul w | imulhi w | imad w | imin w | imax w | iabs w | ineg w | icmp w | ipopc w
  | iclz w | ibrev w | ibfe w | ibfi w | lea w | lop w | shl w | shr w | sar w | sel w | plop w | fadd w | fsub w | fmul w | ffma w
  | fmin w | fmax w | fabs w | fneg w | fcmp w | fclass w | frnd w | fcvt w | frcp w | frsq w | fsqrt w | fexp2 w | flog2 w | ftanh w
  | npack w | nunpk w | nscale w | gshfl w | gbfly w | gred w | gscan w | gvote w | gmatch w | grank w | join w | leave w | kwait w
  | kmov w | kand w | kor w | krd w | kset w | brx w | ret w | switch w | yield w | exit w | trap w | trapret w | bkpt w | sysrd w
  | syswr w | time w | lrcall w | lrdef w | lrdrop w | waitv w | wake w | fence w | bar w | bararv w | barwait w | bartx w | barinit w
  | xbarv w | xbwait w | xbset w | cpin w | cpout w | cpgath w | cpscat w | cpfill w | qfence w | qwait w | cbacq w | cvput w
  | cvseal w | launch w | mldb w | mswap w | mma w | mmaw w | mcommit w | mzero w | mlda w | msta w =>
    exact ⟨_, rfl, parse_row (fun _ => rfl) h⟩
  | iaddImm w | isubImm w | imulImm w | imulhiImm w | iminImm w | imaxImm w | leaImm w | shlImm w | shrImm w | sarImm w | movi w
  | faddImm w | fmulImm w | fminImm w | fmaxImm w | bra w | call w =>
    exact ⟨_, rfl, parse_immRow (fun _ => rfl) h⟩
  | mov w =>
    obtain ⟨hok, hform⟩ := Bool.and_eq_true_iff.1 h
    exact ⟨_, rfl, by rw [parse_mov hok, if_neg (bne_iff_ne.1 hform)]⟩
  | movSpecial w =>
    obtain ⟨hok, hform⟩ := Bool.and_eq_true_iff.1 h
    exact ⟨_, rfl, by rw [parse_mov hok, if_pos (beq_iff_eq.1 hform)]⟩
  | pmovToReg w | pmovFromReg w | pmovPred w =>
    obtain ⟨hok, hform⟩ := Bool.and_eq_true_iff.1 h
    exact ⟨_, rfl, by rw [parse_pmov hok, eq_of_beq hform]; rfl⟩
  | stampIn w | stampMma w | stampOut w =>
    obtain ⟨hok, hform⟩ := Bool.and_eq_true_iff.1 h
    exact ⟨_, rfl, by rw [parse_stamp hok, eq_of_beq hform]; rfl⟩
  | phasePub w | phaseRef w | phase w =>
    obtain ⟨hok, hform⟩ := Bool.and_eq_true_iff.1 h
    exact ⟨_, rfl, by rw [parse_phase hok, eq_of_beq hform]; rfl⟩
  | atom w =>
    obtain ⟨hok, hform⟩ := Bool.and_eq_true_iff.1 h
    exact ⟨_, rfl, by rw [parse_atom hok, if_neg (by simpa using hform)]⟩
  | atomScr w =>
    obtain ⟨hok, hform⟩ := Bool.and_eq_true_iff.1 h
    exact ⟨_, rfl, by rw [parse_atom hok, if_pos hform]⟩
  | cbrel w =>
    obtain ⟨hok, hform⟩ := Bool.and_eq_true_iff.1 h
    exact ⟨_, rfl, by rw [parse_cbrel hok, if_neg (by simpa using hform)]⟩
  | cbrelCfg w =>
    obtain ⟨hok, hform⟩ := Bool.and_eq_true_iff.1 h
    exact ⟨_, rfl, by rw [parse_cbrel hok, if_pos hform]⟩
  | ld w | lds w | lda w | ldb w =>
    obtain ⟨hok, hform⟩ := Bool.and_eq_true_iff.1 h
    exact ⟨_, rfl, by rw [parse_load hok, eq_of_beq hform]; rfl⟩
  | st w | sts w | stb w =>
    obtain ⟨hok, hform⟩ := Bool.and_eq_true_iff.1 h
    exact ⟨_, rfl, by rw [parse_store hok, eq_of_beq hform]; rfl⟩
  | pref w => exact ⟨_, rfl, parse_memRow (fun _ => rfl) h⟩
  | regroup w => exact ⟨_, rfl, by rw [parse_rbits]; exact congrArg (fun v => some (Instr.regroup v)) (regroupWord_rbits h)⟩
  | mspan w => exact ⟨_, rfl, by rw [parse_sbits]; exact congrArg (fun v => some (Instr.mspan v)) (spanWord_sbits h)⟩
  | cpoutDomainReduction w | cpgathDigest w | cpfillScratchpad w => cases h
  | _ => cases hword

/-- What a major's word is read as is encoded as that word: each row, and each row of a shared major, has the layout whose fields it was read by. -/
theorem encode_parseMajor {w : DWord} {m : Nat} {i : Instr} (htop : flag w 63 = false) (hmajor : (fld w 54 8).toNat = m)
    (h : parseMajor w m = some i) : encode i = some w := by
  unfold parseMajor at h
  split at h
  all_goals cases h
  all_goals repeat' split
  all_goals
    simp [encode, fbits_fword htop, ibits_iword htop, mbits_mword htop, rbits_regroupWord htop, sbits_spanWord htop, hmajor]

/-- A word is decoded where it is read as an instruction that its own bits do not make illegal. -/
theorem decode_eq_ok_iff {w : DWord} {i : Instr} : decode w = .ok i ↔ parse w = some i ∧ causesOf i = [] := by
  unfold decode
  constructor
  · intro h
    split at h
    · cases h
    · next j hparse =>
      split at h
      · next hlegal =>
        cases h
        exact ⟨hparse, minOf_eq_none hlegal⟩
      · cases h
  · rintro ⟨hparse, hlegal⟩
    simp only [hparse, hlegal, minOf]

end Sys2Proof

section

open Sys2Proof Sys2Proof.Machine

/-- Settles O1: an encoding is read as the word that it encodes, and a well-formed word has no cause. -/
theorem decodeEncode : Obligations.DecodeEncode := by
  unfold Obligations.DecodeEncode
  intro i hword hwf
  rw [wf, Bool.and_eq_true, List.isEmpty_iff] at hwf
  obtain ⟨w, hencode, hparse⟩ := parse_encode hword hwf.1
  exact ⟨w, hencode, decode_eq_ok_iff.2 ⟨hparse, hwf.2⟩⟩

/-- Settles O2: the fields of a word, put together again, are the word. -/
theorem encodeDecode : Obligations.EncodeDecode := by
  unfold Obligations.EncodeDecode
  intro w i h
  obtain ⟨hparse, -⟩ := decode_eq_ok_iff.1 h
  unfold parse at hparse
  split at hparse
  · next htop =>
    cases hparse
    exact congrArg some (pbits_pword htop)
  · next htop => exact encode_parseMajor (Bool.eq_false_iff.2 htop) rfl hparse

/-- Settles O56: the decoder runs on each of the words. -/
theorem decodesSpecWords : Obligations.DecodesSpecWords := by
  unfold Obligations.DecodesSpecWords
  decide +kernel

end

/-! SUPPORT and PROOF of the paired word (O11): what one half leaves in a thread, and the latches that the other then finds. -/

namespace Sys2Proof.Machine

/-- The value and the flags of a half in a thread (R94, R101). -/
def halfValue (x : Path) (t : Thread) (h : Half) : Nat × Nat :=
  let ty := minorTy h.minor.toNat
  minorOp h.minor.toNat (readOpnd x.old.s t ty h.a) (readOpnd x.old.s t ty h.b)

/-- A NOP half leaves nothing; another leaves its value in its register or the latches, and its flags (R93, R97). -/
theorem halfRes_eq (x : Path) (t : Thread) (h : Half) :
    halfRes x t h = ⟨if h.minor = 0 ∨ h.wbx = true then [] else [(h.d.toNat, [BitVec.ofNat 32 (halfValue x t h).1])], [],
      if h.minor = 0 then [] else [BitVec.ofNat 64 (halfValue x t h).1], [], if h.minor = 0 then 0 else (halfValue x t h).2⟩ := by
  unfold halfRes
  by_cases hnop : h.minor = 0
  · simp only [hnop, if_true, true_or]
  · simp only [hnop, if_false, false_or]
    rfl

/-- The latches after a half: a NOP half shifts nothing in (R97, R98). -/
theorem shiftIn_halfRes (x : Path) (t : Thread) (h : Half) :
    (halfRes x t h).shifts.foldl (fun t y => t.shiftIn (some y)) t
      = if h.minor = 0 then t else t.shiftIn (some (BitVec.ofNat 64 (halfValue x t h).1)) := by
  rw [halfRes_eq]
  by_cases hnop : h.minor = 0
  · simp only [hnop, if_true, List.foldl_nil]
  · simp only [hnop, if_false, List.foldl_cons, List.foldl_nil]

end Sys2Proof.Machine

section

open Sys2Proof Sys2Proof.Machine

/-- Settles O11: the word's result is that of half 0 in the thread as it stood, and of half 1 in the thread whose latches half 0 has shifted. -/
theorem pairedWords : Obligations.PairedWords := by
  unfold Obligations.PairedWords
  intro s w nfo x half reg lat flg f hi
  unfold Yields
  rw [exec_pairedWord, execPairedWord]
  refine State.alu_yields (d := .none) (decl := fun _ => []) (f' := f) hi fun ln => ?_
  dsimp only
  rw [shiftIn_halfRes]
  simp only [halfRes_eq]
  rfl

end

/-! SUPPORT and PROOF of the return from conformance mode (O31): the end of a word said of its path's lanes alone. -/

namespace Sys2Proof.Machine

/-- Where the lanes of a path go need only be said of its lanes. -/
theorem Acts.congr_pc {t : State} {x : Path} {hold : Bool} {pc pc' : Lane → Nat} {g : Lane → Thread} {w' : WG} (h : Acts t x hold pc g w')
    (hpc : ∀ ln ∈ x.lanes, pc ln = pc' ln) : Acts t x hold pc' g w' := by
  obtain ⟨v, hv, hrest, hother, hlanes⟩ := h
  refine ⟨v, hv, hrest, hother, fun tid ln hln => ?_⟩
  rw [← hpc ln (List.mem_of_find?_eq_some hln)]
  exact hlanes tid ln hln

/-- How a word completes whose body is the end of a word: what it does in its lanes is said of the lanes of its path. -/
theorem Does.of_lanes {s : State} {i : Instr} {nfo : Info} {x : Path} {ck : Path → Checks} {body : Path → State → State} {hold : Bool}
    {pc pc' : Lane → Nat} {f : Lane → Thread → Thread} {h : WG → WG} {g : Lane → Thread} {w' : WG}
    (hi : Issues s i nfo x (ck x)) (hexec : exec i s = s.word i ck body) (hbody : body x s = x.finish s hold pc f h)
    (hwid : ∀ w, (h w).wid = w.wid)
    (hthreads : ∀ (w : WG) (ts : List Thread),
      ({ (h { w with threads := ts }) with threads := w.threads } : WG) = h w ∧ (h { w with threads := ts }).threads = ts)
    (hpc : ∀ ln ∈ x.lanes, pc ln = pc' ln) (hg : ∀ ln ∈ x.lanes, f ln ln.t = g ln) (hw' : h x.w = w') :
    Does s i x hold pc' g s w' := by
  obtain ⟨hkeeps, hacts⟩ := Path.finish_acts hi.path (State.path_parts hi.path).2.1 hold pc f h hwid hthreads
  rw [hw'] at hacts
  exact ⟨_, hexec.trans ((State.word_next hi body).trans (congrArg _ hbody)), hkeeps,
    (hacts.congr fun ln hln => hg ln (List.mem_of_find?_eq_some hln)).congr_pc hpc⟩

theorem Path.exec_eq_lanes {x : Path} {hd : Head} (h : ∀ ln ∈ x.lanes, ln.t.executes hd = true) : x.exec hd = x.lanes :=
  List.filter_eq_self.2 h

/-- The flags that conformance routines leave are those of their registers. -/
theorem confResult_fl (c : Conf) : (confResult c).fl = c.flags.toNat := by
  unfold confResult
  cases opndOf (c.word.extractLsb' 41 8) <;> rfl

/-- The check of a word that traps outside conformance mode. -/
def confCheck (x : Path) : Checks := { decl := if x.lanes.all (fun ln => ln.t.conf.isNone) then [14] else [] }

/-! ## A path in conformance mode (R106, R426) -/

section

variable {x : Path} {c : Lane → Conf} (hconf : ∀ ln ∈ x.lanes, ln.t.conf = some (c ln))

include hconf

theorem confCheck_passes (hne : x.lanes ≠ []) : confCheck x = {} := by
  obtain ⟨ln, hln⟩ := List.exists_mem_of_ne_nil _ hne
  have hsome : ¬ x.lanes.all (fun ln => ln.t.conf.isNone) = true := fun hall => by
    have hnone := List.all_eq_true.1 hall ln hln
    rw [hconf ln hln] at hnone
    cases hnone
  rw [confCheck, if_neg hsome]

theorem flagsOf_confResult :
    flagsOf x.lanes (fun ln => ((ln.t.conf).map confResult).getD ⟨[], [], [], [], 0⟩)
      = x.lanes.foldl (fun a ln => a ||| (c ln).flags.toNat) 0 :=
  List.foldl_ext _ _ _ fun a ln hln => by
    dsimp only
    rw [hconf ln hln, Option.map_some, Option.getD_some, confResult_fl]

theorem any_conf (p : Conf → Bool) : x.lanes.any (fun ln => (ln.t.conf).any p) = x.lanes.any (fun ln => p (c ln)) := by
  rw [Bool.eq_iff_iff, List.any_eq_true, List.any_eq_true]
  exact exists_congr fun ln => and_congr_right fun hln => by rw [hconf ln hln, Option.any_some]

end

end Sys2Proof.Machine

section

open Sys2Proof Sys2Proof.Machine

/-- Settles O31: every lane has its conformance registers, so that TRAPRET's check passes, and its end of the word is what those registers say. -/
theorem conformanceReturn : Obligations.ConformanceReturn := by
  unfold Obligations.ConformanceReturn
  intro s w nfo x c ex d r fl hlanes hi
  have hconf : ∀ ln ∈ x.lanes, ln.t.conf = some (c ln) := fun ln hln => (hlanes ln hln).1
  have hex : ex = x.lanes := Path.exec_eq_lanes fun ln hln => (hlanes ln hln).2
  have hflags : flagsOf ex _ = fl := hex ▸ flagsOf_confResult hconf
  obtain ⟨first, rest, hfirst⟩ := List.exists_cons_of_ne_nil (State.path_lanes hi.path)
  refine Does.of_lanes (ck := confCheck) ((confCheck_passes hconf (State.path_lanes hi.path)).symm ▸ hi) (exec_trapret s)
    (congrArg (x.finish s · _ _ _) (any_conf hconf _)) ?wid ?threads ?pc ?thread ?group
  case wid =>
    intro v
    dsimp only
    split <;> simp [WG.orFlags]
  case threads =>
    intro v ts
    dsimp only
    split
    · exact WG.setS_over_threads (v.orFlags _) x.g.gid _ _ ts
    · exact ⟨rfl, rfl⟩
  case pc =>
    intro ln hln
    rw [hconf ln hln, Option.map_some, Option.getD_some]
  case thread =>
    intro ln hln
    dsimp only
    rw [hconf ln hln, hflags]
    rfl
  case group =>
    have hfound : ex.findSome? (fun ln => ln.t.conf) = some (c first) := by
      rw [hex, hfirst, List.findSome?_cons, hconf first (hfirst ▸ List.mem_cons_self)]
    dsimp only
    rw [hflags, hfound, hex, hfirst]
    rfl

end

/-! SUPPORT and PROOF of the special registers (O9): results written beside free choices, and the flags that a read may show. -/

namespace Sys2Proof.Machine

/-- The end of a word and free choices do not meet. -/
theorem Path.finish_spend (x : Path) (s : State) (n : Nat) (hold : Bool) (pc : Lane → Nat) (f : Lane → Thread → Thread) (h : WG → WG) :
    x.finish (s.spend n) hold pc f h = (x.finish s hold pc f h).spend n := by
  unfold Path.finish State.setHeld State.modCore
  split
  · next hc => rw [if_pos (by exact hc)]; rfl
  · next hc => rw [if_neg (by exact hc)]; rfl

/-- What a word that computes leaves may be followed by what `Same` allows. -/
theorem Computes.same {s a b : State} {x : Path} {hd : Head} {n : Nat} {d : Opnd} {f : Lane → LaneRes} (h : Computes s a x hd n d f)
    (hab : Same a b) : Computes s b x hd n d f := by
  obtain ⟨v, hv, hrest⟩ := h.group
  exact ⟨h.device.same hab, v, (hab.wg? _).trans hv, hrest⟩

theorem testBit_ofBits (f : Nat → Bool) (n i : Nat) : (ofBits f n).testBit i = (decide (i < n) && f i) := by
  have hlt : ∀ n, ofBits f n < 2 ^ n := fun n => by
    induction n with
    | zero => exact Nat.one_pos
    | succ n ih => rw [ofBits, Nat.pow_succ]; split <;> omega
  induction n with
  | zero => simp [ofBits]
  | succ n ih =>
    have hsplit : ofBits f (n + 1) = 2 ^ n * (f n).toNat + ofBits f n := by
      rw [ofBits]
      cases f n with
      | false => simp
      | true => simp; omega
    rw [hsplit, Nat.testBit_two_pow_mul_add _ (hlt n), ih]
    by_cases hin : i < n
    · simp [hin, Nat.lt_succ_of_lt hin]
    · rw [if_neg hin]
      by_cases heq : i = n
      · subst heq; cases f i <;> simp
      · have hout : ¬ i < n + 1 := by omega
        have hhigh : i - n ≠ 0 := by omega
        cases f n <;> simp [hout, Nat.testBit_lt_two_pow (Nat.one_lt_two_pow hhigh)]

theorem ofBits_lt (f : Nat → Bool) (n : Nat) : ofBits f n < 2 ^ n :=
  Nat.lt_pow_two_of_testBit _ fun i hi => by rw [testBit_ofBits]; simp [Nat.not_lt.2 hi]

/-- A read of the flag word shows none that is not raised, and all that the thread knows of (R132). -/
theorem State.flagRead_permitted (s : State) (w : WG) (t : Thread) : flagsPermitted w t (s.flagRead w t) := by
  refine ⟨ofBits_lt _ 7, fun b hb => ?_⟩
  have hbit : (s.flagRead w t).testBit b
      = (w.flags.getLsbD b && (t.vc.get 0 (w.flagKey b) != 0 || Config.choose (s.free + b))) := by
    rw [State.flagRead, testBit_ofBits, decide_eq_true hb, Bool.true_and]
  rw [hbit]
  exact ⟨fun h => (Bool.and_eq_true_iff.1 h).1, fun hraised hknown => by simp [hraised, hknown]⟩

/-- The special registers but %flags are as R26 and R85 number them. -/
theorem State.special_eq (s : State) (x : Path) (ln : Lane) {n : Nat} (h : n ≠ 0x13) : s.special x ln n = specialValue s x ln n := by
  unfold State.special specialValue
  split
  case h_20 => exact absurd rfl h
  case h_4 => exact Nat.div_div_eq_div_mul _ _ _
  case h_11 => exact Nat.div_div_eq_div_mul _ _ _
  case h_22 =>
    split
    case h_21 => rfl
    all_goals contradiction
  all_goals rfl

/-- MOV of a special register yields the value that the state has for it. -/
theorem execMovSpecial_yields {s : State} {w : FWord} {nfo : Info} {x : Path} {f : Lane → LaneRes}
    (hf : (fun ln => resultIn w.d 1 (s.special x ln (FSpec w)) 0 []) = f)
    (hi : Issues s (.movSpecial w) nfo x { uniform := sDest w.d f }) : Yields s (.movSpecial w) nfo x w.d f := by
  subst hf
  have hexec := State.word_next (ck := fun x => { uniform := sDest w.d (fun ln => resultIn w.d 1 (s.special x ln (FSpec w)) 0 []) }) hi
    (fun x s' => x.commit (s'.spend (if FSpec w = 0x13 then 7 else 0)) (.movSpecial w) nfo w.d
      (fun ln => resultIn w.d 1 (s.special x ln (FSpec w)) 0 []))
  refine ⟨_, ?_, (Path.commit_computes hi.path (.movSpecial w) nfo w.d _).same (Same.spend _ (if FSpec w = 0x13 then 7 else 0))⟩
  rw [exec_movSpecial, execMovSpecial, hi.word]
  refine hexec.trans (congrArg _ ?_)
  unfold Path.commit
  rw [x.finish_spend]

end Sys2Proof.Machine

section

open Sys2Proof Sys2Proof.Machine

/-- Settles O9: the word commits the value of `special`, which is the register's own (`special_eq`), and for %flags a read that R132 permits
(`flagRead_permitted`). -/
theorem specialRegisterReads : Obligations.SpecialRegisterReads := by
  unfold Obligations.SpecialRegisterReads
  intro s w nfo x
  refine ⟨?value, ?flags⟩
  case value =>
    intro hn f hi
    exact execMovSpecial_yields (funext fun ln => by rw [s.special_eq x ln hn]) hi
  case flags =>
    intro hn f
    exact ⟨fun ln => s.flagRead_permitted x.w ln.t, execMovSpecial_yields (funext fun ln => by rw [hn]; rfl)⟩

end

/-! SUPPORT and PROOF of the copy and matrix events (O45): the command at the head of its queue, and the contributions of the other members. -/

namespace Sys2Proof.Machine

/-! ## The head of a queue (R146, R219, R404) -/

section

variable {s : State} {wid q : Nat} {w : WG} {l : Launch} {c : CopyCmd}
variable (hw : s.wg? wid = some w) (hl : s.launch? w.lid = some l) (hc : w.head? q = some c) (hup : s.coreUp w.core = true)

include hw hl hc hup

theorem exec_copySlotTake_takes (hcmd : c.cmd ≠ 0) (hben : dCben (descNum c.desc) = true) (htaken : c.taken = none)
    (hfree : (w.cb (dCbuf (descNum c.desc))).free ≠ 0) (hbound : l.phase = .bound) :
    exec (.copySlotTake wid q) s = .next (s.modWG wid (fun g =>
      (g.modCmd q c.serial (fun e => { e with
        taken := some (w.cb (dCbuf (descNum c.desc))).widx
        clk := g.sclk.get [] (256 * dCbuf (descNum c.desc) + (w.cb (dCbuf (descNum c.desc))).widx) })).modCb (dCbuf (descNum c.desc))
          (fun b => { b with free := b.free - 1, widx := (b.widx + 1) % b.slots }))) := by
  rw [exec_copySlotTake, execCopySlotTake, hw]
  dsimp only
  rw [hc]
  dsimp only
  rw [if_neg]
  simp [hcmd, hben, htaken, hfree, hup, hl, Launch.runs_of_bound hbound]

omit hl in
theorem exec_fenceEntryHead_leaves (hcmd : c.cmd = 0)
    (hheads : (setBits 8 c.mask).all (fun i => ((w.head? i).map (fun e => e.serial)) == some c.serial) = true) :
    exec (.fenceEntryHead wid q) s
      = .next ((s.modWG wid (fun g => { (setBits 8 c.mask).foldl (fun (g : WG) i => g.dropCmd i c.serial) g with
          ranges := g.ranges.filter (fun o => o.fence != some c.serial) })).owe (.finish wid)) := by
  rw [exec_fenceEntryHead, execFenceEntryHead, hw]
  dsimp only
  rw [hc]
  dsimp only
  rw [if_pos]
  simp only [hcmd, hup, hheads, decide_true, Bool.and_self]

/-- A command that may run at the head of its queue runs, with its list read (R218, R221). -/
theorem State.runHead_acts (hbound : l.phase = .bound) (hcmd : c.cmd ≠ 0) (hstall : s.copyStalled wid q = false)
    (herr : w.qerr.contains q = false) (hslot : c.hasSlot = true) {c' : CopyCmd} {m : State}
    (hc' : { c with idx := some (c.idx.getD (readList w.win c.cmd (descNum c.desc))) } = c')
    (hm : s.modWG wid (fun g => g.modCmd q c.serial (fun _ => c')) = m)
    (hred : c.isReduction = true → m.reduceReady (descNum c.desc) = .ready) (act : State → WG → Nat → CopyCmd → State) :
    s.runHead wid q act = act m w l.ctx c' := by
  subst hc' hm
  unfold State.runHead
  rw [hw]
  dsimp only
  rw [hc, hl]
  dsimp only
  rw [if_neg (by simp [Launch.runs_of_bound hbound, hup, hcmd, hstall]), if_neg (by simp only [herr, Bool.false_eq_true, not_false_eq_true]),
    if_neg (by simp [hslot])]
  by_cases hr : c.isReduction = true
  · rw [if_pos hr, hred hr]
  · rw [if_neg hr]

end

/-! ## Contributions to a domain reduction (R232) -/

/-- A reduction with a contribution, which takes the place of its device's last one. -/
def Reduction.add (c : Contribution) (r : Reduction) : Reduction :=
  { r with contribs := r.contribs.filter (fun o => o.device != c.device) ++ [c] }

/-- The open reductions after the arrival of a contribution. -/
def State.arrivedReductions (s : State) (c : Contribution) : List Reduction :=
  if s.reductions.any (fun r => r.tag == c.tag) then s.reductions.map (fun r => if r.tag = c.tag then r.add c else r)
  else s.reductions ++ [⟨c.tag, [c]⟩]

theorem exec_domainReductionArrival_eq (s : State) (c : Contribution) :
    exec (.domainReductionArrival c) s = .next { s with reductions := s.arrivedReductions c } := by
  rw [exec_domainReductionArrival, execDomainReductionArrival, State.arrivedReductions]
  split <;> rfl

/-- The reduction of a tag after an arrival: that of the contribution's tag has it, another is as it was. -/
theorem State.arrivedReductions_find (s : State) (c : Contribution) (tag : Nat) :
    (s.arrivedReductions c).find? (fun r => r.tag == tag)
      = if tag = c.tag then some (((s.reductions.find? (fun r => r.tag == tag)).map (Reduction.add c)).getD ⟨c.tag, [c]⟩)
        else s.reductions.find? (fun r => r.tag == tag) := by
  unfold State.arrivedReductions
  split
  · next hany =>
    rw [find?_map_key Reduction.tag (Reduction.add c) (fun _ => rfl) c.tag tag]
    cases hf : s.reductions.find? (fun r => r.tag == tag) with
    | none =>
      have hne : tag ≠ c.tag := by
        rintro rfl
        obtain ⟨r, hr, ht⟩ := List.any_eq_true.1 hany
        exact List.find?_eq_none.1 hf r hr ht
      rw [if_neg hne]
      rfl
    | some r =>
      have ht : r.tag = tag := by simpa using List.find?_some hf
      by_cases heq : tag = c.tag <;> simp [ht, heq]
  · next hnone =>
    rw [List.find?_append]
    by_cases heq : tag = c.tag
    · subst heq
      have hf : s.reductions.find? (fun r => r.tag == c.tag) = none :=
        List.find?_eq_none.2 fun r hr ht => hnone (List.any_eq_true.2 ⟨r, hr, ht⟩)
      simp [hf]
    · simp [heq, Ne.symm heq]

theorem State.mem_contributions_arrived (s : State) (c : Contribution) :
    c ∈ ({ s with reductions := s.arrivedReductions c } : State).contributions c.tag := by
  unfold State.contributions
  rw [s.arrivedReductions_find, if_pos rfl]
  cases s.reductions.find? (fun r => r.tag == c.tag) with
  | none => exact List.mem_singleton.2 rfl
  | some r => exact List.mem_append_right _ (List.mem_singleton.2 rfl)

theorem State.contributions_arrived_other (s : State) {c : Contribution} {tag : Nat} (h : tag ≠ c.tag) :
    ({ s with reductions := s.arrivedReductions c } : State).contributions tag = s.contributions tag := by
  unfold State.contributions
  rw [s.arrivedReductions_find, if_neg h]

/-! ## The matrix queue and the zeroing of panels (R148, R149) -/

theorem exec_matrixQueueEntry_runs {s : State} {core : Nat} {e : MEntry} {rest : List MEntry} (hmq : (s.core core).mq = e :: rest)
    (hup : s.coreUp core = true) :
    exec (.matrixQueueEntry core) s
      = .next ((s.modCore core (fun c => { c with mq := rest })).modWG e.wid (fun w =>
          let v := if e.first then w.spanStamps e.gid (fun z => { z with t4 := s.ns % 2 ^ 64 }) else w
          (v.runEntry e.op).1.entryFlags e.gid (v.runEntry e.op).2)) := by
  rw [exec_matrixQueueEntry, execMatrixQueueEntry, hmq]
  dsimp only
  rw [if_neg (by simp [hup])]
  rfl

theorem exec_zeroingComplete_drops {s : State} {core : Nat} (htherm : s.lodge.therm = false) (hz : (s.core core).zeroing ≠ []) :
    exec (.zeroingComplete core) s = .next (s.modCore core (fun c => { c with zeroing := c.zeroing.drop 1 })) := by
  rw [exec_zeroingComplete, execZeroingComplete, if_neg (by simp [htherm, hz])]

end Sys2Proof.Machine

section

open Sys2Proof Sys2Proof.Machine

/-- Settles O45: a command that may run acts as `runHead_acts` says, COPY_SECTOR_WRITE before the last sector and COPY_COMPLETE from it on;
the other steps are their rows' one branch. -/
theorem copyAndMatrixEvents : Obligations.CopyAndMatrixEvents := by
  unfold Obligations.CopyAndMatrixEvents
  refine ⟨?copy, ?contribution, fun s core e rest => exec_matrixQueueEntry_runs, fun s core => exec_zeroingComplete_drops⟩
  case copy =>
    intro s wid q w l c hw hl hc hup d n b
    refine ⟨exec_copySlotTake_takes hw hl hc hup, exec_fenceEntryHead_leaves hw hc hup, ?_⟩
    intro hbound hcmd hstall herr hslot hred c' m es secs
    have hrun := State.runHead_acts hw hl hc hup hbound hcmd hstall herr hslot (c' := c') (m := m) rfl rfl hred
    refine ⟨fun sec hmore hsec => ?sector, fun hend => ?ended, ?last⟩
    case sector =>
      rw [exec_copySectorWrite, execCopySectorWrite, hrun]
      dsimp only
      rw [if_neg (show ¬ secs.length ≤ c.sectors + 1 by omega), show (sectorsOf (c'.elems w))[c'.sectors]? = some sec from hsec]
    case ended =>
      rw [exec_copyComplete, execCopyComplete, hrun]
      dsimp only
      rw [if_neg (show ¬ c.sectors + 1 < secs.length by omega),
        show (sectorsOf (c'.elems w))[c'.sectors]? = none from List.getElem?_eq_none (show secs.length ≤ c.sectors by omega)]
      rfl
    case last =>
      intro sec hlast hsec t
      rw [exec_copyComplete, execCopyComplete, hrun]
      dsimp only
      rw [if_neg (show ¬ c.sectors + 1 < secs.length by omega), show (sectorsOf (c'.elems w))[c'.sectors]? = some sec from hsec]
      rfl
  case contribution =>
    intro s c add after t
    exact ⟨exec_domainReductionArrival_eq s c, s.mem_contributions_arrived c,
      fun tag htag => s.contributions_arrived_other htag⟩

end

/-! SUPPORT and PROOF of the atomics on the scratchpad (O26): what each lane finds in the window, and what all of them leave there. -/

namespace Sys2Proof.Machine

/-- A scratchpad word without a fault in any lane, which meets no watchpoint, acts on all of its lanes. -/
theorem State.scratchWord_acts {s : State} {x : Path} {hd : Head} {cause addr : Lane → Nat} {bytes : Lane → List Nat} {rd wr : Bool}
    (act : Path → State → State) (hcause : ∀ ln ∈ x.exec hd, cause ln = 0) (hwatch : s.watched x true rd wr bytes (x.exec hd) = []) :
    s.scratchWord x hd cause addr bytes rd wr act = act x s := by
  unfold State.scratchWord
  rw [scrTrap_none x s cause addr hcause]
  simp [hwatch, State.stopWatched]

/-! ## One lane after the other (R131, R303) -/

/-- What an atomic of one lane finds in a window, and its result and flags (R301). -/
def scrAtomAt (x : Path) (w : FWord) (win : SMap Byte) (ln : Lane) : Nat × Nat × Nat :=
  let old := natOfBytes (win.getN 0 (x.read32 ln w.a) (widthOf w.ty / 8))
  (old, atomOp (FSpec w % 32) old ((atomOpnds x w ln).getD 0 0).toNat ((atomOpnds x w ln).getD 1 0).toNat)

/-- The window after the atomics of some lanes, one after the other. -/
def scrAtomWin (x : Path) (w : FWord) (win : SMap Byte) (ls : List Lane) : SMap Byte :=
  ls.foldl (fun win ln => SMap.putAll 0 win (x.read32 ln w.a) (bytesOf (widthOf w.ty / 8) (scrAtomAt x w win ln).2.1)) win

/-- The release clocks of the window's bytes after the atomics of some lanes (R182). -/
def scrAtomRel (x : Path) (w : FWord) (rel : SMap Clock) (ls : List Lane) : SMap Clock :=
  ls.foldl (fun m ln => ((List.range (widthOf w.ty / 8)).map (x.read32 ln w.a + ·)).foldl
    (fun m b => SMap.put [] m b (Clock.join (m.get [] b) ln.t.fvc)) m) rel

/-- What a lane finds: the window that the lanes before it have left. -/
def scrAtomFound (x : Path) (w : FWord) (win : SMap Byte) (ls : List Lane) (ln : Lane) : Nat × Nat × Nat :=
  scrAtomAt x w (scrAtomWin x w win (ls.takeWhile (fun q => q.lane != ln.lane))) ln

/-- The lanes' atomics in turn leave the window and its clocks, and to each lane what it found. -/
theorem scrAtomOne_foldl (x : Path) (w : FWord) (ls : List Lane) (hlanes : (ls.map (fun ln => ln.lane)).Nodup) (v : WG)
    (got : List (Lane × Nat × Nat)) :
    ls.foldl (scrAtomOne x w) (v, got) = ({ v with win := scrAtomWin x w v.win ls, wrel := scrAtomRel x w v.wrel ls },
      got ++ ls.map (fun ln => (ln, (scrAtomFound x w v.win ls ln).1, (scrAtomFound x w v.win ls ln).2.2))) := by
  induction ls generalizing v got with
  | nil => simp [scrAtomWin, scrAtomRel]
  | cons l ls ih =>
    obtain ⟨hl, hls⟩ := List.nodup_cons.1 hlanes
    have hfirst : scrAtomFound x w v.win (l :: ls) l = scrAtomAt x w v.win l := by
      simp [scrAtomFound, scrAtomWin]
    have hrest : ls.map (fun ln => (ln, (scrAtomFound x w v.win (l :: ls) ln).1, (scrAtomFound x w v.win (l :: ls) ln).2.2))
        = ls.map (fun ln => (ln, (scrAtomFound x w (scrAtomWin x w v.win [l]) ls ln).1,
            (scrAtomFound x w (scrAtomWin x w v.win [l]) ls ln).2.2)) :=
      List.map_congr_left fun ln hln => by
        have hne : l.lane ≠ ln.lane := fun h => hl (List.mem_map.2 ⟨ln, hln, h.symm⟩)
        have hfound : scrAtomFound x w v.win (l :: ls) ln = scrAtomFound x w (scrAtomWin x w v.win [l]) ls ln := by
          unfold scrAtomFound
          rw [List.takeWhile_cons_of_pos (by simpa using hne)]
          rfl
        rw [hfound]
    rw [List.foldl_cons, show scrAtomOne x w (v, got) l = ({ v with
        win := scrAtomWin x w v.win [l]
        wrel := scrAtomRel x w v.wrel [l] }, got ++ [(l, (scrAtomAt x w v.win l).1, (scrAtomAt x w v.win l).2.2)]) from rfl,
      ih hls, List.map_cons, hfirst, hrest, List.append_assoc]
    rfl

/-- What the word does to the thread of a lane: the old value is its reply. -/
def Path.scrAtomLane (x : Path) (w : FWord) (fl : Nat) (found : Lane → Nat × Nat × Nat) (ln : Lane) (t : Thread) : Thread :=
  match ((x.exec w.hd).map (fun ln => (ln, (found ln).1, (found ln).2.2))).find? (fun e => e.1.tid == ln.tid) with
  | some e =>
    let t := { t with
      seq := t.seq + 2
      acq := Clock.join t.acq (x.w.relOf ((List.range (widthOf w.ty / 8)).map (x.read32 ln w.a + ·))) }
    (t.replied w.d (wordsOf (regsOf w.ty) e.2.1)).knows x.w fl
  | none => t

theorem Path.scrAtomLane_eq {s : State} {x : Path} (hx : s.path = some x) (w : FWord) (fl : Nat) (found : Lane → Nat × Nat × Nat)
    {ln : Lane} (hln : x.laneOf ln.tid = some ln) :
    x.scrAtomLane w fl found ln ln.t = if ln.t.executes w.hd then
      (({ ln.t with
        seq := ln.t.seq + 2
        acq := Clock.join ln.t.acq (x.w.relOf ((List.range (widthOf w.ty / 8)).map (x.read32 ln w.a + ·))) } : Thread).replied w.d
          (wordsOf (regsOf w.ty) (found ln).1)).knows x.w fl
      else ln.t := by
  have hfind := State.path_exec_find hx w.hd ln.tid
  rw [hln] at hfind
  unfold Path.scrAtomLane
  rw [List.find?_map, show ((fun e : Lane × Nat × Nat => e.1.tid == ln.tid) ∘ fun ln => (ln, (found ln).1, (found ln).2.2))
    = fun e => e.tid == ln.tid from rfl, hfind]
  by_cases hex : ln.t.executes w.hd = true
  · simp only [Option.filter, hex, if_true, Option.map_some]
  · simp [Option.filter, hex]

end Sys2Proof.Machine

section

open Sys2Proof Sys2Proof.Machine

/-- Settles O26: no lane faults or is stopped, so that the lanes act in turn (`scrAtomOne_foldl`), and the word ends with a reply to each. -/
theorem scratchpadAtomics : Obligations.ScratchpadAtomics := by
  unfold Obligations.ScratchpadAtomics
  intro s w nfo x n adr bytes ex one after found fl hit wrel hfault hwatch hlanes _ hi
  have hfold := scrAtomOne_foldl x w ex hlanes x.w []
  rw [List.nil_append] at hfold
  have hflags : (ex.map (fun ln => (ln, (found ln).1, (found ln).2.2))).foldl (fun f e => f ||| e.2.2) 0 = fl := List.foldl_map
  obtain ⟨hkeeps, hacts⟩ := Path.finish_acts hi.path (State.path_parts hi.path).2.1 w.hd.hold (fun _ => x.next)
    (x.scrAtomLane w fl found) (fun g => { g.orFlags fl with win := after ex, wrel := wrel }) (fun _ => rfl) (fun _ _ => ⟨rfl, rfl⟩)
  refine ⟨_, (exec_atomScr s).trans ((State.word_next hi _).trans (congrArg _ ?_)), hkeeps,
    hacts.congr fun ln hln => x.scrAtomLane_eq hi.path w fl found hln⟩
  refine (State.scratchWord_acts _ hfault hwatch).trans ?_
  dsimp only
  rw [show (x.exec w.hd).foldl (scrAtomOne x w) (x.w, []) = _ from hfold]
  dsimp only
  rw [show (ex.map (fun ln => (ln, (scrAtomFound x w x.w.win ex ln).1, (scrAtomFound x w x.w.win ex ln).2.2))).foldl
    (fun f e => f ||| e.2.2) 0 = fl from hflags]
  rfl

end

/-! SUPPORT and PROOF of the queue and buffer words (O37): the snapshot refreshed beside the end of a word, the waits that a QWAIT ends, and
the slots of a buffer. -/

namespace Sys2Proof.Machine

/-! ## Sectors refreshed beside the end of a word (R192) -/

/-- What a refresh of some sectors does to a logical core, from M's keys and bytes. -/
def LCore.takeSectors (c : LCore) (mem : Mem) (secs : List Nat) : LCore :=
  { c.settle (fun a => secs.contains (a / 32)) with snap :=
    { c.snap with
      bytes := secs.foldl (fun b x => b.putAll unlisted (32 * x) (SMap.getN unlisted mem.bytes (32 * x) 32)) c.snap.bytes,
      keys := secs.foldl (fun k x => k.put .none (x / 4) (mem.keys.get .none (x / 4))) c.snap.keys } }

theorem State.refreshSectors_eq (s : State) (key : Nat) (secs : List Nat) :
    s.refreshSectors key secs = if secs.isEmpty then s else s.modCore key (fun c => c.takeSectors s.mem secs) := rfl

@[simp] theorem State.refreshSectors_nil (s : State) (key : Nat) : s.refreshSectors key [] = s := rfl

@[simp] theorem State.wg?_refreshSectors (s : State) (key j : Nat) (secs : List Nat) : (s.refreshSectors key secs).wg? j = s.wg? j := by
  rw [s.refreshSectors_eq]
  split
  · rfl
  · exact s.wg?_modCore ..

/-- The end of a word and a refresh of sectors on its core do not meet. -/
theorem Path.finish_refreshSectors (x : Path) (s : State) (secs : List Nat) (hold : Bool) (pc : Lane → Nat) (f : Lane → Thread → Thread)
    (h : WG → WG) :
    (x.finish s hold pc f h).refreshSectors x.w.core secs = x.finish (s.refreshSectors x.w.core secs) hold pc f h := by
  rw [State.refreshSectors_eq, State.refreshSectors_eq]
  by_cases hnone : secs.isEmpty = true
  · rw [if_pos hnone, if_pos hnone]
  · rw [if_neg hnone, if_neg hnone]
    have hmem : (x.finish s hold pc f h).mem = s.mem := by
      unfold Path.finish State.setHeld
      rw [State.modCore_mem, State.modWG_mem]
    rw [hmem]
    unfold Path.finish State.setHeld
    refine (State.modCore_comm _ x.w.core ?_ ?_ ?_).trans (congrArg (State.modCore · x.w.core _) (State.modCore_modWG ..))
    all_goals exact fun _ => rfl

/-! ## QWAIT (R192, R220, R405) -/

/-- The queue wait of a thread that is over: its mask and the serial number that its commands lie below. -/
def WG.qwaitEnd (w : WG) (t : Thread) : Option (Nat × Nat) :=
  match t.run with
  | .wait (.qwait m upto) => if w.pendingBelow m upto then none else some (m, upto)
  | _ => none

/-- A thread goes on whose queue wait is over, and knows the flags of its commands. -/
def WG.qwaitFreed (w : WG) (t : Thread) : Thread :=
  match w.qwaitEnd t with
  | some p => (t.knows w (w.covered p.1 p.2).2).release
  | none => t

/-- The sectors of the commands that some threads have waited for. -/
def WG.qwaitSectors (w : WG) (ts : List Thread) : List Nat :=
  ((ts.filterMap w.qwaitEnd).flatMap (fun p => (w.covered p.1 p.2).1)).eraseDups

theorem State.releaseQwaits_eq {s : State} {wid : Nat} {w : WG} (hw : s.wg? wid = some w) :
    s.releaseQwaits wid = (s.modWG wid (fun g => g.modThreads (fun _ => w.qwaitFreed))).refreshSectors w.core (w.qwaitSectors w.threads) := by
  unfold State.releaseQwaits
  rw [hw]
  rfl

/-- A thread that waits for what is still pending, or for something else, stays as it is. -/
theorem WG.qwaitEnd_none {w : WG} {t : Thread} (h : ∀ k u, t.run = .wait (.qwait k u) → w.pendingBelow k u = true) : w.qwaitEnd t = none := by
  unfold WG.qwaitEnd
  split
  · next k u hrun => rw [h k u hrun, if_pos rfl]
  · rfl

theorem WG.qwaitFreed_of_none {w : WG} {t : Thread} (h : w.qwaitEnd t = none) : w.qwaitFreed t = t := by
  unfold WG.qwaitFreed
  rw [h]

theorem eraseDups_flatMap_const {α β : Type} [BEq β] [LawfulBEq β] (f : α → List β) (a : α) (l : List α) (hall : ∀ b ∈ l, b = a)
    (hne : l ≠ []) : (l.flatMap f).eraseDups = (f a).eraseDups := by
  obtain ⟨b, l, rfl⟩ := List.exists_cons_of_ne_nil hne
  have hrest : (l.flatMap f).removeAll (f a) = [] := List.filter_eq_nil_iff.2 fun x hx => by
    obtain ⟨c, hc, hxc⟩ := List.mem_flatMap.1 hx
    rw [hall c (List.mem_cons_of_mem _ hc)] at hxc
    simpa using hxc
  rw [List.flatMap_cons, hall b List.mem_cons_self, List.eraseDups_append, hrest, List.eraseDups_nil, List.append_nil]

/-- The open ranges of some queues closed (R194). -/
def WG.closeRanges (m : Nat) (w : WG) : WG := { w with ranges := w.ranges.filter (fun o => !m.testBit o.q) }

/-- To end a word with a change of the workgroup that leaves its threads, and then to hold its executing lanes at their waits, is to make
them wait and then to end the word. -/
theorem Path.hold_finish_of_comm {s m : State} {x : Path} (hx : s.path = some x) (hd : Head) (hold : Bool) (pc : Lane → Nat)
    (wait : Lane → Wait) {h : WG → WG} (hwid : ∀ w, (h w).wid = w.wid) (hcomm : ∀ w f, (h w).modThreads f = h (w.modThreads f)) :
    x.hold (x.finish m hold pc (fun _ t => t) h) (x.exec hd) wait = x.finish m hold pc (blockThread hd wait) h := by
  have hsplit : ∀ f, x.finish m hold pc f h = (x.finish m hold pc f id).modWG x.w.wid h := fun f => by
    unfold Path.finish
    rw [State.setHeld_modWG, State.modWG_modWG]
    · rfl
    · exact fun _ => rfl
  rw [hsplit, hsplit, ← Path.hold_finish hx]
  unfold Path.hold
  rw [State.modWG_modWG _ _ hwid, State.modWG_modWG]
  · exact congrArg (State.modWG _ _) (funext fun w => hcomm w _)
  · exact fun _ => rfl

/-- Closed ranges and changed threads change nothing else. -/
theorem WG.closeRanges_rest (v : WG) (m : Nat) (ts : List Thread) (f : Nat → Thread → Thread) :
    ({ (({ v with threads := ts } : WG).closeRanges m).modThreads f with threads := v.threads } : WG) = v.closeRanges m := rfl

section

variable {s : State} {x : Path} {w : FWord} {m upto : Nat}

/-- The threads of a path's workgroup when a QWAIT has blocked its executing lanes. -/
def Path.qwaitThreads (x : Path) (w : FWord) (m upto : Nat) : WG :=
  x.onLanes (fun ln t => (blockThread w.hd (fun _ => .qwait m upto) ln t).past w.hd.hold (blockedAt x w.hd ln)) x.w

/-- The thread of one of its lanes then. -/
def Path.qwaitLane (x : Path) (w : FWord) (m upto : Nat) (ln : Lane) : Thread :=
  (blockThread w.hd (fun _ => .qwait m upto) ln ln.t).past w.hd.hold (blockedAt x w.hd ln)

variable (hx : s.path = some x)
  (hothers : ∀ t ∈ x.w.threads, ∀ k u, t.run = .wait (.qwait k u) → x.w.pendingBelow k u = true)

theorem Path.qwaitThreads_none {tid : Nat} (h : x.laneOf tid = none) : (x.qwaitThreads w m upto).threads[tid]? = x.w.threads[tid]? :=
  Path.onLanes_none x _ _ h

include hx

theorem Path.qwaitThreads_some {tid : Nat} {ln : Lane} (h : x.laneOf tid = some ln) :
    (x.qwaitThreads w m upto).threads[tid]? = some (x.qwaitLane w m upto ln) := by
  refine (Path.onLanes_some x _ _ h).trans ?_
  rw [(State.path_thread hx h).2]
  rfl

/-- What a QWAIT leaves: its ranges closed, its executing lanes blocked, and those waits ended that are over. -/
theorem Path.qwait_state (w : FWord) (m upto : Nat) :
    (x.hold (x.finish s w.hd.hold (blockedAt x w.hd) (fun _ t => t) (WG.closeRanges m)) (x.exec w.hd) (fun _ => .qwait m upto)).releaseQwaits x.w.wid
      = x.finish (s.refreshSectors x.w.core (x.w.qwaitSectors (x.qwaitThreads w m upto).threads)) w.hd.hold (blockedAt x w.hd)
          (blockThread w.hd (fun _ => .qwait m upto)) (fun g => (g.closeRanges m).modThreads (fun _ => x.w.qwaitFreed)) := by
  rw [Path.hold_finish_of_comm hx w.hd w.hd.hold (blockedAt x w.hd) _ (h := WG.closeRanges m) (fun _ => rfl) (fun _ _ => rfl)]
  obtain ⟨-, hv⟩ := Path.finish_spec (State.path_parts hx).2.1 w.hd.hold (blockedAt x w.hd) (blockThread w.hd (fun _ => .qwait m upto))
    (WG.closeRanges m) (fun _ => rfl)
  rw [State.releaseQwaits_eq hv, ← Path.finish_refreshSectors]
  unfold Path.finish
  rw [State.setHeld_modWG, State.modWG_modWG]
  · rfl
  · exact fun _ => rfl

include hothers

/-- The thread of a lane where a QWAIT has blocked it, and its wait if that is over. -/
theorem Path.qwaitEnd_lane {ln : Lane} (hln : ln ∈ x.lanes) :
    x.w.qwaitEnd (x.qwaitLane w m upto ln)
      = if ln.t.executes w.hd = true ∧ x.w.pendingBelow m upto = false then some (m, upto) else none := by
  have hrun : ∀ (t : Thread) (pc : Nat), (t.past w.hd.hold pc).run = t.run := fun t pc => by cases w.hd.hold <;> rfl
  unfold Path.qwaitLane blockThread
  by_cases hex : ln.t.executes w.hd = true
  · rw [if_pos hex, WG.qwaitEnd, hrun]
    cases hp : x.w.pendingBelow m upto <;> simp [hex, hp]
  · rw [if_neg hex, if_neg fun h => hex h.1]
    refine WG.qwaitEnd_none fun k u h => hothers _ (List.mem_of_getElem? (State.path_mem hx hln)) k u ?_
    rw [← hrun, h]

/-- Of the threads of the workgroup those end a wait that a QWAIT has just blocked where nothing is pending. -/
theorem Path.qwaitThreads_ends :
    (∀ p ∈ (x.qwaitThreads w m upto).threads.filterMap x.w.qwaitEnd, p = (m, upto) ∧ x.w.pendingBelow m upto = false)
    ∧ (x.exec w.hd ≠ [] → x.w.pendingBelow m upto = false → (x.qwaitThreads w m upto).threads.filterMap x.w.qwaitEnd ≠ []) := by
  refine ⟨fun p hp => ?_, fun hne hdone => ?_⟩
  · obtain ⟨t, ht, hend⟩ := List.mem_filterMap.1 hp
    obtain ⟨tid, htid⟩ := List.mem_iff_getElem?.1 ht
    cases hln : x.laneOf tid with
    | none =>
      rw [Path.qwaitThreads_none hln] at htid
      rw [WG.qwaitEnd_none (hothers t (List.mem_of_getElem? htid))] at hend
      cases hend
    | some ln =>
      rw [Path.qwaitThreads_some hx hln] at htid
      obtain rfl := Option.some.inj htid
      rw [Path.qwaitEnd_lane hx hothers (List.mem_of_find?_eq_some hln)] at hend
      split at hend
      · next h => exact ⟨(Option.some.inj hend).symm, h.2⟩
      · cases hend
  · obtain ⟨q, hq⟩ := List.exists_mem_of_ne_nil _ hne
    obtain ⟨hqx, hqe⟩ := List.mem_filter.1 hq
    have hfound : (x.laneOf q.tid).isSome := List.find?_isSome.2 ⟨q, hqx, beq_self_eq_true q.tid⟩
    obtain ⟨ln, hln⟩ := Option.isSome_iff_exists.1 hfound
    have hmem : ln ∈ x.lanes := List.mem_of_find?_eq_some hln
    have hex : ln.t.executes w.hd = true := by
      rw [State.path_lane_unique hx hmem hqx (State.path_thread hx hln).1]
      exact hqe
    refine List.ne_nil_of_mem (a := (m, upto)) (List.mem_filterMap.2 ⟨_, List.mem_of_getElem? (Path.qwaitThreads_some hx hln), ?_⟩)
    rw [Path.qwaitEnd_lane hx hothers hmem, if_pos ⟨hex, hdone⟩]

/-- The sectors that a QWAIT refreshes: none while something is pending, else those of the commands that it has waited for. -/
theorem Path.qwaitSectors_eq (hne : x.exec w.hd ≠ []) :
    x.w.qwaitSectors (x.qwaitThreads w m upto).threads
      = if x.w.pendingBelow m upto = true then [] else (x.w.covered m upto).1.eraseDups := by
  obtain ⟨hends, hsome⟩ := Path.qwaitThreads_ends (w := w) (m := m) (upto := upto) hx hothers
  unfold WG.qwaitSectors
  by_cases hp : x.w.pendingBelow m upto = true
  · have hnone : (x.qwaitThreads w m upto).threads.filterMap x.w.qwaitEnd = [] :=
      List.eq_nil_iff_forall_not_mem.2 fun p hmem => by
        have := (hends p hmem).2
        rw [hp] at this
        cases this
    rw [if_pos hp, hnone]
    rfl
  · rw [if_neg hp]
    exact eraseDups_flatMap_const _ (m, upto) _ (fun p hmem => (hends p hmem).1) (hsome hne (by simpa using hp))

/-- How a QWAIT completes, by what it leaves in each lane. -/
theorem Path.qwait_acts {pc : Lane → Nat} {g : Lane → Thread}
    (hlane : ∀ ln ∈ x.lanes, Moved w.hd.hold (pc ln) (g ln)
      (x.w.qwaitFreed (x.qwaitLane w m upto ln))) {secs : List Nat}
    {t : State} (ht : x.finish (s.refreshSectors x.w.core secs) w.hd.hold (blockedAt x w.hd) (blockThread w.hd (fun _ => .qwait m upto))
      (fun v => (v.closeRanges m).modThreads (fun _ => x.w.qwaitFreed)) = t) :
    Keeps (s.refreshSectors x.w.core secs) t x ∧ Acts t x w.hd.hold pc g (x.w.closeRanges m) := by
  subst ht
  obtain ⟨hkeeps, hv⟩ := Path.finish_spec (m := s.refreshSectors x.w.core secs) (by simpa using (State.path_parts hx).2.1) w.hd.hold
    (blockedAt x w.hd) (blockThread w.hd (fun _ => .qwait m upto)) (fun v => (v.closeRanges m).modThreads (fun _ => x.w.qwaitFreed))
    (fun _ => rfl)
  have hthread : ∀ tid, (((x.qwaitThreads w m upto).closeRanges m).modThreads (fun _ => x.w.qwaitFreed)).threads[tid]?
      = ((x.qwaitThreads w m upto).threads[tid]?).map x.w.qwaitFreed := WG.threads_modThreads _ _
  refine ⟨hkeeps, _, hv, WG.closeRanges_rest x.w m _ _, fun tid hnone => (hthread tid).trans ?_, fun tid ln hln => ?_⟩
  · rw [Path.qwaitThreads_none hnone]
    cases htid : x.w.threads[tid]? with
    | none => rfl
    | some t =>
      exact congrArg some (WG.qwaitFreed_of_none (WG.qwaitEnd_none (hothers t (List.mem_of_getElem? htid))))
  · refine ⟨_, (hthread tid).trans ?_, hlane ln (List.mem_of_find?_eq_some hln)⟩
    rw [Path.qwaitThreads_some hx hln]
    rfl

/-- What a QWAIT leaves in a lane while a command of its mask is pending: the lane waits. -/
theorem Path.qwait_blocks (hp : x.w.pendingBelow m upto = true) {ln : Lane} (hln : ln ∈ x.lanes) :
    Moved w.hd.hold (blockedAt x w.hd ln) (blocked w.hd (fun _ => .qwait m upto) ln)
      (x.w.qwaitFreed (x.qwaitLane w m upto ln)) := by
  rw [WG.qwaitFreed_of_none (by rw [Path.qwaitEnd_lane hx hothers hln, hp, if_neg (by simp)])]
  exact Thread.past_moved _ _ _

/-- What a QWAIT leaves in a lane where no command of its mask is pending: the lane goes on and knows their flags. -/
theorem Path.qwait_passes (hp : x.w.pendingBelow m upto = false) {ln : Lane} (hln : ln ∈ x.lanes) :
    Moved w.hd.hold (x.cur.pc + 8)
      (if ln.t.executes w.hd then { ln.t.knows x.w (x.w.covered m upto).2 with run := .ready } else ln.t)
      (x.w.qwaitFreed (x.qwaitLane w m upto ln)) := by
  have hend := Path.qwaitEnd_lane (w := w) (m := m) (upto := upto) hx hothers hln
  by_cases hex : ln.t.executes w.hd = true
  · rw [if_pos ⟨hex, hp⟩] at hend
    rw [WG.qwaitFreed, hend, if_pos hex, Path.qwaitLane, blockThread, if_pos hex, blockedAt, if_pos hex]
    cases w.hd.hold <;> exact ⟨rfl, rfl, rfl, rfl, rfl⟩
  · rw [if_neg fun h => hex h.1] at hend
    rw [WG.qwaitFreed_of_none hend, if_neg hex, Path.qwaitLane, blockThread, if_neg hex, blockedAt, if_neg hex]
    exact Thread.past_moved _ _ _

end

/-! ## The slots of a buffer (R145 to R147) -/

theorem WG.modCb_congr (w : WG) (n : Nat) {f g : CBuf → CBuf} (h : f (w.cb n) = g (w.cb n)) : w.modCb n f = w.modCb n g := by
  unfold WG.modCb
  congr 1
  refine List.ext_getElem? fun i => ?_
  rw [List.getElem?_mapIdx, List.getElem?_mapIdx]
  by_cases hi : i = n
  · subst hi
    cases hc : w.cbs[i]? with
    | none => rfl
    | some c =>
      have hcb : w.cb i = c := by rw [WG.cb, List.getD_eq_getElem?_getD, hc]; rfl
      rw [hcb] at h
      simp [h]
  · simp [hi]

/-- A slot taken by an acquire, and its number in the destination. -/
def WG.takeSlot (n gid : Nat) (d : Opnd) (slot : Nat) (w : WG) : WG :=
  (w.modCb n (fun b => { b with filled := b.filled - 1, held := b.held + 1, ridx := (b.ridx + 1) % b.slots })).setS gid d [BitVec.ofNat 32 slot]

/-- A slot given back, and what the copy that takes it next must follow: what the releasing threads have done (R146, R147). -/
def Path.giveSlot (x : Path) (ls : List Lane) (n k : Nat) (f : CBuf → CBuf) (w : WG) : WG :=
  { w.modCb n f with sclk := SMap.put [] w.sclk k (ls.foldl (fun c l => Clock.join c (l.t.clock (x.uid l))) (w.sclk.get [] k)) }

theorem Path.giveSlot_congr (x : Path) (ls : List Lane) (w : WG) (n k : Nat) {f g : CBuf → CBuf} (h : f (w.cb n) = g (w.cb n)) :
    x.giveSlot ls n k f w = x.giveSlot ls n k g w := by
  unfold Path.giveSlot
  rw [w.modCb_congr n h]

/-- The slot's number in the threads of the executing lanes. -/
def Path.acquireLane (x : Path) (hd : Head) (n slot : Nat) (d : Opnd) (ln : Lane) (t : Thread) : Thread :=
  if ln.t.executes hd then t.acquired x.w n slot d else t

/-- An acquire by the executing lanes of a path, and its advance, as the end of a word. -/
theorem Path.advance_acquire {s : State} {x : Path} (hx : s.path = some x) (hd : Head) (n : Nat) (d : Opnd) :
    x.advance (s.acquire x.w x.g.gid n d ((x.exec hd).map (fun l => l.tid))) hd.hold
      = x.finish (s.refreshSectors x.w.core (x.w.ssec.get [] (256 * n + (x.w.cb n).ridx))) hd.hold (fun _ => x.next)
          (x.acquireLane hd n (x.w.cb n).ridx d) (WG.takeSlot n x.g.gid d (x.w.cb n).ridx) := by
  have hcontains : ∀ tid, ((x.exec hd).map (fun l => l.tid)).contains tid = x.executing hd tid := fun tid => by
    rw [← Path.exec_any hx, Bool.eq_iff_iff]
    simp
  unfold State.acquire Path.advance
  rw [← Path.finish_refreshSectors, ← Path.finish_refreshSectors]
  refine congrArg (State.refreshSectors · _ _) ?_
  unfold Path.finish
  rw [State.modWG_modWG]
  rotate_left
  · exact fun v => WG.setS_wid _ _ _ _
  refine congrArg (State.setHeld · _ _) (congrArg (State.modWG _ _) (funext fun v => ?_))
  have hthreads : ∀ (v : WG) (f : Nat → Thread → Thread) (r : List Word), (v.modThreads f).setS x.g.gid d r = (v.setS x.g.gid d r).modThreads f :=
    fun v f r => by cases d <;> rfl
  have hlanes : ∀ (v : WG) f, x.onLanes f (v.modThreads (fun i t =>
      if ((x.exec hd).map (fun l => l.tid)).contains i then t.acquired x.w n (x.w.cb n).ridx d else t))
        = x.onLanes (fun ln t => f ln (x.acquireLane hd n (x.w.cb n).ridx d ln t)) v := fun v f => by
    simp only [Path.onLanes, WG.modThreads, List.mapIdx_mapIdx]
    congr 2
    funext i t
    simp only [Function.comp]
    rw [hcontains, Path.executing, Path.laneOf]
    cases x.lanes.find? (fun ln => ln.tid == i) with
    | none => rfl
    | some ln => rfl
  rw [hthreads, hlanes, WG.takeSlot]
  cases d <;> rfl

/-- The check of the operands of a word where the mask names queues of its launch. -/
theorem maskCauses_nil {x : Path} {w : FWord} (h : FSpec w < 2 ^ x.l.hdr.queues) : maskCauses x w = [] := if_neg (Nat.not_le.2 h)

/-! ## QFENCE (R194, R404) -/

theorem queuesRoom_qfence {v : WG} {w : FWord}
    (h : ∀ i, i < 8 → (FSpec w).testBit i = true → ((v.queues.getD i []).filter (fun c => !c.done)).length < 32) :
    queuesRoom v (.qfence w) = true :=
  List.all_eq_true.2 fun i hi => by
    obtain ⟨hlt, hbit⟩ : i < 8 ∧ (FSpec w).testBit i = true := by simpa [setBits] using hi
    exact decide_eq_true (h i hlt hbit)

theorem WG.fence_queue (v : WG) (m pc : Nat) {i : Nat} (hi : i < 8) :
    (v.fence m pc).queues.getD i [] = v.queues.getD i [] ++ if m.testBit i then [CopyCmd.fresh v.serial 0 i m pc [] 0] else [] := by
  simp only [WG.fence, List.getD_eq_getElem?_getD, List.getElem?_map, List.getElem?_range hi, Option.map_some, Option.getD_some]
  split
  · rfl
  · exact (List.append_nil _).symm

theorem WG.fence_ranges (v : WG) (m pc : Nat) :
    (v.fence m pc).ranges = v.ranges.map (fun o => if m.testBit o.q = true ∧ o.fence = none then { o with fence := some v.serial } else o) := by
  simp only [WG.fence, Bool.and_eq_true, Option.isNone_iff_eq_none]

end Sys2Proof.Machine

section

open Sys2Proof Sys2Proof.Machine

/-- Settles O37: QFENCE, CBREL and CBREL.CFG end in an advance beside a change of the workgroup, a QWAIT as `qwait_state` says, and a CBACQ
in a block or as `advance_acquire` says. -/
theorem queueAndBufferWords : Obligations.QueueAndBufferWords := by
  unfold Obligations.QueueAndBufferWords
  refine ⟨?queues, ?buffers⟩
  case queues =>
    intro s w nfo x m shut hm
    refine ⟨?fence, ?wait⟩
    case fence =>
      intro hi hroom fenced
      refine ⟨?_, fun i => WG.fence_queue x.w m x.cur.pc, WG.fence_ranges x.w m x.cur.pc, rfl⟩
      refine Does.of_finish (ck := fun x => { decl := maskCauses x w }) (f := fun _ t => t)
        (h := fun g => if m = 0 then g else g.fence m x.cur.pc) (by rw [maskCauses_nil hm]; exact hi) (exec_qfence s) ?_
        (State.path_parts hi.path).2.1 (Same.refl _) (fun g => by split <;> rfl) (fun v ts => by split <;> exact ⟨rfl, rfl⟩) (fun _ => rfl) rfl
      rw [queuesRoom_qfence hroom]
      exact if_neg (by simp)
    case wait =>
      intro hi hothers
      have hexec := (exec_qwait s).trans ((State.word_next (ck := fun x => { decl := maskCauses x w })
        (by rw [maskCauses_nil hm]; exact hi) _).trans (congrArg _ (Path.qwait_state hi.path w m x.w.serial)))
      have hhead : nfo.head = w.hd := by
        obtain rfl := Option.some.inj hi.word
        rfl
      have hsecs := Path.qwaitSectors_eq (w := w) (m := m) (upto := x.w.serial) hi.path hothers (hhead ▸ hi.runs)
      refine ⟨fun hp => ?pending, ?done⟩
      case pending =>
        rw [hp, if_pos rfl] at hsecs
        rw [hsecs] at hexec
        exact ⟨_, hexec, Path.qwait_acts (secs := []) hi.path hothers (fun _ => Path.qwait_blocks hi.path hothers hp) rfl⟩
      case done =>
        intro hp done
        rw [hp, if_neg (by simp)] at hsecs
        rw [hsecs] at hexec
        exact ⟨_, hexec, Path.qwait_acts hi.path hothers (fun _ => Path.qwait_passes hi.path hothers hp) rfl⟩
  case buffers =>
    intro s w nfo x ln num n b ck next ex hln
    obtain ⟨ls, hls⟩ := Path.exec_cons hln
    refine ⟨fun hi hfree hlo hhi => ?configure, fun hi hslots hempty => ?block, fun hi hslots hfilled => ?acquire, ?release⟩
    case configure =>
      refine Does.of_finish (ck := fun x => cbChecks w [(2, fun ln => x.read32 ln w.b)] x) (f := fun _ t => t)
        (h := fun g => g.modCb n (fun _ => ⟨x.read32 ln w.b, x.read32 ln w.b, 0, 0, 0, 0⟩)) hi (exec_cbrelCfg s) ?_
        (State.path_parts hi.path).2.1 (Same.refl _) (fun _ => rfl) (fun _ _ => ⟨rfl, rfl⟩) (fun _ => rfl) rfl
      simp only [hls]
      refine if_neg ?_
      have hfree : (x.w.cb (cbNum x w ln)).slots = 0 := hfree
      simp [hfree]
      omega
    case block =>
      obtain ⟨hkeeps, hacts⟩ := Path.block_acts hi.path w.hd (fun _ => .cbuf n w.d)
      refine ⟨_, (exec_cbacq s).trans ((State.word_next (ck := cbChecks w []) hi _).trans (congrArg _ ?_)), hkeeps, hacts⟩
      simp only [hls]
      exact (if_neg hslots).trans (if_pos hempty)
    case acquire =>
      refine Does.of_finish (ck := cbChecks w []) (f := x.acquireLane w.hd n b.ridx w.d) (h := WG.takeSlot n x.g.gid w.d b.ridx) hi
        (exec_cbacq s) ?_ (by simpa using (State.path_parts hi.path).2.1) (Same.refl _) (fun v => WG.setS_wid _ _ _ _)
        (fun v ts => ?_) (fun _ => rfl) ?_
      · refine Eq.trans ?_ (Path.advance_acquire hi.path w.hd n w.d)
        simp only [hls]
        exact (if_neg hslots).trans (if_neg hfilled)
      · exact WG.setS_over_threads (v.modCb n _) x.g.gid w.d _ ts
      · exact congrArg (WG.setS · x.g.gid w.d _) (x.w.modCb_congr n rfl)
    case release =>
      intro hi hslots hheld k
      refine Does.of_finish (ck := cbChecks w []) (f := fun _ t => t)
        (h := x.giveSlot (ln :: ls) n k (fun b => { b with held := b.held - 1, free := b.free + 1 })) hi (exec_cbrel s) ?_
        (State.path_parts hi.path).2.1 (Same.refl _) (fun _ => rfl) (fun _ _ => ⟨rfl, rfl⟩) (fun _ => rfl) ?_
      · simp only [hls]
        refine if_neg fun h => (Bool.or_eq_true_iff.1 h).elim (fun h => hslots ?_) fun h => hheld ?_
        all_goals exact of_decide_eq_true h
      · rw [show ex = ln :: ls from hls]
        exact x.giveSlot_congr (ln :: ls) x.w n k rfl

end

/-! SUPPORT and PROOF of the one rounding (O13): patterns as magnitudes with a sign, the grid of a format, and the pattern of a rounded value. -/

namespace Sys2Proof.Machine

/-! ## Patterns (R112) -/

/-- The exponent of the least step of a format's grid. -/
def Fmt.gridMin (f : Fmt) : Int := 1 - (f.bias : Int) - (f.mb : Int)

/-- The significand of a pattern without its sign: the hidden bit is set where the exponent field is not 0. -/
def Fmt.sig (f : Fmt) (p : Nat) : Nat := if p / 2 ^ f.mb = 0 then p % 2 ^ f.mb else 2 ^ f.mb + p % 2 ^ f.mb

/-- The exponent of the last place of a pattern. -/
def Fmt.expo (f : Fmt) (p : Nat) : Int :=
  if p / 2 ^ f.mb = 0 then f.gridMin else ((p / 2 ^ f.mb : Nat) : Int) - (f.bias : Int) - (f.mb : Int)

/-- The number that a pattern without its sign stands for. -/
def Fmt.mag (f : Fmt) (p : Nat) : ℚ := (f.sig p : ℚ) * 2 ^ f.expo p

/-- A format with fraction bits, with exponents of normal numbers beside those of subnormals and specials, and with infinities only
where it has NaNs. -/
structure Fmt.Regular (f : Fmt) : Prop where
  frac : 1 ≤ f.mb
  exps : 2 ≤ f.eb
  infs : f.inf = true → f.nan ≠ .absent

theorem signBit_eq (f : Fmt) (neg : Bool) : signBit f neg = 2 ^ (f.eb + f.mb) * neg.toNat := by
  cases neg <;> simp [signBit]

/-- What a pattern stands for, by its sign and its other bits. -/
theorem decodeF_signBit (f : Fmt) (neg : Bool) {p : Nat} (hp : p < 2 ^ (f.eb + f.mb)) : decodeF f (signBit f neg + p) =
    if f.nan = .ieee ∧ p / 2 ^ f.mb = 2 ^ f.eb - 1 then
      if p % 2 ^ f.mb = 0 then .inf neg else .nan (!(p % 2 ^ f.mb).testBit (f.mb - 1))
    else if f.nan = .allOnes ∧ p / 2 ^ f.mb = 2 ^ f.eb - 1 ∧ p % 2 ^ f.mb = 2 ^ f.mb - 1 then .nan false
    else .fin neg (f.sig p) (f.expo p) := by
  have hsign : (signBit f neg + p).testBit (f.eb + f.mb) = neg := by
    rw [signBit_eq, Nat.testBit_two_pow_mul_add _ hp]
    cases neg <;> simp
  have hfrac : bitsOf (signBit f neg + p) 0 f.mb = p % 2 ^ f.mb := by
    rw [bitsOf, Nat.shiftRight_zero, signBit_eq, Nat.pow_add, Nat.mul_comm (2 ^ f.eb), Nat.mul_assoc, Nat.mul_add_mod]
  have hexp : bitsOf (signBit f neg + p) f.mb f.eb = p / 2 ^ f.mb := by
    rw [bitsOf, Nat.shiftRight_eq_div_pow, signBit_eq, Nat.pow_add, Nat.mul_comm (2 ^ f.eb), Nat.mul_assoc,
      Nat.mul_add_div (Nat.two_pow_pos _), Nat.mul_add_mod, Nat.mod_eq_of_lt]
    exact Nat.div_lt_of_lt_mul (by rwa [← Nat.pow_add, Nat.add_comm])
  unfold decodeF
  simp only [hsign, hfrac, hexp, Bool.and_eq_true, decide_eq_true_eq, and_assoc, Fmt.sig, Fmt.expo, Fmt.gridMin]
  split
  · rfl
  · split
    · rfl
    · split <;> simp_all

section

variable {f : Fmt} (hf : f.Regular)

include hf

/-- The largest finite pattern lies above the subnormals and below the sign. -/
theorem largestBits_bounds : 2 ^ f.mb ≤ largestBits f ∧ largestBits f < 2 ^ (f.eb + f.mb) := by
  obtain ⟨hmb, heb, -⟩ := hf
  have hfour : 4 * 2 ^ f.mb ≤ 2 ^ (f.eb + f.mb) := by
    rw [Nat.pow_add]
    exact Nat.mul_le_mul_right _ (Nat.pow_le_pow_right (n := 2) (by omega) heb)
  have htop : (2 ^ f.eb - 1) * 2 ^ f.mb = 2 ^ (f.eb + f.mb) - 2 ^ f.mb := by rw [Nat.sub_mul, Nat.one_mul, ← Nat.pow_add]
  have hpos := Nat.two_pow_pos f.mb
  unfold largestBits
  split <;> omega

/-- The finite patterns are those up to the largest. -/
theorem le_largestBits_iff {p : Nat} (hp : p < 2 ^ (f.eb + f.mb)) : p ≤ largestBits f ↔
    ¬ (f.nan = .ieee ∧ p / 2 ^ f.mb = 2 ^ f.eb - 1)
    ∧ ¬ (f.nan = .allOnes ∧ p / 2 ^ f.mb = 2 ^ f.eb - 1 ∧ p % 2 ^ f.mb = 2 ^ f.mb - 1) := by
  have hpos := Nat.two_pow_pos f.mb
  have heb : 1 ≤ 2 ^ f.eb := Nat.two_pow_pos f.eb
  have hsplit := Nat.div_add_mod p (2 ^ f.mb)
  have hmod := Nat.mod_lt p hpos
  have hdiv : p / 2 ^ f.mb < 2 ^ f.eb := Nat.div_lt_of_lt_mul (by rwa [← Nat.pow_add, Nat.add_comm])
  have htop : 2 ^ f.mb * (2 ^ f.eb - 1) = 2 ^ (f.eb + f.mb) - 2 ^ f.mb := by
    rw [Nat.mul_sub, Nat.mul_one, ← Nat.pow_add, Nat.add_comm]
  have hlt : 2 ^ f.mb < 2 ^ (f.eb + f.mb) := Nat.pow_lt_pow_right (by omega) (by have := hf.exps; omega)
  have htwo : 2 ≤ 2 ^ f.mb := Nat.pow_le_pow_right (n := 2) (by omega) hf.frac
  have hexp : p / 2 ^ f.mb = 2 ^ f.eb - 1 ↔ 2 ^ (f.eb + f.mb) - 2 ^ f.mb ≤ p := by
    rw [← htop]
    refine ⟨fun h => h ▸ Nat.mul_div_le p _, fun h => ?_⟩
    have := (Nat.le_div_iff_mul_le hpos).2 (Nat.mul_comm _ _ ▸ h)
    omega
  unfold largestBits
  split
  · next h =>
    rw [Nat.sub_mul, Nat.one_mul, ← Nat.pow_add, hexp]
    simp only [h, true_and, reduceCtorEq, false_and, not_false_eq_true, and_true]
    omega
  · next h =>
    simp only [h, true_and, reduceCtorEq, false_and, not_false_eq_true]
    refine ⟨fun hle => ?_, fun hnot => ?_⟩
    · rintro ⟨h1, h2⟩
      rw [h1, htop, h2] at hsplit
      omega
    · by_contra hgt
      refine hnot ⟨hexp.2 (by omega), ?_⟩
      rw [hexp.2 (by omega), htop] at hsplit
      omega
  · next h =>
    simp only [h, reduceCtorEq, false_and, not_false_eq_true, and_true, iff_true]
    exact Nat.le_sub_one_of_lt hp

theorem decodeF_finite (neg : Bool) {p : Nat} (hp : p ≤ largestBits f) :
    decodeF f (signBit f neg + p) = .fin neg (f.sig p) (f.expo p) := by
  have hlt := Nat.lt_of_le_of_lt hp (largestBits_bounds hf).2
  obtain ⟨hieee, hones⟩ := (le_largestBits_iff hf hlt).1 hp
  rw [decodeF_signBit f neg hlt, if_neg hieee, if_neg hones]

/-- A pattern that stands for a number is a sign and a magnitude up to the largest. -/
theorem finite_of_decodeF {x : Nat} (hx : x < 2 ^ (1 + f.eb + f.mb)) {neg : Bool} {m : Nat} {e : Int} (h : decodeF f x = .fin neg m e) :
    ∃ p, p ≤ largestBits f ∧ x = signBit f neg + p ∧ m = f.sig p ∧ e = f.expo p := by
  have hpos := Nat.two_pow_pos (f.eb + f.mb)
  have hp := Nat.mod_lt x hpos
  have hsplit : x = signBit f (x / 2 ^ (f.eb + f.mb) == 1) + x % 2 ^ (f.eb + f.mb) := by
    have hdiv : x / 2 ^ (f.eb + f.mb) < 2 := Nat.div_lt_of_lt_mul (by rwa [← Nat.pow_succ, Nat.succ_eq_one_add, ← Nat.add_assoc])
    have htoNat : (x / 2 ^ (f.eb + f.mb) == 1).toNat = x / 2 ^ (f.eb + f.mb) := by
      interval_cases x / 2 ^ (f.eb + f.mb) <;> rfl
    rw [signBit_eq, htoNat, Nat.div_add_mod]
  rw [hsplit, decodeF_signBit f _ hp] at h
  split at h
  · split at h <;> cases h
  · next hieee =>
    split at h
    · cases h
    · next hones =>
      cases h
      exact ⟨_, (le_largestBits_iff hf hp).2 ⟨hieee, hones⟩, hsplit, rfl, rfl⟩

end

/-! ## The grid (R114) -/

/-- `n` steps of 2^q are what the magnitude v rounds to, and `inexact` says whether they differ from it (R114). -/
structure Rounds (r : Rnd) (neg : Bool) (v : ℚ) (q : Int) (n : Nat) (inexact : Bool) : Prop where
  near : |(n : ℚ) * 2 ^ q - v| < 2 ^ q
  nearest : r = .rn → 2 * |(n : ℚ) * 2 ^ q - v| ≤ 2 ^ q ∧ (2 * |(n : ℚ) * 2 ^ q - v| = 2 ^ q → n % 2 = 0)
  zero : r = .rz → (n : ℚ) * 2 ^ q ≤ v
  up : r = .rp → if neg then (n : ℚ) * 2 ^ q ≤ v else v ≤ (n : ℚ) * 2 ^ q
  down : r = .rm → if neg then v ≤ (n : ℚ) * 2 ^ q else (n : ℚ) * 2 ^ q ≤ v
  exact : inexact = true ↔ (n : ℚ) * 2 ^ q ≠ v

theorem Rounds.of_eq (r : Rnd) (neg : Bool) {v : ℚ} {q : Int} {n : Nat} (h : (n : ℚ) * 2 ^ q = v) : Rounds r neg v q n false where
  near := by rw [h, sub_self, abs_zero]; positivity
  nearest _ := by
    rw [h, sub_self, abs_zero, mul_zero]
    exact ⟨by positivity, fun h0 => absurd h0 (by positivity)⟩
  zero _ := h.le
  up _ := by rw [h]; split <;> exact le_rfl
  down _ := by rw [h]; split <;> exact le_rfl
  exact := by simp [h]

theorem two_zpow_toNat {q e : Int} (h : e ≤ q) : (2 : ℚ) ^ q = ((2 ^ (q - e).toNat : Nat) : ℚ) * 2 ^ e := by
  rw [Nat.cast_pow, Nat.cast_ofNat, ← zpow_natCast, ← zpow_add₀ (by norm_num), Int.toNat_of_nonneg (by omega), Int.sub_add_cancel]

/-- Which of the two neighbours is taken, by the part of a step that is left over. -/
theorem roundsUp_cases (r : Rnd) (neg : Bool) (n rem s : Nat) :
    (roundsUp r neg n rem s = true → rem ≠ 0) ∧
    (r = .rn → if roundsUp r neg n rem s then 2 ^ s ≤ 2 * rem ∧ (2 * rem = 2 ^ s → n % 2 = 1)
      else 2 * rem ≤ 2 ^ s ∧ (2 * rem = 2 ^ s → n % 2 = 0)) ∧
    (r = .rz → roundsUp r neg n rem s = false) ∧
    (r = .rp → roundsUp r neg n rem s = (!neg && rem != 0)) ∧
    (r = .rm → roundsUp r neg n rem s = (neg && rem != 0)) := by
  have hpos := Nat.two_pow_pos s
  refine ⟨?_, ?_, ?_, ?_, ?_⟩
  · cases r <;> simp only [roundsUp, ne_eq] <;> grind
  · rintro rfl
    split
    · next h =>
      simp [roundsUp] at h
      omega
    · next h =>
      simp [roundsUp] at h
      omega
  all_goals
    rintro rfl
    rfl

section

variable {r : Rnd} {neg : Bool} {v u : ℚ} {q : Int} {n rem s : Nat} (hu : 0 < u) (hstep : (2 : ℚ) ^ q = (2 ^ s : Nat) * u)
  (hv : v = ((2 ^ s : Nat) * n + rem) * u) (hrem : rem < 2 ^ s)

include hu hstep hv hrem

/-- The neighbour below, where it is the one taken. -/
theorem Rounds.of_below (hup : roundsUp r neg n rem s = false) : Rounds r neg v q n (rem != 0) := by
  obtain ⟨-, hrn, -, hrp, hrm⟩ := roundsUp_cases r neg n rem s
  simp only [hup, Bool.false_eq_true, if_false] at hrn hrp hrm
  have hdiff : (n : ℚ) * 2 ^ q - v = -(rem * u) := by rw [hv, hstep]; ring
  have hexact : rem = 0 ↔ (n : ℚ) * 2 ^ q = v := by
    rw [← sub_eq_zero (a := (n : ℚ) * 2 ^ q), hdiff, neg_eq_zero, mul_eq_zero, Nat.cast_eq_zero, or_iff_left hu.ne']
  have hbelow : (n : ℚ) * 2 ^ q ≤ v := by
    have : 0 ≤ (rem : ℚ) * u := by positivity
    linarith
  have habs : |(n : ℚ) * 2 ^ q - v| = rem * u := by rw [hdiff, abs_neg, abs_of_nonneg (by positivity)]
  refine ⟨?_, fun hr => ?_, fun _ => hbelow, fun hr => ?_, fun hr => ?_, by simp [hexact]⟩
  · rw [habs, hstep]
    exact mul_lt_mul_of_pos_right (Nat.cast_lt.2 hrem) hu
  · obtain ⟨hle, htie⟩ := hrn hr
    rw [habs, hstep, ← mul_assoc, mul_le_mul_iff_left₀ hu, mul_left_inj' hu.ne']
    exact ⟨by exact_mod_cast hle, fun h => htie (by exact_mod_cast h)⟩
  · have := hrp hr
    cases neg
    · exact (hexact.1 (by simpa using this.symm)).ge
    · exact hbelow
  · have := hrm hr
    cases neg
    · exact hbelow
    · exact (hexact.1 (by simpa using this.symm)).ge

/-- The neighbour above, where it is the one taken. -/
theorem Rounds.of_above (hup : roundsUp r neg n rem s = true) : Rounds r neg v q (n + 1) (rem != 0) := by
  obtain ⟨hne, hrn, hrz, hrp, hrm⟩ := roundsUp_cases r neg n rem s
  simp only [hup, if_true, Bool.true_eq_false, forall_const] at hne hrn hrz hrp hrm
  have hdiff : ((n + 1 : Nat) : ℚ) * 2 ^ q - v = (((2 ^ s : Nat) : ℚ) - rem) * u := by rw [hv, hstep]; push_cast; ring
  have hremq : (rem : ℚ) < (2 ^ s : Nat) := Nat.cast_lt.2 hrem
  have hpos : 0 < (((2 ^ s : Nat) : ℚ) - rem) * u := mul_pos (by linarith) hu
  have habove : v ≤ ((n + 1 : Nat) : ℚ) * 2 ^ q := by linarith
  have habs : |((n + 1 : Nat) : ℚ) * 2 ^ q - v| = (((2 ^ s : Nat) : ℚ) - rem) * u := by rw [hdiff, abs_of_pos hpos]
  refine ⟨?_, fun hr => ?_, fun hr => (hrz hr).elim, fun hr => ?_, fun hr => ?_, ?_⟩
  · have : (0 : ℚ) < rem := Nat.cast_pos.2 (Nat.pos_of_ne_zero hne)
    rw [habs, hstep]
    exact mul_lt_mul_of_pos_right (by linarith) hu
  · obtain ⟨hle, htie⟩ := hrn hr
    have hleq : ((2 ^ s : Nat) : ℚ) ≤ 2 * rem := by exact_mod_cast hle
    rw [habs, hstep, ← mul_assoc, mul_le_mul_iff_left₀ hu, mul_left_inj' hu.ne']
    refine ⟨by linarith, fun h => ?_⟩
    have := htie (by exact_mod_cast (by linarith : (2 : ℚ) * rem = (2 ^ s : Nat)))
    omega
  · have := hrp hr
    cases neg
    · exact habove
    · simp at this
  · have := hrm hr
    cases neg
    · simp at this
    · exact habove
  · simp only [bne_iff_ne, ne_eq, hne, not_false_eq_true, true_iff]
    intro h
    linarith

end

theorem roundTo_rounds (r : Rnd) (neg : Bool) (m : Nat) (e q : Int) :
    Rounds r neg ((m : ℚ) * 2 ^ e) q (roundTo r neg m e q).1 (roundTo r neg m e q).2 := by
  by_cases hq : q ≤ e
  · rw [roundTo, if_pos hq]
    refine Rounds.of_eq r neg ?_
    rw [two_zpow_toNat hq, Nat.cast_mul, mul_assoc]
  · rw [roundTo, if_neg hq]
    have hu : (0 : ℚ) < 2 ^ e := by positivity
    have hstep := two_zpow_toNat (q := q) (e := e) (by omega)
    have hrem : m % 2 ^ (q - e).toNat < 2 ^ (q - e).toNat := Nat.mod_lt _ (Nat.two_pow_pos _)
    have hv : (m : ℚ) * 2 ^ e = ((2 ^ (q - e).toNat : Nat) * (m / 2 ^ (q - e).toNat : Nat) + (m % 2 ^ (q - e).toNat : Nat)) * 2 ^ e := by
      rw [← Nat.cast_mul, ← Nat.cast_add, Nat.div_add_mod]
    dsimp only
    rw [Nat.shiftRight_eq_div_pow]
    split
    · next hup => exact Rounds.of_above hu hstep hv hrem hup
    · next hup => exact Rounds.of_below hu hstep hv hrem (Bool.not_eq_true _ ▸ hup)

end Sys2Proof.Machine

namespace Sys2Proof.Machine

/-! ## Patterns in order of magnitude -/

theorem mag_strictMono (f : Fmt) : StrictMono f.mag := by
  refine strictMono_nat_of_lt_succ fun p => ?_
  have hpos : 0 < 2 ^ f.mb := Nat.two_pow_pos f.mb
  have hmod := Nat.mod_lt p hpos
  by_cases hnext : p % 2 ^ f.mb + 1 < 2 ^ f.mb
  · have hdiv : (p + 1) / 2 ^ f.mb = p / 2 ^ f.mb := by
      rw [Nat.add_div hpos, Nat.div_eq_of_lt (show 1 < 2 ^ f.mb by omega), Nat.mod_eq_of_lt (show 1 < 2 ^ f.mb by omega), if_neg (by omega)]
      rfl
    have hrest : (p + 1) % 2 ^ f.mb = p % 2 ^ f.mb + 1 := by
      rw [Nat.add_mod, Nat.mod_eq_of_lt (show 1 < 2 ^ f.mb by omega), Nat.mod_eq_of_lt hnext]
    have hsig : f.sig (p + 1) = f.sig p + 1 := by
      unfold Fmt.sig
      rw [hdiv, hrest]
      split <;> omega
    have hexpo : f.expo (p + 1) = f.expo p := by rw [Fmt.expo, Fmt.expo, hdiv]
    rw [Fmt.mag, Fmt.mag, hsig, hexpo]
    exact mul_lt_mul_of_pos_right (by exact_mod_cast Nat.lt_succ_self _) (by positivity)
  · have hsucc : p + 1 = 2 ^ f.mb * (p / 2 ^ f.mb + 1) := by
      have := Nat.div_add_mod p (2 ^ f.mb)
      rw [Nat.mul_succ]
      generalize 2 ^ f.mb * (p / 2 ^ f.mb) = base at *
      omega
    have hdiv : (p + 1) / 2 ^ f.mb = p / 2 ^ f.mb + 1 := by rw [hsucc, Nat.mul_div_cancel_left _ hpos]
    have hsig : f.sig (p + 1) = 2 ^ f.mb := by
      rw [Fmt.sig, hdiv, if_neg (Nat.succ_ne_zero _), hsucc, Nat.mul_mod_right, Nat.add_zero]
    have hexpo : f.expo (p + 1) = ((p / 2 ^ f.mb + 1 : Nat) : Int) - f.bias - f.mb := by rw [Fmt.expo, hdiv, if_neg (Nat.succ_ne_zero _)]
    rw [Fmt.mag, Fmt.mag, hsig, hexpo]
    by_cases hsub : p / 2 ^ f.mb = 0
    · rw [Fmt.sig, if_pos hsub, Fmt.expo, if_pos hsub, hsub, show ((0 + 1 : Nat) : Int) - f.bias - f.mb = f.gridMin from rfl]
      exact mul_lt_mul_of_pos_right (by exact_mod_cast hmod) (by positivity)
    · rw [Fmt.sig, if_neg hsub, Fmt.expo, if_neg hsub,
        show ((p / 2 ^ f.mb + 1 : Nat) : Int) - f.bias - f.mb = ((p / 2 ^ f.mb : Nat) : Int) - f.bias - f.mb + 1 by push_cast; ring,
        zpow_add_one₀ (by norm_num), mul_comm ((2 : ℚ) ^ _) 2, ← mul_assoc]
      refine mul_lt_mul_of_pos_right ?_ (by positivity)
      have : 2 ^ f.mb + p % 2 ^ f.mb < 2 ^ f.mb * 2 := by omega
      exact_mod_cast this

/-- The pattern of `n` steps of 2^q; a carry out of the significand runs into the exponent field. -/
def Fmt.pattern (f : Fmt) (n : Nat) (q : Int) : Nat :=
  if n < 2 ^ f.mb then n else (q + (f.mb : Int) + (f.bias : Int)).toNat * 2 ^ f.mb + (n - 2 ^ f.mb)

/-- `n` steps of 2^q as a rounding leaves them: a full significand where the step is not the least, and at most one carry. -/
structure Fmt.Rounded (f : Fmt) (n : Nat) (q : Int) : Prop where
  carry : n ≤ 2 ^ (f.mb + 1)
  grid : f.gridMin ≤ q
  full : f.gridMin < q → 2 ^ f.mb ≤ n

theorem Fmt.gridMin_add (f : Fmt) : f.gridMin + f.mb + f.bias = 1 := by unfold Fmt.gridMin; ring

theorem pattern_lt_iff {f : Fmt} {n : Nat} {q : Int} (h : f.Rounded n q) : f.pattern n q < 2 ^ f.mb ↔ n < 2 ^ f.mb := by
  unfold Fmt.pattern
  split
  · rfl
  · have hgrid := h.grid
    have hone : 1 ≤ (q + f.mb + f.bias).toNat := by have := f.gridMin_add; omega
    have := Nat.mul_le_mul_right (2 ^ f.mb) hone
    omega

theorem mag_pattern {f : Fmt} {n : Nat} {q : Int} (h : f.Rounded n q) : f.mag (f.pattern n q) = (n : ℚ) * 2 ^ q := by
  obtain ⟨hcarry, hgrid, hfull⟩ := h
  have hpos : 0 < 2 ^ f.mb := Nat.two_pow_pos f.mb
  have hmin := f.gridMin_add
  rw [Nat.pow_succ] at hcarry
  unfold Fmt.pattern
  split
  · next hlt =>
    obtain rfl : q = f.gridMin := le_antisymm (not_lt.1 fun hq => absurd (hfull hq) (by omega)) hgrid
    rw [Fmt.mag, Fmt.sig, Fmt.expo, if_pos (Nat.div_eq_of_lt hlt), if_pos (Nat.div_eq_of_lt hlt), Nat.mod_eq_of_lt hlt]
  · next hge =>
    obtain ⟨E, hE⟩ : ∃ E : Nat, q + f.mb + f.bias = (E : Int) := ⟨(q + f.mb + f.bias).toNat, by omega⟩
    have hexp : (E : Int) - f.bias - f.mb = q := by omega
    rw [hE, Int.toNat_natCast]
    rcases Nat.lt_or_ge (n - 2 ^ f.mb) (2 ^ f.mb) with hin | hout
    · have hdiv : (E * 2 ^ f.mb + (n - 2 ^ f.mb)) / 2 ^ f.mb = E := by
        rw [Nat.mul_comm, Nat.mul_add_div hpos, Nat.div_eq_of_lt hin, Nat.add_zero]
      rw [Fmt.mag, Fmt.sig, Fmt.expo, hdiv, if_neg (by omega), if_neg (by omega), hexp, Nat.mul_comm, Nat.mul_add_mod, Nat.mod_eq_of_lt hin,
        Nat.add_sub_cancel' (by omega)]
    · obtain rfl : n = 2 ^ f.mb * 2 := by omega
      have hp : E * 2 ^ f.mb + (2 ^ f.mb * 2 - 2 ^ f.mb) = 2 ^ f.mb * (E + 1) := by
        rw [Nat.mul_two, Nat.add_sub_cancel, Nat.mul_succ, Nat.mul_comm]
      rw [hp, Fmt.mag, Fmt.sig, Fmt.expo, Nat.mul_div_cancel_left _ hpos, if_neg (by omega), if_neg (by omega), Nat.mul_mod_right,
        show ((E + 1 : Nat) : Int) - f.bias - f.mb = q + 1 by omega, zpow_add_one₀ (by norm_num)]
      push_cast
      ring

theorem pattern_sig_expo (f : Fmt) (p : Nat) : f.pattern (f.sig p) (f.expo p) = p := by
  have hpos : 0 < 2 ^ f.mb := Nat.two_pow_pos f.mb
  have hmod := Nat.mod_lt p hpos
  have hsplit := Nat.div_add_mod p (2 ^ f.mb)
  unfold Fmt.pattern Fmt.sig Fmt.expo
  split
  · next hsub => rw [hsub, Nat.mul_zero, Nat.zero_add] at hsplit; exact hsplit
  · next hsub =>
    rw [if_neg (by omega), show ((p / 2 ^ f.mb : Nat) : Int) - f.bias - f.mb + f.mb + f.bias = ((p / 2 ^ f.mb : Nat) : Int) by ring,
      Int.toNat_natCast, Nat.add_sub_cancel_left, Nat.mul_comm, hsplit]

theorem sig_expo_rounded (f : Fmt) (p : Nat) : f.Rounded (f.sig p) (f.expo p) ∧ f.sig p < 2 ^ (f.mb + 1) := by
  have hmod := Nat.mod_lt p (Nat.two_pow_pos f.mb)
  have hlt : f.sig p < 2 ^ (f.mb + 1) := by
    rw [Nat.pow_succ, Fmt.sig]
    split <;> omega
  have hmin := f.gridMin_add
  refine ⟨⟨hlt.le, ?_, ?_⟩, hlt⟩ <;> unfold Fmt.expo <;> split
  · exact le_rfl
  · have : 1 ≤ p / 2 ^ f.mb := Nat.pos_of_ne_zero ‹_›
    generalize p / 2 ^ f.mb = E at *
    omega
  · exact fun h => absurd h (lt_irrefl _)
  · next hsub => exact fun _ => by rw [Fmt.sig, if_neg hsub]; exact Nat.le_add_right _ _

/-- The least normal magnitude. -/
theorem mag_two_pow (f : Fmt) : f.mag (2 ^ f.mb) = 2 ^ (1 - (f.bias : Int)) := by
  have hpos : 0 < 2 ^ f.mb := Nat.two_pow_pos f.mb
  rw [Fmt.mag, Fmt.sig, Fmt.expo, Nat.div_self hpos, if_neg (by omega), if_neg (by omega), Nat.mod_self, Nat.add_zero, Nat.cast_pow,
    Nat.cast_ofNat, ← zpow_natCast, ← zpow_add₀ (by norm_num)]
  congr 1
  push_cast
  ring

/-! ## The rounding of a number that is not 0 -/

/-- The exponent of the grid's step at m × 2^e (R114). -/
def Fmt.step (f : Fmt) (m : Nat) (e : Int) : Int := max (e + (Nat.log2 m : Int)) (1 - (f.bias : Int)) - (f.mb : Int)

theorem natCast_log2_bounds {m : Nat} (hm : m ≠ 0) (e : Int) :
    (2 : ℚ) ^ (e + (Nat.log2 m : Int)) ≤ m * 2 ^ e ∧ (m : ℚ) * 2 ^ e < 2 ^ (e + (Nat.log2 m : Int) + 1) := by
  rw [show e + (Nat.log2 m : Int) + 1 = e + ((Nat.log2 m + 1 : Nat) : Int) by push_cast; ring, zpow_add₀ (by norm_num), zpow_add₀ (by norm_num),
    zpow_natCast, zpow_natCast, mul_comm (2 ^ e), mul_comm (2 ^ e)]
  have hlow := Nat.log2_self_le hm
  have hhigh := @Nat.lt_log2_self m
  constructor
  · exact mul_le_mul_of_nonneg_right (by exact_mod_cast hlow) (by positivity)
  · exact mul_lt_mul_of_pos_right (by exact_mod_cast hhigh) (by positivity)

theorem roundTo_rounded (f : Fmt) (r : Rnd) (neg : Bool) {m : Nat} (hm : m ≠ 0) (e : Int) :
    f.Rounded (roundTo r neg m e (f.step m e)).1 (f.step m e) := by
  have hnear := abs_lt.1 (roundTo_rounds r neg m e (f.step m e)).near
  obtain ⟨hlow, hhigh⟩ := natCast_log2_bounds hm e
  generalize (roundTo r neg m e (f.step m e)).1 = n at *
  have hu : (0 : ℚ) < 2 ^ f.step m e := by positivity
  have hscale (k : Nat) : (2 : ℚ) ^ ((k : Int) + f.step m e) = ((2 ^ k : Nat) : ℚ) * 2 ^ f.step m e := by
    rw [zpow_add₀ (by norm_num), zpow_natCast, Nat.cast_pow, Nat.cast_ofNat]
  have hstep : f.step m e = max (e + (Nat.log2 m : Int)) (1 - (f.bias : Int)) - (f.mb : Int) := rfl
  refine ⟨?_, ?_, fun hq => ?_⟩
  · have hv : (m : ℚ) * 2 ^ e < ((2 ^ (f.mb + 1) : Nat) : ℚ) * 2 ^ f.step m e := by
      rw [← hscale]
      exact hhigh.trans_le (zpow_le_zpow_right₀ (by norm_num) (by push_cast; omega))
    have hn : (n : ℚ) * 2 ^ f.step m e < (((2 ^ (f.mb + 1) : Nat) : ℚ) + 1) * 2 ^ f.step m e := by linarith
    exact Nat.lt_succ_iff.1 (by exact_mod_cast lt_of_mul_lt_mul_right hn hu.le)
  · unfold Fmt.gridMin
    omega
  · have hv : ((2 ^ f.mb : Nat) : ℚ) * 2 ^ f.step m e ≤ (m : ℚ) * 2 ^ e := by
      rw [← hscale]
      refine le_trans (zpow_le_zpow_right₀ (by norm_num) ?_) hlow
      unfold Fmt.gridMin at hq
      omega
    have hn : ((2 ^ f.mb : Nat) : ℚ) * 2 ^ f.step m e < ((n : ℚ) + 1) * 2 ^ f.step m e := by linarith
    exact Nat.lt_succ_iff.1 (by exact_mod_cast lt_of_mul_lt_mul_right hn hu.le)

/-- What a rounding of `n` steps of 2^q delivers, by its pattern p and whether it was exact (R114 to R116). -/
def deliver (f : Fmt) (r : Rnd) (sat ftz neg : Bool) (p : Nat) (inexact : Bool) : Nat × Nat :=
  if largestBits f < p then (overflowBits f r sat neg, fOF + fNX)
  else if p < 2 ^ f.mb then
    if ftz then (signBit f neg, fUF + fNX) else (signBit f neg + p, if inexact then fUF + fNX else 0)
  else (signBit f neg + p, if inexact then fNX else 0)

section

variable {f : Fmt} (hf : f.Regular)

include hf

theorem bitsOf_largest : bitsOf (largestBits f) f.mb f.eb = largestBits f / 2 ^ f.mb ∧ bitsOf (largestBits f) 0 f.mb = largestBits f % 2 ^ f.mb := by
  refine ⟨?_, by rw [bitsOf, Nat.shiftRight_zero]⟩
  rw [bitsOf, Nat.shiftRight_eq_div_pow, Nat.mod_eq_of_lt]
  exact Nat.div_lt_of_lt_mul (by rw [← Nat.pow_add, Nat.add_comm]; exact (largestBits_bounds hf).2)

/-- The model's test for an overflow compares a magnitude with the largest. -/
theorem overflow_iff {n : Nat} {q : Int} (h : f.Rounded n q) (hn : n < 2 ^ (f.mb + 1)) :
    (f.expo (largestBits f) ≤ q ∧ f.sig (largestBits f) < n * 2 ^ (q - f.expo (largestBits f)).toNat) ↔ largestBits f < f.pattern n q := by
  rw [← (mag_strictMono f).lt_iff_lt (a := largestBits f), mag_pattern h]
  obtain ⟨hlow, -⟩ := largestBits_bounds hf
  have hfull : 2 ^ f.mb ≤ f.sig (largestBits f) := by
    rw [Fmt.sig, if_neg (Nat.div_pos hlow (Nat.two_pow_pos _)).ne']
    exact Nat.le_add_right _ _
  rw [Fmt.mag.eq_1 f (largestBits f)]
  generalize f.sig (largestBits f) = ln at *
  generalize f.expo (largestBits f) = le at *
  have hu : (0 : ℚ) < 2 ^ le := by positivity
  by_cases hq : le ≤ q
  · rw [two_zpow_toNat hq, ← mul_assoc, mul_lt_mul_iff_left₀ hu, and_iff_right hq]
    exact_mod_cast Iff.rfl
  · refine iff_of_false (fun hc => hq hc.1) (not_lt.2 ?_)
    have hcast : (n : ℚ) ≤ ((2 ^ (f.mb + 1) : Nat) : ℚ) := Nat.cast_le.2 hn.le
    have hln : ((2 ^ f.mb : Nat) : ℚ) ≤ ln := Nat.cast_le.2 hfull
    calc (n : ℚ) * 2 ^ q ≤ ((2 ^ (f.mb + 1) : Nat) : ℚ) * 2 ^ q := mul_le_mul_of_nonneg_right hcast (by positivity)
      _ = ((2 ^ f.mb : Nat) : ℚ) * 2 ^ (q + 1) := by rw [zpow_add_one₀ (by norm_num)]; push_cast; ring
      _ ≤ ((2 ^ f.mb : Nat) : ℚ) * 2 ^ le := mul_le_mul_of_nonneg_left (zpow_le_zpow_right₀ (by norm_num) (by omega)) (Nat.cast_nonneg _)
      _ ≤ ln * 2 ^ le := mul_le_mul_of_nonneg_right hln (by positivity)

/-- The last part of the one rounding: the overflow's test, the subnormal result and the normal one. -/
def deliverSteps (f : Fmt) (r : Rnd) (sat ftz neg : Bool) (n : Nat) (q : Int) (inexact : Bool) : Nat × Nat :=
  let lb := largestBits f
  let le : Int := (bitsOf lb f.mb f.eb : Int) - (f.bias : Int) - (f.mb : Int)
  let ln := 2 ^ f.mb + bitsOf lb 0 f.mb
  if le ≤ q && ln < n * 2 ^ (q - le).toNat then (overflowBits f r sat neg, fOF + fNX)
  else if n < 2 ^ f.mb then
    if ftz then (signBit f neg, fUF + fNX) else (signBit f neg + n, if inexact then fUF + fNX else 0)
  else (signBit f neg + (q + (f.mb : Int) + (f.bias : Int)).toNat * 2 ^ f.mb + (n - 2 ^ f.mb), if inexact then fNX else 0)

theorem deliverSteps_eq_deliver (r : Rnd) (sat ftz neg inexact : Bool) {n : Nat} {q : Int} (h : f.Rounded n q) (hn : n < 2 ^ (f.mb + 1)) :
    deliverSteps f r sat ftz neg n q inexact = deliver f r sat ftz neg (f.pattern n q) inexact := by
  obtain ⟨hexp, hfrac⟩ := bitsOf_largest hf
  have hnormal : largestBits f / 2 ^ f.mb ≠ 0 := (Nat.div_pos (largestBits_bounds hf).1 (Nat.two_pow_pos _)).ne'
  have hover := overflow_iff hf h hn
  rw [Fmt.expo, if_neg hnormal, Fmt.sig, if_neg hnormal] at hover
  unfold deliverSteps deliver
  dsimp only
  simp only [hexp, hfrac, Bool.and_eq_true, decide_eq_true_eq, hover, pattern_lt_iff h]
  split
  · rfl
  · split
    · next hsub => rw [Fmt.pattern, if_pos hsub]
    · next hnorm => rw [Fmt.pattern, if_neg hnorm, Nat.add_assoc]

/-- The one rounding of a number that is not 0 delivers the pattern of its steps. -/
theorem roundF_eq_deliver (r : Rnd) (sat ftz neg : Bool) {m : Nat} (hm : m ≠ 0) (e : Int) : roundF f r sat ftz neg m e =
    deliver f r sat ftz neg (f.pattern (roundTo r neg m e (f.step m e)).1 (f.step m e)) (roundTo r neg m e (f.step m e)).2 := by
  have hround := roundTo_rounded f r neg hm e
  have hsteps : roundF f r sat ftz neg m e =
      let n0 := (roundTo r neg m e (f.step m e)).1
      deliverSteps f r sat ftz neg (if n0 = 2 ^ (f.mb + 1) then 2 ^ f.mb else n0)
        (if n0 = 2 ^ (f.mb + 1) then f.step m e + 1 else f.step m e) (roundTo r neg m e (f.step m e)).2 := by
    rw [roundF, if_neg hm, Fmt.step, max_def_lt]
    rfl
  rw [hsteps]
  dsimp only
  split
  · next hcarry =>
    have hone : f.Rounded (2 ^ f.mb) (f.step m e + 1) :=
      ⟨Nat.pow_le_pow_right (by omega) (by omega), by have := hround.grid; omega, fun _ => le_rfl⟩
    have hlt : 2 ^ f.mb < 2 ^ (f.mb + 1) := Nat.pow_lt_pow_right (by omega) (by omega)
    have hmag : f.mag (f.pattern (2 ^ f.mb) (f.step m e + 1)) = f.mag (f.pattern (2 ^ (f.mb + 1)) (f.step m e)) := by
      rw [mag_pattern hone, mag_pattern (hcarry ▸ hround), zpow_add_one₀ (by norm_num)]
      push_cast
      ring
    rw [deliverSteps_eq_deliver hf r sat ftz neg _ hone hlt, (mag_strictMono f).injective hmag, hcarry]
  · next hcarry => exact deliverSteps_eq_deliver hf r sat ftz neg _ hround (lt_of_le_of_ne hround.carry hcarry)

/-- The one rounding of a number that is not 0: steps of the grid that its magnitude rounds to, and the pattern of their number. -/
theorem exists_rounds (r : Rnd) (sat neg : Bool) {m : Nat} (hm : m ≠ 0) (e : Int) :
    ∃ n inexact p, Rounds r neg ((m : ℚ) * 2 ^ e) (f.step m e) n inexact ∧ f.mag p = (n : ℚ) * 2 ^ f.step m e
      ∧ ∀ ftz, roundF f r sat ftz neg m e = deliver f r sat ftz neg p inexact :=
  ⟨_, _, _, roundTo_rounds r neg m e _, mag_pattern (roundTo_rounded f r neg hm e), fun ftz => roundF_eq_deliver hf r sat ftz neg hm e⟩

/-! ## One value, one rounding -/

omit hf in
/-- Rounding sees only the value: a factor 2^k moves between the magnitude and its exponent. -/
theorem roundTo_mul_two_pow (r : Rnd) (neg : Bool) (m k : Nat) (e q : Int) : roundTo r neg (m * 2 ^ k) (e - k) q = roundTo r neg m e q := by
  have hzero (n s : Nat) : roundsUp r neg n 0 s = false := by
    have := (roundsUp_cases r neg n 0 s).1
    simpa using this
  unfold roundTo
  by_cases hin : q ≤ e - k
  · rw [if_pos hin, if_pos (by omega), Nat.mul_assoc, ← Nat.pow_add]
    congr 3
    omega
  · rw [if_neg hin]
    by_cases hmid : q ≤ e
    · have hm : m * 2 ^ k = m * 2 ^ (e - q).toNat * 2 ^ (q - (e - k)).toNat := by
        rw [Nat.mul_assoc, ← Nat.pow_add]
        congr 2
        omega
      rw [if_pos hmid, hm]
      dsimp only
      rw [Nat.shiftRight_eq_div_pow, Nat.mul_div_cancel _ (Nat.two_pow_pos _), Nat.mul_mod_left, hzero, if_neg Bool.false_ne_true]
      rfl
    · obtain ⟨s, hs⟩ : ∃ s : Nat, q - e = s := ⟨(q - e).toNat, by omega⟩
      have hrem : m * 2 ^ k % 2 ^ (s + k) = m % 2 ^ s * 2 ^ k := by rw [Nat.pow_add, Nat.mul_mod_mul_right]
      have hdiv : (m * 2 ^ k) >>> (s + k) = m >>> s := by
        rw [Nat.shiftRight_eq_div_pow, Nat.shiftRight_eq_div_pow, Nat.pow_add, Nat.mul_div_mul_right _ _ (Nat.two_pow_pos _)]
      have hpos := Nat.two_pow_pos k
      have hne : (m % 2 ^ s * 2 ^ k != 0) = (m % 2 ^ s != 0) := by
        rw [Bool.eq_iff_iff, bne_iff_ne, bne_iff_ne, mul_ne_zero_iff, and_iff_left hpos.ne']
      have hup (n : Nat) : roundsUp r neg n (m % 2 ^ s * 2 ^ k) (s + k) = roundsUp r neg n (m % 2 ^ s) s := by
        have hlt : 2 ^ (s + k) < 2 * (m % 2 ^ s * 2 ^ k) ↔ 2 ^ s < 2 * (m % 2 ^ s) := by
          rw [Nat.pow_add, ← Nat.mul_assoc, Nat.mul_lt_mul_right hpos]
        have heq : 2 * (m % 2 ^ s * 2 ^ k) = 2 ^ (s + k) ↔ 2 * (m % 2 ^ s) = 2 ^ s := by
          rw [Nat.pow_add, ← Nat.mul_assoc, Nat.mul_left_inj hpos.ne']
        cases r
        · simp only [roundsUp, hlt, heq]
        · rfl
        · simp only [roundsUp, hne]
        · simp only [roundsUp, hne]
      rw [if_neg hmid, show q - (e - k) = ((s + k : Nat) : Int) by push_cast; omega, hs, Int.toNat_natCast, Int.toNat_natCast]
      dsimp only
      rw [hdiv, hrem, hup, hne]

omit hf in
theorem step_mul_two_pow (f : Fmt) {m : Nat} (hm : m ≠ 0) (k : Nat) (e : Int) : f.step (m * 2 ^ k) (e - k) = f.step m e := by
  have hlog : Nat.log2 (m * 2 ^ k) = Nat.log2 m + k := by
    have hpos := Nat.two_pow_pos k
    rw [Nat.log2_eq_iff (Nat.mul_ne_zero hm hpos.ne'), Nat.pow_add, Nat.add_right_comm, Nat.pow_add]
    exact ⟨Nat.mul_le_mul_right _ (Nat.log2_self_le hm), Nat.mul_lt_mul_of_pos_right Nat.lt_log2_self hpos⟩
  rw [Fmt.step, Fmt.step, hlog]
  push_cast
  congr 2
  ring

theorem roundF_mul_two_pow (r : Rnd) (sat ftz neg : Bool) (m k : Nat) (e : Int) :
    roundF f r sat ftz neg (m * 2 ^ k) (e - k) = roundF f r sat ftz neg m e := by
  by_cases hm : m = 0
  · simp [roundF, hm]
  · rw [roundF_eq_deliver hf r sat ftz neg hm, roundF_eq_deliver hf r sat ftz neg (Nat.mul_ne_zero hm (Nat.two_pow_pos k).ne'),
      step_mul_two_pow f hm, roundTo_mul_two_pow]

/-- Two ways to write one value are rounded alike. -/
theorem roundF_congr (r : Rnd) (sat ftz neg : Bool) {m m' : Nat} {e e' : Int} (h : (m : ℚ) * 2 ^ e = m' * 2 ^ e') :
    roundF f r sat ftz neg m e = roundF f r sat ftz neg m' e' := by
  have key {m m' : Nat} {e e' : Int} (hle : e' ≤ e) (h : (m : ℚ) * 2 ^ e = m' * 2 ^ e') :
      roundF f r sat ftz neg m e = roundF f r sat ftz neg m' e' := by
    have hm : m' = m * 2 ^ (e - e').toNat := by
      rw [two_zpow_toNat hle, ← mul_assoc, mul_left_inj' (by positivity)] at h
      exact_mod_cast h.symm
    rw [← roundF_mul_two_pow hf r sat ftz neg m (e - e').toNat e, ← hm, show e - ((e - e').toNat : Int) = e' by omega]
  rcases le_total e' e with hle | hle
  · exact key hle h
  · exact (key hle h.symm).symm

/-- A number of the format is delivered unchanged (R114). -/
theorem roundF_sig_expo (r : Rnd) (sat ftz neg : Bool) {p : Nat} (hp : p ≤ largestBits f) (hz : f.sig p ≠ 0)
    (hftz : ftz = true → 2 ^ f.mb ≤ f.sig p) : roundF f r sat ftz neg (f.sig p) (f.expo p) = (signBit f neg + p, 0) := by
  obtain ⟨hrounded, hlt⟩ := sig_expo_rounded f p
  have hstep : f.step (f.sig p) (f.expo p) = f.expo p := by
    have hlog : Nat.log2 (f.sig p) < f.mb + 1 := (Nat.log2_lt hz).2 hlt
    have hgrid := hrounded.grid
    have hfull : f.gridMin < f.expo p → f.mb ≤ Nat.log2 (f.sig p) := fun h => (Nat.le_log2 hz).2 (hrounded.full h)
    rw [Fmt.step]
    unfold Fmt.gridMin at *
    omega
  rw [roundF_eq_deliver hf r sat ftz neg hz, hstep, roundTo, if_pos le_rfl, sub_self, Int.toNat_zero, Nat.pow_zero, Nat.mul_one,
    pattern_sig_expo, deliver, if_neg (by omega)]
  split
  · next hsub =>
    have hsig := (pattern_lt_iff hrounded).1 (by rwa [pattern_sig_expo])
    rw [if_neg fun h => by have := hftz h; omega]
    rfl
  · rfl

end

/-! ## The nine formats -/

theorem regular_of_mem {f : Fmt} (h : f ∈ [fmtOf .h16, fmtOf .bf16, fmtOf .f32, fmtOf .f64, fmtOf .e4m3, fmtOf .e5m2, fmtOf .e3m2, fmtOf .e2m1, w48]) :
    f.Regular := by
  have hall : [fmtOf .h16, fmtOf .bf16, fmtOf .f32, fmtOf .f64, fmtOf .e4m3, fmtOf .e5m2, fmtOf .e3m2, fmtOf .e2m1, w48].all
      (fun f => decide (1 ≤ f.mb ∧ 2 ≤ f.eb ∧ (f.inf = true → f.nan ≠ .absent))) = true := by decide
  obtain ⟨hmb, heb, hinf⟩ := of_decide_eq_true (List.all_eq_true.1 hall f h)
  exact ⟨hmb, heb, hinf⟩

/-- What an overflow delivers, by whether the mode goes outwards (R115). -/
theorem overflowBits_cases (f : Fmt) (r : Rnd) (sat neg : Bool) :
    let out : Prop := r = .rn ∨ (r = .rp ∧ neg = false) ∨ (r = .rm ∧ neg = true)
    ((sat = true ∨ ¬ out ∨ f.nan = .absent) → overflowBits f r sat neg = signBit f neg + largestBits f)
    ∧ (sat = false → out → f.inf = true → f.nan ≠ .absent → overflowBits f r sat neg = infBits f neg)
    ∧ (sat = false → out → f.inf = false → f.nan ≠ .absent → overflowBits f r sat neg = defaultNan f) := by
  intro out
  have hout : (match r with | .rn => true | .rz => false | .rp => !neg | .rm => neg) = decide out := by
    cases r <;> cases neg <;> rfl
  have hover : overflowBits f r sat neg = if sat || !decide out || f.nan = .absent then signBit f neg + largestBits f
      else if f.inf then infBits f neg else defaultNan f := by
    rw [← hout]
    rfl
  rw [hover]
  refine ⟨fun h => if_pos ?_, fun hs ho hi hn => ?_, fun hs ho hi hn => ?_⟩
  · simpa [or_assoc] using h
  · simp [hs, ho, hi, hn]
  · simp [hs, ho, hi, hn]

end Sys2Proof.Machine

section
open Sys2Proof Sys2Proof.Machine

/-- Settles O13, by the patterns of a format in order of magnitude: the model's rounding is the pattern of a rounded number of steps. -/
theorem oneRounding : Obligations.OneRounding := by
  unfold Obligations.OneRounding
  intro f hmem r sat neg
  have hf := regular_of_mem hmem
  refine ⟨?_, fun ftz e => ⟨signBit f neg, by simp [roundF], ?_⟩, ?_⟩
  · intro ftz x m e k hx hdec hm hftz
    obtain ⟨p, hp, rfl, rfl, rfl⟩ := finite_of_decodeF hf hx hdec
    rw [roundF_mul_two_pow hf]
    exact roundF_sig_expo hf r sat ftz neg hp hm hftz
  · have hzero := decodeF_finite hf neg (p := 0) (Nat.zero_le _)
    rwa [Nat.add_zero, show f.sig 0 = 0 by simp [Fmt.sig], show f.expo 0 = 1 - f.bias - f.mb by simp [Fmt.expo, Fmt.gridMin]] at hzero
  · intro m e hm v step
    obtain ⟨n, inexact, p, hrounds, hmag, hdeliver⟩ := exists_rounds hf r sat neg hm e
    refine ⟨n, f.mag (largestBits f), ?_⟩
    intro y
    change f.mag p = y at hmag
    have hinexact : inexact = decide (y ≠ v) := by rw [Bool.eq_iff_iff, decide_eq_true_iff]; exact hrounds.exact
    have hlargest : decodeF f (largestBits f) = .fin false (f.sig (largestBits f)) (f.expo (largestBits f)) := by
      simpa [signBit] using decodeF_finite hf false (p := largestBits f) le_rfl
    refine ⟨⟨_, _, hlargest, rfl⟩, hrounds.near, hrounds.nearest, hrounds.zero, hrounds.up, hrounds.down, ?_, ?_⟩
    · intro hover ftz out
      rw [← hmag, (mag_strictMono f).lt_iff_lt] at hover
      rw [hdeliver, deliver, if_pos hover]
      obtain ⟨hlargestBits, hinf, hnan⟩ := overflowBits_cases f r sat neg
      exact ⟨fun h => by rw [hlargestBits h], fun hs ho hi => by rw [hinf hs ho hi (hf.infs hi)], fun hs ho hi hn => by rw [hnan hs ho hi hn]⟩
    · intro hfit
      rw [← hmag, (mag_strictMono f).le_iff_le] at hfit
      have htiny : y < 2 ^ (1 - (f.bias : Int)) ↔ p < 2 ^ f.mb := by rw [← mag_two_pow, ← hmag, (mag_strictMono f).lt_iff_lt]
      refine ⟨signBit f neg + p, f.sig p, f.expo p, decodeF_finite hf neg hfit, hmag, ?_, ?_⟩
      · rw [hdeliver, deliver, if_neg (by omega), hinexact]
        simp only [htiny]
        by_cases hxy : y = v <;> by_cases hsub : p < 2 ^ f.mb <;> simp [hxy, hsub, Nat.add_comm]
      · rw [hdeliver, deliver, if_neg (by omega), hinexact]
        simp only [htiny]
        by_cases hxy : y = v <;> by_cases hsub : p < 2 ^ f.mb <;> simp [hxy, hsub]
end

/-! SUPPORT and PROOF of the matrix entries (O59): what a run of writes leaves, bits of byte strings, the entries' stores, and the chunks' sums. -/

namespace Sys2Proof

/-! ## Writes one after another -/

/-- What goes by the keys of a map drops the places of the keys that it drops. -/
theorem SMap.get_filter_key_dropped {α : Type} (d : α) {p : Nat → Bool} (m : SMap α) {k : Nat} (hk : p k = false) :
    SMap.get d (m.filter (fun e => p e.1)) k = d := by
  induction m with
  | nil => rfl
  | cons e m ih =>
    cases hp : p e.1 with
    | false => simpa [hp] using ih
    | true =>
      have hne : e.1 ≠ k := by
        rintro rfl
        rw [hk] at hp
        cases hp
      simpa [hp, SMap.get, hne] using ih

section

variable {α ι : Type} [DecidableEq α] (d : α) (at_ : ι → Nat) (vals : ι → List α)

/-- A place that no write of a run meets stays as it was. -/
theorem SMap.get_foldl_putAll_other (l : List ι) (m : SMap α) {k : Nat} (hk : ∀ i ∈ l, k < at_ i ∨ at_ i + (vals i).length ≤ k) :
    SMap.get d (l.foldl (fun m i => SMap.putAll d m (at_ i) (vals i)) m) k = SMap.get d m k := by
  induction l generalizing m with
  | nil => rfl
  | cons i l ih =>
    rw [List.foldl_cons, ih _ fun j hj => hk j (List.mem_cons_of_mem _ hj), SMap.get_putAll]
    rcases hk i List.mem_cons_self with h | h
    · rw [if_neg (by omega)]
    · split
      · rw [List.getElem?_eq_none (by omega)]
        rfl
      · rfl

/-- A place that only one write of a run meets holds what that write put there. -/
theorem SMap.get_foldl_putAll (l : List ι) (m : SMap α) {i : ι} (hi : i ∈ l) {n : Nat} (hn : n < (vals i).length)
    (honly : ∀ j ∈ l, at_ j ≤ at_ i + n → at_ i + n < at_ j + (vals j).length → j = i) :
    SMap.get d (l.foldl (fun m i => SMap.putAll d m (at_ i) (vals i)) m) (at_ i + n) = (vals i)[n] := by
  induction l generalizing m with
  | nil => cases hi
  | cons j l ih =>
    rw [List.foldl_cons]
    have honly' : ∀ j ∈ l, at_ j ≤ at_ i + n → at_ i + n < at_ j + (vals j).length → j = i := fun j hj => honly j (List.mem_cons_of_mem _ hj)
    by_cases hl : i ∈ l
    · exact ih _ hl honly'
    · obtain rfl : i = j := (List.mem_cons.1 hi).resolve_right hl
      have hother : ∀ j ∈ l, at_ i + n < at_ j ∨ at_ j + (vals j).length ≤ at_ i + n := fun j hj => by
        by_contra hmeets
        obtain rfl := honly' j hj (by omega) (by omega)
        exact hl hj
      rw [SMap.get_foldl_putAll_other d at_ vals l _ hother, SMap.get_putAll, if_pos (Nat.le_add_right _ _), Nat.add_sub_cancel_left,
        List.getElem?_eq_getElem hn]
      rfl

end

/-- A run of single writes, which reads as a run of writes of one value each. -/
theorem SMap.get_foldl_put {α ι : Type} [DecidableEq α] (d : α) (m : SMap α) (l : List ι) (key : ι → Nat) (val : ι → α) {i : ι} (hi : i ∈ l)
    (hinj : ∀ j ∈ l, key j = key i → j = i) : (l.foldl (fun m i => SMap.put d m (key i) (val i)) m).get d (key i) = val i :=
  SMap.get_foldl_putAll d key (fun i => [val i]) l m hi (n := 0) Nat.one_pos fun j hj h1 h2 =>
    hinj j hj (by simp only [List.length_singleton] at h2; omega)

/-- A place that no single write of a run meets stays as it was. -/
theorem SMap.get_foldl_put_ne {α ι : Type} [DecidableEq α] (d : α) (m : SMap α) (l : List ι) (key : ι → Nat) (val : ι → α) {k : Nat}
    (hk : ∀ i ∈ l, key i ≠ k) : (l.foldl (fun m i => SMap.put d m (key i) (val i)) m).get d k = m.get d k :=
  SMap.get_foldl_putAll_other d key (fun i => [val i]) l m fun i hi => by
    have := hk i hi
    simp only [List.length_singleton]
    omega

theorem SMap.length_getN {α : Type} (d : α) (m : SMap α) (k n : Nat) : (m.getN d k n).length = n := by
  induction n generalizing k with
  | zero => rfl
  | succ n ih => rw [SMap.getN, List.length_cons, ih]

theorem SMap.getElem?_getN {α : Type} (d : α) (m : SMap α) (k : Nat) {n i : Nat} (hi : i < n) : (m.getN d k n)[i]? = some (m.get d (k + i)) := by
  induction n generalizing k i with
  | zero => cases hi
  | succ n ih =>
    cases i with
    | zero => rfl
    | succ i => rw [SMap.getN, List.getElem?_cons_succ, ih _ (by omega), Nat.add_right_comm, Nat.add_assoc]

end Sys2Proof

namespace Sys2Proof.Machine

/-- A bit of what a run gathers, where each step adds what holds of it. -/
theorem testBit_foldl {ι : Type} {b : Nat} {step : Nat → ι → Nat} {P : ι → Prop}
    (hstep : ∀ a i, (step a i).testBit b = true ↔ a.testBit b = true ∨ P i) (l : List ι) (a : Nat) :
    (l.foldl step a).testBit b = true ↔ a.testBit b = true ∨ ∃ i ∈ l, P i := by
  induction l generalizing a with
  | nil => simp
  | cons i l ih =>
    rw [List.foldl_cons, ih, hstep, or_assoc]
    simp only [List.mem_cons, exists_eq_or_imp]

/-- A bit of the flags that a run gathers. -/
theorem testBit_foldl_or {ι : Type} (g : ι → Nat) (l : List ι) (a b : Nat) :
    (l.foldl (fun a i => a ||| g i) a).testBit b = true ↔ a.testBit b = true ∨ ∃ i ∈ l, (g i).testBit b = true :=
  testBit_foldl (fun a i => by rw [Nat.testBit_or, Bool.or_eq_true]) l a

/-! ## Bits of byte strings (R4, R152) -/

theorem testBit_natOfBytes (bs : List Byte) (i : Nat) : (natOfBytes bs).testBit i = ((bs[i / 8]?).getD 0).toNat.testBit (i % 8) := by
  induction bs generalizing i with
  | nil => simp [natOfBytes]
  | cons b bs ih =>
    rw [natOfBytes, Nat.add_comm, show 256 = 2 ^ 8 from rfl, Nat.testBit_two_pow_mul_add _ b.isLt]
    split
    · next hi => rw [Nat.div_eq_of_lt hi, Nat.mod_eq_of_lt hi]; rfl
    · next hi =>
      obtain ⟨j, rfl⟩ := Nat.exists_eq_add_of_le (Nat.le_of_not_lt hi)
      rw [ih, Nat.add_sub_cancel_left, Nat.add_div_left j (by omega), Nat.add_mod_left, List.getElem?_cons_succ]

theorem length_bytesOf (n x : Nat) : (bytesOf n x).length = n := by
  induction n generalizing x with
  | zero => rfl
  | succ n ih => rw [bytesOf, List.length_cons, ih]

theorem testBit_bytesOf (x : Nat) {n j i : Nat} (hj : j < n) (hi : i < 8) :
    (((bytesOf n x)[j]?).getD 0).toNat.testBit i = x.testBit (8 * j + i) := by
  induction n generalizing x j with
  | zero => cases hj
  | succ n ih =>
    rw [bytesOf]
    cases j with
    | zero =>
      rw [List.getElem?_cons_zero, Option.getD_some, BitVec.toNat_ofNat, Nat.testBit_mod_two_pow, decide_eq_true hi, Bool.true_and,
        Nat.mul_zero, Nat.zero_add]
    | succ j =>
      rw [List.getElem?_cons_succ, ih _ (by omega), show 256 = 2 ^ 8 from rfl, Nat.testBit_div_two_pow]
      congr 1
      omega

/-- The bits of fields of one width, packed one after another. -/
theorem testBit_packBits (w : Nat) (xs : List Nat) {e i : Nat} (he : e < xs.length) (hi : i < w) :
    (packBits (xs.map (fun x => (w, x)))).testBit (w * e + i) = xs[e].testBit i := by
  induction xs generalizing e with
  | nil => cases he
  | cons x xs ih =>
    rw [List.map_cons, packBits, Nat.add_comm, Nat.mul_comm, Nat.testBit_two_pow_mul_add _ (Nat.mod_lt _ (Nat.two_pow_pos w))]
    cases e with
    | zero => rw [Nat.mul_zero, Nat.zero_add, if_pos hi, Nat.testBit_mod_two_pow, decide_eq_true hi, Bool.true_and]; rfl
    | succ e =>
      rw [if_neg (by rw [Nat.mul_succ]; omega), Nat.mul_succ, show w * e + w + i - w = w * e + i by omega, ih (Nat.lt_of_succ_lt_succ he)]
      rfl

/-- A field of a byte string, bit by bit: from the byte that holds the bit. -/
theorem testBit_bitsOf_natOfBytes (byte : Nat → Byte) (bs : List Byte) (at_ : Nat) {len i : Nat} (hi : i < len)
    (hbytes : ∀ j, j < ceilDiv (at_ % 8 + len) 8 → bs[j]? = some (byte (at_ / 8 + j))) :
    (bitsOf (natOfBytes bs) (at_ % 8) len).testBit i = (byte ((at_ + i) / 8)).toNat.testBit ((at_ + i) % 8) := by
  have hj : (at_ % 8 + i) / 8 < ceilDiv (at_ % 8 + len) 8 := by unfold ceilDiv; omega
  rw [testBit_bitsOf, decide_eq_true hi, Bool.true_and, testBit_natOfBytes, hbytes _ hj, Option.getD_some,
    show at_ / 8 + (at_ % 8 + i) / 8 = (at_ + i) / 8 by omega, show (at_ % 8 + i) % 8 = (at_ + i) % 8 by omega]

theorem testBit_storedBits (win : SMap Byte) (base cs r at_ : Nat) {len i : Nat} (hi : i < len) :
    (storedBits win base cs r at_ len).testBit i
      = (win.get 0 (storedAt base cs r ((at_ + i) / 8))).toNat.testBit ((at_ + i) % 8) :=
  testBit_bitsOf_natOfBytes (fun c => win.get 0 (storedAt base cs r c)) _ at_ hi fun j hj => by
    rw [List.getElem?_map, List.getElem?_range hj]
    rfl

theorem testBit_slotBits (slots : SMap Byte) (p at_ : Nat) {len i : Nat} (hi : i < len) :
    (slotBits slots p at_ len).testBit i = (slots.get 0 (16384 * p + (at_ + i) / 8)).toNat.testBit ((at_ + i) % 8) :=
  testBit_bitsOf_natOfBytes (fun c => slots.get 0 (16384 * p + c)) _ at_ hi fun j hj => by
    rw [SMap.getElem?_getN 0 slots _ hj, Nat.add_assoc]

/-- Two numbers below 2^n are equal where their low bits are. -/
theorem eq_of_low_bits {x y n : Nat} (hx : x < 2 ^ n) (hy : y < 2 ^ n) (h : ∀ i, i < n → x.testBit i = y.testBit i) : x = y :=
  Nat.eq_of_testBit_eq fun i => by
    by_cases hi : i < n
    · exact h i hi
    · rw [Nat.testBit_lt_two_pow (hx.trans_le (Nat.pow_le_pow_right (by omega) (by omega))),
        Nat.testBit_lt_two_pow (hy.trans_le (Nat.pow_le_pow_right (by omega) (by omega)))]

/-! ## MZERO and MSWAP (R157, R160) -/

theorem get_zeroed (m : SMap (BitVec 48)) (t n k : Nat) :
    SMap.get 0 (m.filter (fun e => e.1 / 256 < t || t + n ≤ e.1 / 256)) k = if t ≤ k / 256 ∧ k / 256 < t + n then 0 else m.get 0 k := by
  by_cases hk : t ≤ k / 256 ∧ k / 256 < t + n
  · rw [if_pos hk]
    exact SMap.get_filter_key_dropped 0 (p := fun k => k / 256 < t || t + n ≤ k / 256) m (by simp; omega)
  · rw [if_neg hk]
    exact SMap.get_filter_key 0 (p := fun k => k / 256 < t || t + n ≤ k / 256) m (by simp; omega)

theorem physOf_swapMap (smap : List Nat) (x y : Nat) {i : Nat} (hi : i < 4) :
    physOf (swapMap smap x y) i = physOf smap (if i = x then y else if i = y then x else i) := by
  rw [physOf.eq_1 (swapMap smap x y), swapMap, List.getD_eq_getElem?_getD, List.getElem?_map, List.getElem?_range hi]
  simp only [Option.map_some, Option.getD_some]
  split
  · rfl
  · split <;> rfl

/-! ## MLDB (R155, R156) -/

theorem Shape.k_eq (h : Shape) : ∃ q, h.k = 16 * q := by
  have hmin (c : Nat) : ∃ q, kMin c = 16 * q := by
    unfold kMin
    split
    · exact ⟨1, rfl⟩
    · exact ⟨2, rfl⟩
    · exact ⟨4, rfl⟩
  obtain ⟨q, hq⟩ := hmin ((matClass h.bt).getD 3)
  exact ⟨q * 2 ^ h.kc, by rw [Shape.k, hq, Nat.mul_assoc]⟩

/-- MLDB's physical slot and descriptors, and the rest. -/
theorem runEntry_mldb (w : WG) (b base shape : Nat) :
    (w.runEntry (.mldb b base shape)).1.slots = SMap.putAll 0 w.slots (16384 * physOf w.smap b) (slotImage w.win base (shapeOf shape))
    ∧ (w.runEntry (.mldb b base shape)).1.descs
        = (List.range 4).map (fun i => if i = physOf w.smap b then Machine.descOf (shapeOf shape) else w.descs.getD i SlotDesc.empty)
    ∧ ({ (w.runEntry (.mldb b base shape)).1 with slots := w.slots, descs := w.descs } : WG) = w
    ∧ (w.runEntry (.mldb b base shape)).2 = 0 := by
  refine ⟨by rw [WG.runEntry], by rw [WG.runEntry], ?_, rfl⟩
  cases w
  rfl

theorem slotBytes_le {h : Shape} (hbad : mldbBad h = false) : slotBytes h.k h.n h.bt h.sb ≤ 16384 := by
  by_contra hgt
  rw [mldbBad, decide_eq_true (not_le.1 hgt), Bool.or_true] at hbad
  cases hbad

theorem length_slotImage (win : SMap Byte) (base : Nat) (h : Shape) : (slotImage win base h).length = 16384 := by
  rw [slotImage, List.length_map, List.length_range]

/-- An element of the stored B array by its form (R152). -/
theorem storedElem_eq (win : SMap Byte) (base : Nat) (h : Shape) (n k : Nat) :
    storedElem win base (storedB h) h.bt (!h.bo && !h.sb) h.sb n k =
      if h.sb then storedBits win base (storedB h).cs n (8 * (k / 64 * (2 + 8 * widthOf h.bt) + 2) + widthOf h.bt * (k % 64)) (widthOf h.bt)
      else if h.bo then storedBits win base (storedB h).cs n (widthOf h.bt * k) (widthOf h.bt)
      else storedBits win base (storedB h).cs k (widthOf h.bt * n) (widthOf h.bt) := by
  unfold storedElem blockLen
  cases h.sb
  · cases h.bo <;> simp
  · simp

section

variable (slots win : SMap Byte) (p base : Nat) (h : Shape)

/-- The bits of a slot as MLDB leaves it. -/
theorem testBit_slotBits_putAll {at_ len i : Nat} (hi : i < len) (hin : at_ + len ≤ 131072) :
    (slotBits (SMap.putAll 0 slots (16384 * p) (slotImage win base h)) p at_ len).testBit i = slotBit win base h (at_ + i) := by
  have hb : (at_ + i) / 8 < 16384 := by omega
  rw [testBit_slotBits _ p at_ hi, SMap.get_putAll, if_pos (Nat.le_add_right _ _), Nat.add_sub_cancel_left, slotImage, List.getElem?_map,
    List.getElem?_range hb, Option.map_some, Option.getD_some, BitVec.toNat_ofNat, Nat.testBit_mod_two_pow, testBit_ofBits]
  simp only [Nat.mod_lt _ (show 0 < 8 by omega), decide_true, Bool.true_and, Nat.div_add_mod]

/-- The bytes of the other slots stay. -/
theorem get_putAll_slotImage_other {j : Nat} (hj : j < 16384 * p ∨ 16384 * (p + 1) ≤ j) :
    (SMap.putAll 0 slots (16384 * p) (slotImage win base h)).get 0 j = slots.get 0 j := by
  rw [SMap.get_putAll]
  split
  · rw [List.getElem?_eq_none (by rw [length_slotImage]; omega), Option.getD_none]
  · rfl

variable (hbytes : slotBytes h.k h.n h.bt h.sb ≤ 16384)

include hbytes

/-- The elements of a slot are those of the stored array. -/
theorem slotBits_elem {k n : Nat} (hk : k < h.k) (hn : n < h.n) :
    slotBits (SMap.putAll 0 slots (16384 * p) (slotImage win base h)) p (widthOf h.bt * (k * h.n + n)) (widthOf h.bt)
      = storedElem win base (storedB h) h.bt (!h.bo && !h.sb) h.sb n k := by
  have hend : widthOf h.bt * (k * h.n + n) + widthOf h.bt ≤ h.k * h.n * widthOf h.bt := by
    have hle : k * h.n + n + 1 ≤ h.k * h.n := by
      have := Nat.mul_le_mul_right h.n (show k + 1 ≤ h.k from hk)
      rw [Nat.add_mul] at this
      omega
    calc widthOf h.bt * (k * h.n + n) + widthOf h.bt = (k * h.n + n + 1) * widthOf h.bt := by ring
      _ ≤ h.k * h.n * widthOf h.bt := Nat.mul_le_mul_right _ hle
  have hbody : h.k * h.n * widthOf h.bt ≤ 131072 := by
    unfold slotBytes at hbytes
    obtain ⟨q, hq⟩ := h.k_eq
    have hdiv : h.k * h.n * widthOf h.bt = 8 * (2 * (q * h.n * widthOf h.bt)) := by rw [hq]; ring
    omega
  have helem : storedElem win base (storedB h) h.bt (!h.bo && !h.sb) h.sb n k < 2 ^ widthOf h.bt := by
    unfold storedElem storedBits
    split
    · exact bitsOf_lt _ _ _
    · split <;> exact bitsOf_lt _ _ _
  refine eq_of_low_bits (bitsOf_lt _ _ _) helem fun i hi => ?_
  have hdiv : (widthOf h.bt * (k * h.n + n) + i) / widthOf h.bt = k * h.n + n := by
    rw [Nat.mul_add_div (by omega), Nat.div_eq_of_lt hi, Nat.add_zero]
  have hmod : (widthOf h.bt * (k * h.n + n) + i) % widthOf h.bt = i := by rw [Nat.mul_add_mod, Nat.mod_eq_of_lt hi]
  have hrow : (k * h.n + n) / h.n = k := by rw [Nat.mul_comm, Nat.mul_add_div (by omega), Nat.div_eq_of_lt hn, Nat.add_zero]
  have hcol : (k * h.n + n) % h.n = n := by rw [Nat.mul_comm, Nat.mul_add_mod, Nat.mod_eq_of_lt hn]
  rw [testBit_slotBits_putAll slots win p base h hi (by omega), slotBit]
  simp only
  rw [if_pos (by omega), hdiv, hmod, hrow, hcol]

/-- The headers of a slot are those of the stored array. -/
theorem slotBits_header (hsb : h.sb = true) {kb n : Nat} (hk : kb < h.k / 64) (hn : n < h.n) :
    slotBits (SMap.putAll 0 slots (16384 * p) (slotImage win base h)) p (8 * (h.k * h.n * widthOf h.bt / 8 + 2 * (kb * h.n + n))) 16
      = storedHeader win base (storedB h) h.bt n kb := by
  obtain ⟨q, hq⟩ := h.k_eq
  have hbody : h.k * h.n * widthOf h.bt = 8 * (2 * (q * h.n * widthOf h.bt)) := by rw [hq]; ring
  have hblock : kb * h.n + n + 1 ≤ h.k / 64 * h.n := by
    have := Nat.mul_le_mul_right h.n (show kb + 1 ≤ h.k / 64 from hk)
    rw [Nat.add_mul] at this
    omega
  rw [slotBytes, if_pos hsb] at hbytes
  generalize hB : h.k * h.n * widthOf h.bt = body at *
  generalize hH : h.k / 64 * h.n = blocks at *
  have hat : 8 * (body / 8 + 2 * (kb * h.n + n)) = body + 16 * (kb * h.n + n) := by omega
  rw [hat]
  refine eq_of_low_bits (bitsOf_lt _ _ _) (bitsOf_lt _ _ _) fun i hi => ?_
  have hdiv : (body + 16 * (kb * h.n + n) + i - body) / 16 = kb * h.n + n := by omega
  have hmod : (body + 16 * (kb * h.n + n) + i - body) % 16 = i := by omega
  have hrow : (kb * h.n + n) / h.n = kb := by rw [Nat.mul_comm, Nat.mul_add_div (by omega), Nat.div_eq_of_lt hn, Nat.add_zero]
  have hcol : (kb * h.n + n) % h.n = n := by rw [Nat.mul_comm, Nat.mul_add_mod, Nat.mod_eq_of_lt hn]
  rw [testBit_slotBits_putAll slots win p base h hi (by omega), slotBit]
  simp only
  rw [hB, hH, if_neg (by omega), if_pos (by simp [hsb]; omega), hdiv, hmod, hrow, hcol]

end

end Sys2Proof.Machine

namespace Sys2Proof.Machine

/-! ## MLDA and MSTA (R161, R382) -/

/-- The converted memory element e of stored row q. -/
def WG.loaded (w : WG) (base : Nat) (ty : Ty) (q e : Nat) : Nat × Nat :=
  toAcc ty (natOfBytes (w.win.getN 0 (base + 64 * q + widthOf ty / 8 * e) (widthOf ty / 8)))

/-- The converted tile element for memory element e of stored row q. -/
def WG.stored (w : WG) (t : Nat) (ty : Ty) (col : Bool) (r : Rnd) (sat : Bool) (q e : Nat) : Nat × Nat :=
  fromAcc ty r sat (w.tiles.get 0 (oriKey t col q e)).toNat

/-- The bytes of a stored row. -/
def WG.storedRow (w : WG) (t : Nat) (ty : Ty) (col : Bool) (r : Rnd) (sat : Bool) (q : Nat) : List Byte :=
  bytesOf (2 * widthOf ty) (packBits (((List.range 16).map (fun e => (w.stored t ty col r sat q e).1)).map (fun x => (widthOf ty, x))))

theorem oriKey_inj {t q e q' e' : Nat} {col : Bool} (hq : q < 16) (he : e < 16) (hq' : q' < 16) (he' : e' < 16)
    (h : oriKey t col q e = oriKey t col q' e') : q = q' ∧ e = e' := by
  unfold oriKey tileKey at h
  split at h <;> omega

theorem oriKey_div {t q e : Nat} (col : Bool) (hq : q < 16) (he : e < 16) : oriKey t col q e / 256 = t := by
  unfold oriKey tileKey
  split <;> omega

/-- The writes of some of a tile's converted elements, 16 q + e for element e of row q. -/
def WG.loadTile (w : WG) (t base : Nat) (ty : Ty) (col : Bool) (l : List Nat) (m : SMap (BitVec 48)) : SMap (BitVec 48) :=
  l.foldl (fun m n => SMap.put 0 m (oriKey t col (n / 16) (n % 16)) (BitVec.ofNat 48 (w.loaded base ty (n / 16) (n % 16)).1)) m

/-- MLDA's tiles and flags as runs of their own. -/
theorem WG.runMlda_eq (w : WG) (t base : Nat) (ty : Ty) (col : Bool) :
    w.runMlda t base ty col =
      ({ w with tiles := w.loadTile t base ty col (List.range 256) w.tiles, commit := w.loadTile t base ty col (List.range 256) w.commit },
        (List.range 256).foldl (fun f n => f ||| (w.loaded base ty (n / 16) (n % 16)).2) 0) := by
  have hrun (l : List Nat) (a : WG × Nat) : l.foldl (fun (a : WG × Nat) n =>
        ({ a.1 with tiles := SMap.put 0 a.1.tiles (oriKey t col (n / 16) (n % 16)) (BitVec.ofNat 48 (w.loaded base ty (n / 16) (n % 16)).1),
                    commit := SMap.put 0 a.1.commit (oriKey t col (n / 16) (n % 16)) (BitVec.ofNat 48 (w.loaded base ty (n / 16) (n % 16)).1) },
          a.2 ||| (w.loaded base ty (n / 16) (n % 16)).2)) a
      = ({ a.1 with tiles := w.loadTile t base ty col l a.1.tiles, commit := w.loadTile t base ty col l a.1.commit },
          l.foldl (fun f n => f ||| (w.loaded base ty (n / 16) (n % 16)).2) a.2) := by
    induction l generalizing a with
    | nil => rfl
    | cons n l ih => rw [List.foldl_cons, ih]; rfl
  exact hrun _ (w, 0)

/-- MSTA's window and flags as runs of their own. -/
theorem WG.runMsta_eq (w : WG) (t base : Nat) (ty : Ty) (col : Bool) (r : Rnd) (sat : Bool) :
    w.runMsta t base ty col r sat =
      ({ w with win := (List.range 16).foldl (fun m q => SMap.putAll 0 m (base + 64 * q) (w.storedRow t ty col r sat q)) w.win },
        (List.range 16).foldl (fun f q => (List.range 16).foldl (fun f e => f ||| (w.stored t ty col r sat q e).2) f) 0) := by
  have hrun (l : List Nat) (a : WG × Nat) : l.foldl (fun (a : WG × Nat) q =>
        ({ a.1 with win := SMap.putAll 0 a.1.win (base + 64 * q) (w.storedRow t ty col r sat q) },
          (List.range 16).foldl (fun f e => f ||| (w.stored t ty col r sat q e).2) a.2)) a
      = ({ a.1 with win := l.foldl (fun m q => SMap.putAll 0 m (base + 64 * q) (w.storedRow t ty col r sat q)) a.1.win },
          l.foldl (fun f q => (List.range 16).foldl (fun f e => f ||| (w.stored t ty col r sat q e).2) f) a.2) := by
    induction l generalizing a with
    | nil => rfl
    | cons q l ih => rw [List.foldl_cons, ih]; rfl
  rw [← hrun _ (w, 0)]
  unfold WG.runMsta
  simp only [WG.storedRow, List.map_map, List.foldl_map]
  rfl

section

variable (w : WG) (t base : Nat) (ty : Ty) (col : Bool)

theorem get_loadTile (m : SMap (BitVec 48)) {q e : Nat} (hq : q < 16) (he : e < 16) :
    (w.loadTile t base ty col (List.range 256) m).get 0 (oriKey t col q e) = BitVec.ofNat 48 (w.loaded base ty q e).1 := by
  have hdiv : (16 * q + e) / 16 = q := by omega
  have hmod : (16 * q + e) % 16 = e := by omega
  have := SMap.get_foldl_put 0 m (List.range 256) (fun n => oriKey t col (n / 16) (n % 16))
    (fun n => BitVec.ofNat 48 (w.loaded base ty (n / 16) (n % 16)).1) (i := 16 * q + e) (List.mem_range.2 (by omega)) fun j hj h => by
      have hj := List.mem_range.1 hj
      obtain ⟨h1, h2⟩ := oriKey_inj (by omega) (by omega) (by omega) (by omega) h
      omega
  rwa [hdiv, hmod] at this

theorem get_loadTile_other (m : SMap (BitVec 48)) {k : Nat} (hk : k / 256 ≠ t) :
    (w.loadTile t base ty col (List.range 256) m).get 0 k = m.get 0 k :=
  SMap.get_foldl_put_ne 0 m _ _ _ fun n hn h => by
    have hn := List.mem_range.1 hn
    rw [← h, oriKey_div col (by omega) (by omega)] at hk
    exact hk rfl

variable (r : Rnd) (sat : Bool)

theorem length_storedRow (q : Nat) : (w.storedRow t ty col r sat q).length = 2 * widthOf ty := length_bytesOf _ _

/-- An element of a stored row, bit by bit. -/
theorem testBit_storedRow (hw : widthOf ty = 16 ∨ widthOf ty = 32) (q : Nat) {e i : Nat} (he : e < 16) (hi : i < widthOf ty) :
    (((w.storedRow t ty col r sat q)[widthOf ty / 8 * e + i / 8]?).getD 0).toNat.testBit (i % 8) = (w.stored t ty col r sat q e).1.testBit i := by
  have hbytes : widthOf ty / 8 * e + i / 8 < 2 * widthOf ty := by rcases hw with hw | hw <;> rw [hw] at hi ⊢ <;> omega
  have hbit : 8 * (widthOf ty / 8 * e + i / 8) + i % 8 = widthOf ty * e + i := by rcases hw with hw | hw <;> rw [hw] <;> omega
  have hlen : e < ((List.range 16).map (fun e => (w.stored t ty col r sat q e).1)).length := by rwa [List.length_map, List.length_range]
  rw [WG.storedRow, testBit_bytesOf _ hbytes (by omega), hbit, testBit_packBits _ _ hlen hi, List.getElem_map, List.getElem_range]

/-- The elements that MSTA leaves in the window. -/
theorem getN_storedRows (hw : widthOf ty = 16 ∨ widthOf ty = 32) (m : SMap Byte) {q e : Nat} (hq : q < 16) (he : e < 16) :
    natOfBytes (((List.range 16).foldl (fun m q => SMap.putAll 0 m (base + 64 * q) (w.storedRow t ty col r sat q)) m).getN 0
      (base + 64 * q + widthOf ty / 8 * e) (widthOf ty / 8)) = (w.stored t ty col r sat q e).1 % 2 ^ widthOf ty := by
  have hwidth : 8 * (widthOf ty / 8) = widthOf ty := by rcases hw with hw | hw <;> rw [hw]
  refine Nat.eq_of_testBit_eq fun i => ?_
  rw [testBit_natOfBytes, Nat.testBit_mod_two_pow]
  by_cases hi : i < widthOf ty
  · have hbyte : widthOf ty / 8 * e + i / 8 < (w.storedRow t ty col r sat q).length := by
      rw [length_storedRow]
      rcases hw with hw | hw <;> rw [hw] at hi ⊢ <;> omega
    rw [SMap.getElem?_getN 0 _ _ (by omega), Option.getD_some, Nat.add_assoc,
      SMap.get_foldl_putAll 0 (fun q => base + 64 * q) (w.storedRow t ty col r sat) (List.range 16) m (List.mem_range.2 hq) hbyte fun j hj h1 h2 => ?_,
      decide_eq_true hi, Bool.true_and, ← testBit_storedRow w t ty col r sat hw q he hi, List.getElem?_eq_getElem hbyte, Option.getD_some]
    rw [length_storedRow] at h2 hbyte
    rcases hw with hw | hw <;> rw [hw] at h1 h2 hbyte <;> omega
  · rw [List.getElem?_eq_none (by rw [SMap.length_getN]; omega), decide_eq_false hi, Bool.false_and]
    simp

end

end Sys2Proof.Machine

namespace Sys2Proof.Machine

/-! ## MMA and MMAW (R124, R125, R127, R158, R159) -/

section

variable (w : WG) (phys tile base : Nat) (h : Shape) (win : Option Nat)

/-- The header of block kb of A's row i. -/
def WG.aHeader (i kb : Nat) : Nat := storedHeader w.win base (storedA h win) h.at_ (posOf win i) kb

/-- The header of block kb of B's column j. -/
def WG.bHeader (kb j : Nat) : Nat := slotBits w.slots phys (8 * (h.k * h.n * widthOf h.bt / 8 + 2 * (kb * h.n + j))) 16

/-- A's factor of row i at k. -/
def WG.aFactor (i k : Nat) : FVal :=
  let e := storedElem w.win base (storedA h win) h.at_ h.ao h.sb (posOf win i) k
  if h.sb then blockElem h.at_ (w.aHeader base h win i (k / 64)) (k % 64) e else elementV h.at_ e

/-- B's factor of column j at k. -/
def WG.bFactor (k j : Nat) : FVal :=
  let e := slotBits w.slots phys (widthOf h.bt * (k * h.n + j)) (widthOf h.bt)
  if h.sb then blockElem h.bt (w.bHeader phys h (k / 64) j) (k % 64) e else elementV h.bt e

/-- A's factor by the form of its stored array (R152). -/
theorem WG.aFactor_eq (i k : Nat) : w.aFactor base h win i k =
    if h.sb then blockElem h.at_ (w.aHeader base h win i (k / 64)) (k % 64)
      (storedBits w.win base (storedA h win).cs (posOf win i) (8 * (k / 64 * (2 + 8 * widthOf h.at_) + 2) + widthOf h.at_ * (k % 64)) (widthOf h.at_))
    else elementV h.at_ (if h.ao then storedBits w.win base (storedA h win).cs k (widthOf h.at_ * posOf win i) (widthOf h.at_)
      else storedBits w.win base (storedA h win).cs (posOf win i) (widthOf h.at_ * k) (widthOf h.at_)) := by
  unfold WG.aFactor storedElem blockLen
  cases h.sb <;> simp

/-- Where the accumulator of row i and column j is kept. -/
def accKey (tile : Nat) (h : Shape) (i j : Nat) : Nat := tileKey (tile + i / 16 * (h.n / 16) + j / 16) (i % 16) (j % 16)

/-- The new accumulator of row i and column j, and its flags. -/
def WG.accumulated (i j : Nat) : Nat × Nat :=
  let kc := kMin ((matClass h.bt).getD 3)
  chunksOf (isFloat h.bt) kc (fun x => (w.aFactor base h win i x, w.bFactor phys h x j)) (h.k / kc) 0 (w.tiles.get 0 (accKey tile h i j)).toNat

/-- Whether a block's header has one of its two low bits set (R125). -/
def WG.badBlocks : Bool :=
  h.sb && ((List.range (h.k / 64)).any (fun kb =>
    (List.range h.m).any (fun i => w.aHeader base h win i kb % 4 != 0) || (List.range h.n).any (fun j => w.bHeader phys h kb j % 4 != 0)))

/-- An MMA's tiles and flags as runs of their own. -/
theorem runMma_eq : runMma w phys tile base h win =
    ((List.range (h.m * h.n)).foldl (fun m x => SMap.put 0 m (accKey tile h (x / h.n) (x % h.n))
        (BitVec.ofNat 48 (w.accumulated phys tile base h win (x / h.n) (x % h.n)).1)) w.tiles,
      (List.range (h.m * h.n)).foldl (fun f x => f ||| (w.accumulated phys tile base h win (x / h.n) (x % h.n)).2)
        (if w.badBlocks phys base h win then fBLK else 0)) := by
  have hrun (l : List Nat) (a : SMap (BitVec 48) × Nat) : l.foldl (fun (a : SMap (BitVec 48) × Nat) x =>
        (SMap.put 0 a.1 (accKey tile h (x / h.n) (x % h.n)) (BitVec.ofNat 48 (w.accumulated phys tile base h win (x / h.n) (x % h.n)).1),
          a.2 ||| (w.accumulated phys tile base h win (x / h.n) (x % h.n)).2)) a
      = (l.foldl (fun m x => SMap.put 0 m (accKey tile h (x / h.n) (x % h.n))
            (BitVec.ofNat 48 (w.accumulated phys tile base h win (x / h.n) (x % h.n)).1)) a.1,
          l.foldl (fun f x => f ||| (w.accumulated phys tile base h win (x / h.n) (x % h.n)).2) a.2) := by
    induction l generalizing a with
    | nil => rfl
    | cons n l ih => rw [List.foldl_cons, ih]; rfl
  exact hrun _ (w.tiles, if w.badBlocks phys base h win then fBLK else 0)

end

theorem shapeOf_mn (x : Nat) : ∃ a b, (shapeOf x).m = 16 * a ∧ (shapeOf x).n = 16 * b ∧ 0 < b :=
  ⟨_, _, rfl, rfl, Nat.two_pow_pos _⟩

section

variable {h : Shape} {a b : Nat} (hm : h.m = 16 * a) (hn : h.n = 16 * b)

include hn

theorem accKey_inj (tile : Nat) {i j i' j' : Nat} (hj : j < h.n) (hj' : j' < h.n) (heq : accKey tile h i j = accKey tile h i' j') :
    i = i' ∧ j = j' := by
  unfold accKey tileKey at heq
  rw [hn, Nat.mul_div_cancel_left b (by omega)] at heq
  have hblocks : i / 16 * b + j / 16 = i' / 16 * b + j' / 16 := by omega
  have hcol : j / 16 < b := by omega
  have hcol' : j' / 16 < b := by omega
  have hb : 0 < b := by omega
  have hmod := congrArg (· % b) hblocks
  simp only [Nat.mul_add_mod', Nat.mod_eq_of_lt hcol, Nat.mod_eq_of_lt hcol'] at hmod
  have hdiv : i / 16 = i' / 16 := Nat.eq_of_mul_eq_mul_right hb (by omega)
  omega

include hm

theorem accKey_div (tile : Nat) {i j : Nat} (hi : i < h.m) (hj : j < h.n) :
    tile ≤ accKey tile h i j / 256 ∧ accKey tile h i j / 256 < tile + h.m / 16 * (h.n / 16) := by
  unfold accKey tileKey
  rw [hm, hn, Nat.mul_div_cancel_left b (by omega), Nat.mul_div_cancel_left a (by omega)]
  have hrow : i / 16 + 1 ≤ a := by omega
  have hle := Nat.mul_le_mul_right b hrow
  rw [Nat.add_mul] at hle
  omega

end

/-- A run over all rows and columns, row by row. -/
theorem exists_range_mul {m n : Nat} (P : Nat → Nat → Prop) : (∃ x ∈ List.range (m * n), P (x / n) (x % n)) ↔ ∃ i j, i < m ∧ j < n ∧ P i j := by
  constructor
  · rintro ⟨x, hx, hp⟩
    have hx := List.mem_range.1 hx
    have hn : 0 < n := Nat.pos_of_ne_zero fun h => by subst h; omega
    exact ⟨x / n, x % n, Nat.div_lt_of_lt_mul (by rwa [Nat.mul_comm]), Nat.mod_lt x hn, hp⟩
  · rintro ⟨i, j, hi, hj, hp⟩
    have hle := Nat.mul_le_mul_right n (show i + 1 ≤ m from hi)
    rw [Nat.add_mul] at hle
    refine ⟨i * n + j, List.mem_range.2 (by omega), ?_⟩
    rwa [Nat.mul_comm, Nat.mul_add_div (by omega), Nat.div_eq_of_lt hj, Nat.add_zero, Nat.mul_add_mod, Nat.mod_eq_of_lt hj]

section

variable (w : WG) (phys tile base shape : Nat) (win : Option Nat)

theorem get_runMma {i j : Nat} (hi : i < (shapeOf shape).m) (hj : j < (shapeOf shape).n) :
    (runMma w phys tile base (shapeOf shape) win).1.get 0 (accKey tile (shapeOf shape) i j)
      = BitVec.ofNat 48 (w.accumulated phys tile base (shapeOf shape) win i j).1 := by
  obtain ⟨a, b, hm, hn, hb⟩ := shapeOf_mn shape
  generalize shapeOf shape = h at *
  have hle := Nat.mul_le_mul_right h.n (show i + 1 ≤ h.m from hi)
  rw [Nat.add_mul] at hle
  have hdiv : (i * h.n + j) / h.n = i := by rw [Nat.mul_comm, Nat.mul_add_div (by omega), Nat.div_eq_of_lt hj, Nat.add_zero]
  have hmod : (i * h.n + j) % h.n = j := by rw [Nat.mul_comm, Nat.mul_add_mod, Nat.mod_eq_of_lt hj]
  have hget := SMap.get_foldl_put 0 w.tiles (List.range (h.m * h.n)) (fun x => accKey tile h (x / h.n) (x % h.n))
    (fun x => BitVec.ofNat 48 (w.accumulated phys tile base h win (x / h.n) (x % h.n)).1) (i := i * h.n + j) (List.mem_range.2 (by omega))
    fun x _ hx => by
      obtain ⟨h1, h2⟩ := accKey_inj hn tile (Nat.mod_lt _ (by omega)) (Nat.mod_lt _ (by omega)) hx
      have := Nat.div_add_mod x h.n
      rw [h1, h2, hdiv, hmod, Nat.mul_comm] at this
      exact this.symm
  rw [hdiv, hmod] at hget
  rw [runMma_eq]
  exact hget

theorem get_runMma_other {k : Nat} (hk : k / 256 < tile ∨ tile + (shapeOf shape).m / 16 * ((shapeOf shape).n / 16) ≤ k / 256) :
    (runMma w phys tile base (shapeOf shape) win).1.get 0 k = w.tiles.get 0 k := by
  obtain ⟨a, b, hm, hn, hb⟩ := shapeOf_mn shape
  generalize shapeOf shape = h at *
  rw [runMma_eq]
  refine SMap.get_foldl_put_ne 0 w.tiles _ _ _ fun x hx heq => ?_
  obtain ⟨i, j, hi, hj, hij⟩ := (exists_range_mul (fun i j => accKey tile h i j = k)).1 ⟨x, hx, heq⟩
  obtain ⟨hlow, hhigh⟩ := accKey_div hm hn tile hi hj
  rw [hij] at hlow hhigh
  omega

theorem testBit_runMma (f : Nat) : (runMma w phys tile base (shapeOf shape) win).2.testBit f = true ↔
    (∃ i j, i < (shapeOf shape).m ∧ j < (shapeOf shape).n ∧ (w.accumulated phys tile base (shapeOf shape) win i j).2.testBit f = true)
    ∨ (f = 6 ∧ w.badBlocks phys base (shapeOf shape) win = true) := by
  rw [runMma_eq]
  simp only
  rw [testBit_foldl_or (fun x => (w.accumulated phys tile base (shapeOf shape) win (x / (shapeOf shape).n) (x % (shapeOf shape).n)).2),
    exists_range_mul (fun i j => (w.accumulated phys tile base (shapeOf shape) win i j).2.testBit f = true), or_comm]
  refine or_congr_right ?_
  cases w.badBlocks phys base (shapeOf shape) win with
  | false => simp
  | true => rw [if_pos rfl, show fBLK = 2 ^ 6 from rfl, Nat.testBit_two_pow, decide_eq_true_eq, and_iff_left rfl, eq_comm]

end

theorem WG.badBlocks_iff (w : WG) (phys base : Nat) (h : Shape) (win : Option Nat) : w.badBlocks phys base h win = true ↔
    h.sb = true ∧ ∃ kb, kb < h.k / 64 ∧ ((∃ i, i < h.m ∧ w.aHeader base h win i kb % 4 ≠ 0) ∨ ∃ j, j < h.n ∧ w.bHeader phys h kb j % 4 ≠ 0) := by
  simp [WG.badBlocks]

end Sys2Proof.Machine

namespace Sys2Proof.Machine

/-! ## Exact sums (R127) -/

/-- The number of a signed magnitude and an exponent. -/
def termVal (x : Bool × Nat × Int) : ℚ := (signedMag x.1 x.2.1 : ℚ) * 2 ^ x.2.2

theorem termVal_eq (n : Bool) (m : Nat) (e : Int) : termVal (n, m, e) = finVal (.fin n m e) := by
  cases n <;> simp [termVal, finVal, signedMag]

theorem signedMag_mul (n : Bool) (m k : Nat) : signedMag n (m * k) = signedMag n m * k := by
  cases n <;> simp [signedMag]

theorem signedMag_natAbs (x : Int) : signedMag (x < 0) x.natAbs = x := by
  by_cases hx : x < 0
  · rw [decide_eq_true hx, signedMag, if_pos rfl]
    omega
  · rw [decide_eq_false hx, signedMag, if_neg Bool.false_ne_true]
    omega

/-- A signed magnitude in units of a smaller power. -/
theorem signedMag_units (n : Bool) (m : Nat) {e b : Int} (hb : b ≤ e) :
    ((signedMag n (m * 2 ^ (e - b).toNat) : Int) : ℚ) * 2 ^ b = signedMag n m * 2 ^ e := by
  rw [signedMag_mul, two_zpow_toNat hb, ← mul_assoc]
  push_cast
  rfl

/-- The least exponent of a list, counted from `b`. -/
def leastExp (b : Int) (xs : List (Bool × Nat × Int)) : Int := xs.foldl (fun (a : Int) x => if x.2.2 < a then x.2.2 else a) b

theorem leastExp_le (b : Int) (xs : List (Bool × Nat × Int)) : leastExp b xs ≤ b ∧ ∀ x ∈ xs, leastExp b xs ≤ x.2.2 := by
  induction xs generalizing b with
  | nil => exact ⟨le_rfl, nofun⟩
  | cons y ys ih =>
    obtain ⟨hb, hys⟩ := ih (if y.2.2 < b then y.2.2 else b)
    change leastExp b (y :: ys) ≤ _ at hb
    have hmin : (if y.2.2 < b then y.2.2 else b) ≤ y.2.2 ∧ (if y.2.2 < b then y.2.2 else b) ≤ b := by split <;> omega
    refine ⟨hb.trans hmin.2, fun x hx => ?_⟩
    rcases List.mem_cons.1 hx with rfl | hx
    · exact hb.trans hmin.1
    · exact hys x hx

/-- The exact sum is the sum. -/
theorem exactSum_val (xs : List (Bool × Nat × Int)) : ((exactSum xs).1 : ℚ) * 2 ^ (exactSum xs).2 = (xs.map termVal).sum := by
  have hsum (b : Int) (ys : List (Bool × Nat × Int)) (a : Int) (hb : ∀ x ∈ ys, b ≤ x.2.2) :
      ((ys.foldl (fun (a : Int) x => a + signedMag x.1 (x.2.1 * 2 ^ (x.2.2 - b).toNat)) a : Int) : ℚ) * 2 ^ b
        = a * 2 ^ b + (ys.map termVal).sum := by
    induction ys generalizing a with
    | nil => simp
    | cons y ys ih =>
      rw [List.foldl_cons, ih _ fun x hx => hb x (List.mem_cons_of_mem _ hx), Int.cast_add, add_mul,
        signedMag_units _ _ (hb y List.mem_cons_self), List.map_cons, List.sum_cons, add_assoc]
      rfl
  have := hsum (exactSum xs).2 xs 0 (leastExp_le 0 xs).2
  rwa [Int.cast_zero, zero_mul, zero_add] at this

/-- The sum of two numbers, with its sign where it is not 0. -/
theorem addExact_val (r : Rnd) (n1 : Bool) (m1 : Nat) (e1 : Int) (n2 : Bool) (m2 : Nat) (e2 : Int)
    (hne : termVal (n1, m1, e1) + termVal (n2, m2, e2) ≠ 0) :
    termVal (addExact r n1 m1 e1 n2 m2 e2) = termVal (n1, m1, e1) + termVal (n2, m2, e2) := by
  obtain ⟨b, hb⟩ : ∃ b, b = if e1 ≤ e2 then e1 else e2 := ⟨_, rfl⟩
  have hle : b ≤ e1 ∧ b ≤ e2 := by rw [hb]; split <;> omega
  have hsum : ((signedMag n1 (m1 * 2 ^ (e1 - b).toNat) + signedMag n2 (m2 * 2 ^ (e2 - b).toNat) : Int) : ℚ) * 2 ^ b
      = termVal (n1, m1, e1) + termVal (n2, m2, e2) := by
    rw [Int.cast_add, add_mul, signedMag_units _ _ hle.1, signedMag_units _ _ hle.2]
    rfl
  unfold addExact
  simp only
  rw [← hb, if_neg]
  · rw [termVal]
    simp only
    rw [signedMag_natAbs, hsum]
  · intro h
    rw [h, Int.cast_zero, zero_mul] at hsum
    exact hne hsum.symm

/-- A number that is not 0 has one sign and one magnitude. -/
theorem termVal_inj {n n' : Bool} {m m' : Nat} {e e' : Int} (hm : m ≠ 0) (h : termVal (n, m, e) = termVal (n', m', e')) :
    n = n' ∧ (m : ℚ) * 2 ^ e = m' * 2 ^ e' := by
  have hpos : (0 : ℚ) < m * 2 ^ e := mul_pos (Nat.cast_pos.2 (Nat.pos_of_ne_zero hm)) (by positivity)
  have hnonneg : (0 : ℚ) ≤ m' * 2 ^ e' := by positivity
  simp only [termVal, signedMag] at h
  cases n <;> cases n' <;> simp at h
  · exact ⟨rfl, h⟩
  · linarith
  · linarith
  · exact ⟨rfl, h⟩

theorem w48_regular : w48.Regular := regular_of_mem (by simp)

/-- A value that an accumulator holds is delivered as the accumulator (R114). -/
theorem roundF_decodeF {acc : Nat} (hacc : acc < 2 ^ 48) {n : Bool} {m : Nat} {e : Int} (hdec : decodeF w48 acc = .fin n m e) (hm : m ≠ 0) :
    roundF w48 .rn false false n m e = (acc, 0) := by
  obtain ⟨p, hp, rfl, rfl, rfl⟩ := finite_of_decodeF w48_regular hacc hdec
  exact roundF_sig_expo w48_regular .rn false false n hp hm nofun

/-! ## The chunks (R127) -/

/-- Factors that are finite. -/
def FinitePairs (ps : List (FVal × FVal)) : Prop := ∀ p ∈ ps, (∃ n m e, p.1 = .fin n m e) ∧ ∃ n m e, p.2 = .fin n m e

theorem FinitePairs.cons {p : FVal × FVal} {ps : List (FVal × FVal)} (h : FinitePairs (p :: ps)) :
    (∃ n m e n' m' e', p = (.fin n m e, .fin n' m' e')) ∧ FinitePairs ps := by
  obtain ⟨⟨n, m, e, h1⟩, n', m', e', h2⟩ := h p List.mem_cons_self
  exact ⟨⟨n, m, e, n', m', e', Prod.ext h1 h2⟩, fun q hq => h q (List.mem_cons_of_mem _ hq)⟩

theorem termVal_mul (n m e n' m' e') : termVal (n != n', m * m', e + e') = finVal (.fin n m e) * finVal (.fin n' m' e') := by
  rw [termVal_eq]
  cases n <;> cases n' <;> simp [finVal, zpow_add₀] <;> ring

theorem FinitePairs.sum_finProd {ps : List (FVal × FVal)} (h : FinitePairs ps) :
    ((ps.filterMap finProd).map termVal).sum = (ps.map (fun p => finVal p.1 * finVal p.2)).sum := by
  induction ps with
  | nil => rfl
  | cons p ps ih =>
    obtain ⟨⟨n, m, e, n', m', e', rfl⟩, hps⟩ := h.cons
    rw [List.filterMap_cons_some (f := finProd) (b := (n != n', m * m', e + e')) rfl, List.map_cons, List.sum_cons, List.map_cons, List.sum_cons, ih hps, termVal_mul]

theorem FinitePairs.ordinary {ps : List (FVal × FVal)} (h : FinitePairs ps) :
    ps.any (fun p => p.1.isNan || p.2.isNan) = false ∧ ps.any (fun p => zeroTimesInf p.1 p.2) = false ∧ ps.filterMap infProd = [] := by
  induction ps with
  | nil => exact ⟨rfl, rfl, rfl⟩
  | cons p ps ih =>
    obtain ⟨⟨n, m, e, n', m', e', rfl⟩, hps⟩ := h.cons
    obtain ⟨h1, h2, h3⟩ := ih hps
    exact ⟨by rw [List.any_cons, h1]; rfl, by rw [List.any_cons, h2]; rfl, by rw [List.filterMap_cons_none rfl, h3]⟩

/-- A chunk of finite factors. -/
theorem chunkAdd_finite {acc : Nat} {ps : List (FVal × FVal)} {an : Bool} {am : Nat} {ae : Int} (hacc : decodeF w48 acc = .fin an am ae)
    (hps : FinitePairs ps) (hzero : (exactSum (ps.filterMap finProd)).1 = 0 → am ≠ 0) :
    chunkAdd acc ps =
      let sm := (exactSum (ps.filterMap finProd)).1
      let v := addExact .rn an am ae (sm < 0) sm.natAbs (exactSum (ps.filterMap finProd)).2
      if sm = 0 then (acc, 0)
      else ((roundF w48 .rn false false v.1 v.2.1 v.2.2).1, (roundF w48 .rn false false v.1 v.2.1 v.2.2).2 &&& fOF) := by
  obtain ⟨hnan, hzi, hinf⟩ := hps.ordinary
  have hfin : (FVal.fin an am ae).isNan = false := rfl
  unfold chunkAdd
  simp only [hacc, hfin, hnan, hzi, hinf, Bool.or_self, Bool.false_eq_true, if_false, List.nil_append, List.contains_nil, Bool.and_self]
  by_cases hsm : (exactSum (ps.filterMap finProd)).1 = 0
  · simp [hsm, hzero hsm]
  · simp [hsm]

theorem chunkAdd_special {acc : Nat} {ps : List (FVal × FVal)}
    (h : (decodeF w48 acc).isNan = true ∨ (∃ p ∈ ps, p.1.isNan = true ∨ p.2.isNan = true ∨ zeroTimesInf p.1 p.2 = true)) :
    (chunkAdd acc ps).1 = defaultNan w48 := by
  unfold chunkAdd
  simp only
  by_cases hnan : ((decodeF w48 acc).isNan || ps.any (fun p => p.1.isNan || p.2.isNan)) = true
  · rw [if_pos hnan]
  · have hzi : ps.any (fun p => zeroTimesInf p.1 p.2) = true := by
      simp only [Bool.or_eq_true, List.any_eq_true, not_or, not_exists, not_and] at hnan
      obtain ⟨hacc, hps⟩ := hnan
      obtain ⟨p, hp, hcase⟩ := h.resolve_left hacc
      obtain ⟨h1, h2⟩ := hps p hp
      exact List.any_eq_true.2 ⟨p, hp, (hcase.resolve_left h1).resolve_left h2⟩
    rw [if_neg hnan, if_pos hzi]

/-- A chunk of finite factors is one rounding of the exact sum. -/
theorem chunkAdd_eq_roundF {acc : Nat} (hlt : acc < 2 ^ 48) {ps : List (FVal × FVal)} (hacc : ∃ n m e, decodeF w48 acc = .fin n m e)
    (hps : FinitePairs ps) (neg : Bool) {m : Nat} (hm : m ≠ 0) (e : Int)
    (hval : termVal (neg, m, e) = finVal (decodeF w48 acc) + (ps.map (fun p => finVal p.1 * finVal p.2)).sum) :
    chunkAdd acc ps = ((roundF w48 .rn false false neg m e).1, (roundF w48 .rn false false neg m e).2 &&& fOF) := by
  obtain ⟨an, am, ae, hdec⟩ := hacc
  have hne : termVal (neg, m, e) ≠ 0 := by
    rw [termVal_eq, finVal]
    exact mul_ne_zero (mul_ne_zero (by cases neg <;> simp) (Nat.cast_ne_zero.2 hm)) (by positivity)
  rw [← hps.sum_finProd, ← exactSum_val, hdec, ← termVal_eq] at hval
  have hzero : (exactSum (ps.filterMap finProd)).1 = 0 → am ≠ 0 := by
    rintro hsm rfl
    rw [hsm] at hval
    exact hne (by rw [hval]; simp [termVal, signedMag])
  rw [chunkAdd_finite hdec hps hzero]
  generalize exactSum (ps.filterMap finProd) = es at *
  obtain ⟨sm, se⟩ := es
  simp only at *
  split
  · next hsm =>
    rw [hsm, Int.cast_zero, zero_mul, add_zero] at hval
    obtain ⟨rfl, heq⟩ := termVal_inj hm hval
    rw [roundF_congr w48_regular .rn false false neg heq, roundF_decodeF hlt hdec (hzero hsm)]
    simp only [Nat.zero_and]
  · have hterm : (sm : ℚ) * 2 ^ se = termVal (sm < 0, sm.natAbs, se) := by
      rw [termVal]
      simp only
      rw [signedMag_natAbs]
    rw [hterm] at hval
    rw [← addExact_val .rn an am ae _ _ se (hval ▸ hne)] at hval
    generalize addExact .rn an am ae (sm < 0) sm.natAbs se = v at *
    obtain ⟨n', m', e'⟩ := v
    obtain ⟨rfl, heq⟩ := termVal_inj hm hval
    rw [roundF_congr w48_regular .rn false false neg heq]

/-- A chunk of finite factors in integers: the sum's nearest integer, ties to even, added and clamped. -/
theorem chunkInt_eq {acc : Nat} {ps : List (FVal × FVal)} (hps : FinitePairs ps) :
    let sum := (ps.map (fun p => finVal p.1 * finVal p.2)).sum
    ∃ k : Int, |(k : ℚ) - sum| ≤ 1 / 2 ∧ (|(k : ℚ) - sum| = 1 / 2 → k % 2 = 0)
      ∧ let v := signedOf 48 acc + k
        let kept := max (-(2 ^ 47 : Int)) (min v (2 ^ 47 - 1))
        chunkInt acc ps = ((kept % ((2 ^ 48 : Nat) : Int)).toNat, if kept = v then 0 else fSAT) := by
  intro sum
  have hsum : ((exactSum (ps.filterMap finProd)).1 : ℚ) * 2 ^ (exactSum (ps.filterMap finProd)).2 = sum :=
    (exactSum_val _).trans hps.sum_finProd
  unfold chunkInt
  generalize exactSum (ps.filterMap finProd) = es at *
  obtain ⟨sm, se⟩ := es
  simp only at *
  have hrounds := (roundTo_rounds .rn (sm < 0) sm.natAbs se 0).nearest rfl
  generalize (roundTo .rn (sm < 0) sm.natAbs se 0).1 = n at *
  rw [zpow_zero, mul_one] at hrounds
  have habs : |((signedMag (sm < 0) n : Int) : ℚ) - sum| = |(n : ℚ) - sm.natAbs * 2 ^ se| := by
    rw [← hsum]
    by_cases hneg : sm < 0
    · rw [decide_eq_true hneg, signedMag, if_pos rfl, ← abs_neg]
      congr 1
      have hcast : ((sm.natAbs : Nat) : ℚ) = -(sm : ℚ) := by
        rw [← Int.cast_natCast, Int.ofNat_natAbs_of_nonpos hneg.le, Int.cast_neg]
      rw [hcast]
      push_cast
      ring
    · rw [decide_eq_false hneg, signedMag, if_neg Bool.false_ne_true]
      have hcast : ((sm.natAbs : Nat) : ℚ) = (sm : ℚ) := by rw [← Int.cast_natCast, Int.natAbs_of_nonneg (by omega)]
      rw [hcast, Int.cast_natCast]
  refine ⟨signedMag (sm < 0) n, by rw [habs]; linarith [hrounds.1], fun h => ?_, ?_⟩
  · rw [habs] at h
    have heven := hrounds.2 (by linarith)
    unfold signedMag
    split <;> omega
  · rw [int48]
    generalize signedOf 48 acc + signedMag (sm < 0) n = v
    unfold wrapTo
    split
    · rw [show max (-(2 ^ 47 : Int)) (min v (2 ^ 47 - 1)) = 2 ^ 47 - 1 by omega, if_neg (by omega)]
    · split
      · rw [show max (-(2 ^ 47 : Int)) (min v (2 ^ 47 - 1)) = -(2 ^ 47) by omega, if_neg (by omega)]
      · rw [show max (-(2 ^ 47 : Int)) (min v (2 ^ 47 - 1)) = v by omega, if_pos rfl]

end Sys2Proof.Machine

section
open Sys2Proof Sys2Proof.Machine

/-- Settles O59, entry by entry: each store as a run of writes at places of its own, and the chunks by their exact sums. -/
theorem matrixEntries : Obligations.MatrixEntries := by
  unfold Obligations.MatrixEntries
  refine ⟨fun w t n => ?_, fun w x y _ _ => ?_, ?_, ?_, ?_, ?_, ?_, fun float kc prod n c acc => ⟨rfl, rfl⟩, ?_⟩
  · exact ⟨get_zeroed w.tiles t n, get_zeroed w.commit t n, rfl, rfl⟩
  · exact ⟨fun i hi => physOf_swapMap w.smap x y hi, rfl, rfl⟩
  · intro win base cs r at_ len i hi c
    exact testBit_storedBits win base cs r at_ hi
  · intro w b base shape
    obtain ⟨hslots, hdescs, hrest, hflags⟩ := runEntry_mldb w b base shape
    intro h p v a m hbad _
    have hbytes := slotBytes_le hbad
    rw [show v.slots = _ from hslots, show v.descs = _ from hdescs]
    refine ⟨fun k n hk hn => ?_, fun hsb kb n hk hn => ?_, fun j hj => ?_, fun i hi => ?_, hrest, hflags⟩
    · exact (slotBits_elem w.slots w.win p base h hbytes hk hn).trans (storedElem_eq w.win base h n k)
    · exact slotBits_header w.slots w.win p base h hbytes hsb hk hn
    · exact get_putAll_slotImage_other w.slots w.win p base h hj
    · rw [List.getD_eq_getElem?_getD, List.getElem?_map, List.getElem?_range hi]
      rfl
  · intro w t base ty col r b el key
    have hrun : r = _ := w.runMlda_eq t base ty col
    have hkey (q e : Nat) : key q e = oriKey t col q e := rfl
    rw [hrun]
    dsimp only
    refine ⟨fun q e hq he => ?_, fun k hk => ⟨get_loadTile_other w t base ty col w.tiles hk, get_loadTile_other w t base ty col w.commit hk⟩, rfl, fun f => ?_⟩
    · exact ⟨get_loadTile w t base ty col w.tiles hq he, get_loadTile w t base ty col w.commit hq he⟩
    · have hall := exists_range_mul (m := 16) (n := 16) (fun q e => (el q e).2.testBit f = true)
      rw [← hall]
      refine (testBit_foldl_or (fun n => (w.loaded base ty (n / 16) (n % 16)).2) (List.range 256) 0 f).trans ?_
      rw [Nat.zero_testBit, or_iff_right Bool.false_ne_true]
      rfl
  · intro w t base ty col rnd sat hw r b el
    have hrun : r = _ := w.runMsta_eq t base ty col rnd sat
    rw [hrun]
    dsimp only
    refine ⟨fun q e hq he => getN_storedRows w t base ty col rnd sat hw w.win hq he, fun a ha => ?_, rfl, fun f => ?_⟩
    · refine SMap.get_foldl_putAll_other 0 (fun q => base + 64 * q) (w.storedRow t ty col rnd sat) _ _ fun q hq => ?_
      have := ha q (List.mem_range.1 hq)
      rw [length_storedRow]
      omega
    · refine (testBit_foldl (b := f) (P := fun q => ∃ e ∈ List.range 16, (el q e).2.testBit f = true)
        (fun a q => testBit_foldl_or (fun e => (w.stored t ty col rnd sat q e).2) (List.range 16) a f) (List.range 16) 0).trans ?_
      simp
  · intro w tile base shape slot win h r p cs aHdr bHdr a b key kc el
    have ha (i k : Nat) : a i k = w.aFactor base h win i k := by
      rw [WG.aFactor_eq]
      rfl
    have hel (i j : Nat) : el i j = w.accumulated p tile base h win i j := by
      simp only [el, ha]
      rfl
    simp only [hel]
    refine ⟨fun i j hi hj => get_runMma w p tile base shape win hi hj, fun k hk => get_runMma_other w p tile base shape win hk, rfl, fun f => ?_⟩
    refine (testBit_runMma w p tile base shape win f).trans ?_
    rw [w.badBlocks_iff]
    rfl
  · intro acc ps special finite sum
    refine ⟨chunkAdd_special, fun hfin hlt neg m e hm hval => ?_, fun hfin => chunkInt_eq hfin.2⟩
    exact chunkAdd_eq_roundF hlt hfin.1 hfin.2 neg hm e ((termVal_eq neg m e).trans hval)
end

/-! SUPPORT and PROOF of the copy sectors (O60): the elements of a command, what it reads and when, the domain's tree, and what a sector writes. -/

namespace Sys2Proof

/-- What a map lists at a key is what it holds there. -/
theorem SMap.get_of_mem {α : Type} (d : α) {m : SMap α} (hm : (m.map (fun e => e.1)).Pairwise (· < ·)) {e : Nat × α} (he : e ∈ m) : m.get d e.1 = e.2 := by
  induction m with
  | nil => cases he
  | cons x m ih =>
    obtain ⟨hx, hm⟩ := List.pairwise_cons.1 hm
    rcases List.mem_cons.1 he with rfl | he
    · simp [SMap.get]
    · have hne : x.1 ≠ e.1 := (hx _ (List.mem_map_of_mem he)).ne
      simpa [SMap.get, hne] using ih hm he

/-- A key that a map does not list holds the default. -/
theorem SMap.get_of_not_mem {α : Type} (d : α) {m : SMap α} {k : Nat} (hk : ∀ e ∈ m, e.1 ≠ k) : m.get d k = d := by
  induction m with
  | nil => rfl
  | cons x m ih =>
    simpa [SMap.get, hk x List.mem_cons_self] using ih fun e he => hk e (List.mem_cons_of_mem _ he)

end Sys2Proof

namespace Sys2Proof.Machine

/-! ## Elements (R218, R219) -/

theorem bitsOf_eq_div (x lo n : Nat) : bitsOf x lo n = x / 2 ^ lo % 2 ^ n := by rw [bitsOf, Nat.shiftRight_eq_div_pow]

theorem signedOf_16 (x : Nat) : signedOf 16 (x % 2 ^ 16) = if x % 2 ^ 16 < 2 ^ 15 then ((x % 2 ^ 16 : Nat) : Int) else ((x % 2 ^ 16 : Nat) : Int) - 2 ^ 16 := by
  unfold signedOf
  simp only [Nat.mod_mod]
  rfl

/-- Row and column at global memory, where the tile's origin and (r, c) put them inside. -/
theorem insideAt_eq (d r c : Nat) : insideAt d r c =
    if 0 ≤ dY0 d + (r : Int) ∧ dY0 d + (r : Int) < (dGrows d : Int) ∧ 0 ≤ dX0 d + (c : Int) ∧ dX0 d + (c : Int) < (dGcols d : Int) then
      some ((dY0 d + (r : Int)).toNat, (dX0 d + (c : Int)).toNat)
    else none := rfl

theorem mem_piecesOf {size a n x : Nat} : x ∈ piecesOf size a n ↔ a / size ≤ x ∧ x ≤ (a + n - 1) / size := by
  unfold piecesOf
  simp only [List.mem_map, List.mem_range]
  constructor
  · rintro ⟨j, hj, rfl⟩
    omega
  · rintro ⟨hlow, hhigh⟩
    exact ⟨x - a / size, by omega, by omega⟩

theorem div_mem_piecesOf {size a n i : Nat} (hi : i < n) : (a + i) / size ∈ piecesOf size a n :=
  mem_piecesOf.2 ⟨Nat.div_le_div_right (by omega), Nat.div_le_div_right (by omega)⟩

theorem mem_elemsOf {cmd d slot : Nat} {idx : List Nat} {e : CElem} :
    e ∈ elemsOf cmd d slot idx ↔ ∃ r c, r < dRows d ∧ c < dCols d ∧ elemAt cmd d slot idx r c = some e := by
  simp only [elemsOf, List.mem_flatMap, List.mem_range, List.mem_filterMap]
  constructor
  · rintro ⟨r, hr, c, hc, he⟩
    exact ⟨r, c, hr, hc, he⟩
  · rintro ⟨r, c, hr, hc, he⟩
    exact ⟨r, hr, c, hc, he⟩

/-! ## What a command reads, each place once (R192, R194) -/

/-- A place is filled once: where it is read first. -/
theorem get_foldl_fill {α : Type} [DecidableEq α] (v : Nat → List α) (ks : List Nat) (m : SMap (List α)) (k : Nat) :
    (ks.foldl (fun m k => if (m.get [] k).isEmpty then m.put [] k (v k) else m) m).get [] k
      = if m.get [] k = [] ∧ k ∈ ks then v k else m.get [] k := by
  induction ks generalizing m with
  | nil => simp
  | cons j ks ih =>
    rw [List.foldl_cons, ih]
    by_cases hj : k = j
    · subst hj
      by_cases hempty : m.get [] k = []
      · simp [hempty, SMap.get_put_same]
      · simp [hempty]
    · have hstep : (if (m.get [] j).isEmpty then m.put [] j (v j) else m).get [] k = m.get [] k := by
        split
        · exact SMap.get_put_other [] m _ hj
        · rfl
      rw [hstep]
      simp [hj]

section

variable (s : State) (win : SMap Byte) (ctx : Nat) (c : CopyCmd) (es : List CElem)

/-- The size of a command's source elements. -/
abbrev CopyCmd.srcSize (c : CopyCmd) : Nat := widthOf (dStype (descNum c.desc)) / 8

theorem get_readPlaces (k : Nat) : (c.readPlaces s win ctx es).srcs.get [] k =
    if c.srcs.get [] k = [] ∧ ∃ e ∈ es, k ∈ e.src.places c.srcSize then s.placeNow win ctx k else c.srcs.get [] k := by
  refine (get_foldl_fill (s.placeNow win ctx) (es.flatMap fun e => e.src.places c.srcSize) c.srcs k).trans ?_
  simp only [List.mem_flatMap]

theorem placeNow_glob {a : Nat} {tr : Trans} (h : s.checkPage ctx (32 * a) true false false = .ok tr) :
    s.placeNow win ctx (3 * a) = s.mem.readN tr.key tr.pa 32 := by
  rw [State.placeNow, Nat.mul_mod_right, Nat.mul_div_cancel_left a (by omega)]
  simp only [h]

theorem placeNow_scr (a : Nat) : s.placeNow win ctx (3 * a + 1) = win.getN 0 (64 * a) 64 := by
  rw [State.placeNow, Nat.mul_add_mod, Nat.mul_add_div (by omega)]
  rfl

theorem placeNow_manifest (p : Nat) {bs : List Byte} {fl : Nat} (h : s.manifestOf ctx p = .ok bs fl) : s.placeNow win ctx (3 * p + 2) = bs := by
  rw [State.placeNow, Nat.mul_add_mod, Nat.mul_add_div (by omega)]
  simp only [show (2 : Nat) / 3 = 0 from rfl, Nat.add_zero, h]

theorem mem_placeLines_glob {a : Nat} {tr : Trans} (h : s.checkPage ctx (32 * a) true false false = .ok tr) :
    (tr.pa, tr.key) ∈ s.placeLines ctx (3 * a) := by
  rw [State.placeLines, Nat.mul_mod_right, Nat.mul_div_cancel_left a (by omega)]
  simp [h]

theorem exists_fetchSources : ∃ ps, s.fetchSources ctx c es = s.fetchLines ps
    ∧ ∀ a tr, (∃ e ∈ es, 3 * a ∈ e.src.places c.srcSize) → c.srcs.get [] (3 * a) = [] →
      s.checkPage ctx (32 * a) true false false = .ok tr → (tr.pa, tr.key) ∈ ps := by
  refine ⟨_, rfl, fun a tr hplace hempty hcheck => List.mem_flatMap.2 ⟨3 * a, ?_, mem_placeLines_glob s ctx hcheck⟩⟩
  rw [List.mem_dedup, List.mem_filter, hempty]
  exact ⟨List.mem_flatMap.2 hplace, rfl⟩

end

/-! ## The value of an element (R121, R217, R218) -/

section

variable (s : State) (ctx : Nat) (c : CopyCmd) (e : CElem)

/-- An element whose source is the number x. -/
def elemOf (d n x : Nat) : CRead := .ok (bytesOf n (copyConvert d x).1) (copyConvert d x).2

theorem elemBytes_scr {a : Nat} (h : e.src = .scr a) : s.elemBytes ctx c e = elemOf (descNum c.desc) e.n (c.srcNat 1 64 a c.srcSize) := by
  rw [State.elemBytes, h]
  rfl

theorem copyLoad_ok {va n : Nat} {ts : List Trans} (h : s.access ctx va n 1 true false false = .ok ts)
    (hp : ∀ p ∈ placeBytes va n ts, s.poisoned p.1 1 = none) : ∃ bs, s.copyLoad ctx va n = .ok bs 0 := by
  rw [State.copyLoad, h]
  simp only
  rw [List.findSome?_eq_none_iff.2 hp]
  exact ⟨_, rfl⟩

theorem elemBytes_glob {va : Nat} {ts : List Trans} (h : e.src = .glob va) (hacc : s.access ctx va c.srcSize 1 true false false = .ok ts)
    (hp : ∀ p ∈ placeBytes va c.srcSize ts, s.poisoned p.1 1 = none) :
    s.elemBytes ctx c e = elemOf (descNum c.desc) e.n (c.srcNat 0 32 va c.srcSize) := by
  obtain ⟨bs, hload⟩ := copyLoad_ok s ctx hacc hp
  rw [State.elemBytes, h]
  simp only
  rw [show s.copyLoad ctx va (sizeOf' (dStype (descNum c.desc))) = .ok bs 0 from hload]
  rfl

theorem manifestOf_ok {p : Nat} {tr : Trans} (halign : p % 65536 = 0) (hcheck : s.checkPage ctx p true false false = .ok tr)
    (hp : s.poisoned tr.pa 65536 = none) : s.manifestOf ctx p =
      .ok (bytesOf 8 p ++ bytesOf 8 tr.dgen ++ sha3Bytes (s.mem.readN tr.key tr.pa 65536) ++ bytesOf 16 0) 0 := by
  rw [State.manifestOf, if_neg (by omega), hcheck]
  simp only
  rw [hp]

theorem elemBytes_manifest {p : Nat} (h : e.src = .manifest p) {bs : List Byte} {fl : Nat} (hm : s.manifestOf ctx p = .ok bs fl) :
    s.elemBytes ctx c e = .ok (c.srcs.get [] (3 * p + 2)) 0 := by
  rw [State.elemBytes, h]
  simp only
  rw [hm]

theorem elemBytes_reduce {i a : Nat} (h : e.src = .reduce i a) :
    s.elemBytes ctx c e = .ok (bytesOf e.n (s.reduceElem (descNum c.desc) (c.srcNat 1 64 a c.srcSize) i).1)
      (s.reduceElem (descNum c.desc) (c.srcNat 1 64 a c.srcSize) i).2 := by
  rw [State.elemBytes, h]
  rfl

end

/-! ## The domain's tree (R232) -/

theorem mem_domainSet {s : State} (hs : (s.domain.map (fun e => e.1)).Pairwise (· < ·)) {k : Nat} :
    k ∈ s.domainSet ↔ (s.domain.get 0 k).getLsbD 0 = true ∧ (s.domain.get 0 k).getLsbD 1 = true := by
  simp only [State.domainSet, List.mem_map, List.mem_filter, Bool.and_eq_true]
  constructor
  · rintro ⟨e, ⟨he, h0, h1⟩, rfl⟩
    rw [SMap.get_of_mem 0 hs he]
    exact ⟨h0, h1⟩
  · rintro ⟨h0, h1⟩
    by_contra hnone
    rw [SMap.get_of_not_mem 0 (m := s.domain) fun e he hk => hnone ⟨e, ⟨he, ?_⟩, hk⟩] at h0
    · simp at h0
    · rw [← SMap.get_of_mem 0 hs he, hk]
      exact ⟨h0, h1⟩

theorem domainSet_sorted {s : State} (hs : (s.domain.map (fun e => e.1)).Pairwise (· < ·)) : s.domainSet.Pairwise (· < ·) := by
  unfold State.domainSet
  rw [List.pairwise_map] at hs ⊢
  exact hs.filter _

/-- The members of a domain reduction, in ascending order. -/
theorem members_eq {s : State} {members : List Nat} (hsorted : members.Pairwise (· < ·))
    (hmem : ∀ k, k ∈ members ↔ k = s.lodge.domain ∨ ((s.domain.get 0 k).getLsbD 0 = true ∧ (s.domain.get 0 k).getLsbD 1 = true))
    (hs : (s.domain.map (fun e => e.1)).Pairwise (· < ·)) : unionSet [s.lodge.domain] s.domainSet = members := by
  have hset : (unionSet [s.lodge.domain] s.domainSet).Pairwise (· < ·) := insertSet_sorted (domainSet_sorted hs)
  refine hset.eq_of_mem_iff hsorted fun k => ?_
  rw [mem_unionSet, List.mem_singleton, hmem, mem_domainSet hs]

theorem levels_eq {n levels : Nat} (hle : n ≤ 2 ^ levels) (hlt : ∀ k, k < levels → 2 ^ k < n) (h8 : levels ≤ 8) :
    ((List.range 9).find? (fun k => n ≤ 2 ^ k)).getD 8 = levels := by
  have hfind : (List.range 9).find? (fun k => n ≤ 2 ^ k) = some levels := by
    rw [List.find?_range_eq_some]
    exact ⟨by simpa using hle, List.mem_range.2 (by omega), fun j hj => by simpa using hlt j hj⟩
  rw [hfind]
  rfl

end Sys2Proof.Machine

namespace Sys2Proof.Machine

/-! ## Reading memory under the key that it was written under (R177, R178) -/

section

variable (m : Mem) (key : Nat)

theorem Mem.rekey_keyOf (line k : Nat) : (m.rekey key line).keyOf k = m.keyOf k := by
  unfold Mem.rekey
  dsimp only
  split
  · rfl
  · split <;> rfl

theorem Mem.rekey_keys_other {line j : Nat} (hj : j ≠ line) : (m.rekey key line).keys.get .none j = m.keys.get .none j := by
  unfold Mem.rekey
  dsimp only
  split
  · rfl
  · split <;> exact SMap.get_put_other _ _ _ hj

/-- A local line stands under the key that it was taken under. -/
theorem Mem.rekey_keys_same {line : Nat} (hline : isLocal (line * 128) = true) : (m.rekey key line).keys.get .none line = m.keyOf key := by
  unfold Mem.rekey
  simp only [hline, Bool.not_true, Bool.false_or, decide_eq_true_eq]
  split
  · assumption
  · split <;> exact SMap.get_put_same _ _ _ _

theorem isLocal_line (a : Nat) : isLocal (a / 128 * 128) = isLocal a := by
  unfold isLocal
  rw [decide_eq_decide]
  omega

/-- A byte that stands under the reader's key is the stored byte. -/
theorem Mem.read_own {a : Nat} (h : isLocal a = false ∨ m.keys.get .none (a / 128) = .none ∨ m.keys.get .none (a / 128) = m.keyOf key) :
    m.read key a = m.bytes.get unlisted a := by
  unfold Mem.read
  dsimp only
  rw [if_pos (by simpa [or_assoc] using h)]

/-- A byte's reading rests on the bytes and the keys of its line. -/
theorem Mem.read_congr {m m' : Mem} {a : Nat} (hbytes : ∀ b, b / 128 = a / 128 → m'.bytes.get unlisted b = m.bytes.get unlisted b)
    (hkeys : m'.keys.get .none (a / 128) = m.keys.get .none (a / 128)) (hkey : m'.keyOf key = m.keyOf key) : m'.read key a = m.read key a := by
  have hblock : m'.bytes.getN unlisted (a / 16 * 16) 16 = m.bytes.getN unlisted (a / 16 * 16) 16 := by
    refine List.ext_getElem? fun i => ?_
    by_cases hi : i < 16
    · rw [SMap.getElem?_getN _ _ _ hi, SMap.getElem?_getN _ _ _ hi, hbytes _ (by omega)]
    · rw [List.getElem?_eq_none (by rw [SMap.length_getN]; omega), List.getElem?_eq_none (by rw [SMap.length_getN]; omega)]
  unfold Mem.read
  dsimp only
  rw [hbytes a rfl, hkeys, hkey, hblock]

theorem Mem.getElem?_readN (pa : Nat) {n i : Nat} (hi : i < n) : (m.readN key pa n)[i]? = some (m.read key (pa + i)) := by
  induction n generalizing pa i with
  | zero => cases hi
  | succ n ih =>
    cases i with
    | zero => rfl
    | succ i => rw [Mem.readN, List.getElem?_cons_succ, ih _ (by omega), Nat.add_right_comm, Nat.add_assoc]

/-- Taking a line under a key changes nothing that is read under it. -/
theorem Mem.rekey_read (line a : Nat) : (m.rekey key line).read key a = m.read key a := by
  by_cases hline : a / 128 = line
  · subst hline
    unfold Mem.rekey
    dsimp only
    split
    · rfl
    · next hforeign =>
      split
      · next hnone =>
        rw [m.read_own key (.inr (.inl hnone))]
        exact Mem.read_own _ key (.inr (.inr (SMap.get_put_same _ _ _ _)))
      · refine (Mem.read_own _ key (.inr (.inr (SMap.get_put_same _ _ _ _)))).trans ?_
        dsimp only
        rw [SMap.get_putAll, if_pos (by omega), m.getElem?_readN key _ (by omega), Option.getD_some]
        congr 1
        omega
  · exact Mem.read_congr key (fun b hb => Mem.rekey_raw m key line b (by omega)) (m.rekey_keys_other key hline) (m.rekey_keyOf key line key)

/-- A byte reads as what was written under the key. -/
theorem Mem.write_read (pa : Nat) (b : Byte) (a : Nat) : (m.write key pa b).read key a = if a = pa then b else m.read key a := by
  have hraw {j : Nat} (hj : j ≠ pa) : (m.write key pa b).bytes.get unlisted j = (m.rekey key (pa / 128)).bytes.get unlisted j :=
    SMap.get_put_other _ _ _ hj
  have hown (j : Nat) (hj : j / 128 = pa / 128) : isLocal j = false ∨ (m.rekey key (pa / 128)).keys.get .none (j / 128) = .none
      ∨ (m.rekey key (pa / 128)).keys.get .none (j / 128) = (m.rekey key (pa / 128)).keyOf key := by
    cases hlocal : isLocal j with
    | false => exact .inl rfl
    | true => rw [hj, m.rekey_keyOf, m.rekey_keys_same key (by rw [← hj, isLocal_line, hlocal])]; exact .inr (.inr rfl)
  split
  · next heq =>
    subst heq
    rw [Mem.read_own (m.write key a b) key (hown a rfl), Mem.write_raw_same]
  · next hne =>
    rw [← m.rekey_read key (pa / 128) a]
    by_cases hline : a / 128 = pa / 128
    · rw [Mem.read_own (m.write key pa b) key (hown a hline), Mem.read_own _ key (hown a hline), hraw hne]
    · exact Mem.read_congr key (fun j hj => hraw (by rintro rfl; exact hline hj.symm)) rfl rfl

theorem Mem.writeCells_read_other (cs : List Host.Cell) {a : Nat} (h : ∀ c ∈ cs, c.1 ≠ a) : (m.writeCells key cs).read key a = m.read key a := by
  unfold Mem.writeCells
  induction cs generalizing m with
  | nil => rfl
  | cons c cs ih =>
    rw [List.foldl_cons, ih _ fun c hc => h c (List.mem_cons_of_mem _ hc), m.write_read, if_neg (h c List.mem_cons_self).symm]

theorem Mem.writeCells_read (cs : List Host.Cell) {c : Host.Cell} (hc : c ∈ cs) (honly : ∀ d ∈ cs, d.1 = c.1 → d = c) :
    (m.writeCells key cs).read key c.1 = c.2 := by
  unfold Mem.writeCells
  induction cs generalizing m with
  | nil => cases hc
  | cons d cs ih =>
    rw [List.foldl_cons]
    by_cases hin : c ∈ cs
    · exact ih _ hin fun d hd => honly d (List.mem_cons_of_mem _ hd)
    · obtain rfl : c = d := (List.mem_cons.1 hc).resolve_right hin
      have hother : ∀ d ∈ cs, d.1 ≠ c.1 := fun d hd heq => hin (honly d (List.mem_cons_of_mem _ hd) heq ▸ hd)
      rw [show cs.foldl (fun m c => m.write key c.1 c.2) (m.write key c.1 c.2) = (m.write key c.1 c.2).writeCells key cs from rfl,
        Mem.writeCells_read_other _ key cs hother, m.write_read, if_pos rfl]

/-- Bytes of other lines stand as they stood. -/
theorem Mem.writeCells_raw_other (cs : List Host.Cell) {a : Nat} (h : ∀ c ∈ cs, c.1 / 128 ≠ a / 128) :
    (m.writeCells key cs).bytes.get unlisted a = m.bytes.get unlisted a := by
  unfold Mem.writeCells
  induction cs generalizing m with
  | nil => rfl
  | cons c cs ih =>
    rw [List.foldl_cons, ih _ fun c hc => h c (List.mem_cons_of_mem _ hc), Mem.write_raw_other m key c.1 c.2 (h c List.mem_cons_self).symm]

end

/-! ## Translations keep the low bits (R170, R286) -/

theorem walk_pa_mod {s : State} {n table va : Nat} {t : Trans} (h : s.walk n table va = .ok t) : t.pa % 32 = va % 32 := by
  induction n generalizing table with
  | zero => cases h
  | succ n ih =>
    unfold State.walk at h
    dsimp only at h
    split at h
    · cases h
    · split at h
      · split at h
        · cases h
        · cases h
          unfold leafBits
          dsimp only
          split
          · omega
          · split <;> omega
      · split at h
        · cases h
        · exact ih h

theorem actsAt_pa_mod (s : State) (t : Trans) : (s.actsAt t).pa % 32 = t.pa % 32 := by
  unfold State.actsAt
  split
  · next h =>
    have hpeer : 0x8000000000000 ≤ t.pa := by
      simp only [Bool.and_eq_true, isPeer, decide_eq_true_eq] at h
      exact h.1.1
    unfold peerOff
    dsimp only
    omega
  · rfl

theorem checkPage_pa_mod {s : State} {ctx va : Nat} {r w x : Bool} {t : Trans} (h : s.checkPage ctx va r w x = .ok t) : t.pa % 32 = va % 32 := by
  unfold State.checkPage at h
  split at h
  · cases h
  · split at h
    · cases h
    · next u hwalk =>
      split at h
      · cases h
      · split at h
        · cases h
          rw [actsAt_pa_mod, walk_pa_mod hwalk]
        · cases h

end Sys2Proof.Machine

namespace Sys2Proof.Machine

/-! ## The bytes of a sector, a later element standing (R219) -/

/-- Whether an element writes a byte of a sector. -/
def CElem.covers (sec a : Nat) (e : CElem) : Bool := e.dst ≤ a && a < e.dst + e.n && a / 32 == sec

/-- The element whose byte stands at an address of a sector: the last that writes it. -/
def topAt (sec : Nat) (here : List CElem) (a : Nat) : Option CElem := (here.filter (fun e => e.covers sec a)).getLast?

theorem topAt_cons (sec : Nat) (e : CElem) (rest : List CElem) (a : Nat) :
    topAt sec (e :: rest) a = if (topAt sec rest a).isSome then topAt sec rest a else if e.covers sec a then some e else none := by
  unfold topAt
  by_cases he : e.covers sec a = true
  · rw [List.filter_cons_of_pos he, if_pos he]
    cases hrest : rest.filter (fun e => e.covers sec a) with
    | nil => rfl
    | cons x xs => rw [List.getLast?_cons_cons, if_pos (by simp)]
  · rw [List.filter_cons_of_neg he, if_neg he]
    split
    · rfl
    · next h => simpa using h

theorem topAt_covers {sec a : Nat} {here : List CElem} {e : CElem} (h : topAt sec here a = some e) : e.covers sec a = true ∧ e ∈ here := by
  have := List.mem_filter.1 (List.mem_of_getLast? h)
  exact ⟨this.2, this.1⟩

theorem mem_cellsAt {dst a : Nat} {b : Byte} {bs : List Byte} : (a, b) ∈ cellsAt dst bs ↔ dst ≤ a ∧ bs[a - dst]? = some b := by
  induction bs generalizing dst with
  | nil => simp [cellsAt]
  | cons x xs ih =>
    rw [cellsAt, List.mem_cons, ih, Prod.mk.injEq]
    rcases Nat.lt_trichotomy a dst with hlt | rfl | hgt
    · exact iff_of_false (by omega) (by omega)
    · simp [eq_comm]
    · rw [show a - dst = a - (dst + 1) + 1 by omega, List.getElem?_cons_succ]
      exact ⟨fun h => ⟨by omega, (h.resolve_left (by omega)).2⟩, fun h => .inr ⟨by omega, h.2⟩⟩

theorem cellsAt_distinct (dst : Nat) (bs : List Byte) : (cellsAt dst bs).Pairwise (fun c d => c.1 ≠ d.1) := by
  induction bs generalizing dst with
  | nil => exact List.Pairwise.nil
  | cons x xs ih =>
    refine List.pairwise_cons.2 ⟨fun c hc => ?_, ih _⟩
    have := (mem_cellsAt (b := c.2)).1 hc
    exact Nat.ne_of_lt this.1

/-- A byte that an element writes in a sector is one of its bytes. -/
theorem covers_byte (sec : Nat) (e : CElem) {bs : List Byte} (hlen : bs.length = e.n) {a : Nat} {b : Byte} :
    (e.covers sec a = true ∧ b = bs.getD (a - e.dst) 0) ↔ (e.dst ≤ a ∧ bs[a - e.dst]? = some b) ∧ a / 32 = sec := by
  simp only [CElem.covers, Bool.and_eq_true, decide_eq_true_eq, beq_iff_eq, List.getD_eq_getElem?_getD, List.getElem?_eq_some_iff]
  constructor
  · rintro ⟨⟨⟨hlow, hhigh⟩, hsec⟩, rfl⟩
    have hin : a - e.dst < bs.length := by omega
    exact ⟨⟨hlow, hin, by rw [List.getElem?_eq_getElem hin]; rfl⟩, hsec⟩
  · rintro ⟨⟨hlow, hin, rfl⟩, hsec⟩
    exact ⟨⟨⟨hlow, by omega⟩, hsec⟩, by rw [List.getElem?_eq_getElem hin]; rfl⟩

section

variable (sec : Nat) (bytes : CElem → List Byte) (fl : CElem → Nat)

/-- The cells of the elements of a sector. -/
def sectorCells (here : List CElem) : List Host.Cell := (gather sec (here.map (fun e => (e, .ok (bytes e) (fl e))))).1

theorem sectorCells_cons (e : CElem) (rest : List CElem) : sectorCells sec bytes fl (e :: rest) =
    (cellsAt e.dst (bytes e)).filter (fun c => c.1 / 32 == sec && !(sectorCells sec bytes fl rest).any (fun x => x.1 == c.1))
      ++ sectorCells sec bytes fl rest := rfl

variable {bytes} {here : List CElem} (hlen : ∀ e ∈ here, (bytes e).length = e.n)

include hlen

/-- The cells of a sector: at each address the byte of the element that stands there. -/
theorem mem_sectorCells {a : Nat} {b : Byte} :
    (a, b) ∈ sectorCells sec bytes fl here ↔ ∃ e, topAt sec here a = some e ∧ b = (bytes e).getD (a - e.dst) 0 := by
  induction here generalizing b with
  | nil => simp [sectorCells, gather, topAt]
  | cons e rest ih =>
    have hrest (b : Byte) := @ih (fun o ho => hlen o (List.mem_cons_of_mem _ ho)) b
    have hany : (sectorCells sec bytes fl rest).any (fun x => x.1 == a) = (topAt sec rest a).isSome := by
      rw [Bool.eq_iff_iff, List.any_eq_true, Option.isSome_iff_exists]
      constructor
      · rintro ⟨⟨a', b'⟩, hmem, heq⟩
        obtain rfl : a' = a := by simpa using heq
        obtain ⟨o, ho, -⟩ := (hrest b').1 hmem
        exact ⟨o, ho⟩
      · rintro ⟨o, ho⟩
        exact ⟨_, (hrest _).2 ⟨o, ho, rfl⟩, beq_self_eq_true a⟩
    rw [sectorCells_cons, List.mem_append, List.mem_filter, mem_cellsAt, hrest, topAt_cons]
    simp only [hany, Bool.and_eq_true, beq_iff_eq, Bool.not_eq_true']
    cases htop : topAt sec rest a with
    | some o => simp
    | none =>
      simp only [Option.isSome_none, and_true, reduceCtorEq, false_and, exists_false, or_false, if_false, Bool.false_eq_true]
      rw [← covers_byte sec e (hlen e List.mem_cons_self)]
      split <;> simp_all

theorem sectorCells_distinct : (sectorCells sec bytes fl here).Pairwise (fun c d => c.1 ≠ d.1) := by
  induction here with
  | nil => exact List.Pairwise.nil
  | cons e rest ih =>
    rw [sectorCells_cons, List.pairwise_append]
    refine ⟨(cellsAt_distinct _ _).filter _, ih fun o ho => hlen o (List.mem_cons_of_mem _ ho), fun c hc d hd heq => ?_⟩
    have hnone := (Bool.and_eq_true _ _ ▸ (List.mem_filter.1 hc).2).2
    simp only [Bool.not_eq_true', List.any_eq_false, beq_iff_eq] at hnone
    exact hnone d hd heq.symm

end

end Sys2Proof.Machine

namespace Sys2Proof.Machine

/-! ## The cells in ascending order -/

/-- Cells of a sector in ascending order of their addresses. -/
def inOrder (sec : Nat) (cells : List Host.Cell) : List Host.Cell :=
  (List.range 32).filterMap (fun i => cells.find? (fun x => x.1 == sec * 32 + i))

section

variable {sec : Nat} {cells : List Host.Cell}

theorem eq_of_distinct (hdistinct : cells.Pairwise (fun c d => c.1 ≠ d.1)) {c d : Host.Cell} (hc : c ∈ cells) (hd : d ∈ cells) (h : c.1 = d.1) :
    c = d := by
  have hnodup : (cells.map Prod.fst).Nodup := List.pairwise_map.2 hdistinct
  exact List.inj_on_of_nodup_map hnodup hc hd h

theorem inOrder_pairwise : (inOrder sec cells).Pairwise (fun c d => c.1 < d.1) := by
  refine List.pairwise_filterMap.2 (List.pairwise_lt_range.imp fun {i j} hij c hc d hd => ?_)
  have h1 := List.find?_some hc
  have h2 := List.find?_some hd
  simp only [beq_iff_eq] at h1 h2
  omega

variable (hdistinct : cells.Pairwise (fun c d => c.1 ≠ d.1)) (hsec : ∀ c ∈ cells, c.1 / 32 = sec)

include hdistinct hsec

theorem mem_inOrder {c : Host.Cell} : c ∈ inOrder sec cells ↔ c ∈ cells := by
  unfold inOrder
  rw [List.mem_filterMap]
  constructor
  · rintro ⟨i, -, hfind⟩
    exact List.mem_of_find?_eq_some hfind
  · intro hc
    have haddr := hsec c hc
    refine ⟨c.1 - sec * 32, List.mem_range.2 (by omega), ?_⟩
    rw [show sec * 32 + (c.1 - sec * 32) = c.1 by omega]
    obtain ⟨d, hd⟩ := Option.isSome_iff_exists.1 ((List.find?_isSome (p := fun x : Host.Cell => x.1 == c.1)).2 ⟨c, hc, beq_self_eq_true c.1⟩)
    have heq := List.find?_some hd
    rw [hd, eq_of_distinct hdistinct (List.mem_of_find?_eq_some hd) hc (by simpa using heq)]

/-- The number of bytes that a sector takes is the number of its cells. -/
theorem length_cells (has : Nat → Bool) (hhas : ∀ a, has a = true ↔ ∃ c ∈ cells, c.1 = a) :
    ((List.range 32).filter (fun i => has (32 * sec + i))).length = cells.length := by
  have hnodup : (cells.map Prod.fst).Nodup := List.pairwise_map.2 hdistinct
  have hperm : (((List.range 32).filter (fun i => has (32 * sec + i))).map (32 * sec + ·)).Perm (cells.map Prod.fst) := by
    refine (List.perm_ext_iff_of_nodup ((List.nodup_range.filter _).map fun i j h => by simpa using h) hnodup).2 fun a => ?_
    simp only [List.mem_map, List.mem_filter, List.mem_range, hhas]
    constructor
    · rintro ⟨i, ⟨-, c, hc, heq⟩, rfl⟩
      exact ⟨c, hc, heq⟩
    · rintro ⟨c, hc, rfl⟩
      have haddr := hsec c hc
      exact ⟨c.1 - 32 * sec, ⟨by omega, c, hc, by omega⟩, by omega⟩
  simpa using hperm.length_eq

/-- The least address of some cells. -/
theorem foldl_min_cells {b : Byte} {lo top : Nat} (hlo : (lo, b) ∈ cells) (hleast : ∀ c ∈ cells, lo ≤ c.1) (htop : lo ≤ top) :
    cells.foldl (fun m x => min m x.1) top = lo ∧ ((inOrder sec cells).headD (0, 0)).1 = lo := by
  have hge : ∀ (cs : List Host.Cell) (m : Nat), (∀ c ∈ cs, lo ≤ c.1) → lo ≤ m → lo ≤ cs.foldl (fun m x => min m x.1) m := by
    intro cs
    induction cs with
    | nil => exact fun m _ hm => hm
    | cons c cs ih =>
      exact fun m hcs hm => ih _ (fun d hd => hcs d (List.mem_cons_of_mem _ hd)) (le_min hm (hcs c List.mem_cons_self))
  have hle : ∀ (cs : List Host.Cell) (m : Nat), ((lo, b) ∈ cs ∨ m ≤ lo) → cs.foldl (fun m x => min m x.1) m ≤ lo := by
    intro cs
    induction cs with
    | nil => exact fun m h => h.resolve_left List.not_mem_nil
    | cons c cs ih =>
      intro m h
      refine ih _ ?_
      rcases h with h | h
      · rcases List.mem_cons.1 h with rfl | h
        · exact .inr (min_le_right _ _)
        · exact .inl h
      · exact .inr ((min_le_left _ _).trans h)
  refine ⟨le_antisymm (hle cells top (.inl hlo)) (hge cells top hleast htop), ?_⟩
  have hmem : (lo, b) ∈ inOrder sec cells := (mem_inOrder hdistinct hsec).2 hlo
  have hall : ∀ c ∈ inOrder sec cells, lo ≤ c.1 := fun c hc => hleast c ((mem_inOrder hdistinct hsec).1 hc)
  have hpair := @inOrder_pairwise sec cells
  cases hcs : inOrder sec cells with
  | nil => rw [hcs] at hmem; cases hmem
  | cons c cs =>
    rw [hcs] at hmem hall hpair
    rcases List.mem_cons.1 hmem with heq | hin
    · rw [List.headD_cons, ← heq]
    · have h1 := (List.pairwise_cons.1 hpair).1 _ hin
      have h2 := hall c List.mem_cons_self
      exact absurd h1 (by simp only; omega)

end

/-! ## A sector's writes (R174, R192, R219) -/

section

variable (m : Mem) (key pa lo : Nat) {cells : List Host.Cell} (hlo : ∀ c ∈ cells, lo ≤ c.1)

include hlo

/-- Where the cells of a sector are written. -/
theorem mem_placed {x : Host.Cell} : x ∈ cells.map (fun c => (pa + c.1 - lo, c.2)) ↔ ∃ c ∈ cells, x = (pa + (c.1 - lo), c.2) := by
  rw [List.mem_map]
  constructor
  · rintro ⟨c, hc, rfl⟩
    exact ⟨c, hc, by rw [Nat.add_sub_assoc (hlo c hc)]⟩
  · rintro ⟨c, hc, rfl⟩
    exact ⟨c, hc, by rw [Nat.add_sub_assoc (hlo c hc)]⟩

/-- A byte of memory after a sector's cells were written. -/
theorem read_placed (hone : ∀ c ∈ cells, ∀ d ∈ cells, c.1 = d.1 → c = d) {a : Nat} (ha : lo ≤ a) (byte : Option Byte)
    (hbyte : ∀ b, byte = some b ↔ (a, b) ∈ cells) :
    (m.writeCells key (cells.map (fun c => (pa + c.1 - lo, c.2)))).read key (pa + (a - lo)) = byte.getD (m.read key (pa + (a - lo))) := by
  cases hb : byte with
  | none =>
    refine m.writeCells_read_other key _ fun x hx heq => ?_
    obtain ⟨c, hc, rfl⟩ := (mem_placed pa lo hlo).1 hx
    have haddr : c.1 = a := by have := hlo c hc; simp only at heq; omega
    have := (hbyte c.2).2 (haddr ▸ hc)
    rw [hb] at this
    cases this
  | some b =>
    have hcell := (hbyte b).1 hb
    refine m.writeCells_read key _ (c := (pa + (a - lo), b)) ((mem_placed pa lo hlo).2 ⟨_, hcell, rfl⟩) fun x hx heq => ?_
    obtain ⟨c, hc, rfl⟩ := (mem_placed pa lo hlo).1 hx
    have haddr : c.1 = a := by have := hlo c hc; simp only at heq; omega
    rw [hone c hc (a, b) hcell haddr]

omit hlo in
/-- A byte of the window after a sector's cells were written. -/
theorem get_window (win : SMap Byte) (hone : ∀ c ∈ cells, ∀ d ∈ cells, c.1 = d.1 → c = d) {a : Nat} (byte : Option Byte)
    (hbyte : ∀ b, byte = some b ↔ (a, b) ∈ cells) :
    (cells.foldl (fun m x => SMap.put 0 m x.1 x.2) win).get 0 a = byte.getD (win.get 0 a) := by
  cases hb : byte with
  | none =>
    refine SMap.get_foldl_put_other 0 cells win fun c hc haddr => ?_
    have := (hbyte c.2).2 (haddr ▸ hc)
    rw [hb] at this
    cases this
  | some b =>
    have hcell := (hbyte b).1 hb
    exact SMap.get_foldl_put 0 win cells Prod.fst Prod.snd hcell fun d hd h => hone d hd _ hcell h

end

/-! ## The steps of a sector (R219, R221) -/

section

variable (s t : State) (wid ctx : Nat) (f : WG → WG) (c : CopyCmd)

/-- A command's data rests on neither the last-level cache nor the workgroups. -/
theorem elemBytes_fetched (e : CElem) : ((s.cacheOf t).modWG wid f).elemBytes ctx c e = s.elemBytes ctx c e := rfl

theorem readPlaces_fetched (win : SMap Byte) (es : List CElem) : c.readPlaces (s.cacheOf t) win ctx es = c.readPlaces s win ctx es := rfl

theorem checkPage_fetched (va : Nat) (r w x : Bool) : ((s.cacheOf t).modWG wid f).checkPage ctx va r w x = s.checkPage ctx va r w x := rfl

theorem setDgen_mem_fetched (tr : Trans) : (((s.cacheOf t).modWG wid f).setDgen ctx tr).mem = (s.setDgen ctx tr).mem := by
  unfold State.setDgen
  dsimp only
  rw [apply_ite State.mem, apply_ite State.mem]
  rfl

end

end Sys2Proof.Machine

namespace Sys2Proof.Machine

/-! ## What a sector comes to -/

section

variable {β : Type} (g : CElem × CRead → Option β)

theorem findSome?_reads_none (here : List CElem) (bytes : CElem → List Byte) (fl : CElem → Nat) (hg : ∀ e bs n, g (e, .ok bs n) = none) :
    (here.map (fun e => (e, CRead.ok (bytes e) (fl e)))).findSome? g = none := by
  rw [List.findSome?_map, List.findSome?_eq_none_iff]
  exact fun e _ => hg e _ _

theorem findSome?_reads_first {before after : List CElem} {e : CElem} {read : CElem → CRead} {x : β}
    (hbefore : ∀ o ∈ before, g (o, read o) = none) (he : g (e, read e) = some x) :
    ((before ++ e :: after).map (fun e => (e, read e))).findSome? g = some x := by
  have hnone : before.findSome? (g ∘ fun e => (e, read e)) = none := List.findSome?_eq_none_iff.2 hbefore
  rw [List.findSome?_map, List.findSome?_append, hnone, Option.none_or, List.findSome?_cons, Function.comp_apply, he]

end

theorem secRes_ok (sec : Nat) (here : List CElem) {read : CElem → CRead} {bytes : CElem → List Byte} {fl : CElem → Nat}
    (h : ∀ e ∈ here, read e = .ok (bytes e) (fl e)) :
    ∃ n, secRes sec (here.map (fun e => (e, read e))) = .ok (sectorCells sec bytes fl here) n := by
  have hmap : here.map (fun e => (e, read e)) = here.map (fun e => (e, CRead.ok (bytes e) (fl e))) :=
    List.map_congr_left fun e he => by rw [h e he]
  refine ⟨(gather sec (here.map (fun e => (e, CRead.ok (bytes e) (fl e))))).2, ?_⟩
  unfold secRes
  rw [hmap, findSome?_reads_none, findSome?_reads_none, findSome?_reads_none]
  · rfl
  all_goals exact fun _ _ _ => rfl

theorem secRes_cause (sec : Nat) {before after : List CElem} {e : CElem} {read : CElem → CRead} {k va : Nat}
    (hbefore : ∀ o ∈ before, ∀ k va, read o ≠ .cause k va) (he : read e = .cause k va) :
    secRes sec ((before ++ e :: after).map (fun e => (e, read e))) = .cause k va := by
  unfold secRes
  rw [findSome?_reads_first (x := (k, va))]
  · intro o ho
    dsimp only
    split
    · next k va h => exact absurd h (hbefore o ho k va)
    · rfl
  · dsimp only
    rw [he]

section

variable (s : State) (w : WG) (ctx : Nat) (c : CopyCmd) (es : List CElem) (sec : Nat)

/-- A command that has read what a sector takes. -/
def State.sectorCmd : CopyCmd := c.readPlaces s w.win ctx (inSector sec es)

/-- The state in which a sector is written: its lines fetched, its places read. -/
def State.sectorState : State :=
  (s.fetchSources ctx c (inSector sec es)).modWG w.wid (fun g => g.modCmd c.q c.serial (fun _ => s.sectorCmd w ctx c es sec))

theorem fetchSources_cacheOf : ∃ t, s.fetchSources ctx c es = s.cacheOf t := ⟨_, State.fetchLines_rest s _⟩

/-- A sector by what its elements' bytes come to. -/
theorem runSector_cause {k va : Nat} (h : secRes sec ((inSector sec es).map (fun e => (e, s.elemBytes ctx (s.sectorCmd w ctx c es sec) e))) = .cause k va) :
    s.runSector w ctx c es sec = ((s.sectorState w ctx c es sec).modWG w.wid (fun g => g.dropCmd c.q c.serial)).copyTrap w (s.sectorCmd w ctx c es sec) 18 0 va
      (copyDetail (s.sectorCmd w ctx c es sec) k) := by
  obtain ⟨t, ht⟩ := fetchSources_cacheOf s ctx c (inSector sec es)
  unfold State.sectorCmd at h
  unfold State.runSector State.sectorState State.sectorCmd
  dsimp only
  rw [ht]
  simp only [elemBytes_fetched, readPlaces_fetched]
  rw [h]
  rfl

theorem runSector_window {cells : List Host.Cell} {n : Nat}
    (h : secRes sec ((inSector sec es).map (fun e => (e, s.elemBytes ctx (s.sectorCmd w ctx c es sec) e))) = .ok cells n)
    (hdest : destGlobal c.cmd (dMode (descNum c.desc)) = false) :
    s.runSector w ctx c es sec = ((s.sectorState w ctx c es sec).putSector w ctx (s.sectorCmd w ctx c es sec) none (inOrder sec cells) n).lowerPend w
      (s.sectorCmd w ctx c es sec) cells.length [] := by
  obtain ⟨t, ht⟩ := fetchSources_cacheOf s ctx c (inSector sec es)
  unfold State.sectorCmd at h
  unfold State.runSector State.sectorState State.sectorCmd
  dsimp only
  rw [ht]
  simp only [elemBytes_fetched, readPlaces_fetched]
  rw [h]
  dsimp only
  refine (if_neg fun hglobal => ?_).trans rfl
  exact Bool.false_ne_true (hdest.symm.trans hglobal)

theorem runSector_memory {cells : List Host.Cell} {n lo : Nat} {tr : Trans}
    (h : secRes sec ((inSector sec es).map (fun e => (e, s.elemBytes ctx (s.sectorCmd w ctx c es sec) e))) = .ok cells n)
    (hdest : destGlobal c.cmd (dMode (descNum c.desc)) = true) (hlo : cells.foldl (fun m x => min m x.1) (sec * 32 + 31) = lo)
    (hcheck : s.checkPage ctx lo false true false = .ok tr) :
    s.runSector w ctx c es sec = ((s.sectorState w ctx c es sec).putSector w ctx (s.sectorCmd w ctx c es sec) (some tr) (inOrder sec cells) n).lowerPend w
      (s.sectorCmd w ctx c es sec) cells.length [tr.pa / 32] := by
  obtain ⟨t, ht⟩ := fetchSources_cacheOf s ctx c (inSector sec es)
  unfold State.sectorCmd at h
  unfold State.runSector State.sectorState State.sectorCmd
  dsimp only
  rw [ht]
  simp only [elemBytes_fetched, readPlaces_fetched, checkPage_fetched]
  rw [h]
  dsimp only
  refine (if_pos hdest).trans ?_
  rw [hlo, hcheck]
  rfl

end

end Sys2Proof.Machine

namespace Sys2Proof.Machine

/-! ## What a sector leaves (R219, R220, R223) -/

section

variable {s : State} {w v : WG} (hw : s.wg? w.wid = some v) (ctx : Nat) (c : CopyCmd) (es : List CElem) (sec : Nat)

include hw

theorem wg?_sectorState : (s.sectorState w ctx c es sec).wg? w.wid = some (v.modCmd c.q c.serial (fun _ => s.sectorCmd w ctx c es sec)) := by
  obtain ⟨t, ht⟩ := fetchSources_cacheOf s ctx c (inSector sec es)
  unfold State.sectorState
  rw [ht, State.wg?_modWG_same _ _ _ ?_ (show (s.cacheOf t).wg? w.wid = some v from hw)]
  exact fun _ => rfl

/-- A sector of the window: the cells enter the window, and no part of the device moves but the cache. -/
theorem putSector_window (c' : CopyCmd) (cells : List Host.Cell) (n : Nat) :
    let u := (s.sectorState w ctx c es sec).putSector w ctx c' none cells n
    ({ u with wgs := s.wgs } : State) = s.fetchSources ctx c (inSector sec es)
    ∧ ∃ x, u.wg? w.wid = some x ∧ x.win = cells.foldl (fun m x => SMap.put 0 m x.1 x.2) v.win := by
  intro u
  refine ⟨?_, ?_⟩
  · obtain ⟨t, ht⟩ := fetchSources_cacheOf s ctx c (inSector sec es)
    simp only [u, State.putSector, State.sectorState, ht]
    rfl
  · have hwg := wg?_sectorState hw ctx c es sec
    refine ⟨_, State.wg?_modWG_same _ _ _ ?_ hwg, rfl⟩
    exact fun _ => rfl

/-- A sector of memory: the cells enter M from the page's place on, and the window stays. -/
theorem putSector_memory (c' : CopyCmd) (tr : Trans) {cells : List Host.Cell} {lo : Nat} (hlo : (cells.headD (0, 0)).1 = lo) (n : Nat) :
    let u := (s.sectorState w ctx c es sec).putSector w ctx c' (some tr) cells n
    u.mem = (s.setDgen ctx tr).mem.writeCells tr.key (cells.map (fun x => (tr.pa + x.1 - lo, x.2)))
    ∧ ∃ x, u.wg? w.wid = some x ∧ x.win = v.win := by
  intro u
  have hmem : ((s.sectorState w ctx c es sec).setDgen ctx tr).mem = (s.setDgen ctx tr).mem := by
    obtain ⟨t, ht⟩ := fetchSources_cacheOf s ctx c (inSector sec es)
    unfold State.sectorState
    rw [ht, setDgen_mem_fetched]
  have hwgs : (((s.sectorState w ctx c es sec).setDgen ctx tr).writeM ctx tr.key (cells.map (fun x => (tr.pa + x.1 - lo, x.2)))).wgs
      = (s.sectorState w ctx c es sec).wgs := by
    have hrest := congrArg State.wgs (State.setDgen_rest (s.sectorState w ctx c es sec) ctx tr)
    rw [State.writeM_wgs]
    exact hrest
  have hput : u = (((s.sectorState w ctx c es sec).setDgen ctx tr).writeM ctx tr.key (cells.map (fun x => (tr.pa + x.1 - lo, x.2)))).modWG w.wid
      (fun g => g.modCmd c'.q c'.serial (fun c => { c with
        sectors := c.sectors + 1, fl := c.fl ||| BitVec.ofNat 7 n, started := true,
        dests := c.dests ++ [((cells.map (fun x => (tr.pa + x.1 - lo, x.2))).headD (0, 0)).1 / 32] })) := by
    subst hlo
    rfl
  have hwg := wg?_sectorState hw ctx c es sec
  unfold State.wg? at hwg
  rw [← hwgs] at hwg
  rw [hput]
  refine ⟨(State.writeM_mem _ ctx _ _).trans (by rw [hmem]), _, State.wg?_modWG_same _ _ _ ?_ hwg, rfl⟩
  exact fun _ => rfl

end

theorem lowerPend_unarmed (s : State) (w : WG) (c : CopyCmd) (n : Nat) (secs : List Nat) (h : dBen (descNum c.desc) = false) :
    s.lowerPend w c n secs = s := by
  rw [State.lowerPend]
  simp only [h, Bool.not_false, if_true]

/-- A sector lowers its barrier's PEND by its bytes. -/
theorem wg?_lowerPend {s : State} {w v : WG} (hw : s.wg? w.wid = some v) (c : CopyCmd) (n : Nat) (secs : List Nat)
    (h : dBen (descNum c.desc) = true) (hfits : 0 ≤ (v.bar (s.windowOf w) (dBarn (descNum c.desc))).pend - (n : Int) + 2 ^ 55) :
    (s.lowerPend w c n secs).wg? w.wid = some { v.setBar (s.windowOf w) (dBarn (descNum c.desc))
        { v.bar (s.windowOf w) (dBarn (descNum c.desc)) with pend := (v.bar (s.windowOf w) (dBarn (descNum c.desc))).pend - (n : Int) } with
      bsec := SMap.put [] v.bsec (dBarn (descNum c.desc)) (v.bsec.get [] (dBarn (descNum c.desc)) ++ secs)
      bclk := SMap.put [] v.bclk (dBarn (descNum c.desc)) (Clock.join (v.bclk.get [] (dBarn (descNum c.desc))) c.clk) } := by
  have hlimit : ¬ (v.bar (s.windowOf w) (dBarn (descNum c.desc))).pend - (n : Int) < -(2 ^ 55 : Int) := by
    generalize (2 : Int) ^ 55 = limit at hfits ⊢
    omega
  rw [State.lowerPend]
  simp only [h, Bool.not_true, Bool.false_eq_true, if_false, hw]
  rw [if_neg hlimit, State.wg?_owe, State.wg?_modWG_same _ _ _ ?_ hw]
  rintro ⟨⟩
  rfl

end Sys2Proof.Machine

namespace Sys2Proof.Machine

/-! ## Elements by command and mode (R218) -/

/-- An element that is written where a condition holds. -/
theorem map_guard {α β : Type} (p : Bool) (x : α) (f : α → β) : (if p = true then some x else none).map f = if p = true then some (f x) else none := by
  cases p <;> rfl

/-- A source that is read where a condition holds. -/
theorem getD_map_guard {α β : Type} (p : Bool) (x : α) (f : α → β) (z : β) :
    ((if p = true then some x else none).map f).getD z = if p = true then f x else z := by
  cases p <;> rfl

section

variable (d slot : Nat) (idx : List Nat) (r c : Nat)

theorem elemAt_load : elemAt 1 d slot idx r c =
    some ⟨((insideAt d r c).map (fun g => CSrc.glob (globAt d (sizeOf' (dStype d)) g.1 g.2))).getD .zero, scrAt d slot (sizeOf' (dDtype d)) r c,
      sizeOf' (dDtype d)⟩ := by
  rw [elemAt]
  cases insideAt d r c <;> rfl

theorem elemAt_gather (h : dMode d = 0) : elemAt 3 d slot idx r c =
    some ⟨((indexAt d idx r c).map (fun g => CSrc.glob (globAt d (sizeOf' (dStype d)) g.1 g.2))).getD .zero, scrAt d slot (sizeOf' (dDtype d)) r c,
      sizeOf' (dDtype d)⟩ := by
  unfold elemAt
  rw [h]
  cases indexAt d idx r c <;> rfl

theorem elemAt_store (h : dMode d = 0) : elemAt 2 d slot idx r c =
    (insideAt d r c).map (fun g => ⟨.scr (scrAt d slot (sizeOf' (dStype d)) r c), globAt d (sizeOf' (dDtype d)) g.1 g.2, sizeOf' (dDtype d)⟩) := by
  unfold elemAt
  rw [h]
  rfl

theorem elemAt_reduce (h : dMode d = 2) : elemAt 2 d slot idx r c =
    some ⟨.reduce c (scrAt d slot (sizeOf' (dDtype d)) 0 c), dGbase d + c * sizeOf' (dDtype d), sizeOf' (dDtype d)⟩ := by
  unfold elemAt
  rw [h]
  rfl

theorem elemAt_digest (h : dMode d = 1) : elemAt 3 d slot idx r c =
    if c = 0 then some ⟨.manifest (idx.getD r 0), dGbase d + 64 * r, 64⟩ else none := by
  unfold elemAt
  rw [h]
  rfl

theorem elemAt_scatter : elemAt 4 d slot idx r c =
    (indexAt d idx r c).map (fun g => ⟨.scr (scrAt d slot (sizeOf' (dStype d)) r c), globAt d (sizeOf' (dDtype d)) g.1 g.2, sizeOf' (dDtype d)⟩) := by
  rw [elemAt]

theorem elemAt_fill (h : dMode d = 0) : elemAt 5 d slot idx r c =
    (insideAt d r c).map (fun g => ⟨.pat, globAt d (sizeOf' (dDtype d)) g.1 g.2, sizeOf' (dDtype d)⟩) := by
  unfold elemAt
  rw [h]
  rfl

theorem elemAt_fillScratchpad (h : dMode d = 1) : elemAt 5 d slot idx r c =
    some ⟨.pat, scrAt d slot (sizeOf' (dDtype d)) r c, sizeOf' (dDtype d)⟩ := by
  unfold elemAt
  rw [h]
  rfl

end

/-! ## Two readings of a sector's cells -/

section

variable {sec : Nat} {here : List CElem} {bytes : CElem → List Byte} (fl : CElem → Nat) (hlen : ∀ e ∈ here, (bytes e).length = e.n)

include hlen

theorem sectorCells_sec : ∀ c ∈ sectorCells sec bytes fl here, c.1 / 32 = sec := by
  rintro ⟨a, b⟩ hc
  obtain ⟨e, he, -⟩ := (mem_sectorCells sec fl hlen).1 hc
  have hcovers := (topAt_covers he).1
  simp only [CElem.covers, Bool.and_eq_true, beq_iff_eq] at hcovers
  exact hcovers.2

/-- The byte that a sector leaves at an address is the one cell there. -/
theorem byte_iff_mem_inOrder (a : Nat) (b : Byte) : (topAt sec here a).map (fun e => (bytes e).getD (a - e.dst) 0) = some b
    ↔ (a, b) ∈ inOrder sec (sectorCells sec bytes fl here) := by
  rw [mem_inOrder (sectorCells_distinct sec fl hlen) (sectorCells_sec fl hlen), mem_sectorCells sec fl hlen, Option.map_eq_some_iff]
  simp only [eq_comm]

theorem isSome_topAt_iff (a : Nat) : (topAt sec here a).isSome = true ↔ ∃ c ∈ sectorCells sec bytes fl here, c.1 = a := by
  rw [Option.isSome_iff_exists]
  constructor
  · rintro ⟨e, he⟩
    exact ⟨(a, _), (mem_sectorCells sec fl hlen).2 ⟨e, he, rfl⟩, rfl⟩
  · rintro ⟨⟨a, b⟩, hc, rfl⟩
    obtain ⟨e, he, -⟩ := (mem_sectorCells sec fl hlen).1 hc
    exact ⟨e, he⟩

end

/-! ## What the bytes of a sector's elements leave -/

/-- The byte at an address of a sector after its elements were written. -/
def newByte (sec : Nat) (here : List CElem) (bytes : CElem → List Byte) (a : Nat) (old : Byte) : Byte :=
  ((topAt sec here a).map (fun e => (bytes e).getD (a - e.dst) 0)).getD old

/-- The number of bytes that a sector takes. -/
def takenBytes (sec : Nat) (here : List CElem) : Nat := ((List.range 32).filter (fun i => (topAt sec here (32 * sec + i)).isSome)).length

section

variable {s : State} {w v : WG} (hw : s.wg? w.wid = some v) {ctx : Nat} {c : CopyCmd} {es : List CElem} {sec : Nat}
variable {bytes : CElem → List Byte} {fl : CElem → Nat}
variable (hok : ∀ e ∈ inSector sec es, s.elemBytes ctx (s.sectorCmd w ctx c es sec) e = .ok (bytes e) (fl e) ∧ (bytes e).length = e.n)

include hok

/-- The cells of a sector whose elements have their bytes. -/
theorem exists_sectorCells : ∃ cells n,
    secRes sec ((inSector sec es).map (fun e => (e, s.elemBytes ctx (s.sectorCmd w ctx c es sec) e))) = .ok cells n
    ∧ cells.Pairwise (fun c d => c.1 ≠ d.1) ∧ (∀ c ∈ cells, c.1 / 32 = sec) ∧ takenBytes sec (inSector sec es) = cells.length
    ∧ (∀ a, (topAt sec (inSector sec es) a).isSome = true ↔ ∃ c ∈ cells, c.1 = a)
    ∧ ∀ a b, (topAt sec (inSector sec es) a).map (fun e => (bytes e).getD (a - e.dst) 0) = some b ↔ (a, b) ∈ inOrder sec cells := by
  have hlen : ∀ e ∈ inSector sec es, (bytes e).length = e.n := fun e he => (hok e he).2
  obtain ⟨n, hres⟩ := secRes_ok sec (inSector sec es) (read := s.elemBytes ctx (s.sectorCmd w ctx c es sec)) fun e he => (hok e he).1
  have hdistinct := sectorCells_distinct sec fl hlen
  have hsec := sectorCells_sec (sec := sec) fl hlen
  exact ⟨_, n, hres, hdistinct, hsec, length_cells hdistinct hsec _ (isSome_topAt_iff fl hlen), isSome_topAt_iff fl hlen, byte_iff_mem_inOrder fl hlen⟩

include hw

theorem runSector_leaves_window (hdest : destGlobal c.cmd (dMode (descNum c.desc)) = false) : ∃ (u : State) (x : WG),
    s.runSector w ctx c es sec = u.lowerPend w (s.sectorCmd w ctx c es sec) (takenBytes sec (inSector sec es)) []
    ∧ ({ u with wgs := s.wgs } : State) = s.fetchSources ctx c (inSector sec es) ∧ u.wg? w.wid = some x
    ∧ ∀ a, x.win.get 0 a = newByte sec (inSector sec es) bytes a (v.win.get 0 a) := by
  obtain ⟨cells, n, hres, hdistinct, hsec, hcount, -, hbyte⟩ := exists_sectorCells hok
  obtain ⟨hrest, x, hx, hwin⟩ := putSector_window hw ctx c es sec (s.sectorCmd w ctx c es sec) (inOrder sec cells) n
  refine ⟨_, x, hcount ▸ runSector_window s w ctx c es sec hres hdest, hrest, hx, fun a => ?_⟩
  rw [hwin]
  exact get_window v.win (fun c hc d hd => eq_of_distinct hdistinct ((mem_inOrder hdistinct hsec).1 hc) ((mem_inOrder hdistinct hsec).1 hd))
    _ (hbyte a)

theorem runSector_leaves_memory {lo : Nat} {tr : Trans} (hdest : destGlobal c.cmd (dMode (descNum c.desc)) = true)
    (htop : (topAt sec (inSector sec es) lo).isSome = true) (hleast : ∀ a, (topAt sec (inSector sec es) a).isSome = true → lo ≤ a)
    (hcheck : s.checkPage ctx lo false true false = .ok tr) : ∃ (u : State) (x : WG),
    s.runSector w ctx c es sec = u.lowerPend w (s.sectorCmd w ctx c es sec) (takenBytes sec (inSector sec es)) [tr.pa / 32]
    ∧ u.wg? w.wid = some x ∧ x.win = v.win
    ∧ (∀ a, lo ≤ a → a / 32 = sec → u.mem.read tr.key (tr.pa + (a - lo))
        = newByte sec (inSector sec es) bytes a ((s.setDgen ctx tr).mem.read tr.key (tr.pa + (a - lo))))
    ∧ ∀ p, p / 128 ≠ tr.pa / 128 → u.mem.bytes.get unlisted p = (s.setDgen ctx tr).mem.bytes.get unlisted p := by
  obtain ⟨cells, n, hres, hdistinct, hsec, hcount, hsome, hbyte⟩ := exists_sectorCells hok
  obtain ⟨⟨a, b⟩, hlo, heq⟩ := (hsome lo).1 htop
  obtain rfl : lo = a := heq.symm
  have hmin : ∀ c ∈ cells, lo ≤ c.1 := fun c hc => hleast c.1 ((hsome c.1).2 ⟨c, hc, rfl⟩)
  have hlosec : lo / 32 = sec := hsec _ hlo
  obtain ⟨hfold, hhead⟩ := foldl_min_cells hdistinct hsec hlo hmin (top := sec * 32 + 31) (by omega)
  obtain ⟨hmem, x, hx, hwin⟩ := putSector_memory hw ctx c es sec (s.sectorCmd w ctx c es sec) tr hhead n
  have hge : ∀ c ∈ inOrder sec cells, lo ≤ c.1 := fun c hc => hmin c ((mem_inOrder hdistinct hsec).1 hc)
  refine ⟨_, x, hcount ▸ runSector_memory s w ctx c es sec hres hdest hfold hcheck, hx, hwin, fun a ha _ => ?_, fun p hp => ?_⟩
  · rw [hmem]
    exact read_placed _ tr.key tr.pa lo hge
      (fun c hc d hd => eq_of_distinct hdistinct ((mem_inOrder hdistinct hsec).1 hc) ((mem_inOrder hdistinct hsec).1 hd)) ha _ (hbyte a)
  · rw [hmem]
    refine Mem.writeCells_raw_other _ tr.key _ fun y hy => ?_
    obtain ⟨d, hd, rfl⟩ := (mem_placed tr.pa lo hge).1 hy
    have hpage := checkPage_pa_mod hcheck
    have hdsec := hsec d ((mem_inOrder hdistinct hsec).1 hd)
    have hdlo := hge d hd
    simp only
    omega

end

end Sys2Proof.Machine

section
open Sys2Proof Sys2Proof.Machine

/-- Settles O60: the elements case by case, the places each read once, the domain's tree by its members, and a sector by its cells. -/
theorem copySectors : Obligations.CopySectors := by
  unfold Obligations.CopySectors
  refine ⟨?_, ?_, ?_, ?_, ?_, ?_⟩
  · intro d slot idx r c f sgn gy gx ss ds i inside listed scr glob el mode
    have hf (lo n : Nat) : bitsOf d lo n = f lo n := bitsOf_eq_div d lo n
    have hmode {n : Nat} (h : mode = n) : dMode d = n := (hf 251 2).trans h
    have hscr (size : Nat) : scrAt d slot size r c = scr size := by
      simp only [scrAt, dD0, dSaddr, dSpitch, dRows, hf]
      rfl
    have hglob (size y x : Nat) : globAt d size y x = glob size y x := by
      simp only [globAt, dGbase, dGpitch, hf]
      rfl
    have hbase : dGbase d = f 0 56 := hf 0 56
    have hY : dY0 d = sgn (f 128 16) := by rw [dY0, hf]; exact signedOf_16 _
    have hX : dX0 d = sgn (f 144 16) := by rw [dX0, hf]; exact signedOf_16 _
    have hin : insideAt d r c = if inside = true then some (gy.toNat, gx.toNat) else none := by
      rw [insideAt_eq, hY, hX, dGrows, dGcols, hf, hf]
      simp only [inside, decide_eq_true_eq]
      rfl
    have hlist : indexAt d idx r c = if listed = true then some (i, c) else none := by
      rw [indexAt, dGrows, dGcols, hf, hf]
      simp only [listed, decide_eq_true_eq, Bool.and_eq_true]
      rfl
    refine ⟨?_, fun h => ?_, fun h hr => ?_, fun h => ?_, fun h => ?_, ?_, fun h => ?_, fun h => ?_⟩
    · refine (elemAt_load d slot idx r c).trans ?_
      rw [hin, hscr, getD_map_guard, hglob]
      rfl
    · refine (elemAt_store d slot idx r c (hmode h)).trans ?_
      rw [hin, hscr, map_guard, hglob]
      rfl
    · refine (elemAt_reduce d slot idx r c (hmode h)).trans ?_
      subst hr
      rw [hscr, hbase]
      simp [glob, ds, sizeOf']
    · refine (elemAt_gather d slot idx r c (hmode h)).trans ?_
      rw [hlist, hscr, getD_map_guard, hglob]
      rfl
    · refine (elemAt_digest d slot idx r c (hmode h)).trans ?_
      rw [hbase]
    · refine (elemAt_scatter d slot idx r c).trans ?_
      rw [hlist, hscr, map_guard, hglob]
      rfl
    · refine (elemAt_fill d slot idx r c (hmode h)).trans ?_
      rw [hin, map_guard, hglob]
      rfl
    · refine (elemAt_fillScratchpad d slot idx r c (hmode h)).trans ?_
      rw [hscr]
      rfl
  · intro cmd d slot idx e
    rw [mem_elemsOf, dRows, dCols, bitsOf_eq_div, bitsOf_eq_div]
  · intro s win ctx c es n t
    refine ⟨rfl, fun k hk => ?_, fun k hk hplace => ?_, exists_fetchSources s ctx c es, ?_, ?_, fun a tr h => placeNow_glob s win ctx h,
      placeNow_scr s win ctx⟩
    · rw [get_readPlaces, if_neg fun h => hk h.1]
    · rw [get_readPlaces, if_pos ⟨hk, hplace⟩]
    · intro va i hi
      exact List.mem_map_of_mem (div_mem_piecesOf hi)
    · intro a i hi
      exact List.mem_map_of_mem (f := (3 * · + 1)) (div_mem_piecesOf hi)
  · intro s ctx c e d n raw is
    refine ⟨fun h => ?_, fun h => ?_, fun a h => ?_, fun va ts h hacc hp => ?_, fun p tr h halign hcheck hp => ?_, fun i a h => ?_⟩
    · rw [State.elemBytes, h]
    · rw [State.elemBytes, h]
    · exact elemBytes_scr s ctx c e h
    · exact elemBytes_glob s ctx c e h hacc hp
    · have hm := manifestOf_ok s ctx halign hcheck hp
      exact ⟨elemBytes_manifest s ctx c e h hm, fun win => placeNow_manifest s win ctx p hm⟩
    · exact elemBytes_reduce s ctx c e h
  · intro s d own i levels members hsorted hmem hs hle hlt h8 leaf
    rw [State.reduceElem, members_eq hsorted hmem hs]
    rw [levels_eq hle hlt h8, dTag, dOp, bitsOf_eq_div, bitsOf_eq_div]
  · intro s w v ctx c es sec here f c1 at_ count hw
    refine ⟨fun bytes fl hok => ?_, fun before after e k va hhere hbefore he => ?_, fun n secs => ⟨lowerPend_unarmed s w c n secs, ?_⟩⟩
    · intro new
      refine ⟨fun hdest => runSector_leaves_window hw hok hdest, fun lo tr hdest htop hleast hcheck => ?_⟩
      exact runSector_leaves_memory hw hok hdest htop hleast hcheck
    · refine runSector_cause s w ctx c es sec ?_
      rw [show inSector sec es = before ++ e :: after from hhere]
      exact secRes_cause sec hbefore he
    · exact fun hben => wg?_lowerPend hw c n secs hben
end

/-! SUPPORT and PROOF of the scratchpad words (O24): the elements of a column access, a window stored and then loaded, and the words' lanes. -/

namespace Sys2Proof.Machine

/-! ## Rows (R135) -/

/-- The bytes of a number, put in a window and read again. -/
theorem natOfBytes_getN_putAll (m : SMap Byte) (a n v : Nat) :
    natOfBytes ((SMap.putAll 0 m a (bytesOf n v)).getN 0 a n) = v % 2 ^ (8 * n) := by
  refine Nat.eq_of_testBit_eq fun i => ?_
  rw [testBit_natOfBytes, Nat.testBit_mod_two_pow]
  by_cases hi : i < 8 * n
  · have hbyte : i / 8 < n := by omega
    have hin : i / 8 < (bytesOf n v).length := by rwa [length_bytesOf]
    have hbit := testBit_bytesOf v hbyte (Nat.mod_lt i (by decide : 0 < 8))
    rw [Nat.div_add_mod, List.getElem?_eq_getElem hin, Option.getD_some] at hbit
    rw [SMap.getElem?_getN 0 _ a hbyte, Option.getD_some, SMap.get_putAll, if_pos (Nat.le_add_right _ _), Nat.add_sub_cancel_left,
      List.getElem?_eq_getElem hin, Option.getD_some, hbit, decide_eq_true hi, Bool.true_and]
  · rw [List.getElem?_eq_none (by rw [SMap.length_getN]; omega), decide_eq_false hi, Bool.false_and]
    exact Nat.zero_testBit _

/-- A byte outside a run of bytes reads as before the run was put. -/
theorem winByte_putAll_other (m : SMap Byte) (a n v : Nat) {b : Nat} (hb : b < a ∨ a + n ≤ b) :
    winByte (SMap.putAll 0 m a (bytesOf n v)) b = winByte m b :=
  SMap.get_foldl_putAll_other 0 (fun _ : Unit => a) (fun _ => bytesOf n v) [()] m fun _ _ => by rwa [length_bytesOf]

/-! ## Elements of a column (R136) -/

/-- The element widths of R91. -/
theorem ew_cases {ew : BitVec 2} (h : ew.toNat ≤ 2) : ew = 0#2 ∨ ew = 1#2 ∨ ew = 2#2 := by
  revert ew
  decide

/-- The bytes of element k of a column. -/
def Column.bytes (c : Column) (ew : BitVec 2) (k : Nat) : List Nat := if ew = 2#2 then [c.at k, c.at k + 1] else [c.at k]

/-- Element k of a column as a window holds it. -/
def Column.elem (c : Column) (ew : BitVec 2) (m : SMap Byte) (k : Nat) : Nat :=
  let b := (winByte m (c.at k)).toNat
  if ew = 0#2 then bitsOf b (4 * c.nib) 4 else if ew = 1#2 then b else b + 256 * (winByte m (c.at k + 1)).toNat

/-- A window after the element k of a number has been put in its place of a column. -/
def Column.put (c : Column) (ew : BitVec 2) (v : Nat) (m : SMap Byte) (k : Nat) : SMap Byte :=
  let e := bitsOf v (ewBits ew.toNat * k) (ewBits ew.toNat)
  if ew = 0#2 then SMap.put 0 m (c.at k) (BitVec.ofNat 8 (putBits (winByte m (c.at k)).toNat (4 * c.nib) 4 e))
  else if ew = 1#2 then SMap.put 0 m (c.at k) (BitVec.ofNat 8 e)
  else SMap.putAll 0 m (c.at k) (bytesOf 2 e)

section

variable (w : MWord) (a : Nat) (hori : w.ori = true)
include hori

theorem scrBytes_column : scrBytes w a =
    (List.range (columnOf a w.width.toNat w.ew.toNat).n).flatMap ((columnOf a w.width.toNat w.ew.toNat).bytes w.ew) := if_pos hori

theorem scrLoad_column (m : SMap Byte) : scrLoad m w a = (List.range (columnOf a w.width.toNat w.ew.toNat).n).foldl
    (fun acc k => acc + (columnOf a w.width.toNat w.ew.toNat).elem w.ew m k * 2 ^ (ewBits w.ew.toNat * k)) 0 := if_pos hori

theorem scrStore_column (m : SMap Byte) (v : Nat) : scrStore m w a v =
    (List.range (columnOf a w.width.toNat w.ew.toNat).n).foldl ((columnOf a w.width.toNat w.ew.toNat).put w.ew v) m := if_pos hori

end

section

variable (c : Column) {ew : BitVec 2} (hew : ew.toNat ≤ 2) (v : Nat) (m : SMap Byte)

include hew in
/-- A byte of no element that is put reads as before. -/
theorem Column.winByte_put {k b : Nat} (hb : b ∉ c.bytes ew k) : winByte (c.put ew v m k) b = winByte m b := by
  rcases ew_cases hew with rfl | rfl | rfl
  · exact SMap.get_put_other 0 m _ (by simpa [Column.bytes] using hb)
  · exact SMap.get_put_other 0 m _ (by simpa [Column.bytes] using hb)
  · refine winByte_putAll_other m (c.at k) 2 _ ?_
    simp only [Column.bytes, if_true, List.mem_cons, List.not_mem_nil, or_false] at hb
    omega

include hew in
theorem Column.winByte_foldl_put (ks : List Nat) {b : Nat} (hb : ∀ k ∈ ks, b ∉ c.bytes ew k) :
    winByte (ks.foldl (c.put ew v) m) b = winByte m b := by
  induction ks generalizing m with
  | nil => rfl
  | cons k ks ih =>
    rw [List.foldl_cons, ih _ fun j hj => hb j (List.mem_cons_of_mem _ hj), c.winByte_put hew v m (hb k List.mem_cons_self)]

include hew in
/-- An element that is put reads as what was put. -/
theorem Column.elem_put_same (hnib : c.nib < 2) (k : Nat) :
    c.elem ew (c.put ew v m k) k = bitsOf v (ewBits ew.toNat * k) (ewBits ew.toNat) := by
  rcases ew_cases hew with rfl | rfl | rfl
  · have hbyte : winByte (c.put 0#2 v m k) (c.at k) = BitVec.ofNat 8 _ := SMap.get_put_same 0 m _ _
    have hnibble : bitsOf v (4 * k) 4 < 2 ^ 4 := bitsOf_lt _ _ _
    calc c.elem 0#2 (c.put 0#2 v m k) k = bitsOf (winByte (c.put 0#2 v m k) (c.at k)).toNat (4 * c.nib) 4 := rfl
      _ = bitsOf v (4 * k) 4 := by
        rw [hbyte, BitVec.toNat_ofNat, bitsOf_mod_two_pow _ (by omega)]
        exact bitsOf_putBits_same _ _ _ hnibble
  · have hbyte : winByte (c.put 1#2 v m k) (c.at k) = BitVec.ofNat 8 (bitsOf v (8 * k) 8) := SMap.get_put_same 0 m _ _
    calc c.elem 1#2 (c.put 1#2 v m k) k = (winByte (c.put 1#2 v m k) (c.at k)).toNat := rfl
      _ = bitsOf v (8 * k) 8 := by rw [hbyte, BitVec.toNat_ofNat, Nat.mod_eq_of_lt (bitsOf_lt v _ 8)]
  · calc c.elem 2#2 (c.put 2#2 v m k) k = natOfBytes ((c.put 2#2 v m k).getN 0 (c.at k) 2) := by
          simp [Column.elem, natOfBytes, SMap.getN, winByte]
      _ = bitsOf v (16 * k) 16 := (natOfBytes_getN_putAll m (c.at k) 2 _).trans (Nat.mod_eq_of_lt (bitsOf_lt v _ 16))

include hew in
/-- An element is that of a window with the same bytes in its place. -/
theorem Column.elem_congr {m m' : SMap Byte} {k : Nat} (h : ∀ b ∈ c.bytes ew k, winByte m b = winByte m' b) :
    c.elem ew m k = c.elem ew m' k := by
  rcases ew_cases hew with rfl | rfl | rfl
  · exact congrArg (fun b : Byte => bitsOf b.toNat (4 * c.nib) 4) (h (c.at k) List.mem_cons_self)
  · exact congrArg BitVec.toNat (h (c.at k) List.mem_cons_self)
  · exact congrArg₂ (fun b b' : Byte => b.toNat + 256 * b'.toNat) (h (c.at k) List.mem_cons_self)
      (h (c.at k + 1) (List.mem_cons_of_mem _ List.mem_cons_self))

/-- Two elements of a column share no byte: those of two bytes begin at even places of their rows. -/
theorem Column.bytes_disjoint (heven : ew = 2#2 → c.col % 2 = 0) {j k : Nat} (hjk : j ≠ k) {b : Nat} (hb : b ∈ c.bytes ew k) :
    b ∉ c.bytes ew j := by
  unfold Column.bytes Column.at at *
  by_cases h : ew = 2#2
  · have hcol := heven h
    simp only [h, if_true, List.mem_cons, List.not_mem_nil, or_false] at hb ⊢
    omega
  · simp only [h, if_false, List.mem_cons, List.not_mem_nil, or_false] at hb ⊢
    omega

include hew in
/-- Of a column that is stored, each element reads as the number's. -/
theorem Column.elem_foldl_put (hnib : c.nib < 2) (heven : ew = 2#2 → c.col % 2 = 0) {n k : Nat} (hk : k < n) :
    c.elem ew ((List.range n).foldl (c.put ew v) m) k = bitsOf v (ewBits ew.toNat * k) (ewBits ew.toNat) := by
  induction n with
  | zero => cases hk
  | succ n ih =>
    rw [List.range_succ, List.foldl_append, List.foldl_cons, List.foldl_nil]
    obtain rfl | hne := eq_or_ne n k
    · exact c.elem_put_same hew v _ hnib n
    · rw [← ih (by omega)]
      exact c.elem_congr hew fun b hb => c.winByte_put hew v _ (c.bytes_disjoint heven hne hb)

end

/-- A number is the sum of its fields of one width. -/
theorem foldl_bitsOf (B v n : Nat) :
    (List.range n).foldl (fun acc k => acc + bitsOf v (B * k) B * 2 ^ (B * k)) 0 = v % 2 ^ (B * n) := by
  induction n with
  | zero => rw [Nat.mul_zero, Nat.pow_zero, Nat.mod_one]; rfl
  | succ n ih =>
    rw [List.range_succ, List.foldl_append, List.foldl_cons, List.foldl_nil, ih, bitsOf_eq_div, Nat.mul_succ, Nat.pow_add, Nat.mod_mul,
      Nat.mul_comm (_ % _)]

/-- The elements of a column hold as many bits as the access (R136). -/
theorem ewBits_mul_columnOf {a width ew : Nat} (hn : (columnOf a width ew).n ≠ 0) : ewBits ew * (columnOf a width ew).n = 8 * 2 ^ width := by
  have hew : ewBits ew = 2 ^ (ew + 2) := by rw [ewBits, Nat.pow_add, Nat.mul_comm]
  have hwidth : 8 * 2 ^ width = 2 ^ (width + 3) := by rw [Nat.pow_add, Nat.mul_comm]
  have hle : 2 ^ (ew + 2) ≤ 2 ^ (width + 3) := by
    rw [← hew, ← hwidth]
    exact (Nat.div_pos_iff.1 (Nat.pos_of_ne_zero hn)).2
  rw [columnOf, hew, hwidth]
  exact Nat.mul_div_cancel' (Nat.pow_dvd_pow 2 ((Nat.pow_le_pow_iff_right (by decide)).1 hle))

/-! ## A window stored and loaded (R135, R136) -/

/-- A byte that an access does not touch reads as before its store. -/
theorem winByte_scrStore_other (m : SMap Byte) (w : MWord) (a v : Nat) (hew : w.ori = true → w.ew.toNat ≤ 2) {b : Nat} (hb : b ∉ scrBytes w a) :
    winByte (scrStore m w a v) b = winByte m b := by
  by_cases hori : w.ori = true
  · rw [scrBytes_column w a hori, List.mem_flatMap] at hb
    rw [scrStore_column w a hori]
    exact Column.winByte_foldl_put _ (hew hori) v m _ fun k hk hbk => hb ⟨k, hk, hbk⟩
  · rw [scrBytes, if_neg hori, List.mem_map] at hb
    rw [scrStore, if_neg hori]
    refine winByte_putAll_other m a _ v ?_
    by_contra hin
    exact hb ⟨b - a, List.mem_range.2 (by omega), by omega⟩

/-- A load of the place of a store finds the stored bits. -/
theorem scrLoad_scrStore (m : SMap Byte) (w : MWord) (a v : Nat) (hform : w.ori = true → w.ew.toNat ≤ 2 ∧ w.width.toNat ≤ 4)
    (halign : scrAligned w a = true) : scrLoad (scrStore m w a v) w a = v % 2 ^ (8 * memBytes w.width.toNat) := by
  by_cases hori : w.ori = true
  · obtain ⟨hew, hwidth⟩ := hform hori
    rw [scrAligned, if_pos hori] at halign
    simp only [Bool.and_eq_true, Bool.or_eq_true, bne_iff_ne, beq_iff_eq] at halign
    obtain ⟨⟨hn, -⟩, hparity⟩ := halign
    have hnib : (columnOf a w.width.toNat w.ew.toNat).nib < 2 := bitsOf_lt a 6 1
    have heven (h : w.ew = 2#2) : (columnOf a w.width.toNat w.ew.toNat).col % 2 = 0 := by
      have hpair := hparity.resolve_left fun hne => hne h
      show a % 64 % 2 = 0
      omega
    rw [scrStore_column w a hori, scrLoad_column w a hori, memBytes, if_pos hwidth, ← ewBits_mul_columnOf hn, ← foldl_bitsOf]
    refine List.foldl_ext _ _ _ fun acc k hk => ?_
    rw [Column.elem_foldl_put _ hew v m hnib heven (List.mem_range.1 hk)]
  · rw [scrLoad, if_neg hori, scrStore, if_neg hori]
    exact natOfBytes_getN_putAll m a _ v

/-! ## The checks (R103, R144) -/

/-- A word that issues has no cause of its own (R102). -/
theorem Issues.causes_nil {s : State} {i : Instr} {nfo : Info} {x : Path} {ck : Checks} (h : Issues s i nfo x ck) : nfo.causes = [] := by
  have hill : illegalLanes s x nfo ck = [] := by
    have hpasses := h.passes
    unfold State.firstTrap at hpasses
    by_contra hne
    simp [hne] at hpasses
  obtain ⟨ln, hln⟩ := List.exists_mem_of_ne_nil _ (State.path_lanes h.path)
  have hmin := Option.map_eq_none_iff.1 (List.filterMap_eq_nil_iff.1 hill ln hln)
  have hword := (List.append_eq_nil_iff.1 (minOf_eq_none hmin)).1
  simp only [wordCauses, List.append_eq_nil_iff] at hword
  obtain ⟨⟨⟨⟨hcauses, -⟩, -⟩, -⟩, -⟩ := hword
  exact hcauses

/-- A store without a cause has an element width of R91. -/
theorem ew_of_stCauses {w : MWord} (h : stCauses w = []) : w.ew.toNat ≤ 2 := by
  by_contra hew
  have hrsv : w.ew = 3#2 := BitVec.eq_of_toNat_eq (show w.ew.toNat = 3 by have := w.ew.isLt; omega)
  simp [stCauses, mCauses, hrsv] at h

/-- A lane's aligned access within the window, none of whose stores is in the berm, has no fault (R144). -/
theorem Path.scrCause_zero {x : Path} {w : MWord} {ln : Lane} (write : Bool) (hpos : 0 ≤ x.scrAddr w ln)
    (hin : x.scrAddr w ln + memBytes w.width.toNat ≤ x.l.hdr.scr * 8192) (halign : scrAligned w (x.scrAddr w ln).toNat = true)
    (hberm : write = true → ∀ b ∈ scrBytes w (x.scrAddr w ln).toNat, b < bermOf (x.l.hdr.scr * 8192)) : x.scrCause w write ln = 0 := by
  have hfault : scrFault x.window (rangeBytes (x.scrAddr w ln).toNat (memBytes w.width.toNat)) true false = 0 :=
    scrFault_read (show _ ≤ x.l.hdr.scr * 8192 by omega)
  have hout : (write && (scrBytes w (x.scrAddr w ln).toNat).any (fun b => bermOf x.window ≤ b)) = false := by
    cases write with
    | false => rfl
    | true =>
      rw [Bool.true_and, List.any_eq_false]
      exact fun b hb hle => absurd (of_decide_eq_true hle) (Nat.not_le.2 (hberm rfl b hb))
  unfold Path.scrCause
  dsimp only
  rw [if_neg (by omega), halign, hfault, hout]
  rfl

/-! ## Loads (R137, R370) -/

/-- Values that are all equal raise no trap (R48). -/
theorem State.gatherTrap_none (s : State) (x : Path) {vals : List (Lane × List Word)} (h : ∀ a ∈ vals, ∀ b ∈ vals, a.2 = b.2) :
    s.gatherTrap x vals = none := by
  have hbad : vals.filter (fun e => e.2 != (vals.headD e).2) = [] := List.filter_eq_nil_iff.2 fun e he => by
    cases vals with
    | nil => cases he
    | cons v vs => simpa using h e he v List.mem_cons_self
  unfold State.gatherTrap
  rw [hbad]

/-- The threads of a path changed before its word ends are changed with the word. -/
theorem Path.finish_onLanes (x : Path) (s : State) (g : Lane → Thread → Thread) (hold : Bool) (pc : Lane → Nat) (f : Lane → Thread → Thread)
    (h : WG → WG) : x.finish (s.modWG x.w.wid (x.onLanes g)) hold pc f h = x.finish s hold pc (fun ln t => f ln (g ln t)) h := by
  unfold Path.finish
  rw [State.modWG_modWG s x.w.wid (x.onLanes_wid g)]
  refine congrArg (fun q => (s.modWG x.w.wid q).setHeld x hold) (funext fun v => congrArg h ?_)
  simp only [Path.onLanes, WG.modThreads, List.mapIdx_mapIdx]
  congr 2
  funext i t
  simp only [Function.comp]
  cases x.lanes.find? (fun ln => ln.tid == i) <;> rfl

theorem WG.orFlags_zero (w : WG) : w.orFlags 0 = w := by simp [WG.orFlags]

theorem Thread.knows_zero (t : Thread) (w : WG) : t.knows w 0 = t := rfl

/-- An s destination takes the value of the first executing lane (R48). -/
def Path.writeS (x : Path) (hd : Head) (d : Opnd) (f : Lane → LaneRes) (v : WG) : WG :=
  match x.exec hd with
  | ln :: _ => v.setS x.g.gid d (f ln).s
  | [] => v

theorem Path.writeS_wid (x : Path) (hd : Head) (d : Opnd) (f : Lane → LaneRes) (v : WG) : (x.writeS hd d f v).wid = v.wid := by
  unfold Path.writeS
  split
  · exact v.setS_wid _ _ _
  · rfl

theorem Path.writeS_over_threads (x : Path) (hd : Head) (d : Opnd) (f : Lane → LaneRes) (v : WG) (ts : List Thread) :
    ({ x.writeS hd d f { v with threads := ts } with threads := v.threads } : WG) = x.writeS hd d f v
      ∧ (x.writeS hd d f { v with threads := ts }).threads = ts := by
  unfold Path.writeS
  split
  · exact v.setS_over_threads _ _ _ ts
  · exact ⟨rfl, rfl⟩

/-- What a word without flags leaves in a lane's thread, before the path moves. -/
def LaneRes.leaves (f : Lane → LaneRes) (hd : Head) (n : Nat) (ln : Lane) (t : Thread) : Thread :=
  if ln.t.executes hd then (f ln).apply (0 < n) t else t.shiftStale n

/-- The results of a word that raises no flag. -/
theorem Path.commit_flagless (x : Path) (s : State) (i : Instr) (nfo : Info) (d : Opnd) {f : Lane → LaneRes} (hf : ∀ ln, (f ln).fl = 0) :
    x.commit s i nfo d f
      = x.finish s nfo.head.hold (fun _ => x.next) (LaneRes.leaves f nfo.head (shiftCount i nfo)) (x.writeS nfo.head d f) := by
  have hfl : flagsOf (x.exec nfo.head) f = 0 := Nat.eq_of_testBit_eq fun b => by simp [flagsOf_testBit, hf]
  unfold Path.commit
  dsimp only
  rw [hfl]
  simp only [WG.orFlags_zero, Thread.knows_zero]
  rfl

theorem scrResult_fl (x : Path) (w : MWord) (ln : Lane) : (scrResult x w ln).fl = 0 := by
  unfold scrResult
  dsimp only
  split <;> rfl

/-- What a lane's thread has learnt by its load: the access counts, and the bytes' release clocks are acquired (R182). -/
def Path.scrLearn (x : Path) (w : MWord) (ln : Lane) (t : Thread) : Thread :=
  { t with seq := t.seq + 1, acq := Clock.join t.acq (x.w.relOf (scrBytes w (x.scrAddr w ln).toNat)) }

/-- What the word leaves in a lane's thread, before the path moves. -/
def Path.scrLoadLane (x : Path) (w : MWord) (n : Nat) (ln : Lane) (t : Thread) : Thread :=
  if ln.t.executes w.hd then (scrResult x w ln).apply (0 < n) (x.scrLearn w ln t) else t.shiftStale n

/-- A scratchpad load whose lanes agree on an s destination ends the path's word. -/
theorem Path.scrLoads_eq (x : Path) (s : State) (i : Instr) {nfo : Info} (w : MWord) (hhd : nfo.head = w.hd)
    (hagree : isS w.d = true → ∀ a ∈ x.exec w.hd, ∀ b ∈ x.exec w.hd, (scrResult x w a).s = (scrResult x w b).s) :
    x.scrLoads s i nfo w = x.finish s w.hd.hold (fun _ => x.next) (x.scrLoadLane w (shiftCount i nfo)) (x.writeS w.hd w.d (scrResult x w)) := by
  have htrap (t : State) :
      (if isS w.d then t.gatherTrap x ((x.exec w.hd).map (fun ln => (ln, (scrResult x w ln).s))) else none) = none := by
    split
    · next hs =>
      refine t.gatherTrap_none x fun a ha b hb => ?_
      obtain ⟨p, hp, rfl⟩ := List.mem_map.1 ha
      obtain ⟨q, hq, rfl⟩ := List.mem_map.1 hb
      exact hagree hs p hp q hq
    · rfl
  unfold Path.scrLoads
  dsimp only
  rw [htrap]
  dsimp only
  rw [x.commit_flagless _ i nfo w.d (scrResult_fl x w), x.finish_onLanes, hhd]
  congr 1
  funext ln t
  unfold LaneRes.leaves Path.scrLoadLane
  split <;> rfl

/-- LDS and scratchpad LDB where no lane faults, no watchpoint is met, and the lanes agree on an s destination. -/
theorem State.scratchLoad_does {s : State} {i : Instr} {nfo : Info} {x : Path} {w : MWord} (hexec : exec i s = s.scratchLoad i w)
    (hi : Issues s i nfo x {}) (hhd : nfo.head = w.hd) (hcount : shiftCount i nfo = bit1 nfo.shifts)
    (hcause : ∀ ln ∈ x.exec w.hd, x.scrCause w false ln = 0)
    (hwatch : s.watched x true true false (fun ln => scrBytes w (x.scrAddr w ln).toNat) (x.exec w.hd) = [])
    (hagree : isS w.d = true → ∀ a ∈ x.exec w.hd, ∀ b ∈ x.exec w.hd, (scrResult x w a).s = (scrResult x w b).s) :
    Does s i x w.hd.hold (fun _ => x.next)
      (fun ln => if ln.t.executes w.hd then (scrResult x w ln).apply nfo.shifts (x.scrLearn w ln ln.t) else ln.t.shiftStale (shiftCount i nfo))
      s (x.writeS w.hd w.d (scrResult x w) x.w) := by
  have hword : exec i s = s.word i (fun _ => {}) (fun x s => s.scratchWord x w.hd (x.scrCause w false) (fun ln => wrapTo 64 (x.scrAddr w ln))
      (fun ln => scrBytes w (x.scrAddr w ln).toNat) true false (fun x s => x.scrLoads s i nfo w)) := by
    rw [hexec, State.scratchLoad, hi.word]
  refine Does.of_finish (ck := fun _ => {}) hi hword ((State.scratchWord_acts _ hcause hwatch).trans (x.scrLoads_eq s i w hhd hagree))
    (State.path_parts hi.path).2.1 (Same.refl _) (x.writeS_wid _ _ _) (x.writeS_over_threads _ _ _) (fun ln => ?_) rfl
  have hshift : decide (0 < shiftCount i nfo) = nfo.shifts := by
    rw [hcount]
    cases nfo.shifts <;> rfl
  rw [Path.scrLoadLane, hshift]

/-! ## Stores (R137, R415) -/

/-- The window after the stores of some lanes, one after the other. -/
def scrStoreWin (x : Path) (w : MWord) (win : SMap Byte) (ls : List Lane) : SMap Byte :=
  ls.foldl (fun m ln => scrStore m w (x.scrAddr w ln).toNat (storeVal x w ln)) win

/-- The release clocks of the window's bytes after the stores of some lanes (R182). -/
def scrStoreRel (x : Path) (w : MWord) (rel : SMap Clock) (ls : List Lane) : SMap Clock :=
  ls.foldl (fun m ln => (scrBytes w (x.scrAddr w ln).toNat).foldl (fun m b => SMap.put [] m b (Clock.join (m.get [] b) ln.t.fvc)) m) rel

/-- What the stores of the executing lanes leave of their workgroup. -/
def Path.scrStores (x : Path) (w : MWord) (v : WG) : WG :=
  { v with win := scrStoreWin x w v.win (x.exec w.hd), wrel := scrStoreRel x w v.wrel (x.exec w.hd) }

theorem Path.scrStoreLane_foldl (x : Path) (w : MWord) (ls : List Lane) (v : WG) :
    ls.foldl (Path.scrStoreLane w x) v = { v with win := scrStoreWin x w v.win ls, wrel := scrStoreRel x w v.wrel ls } := by
  induction ls generalizing v with
  | nil => rfl
  | cons l ls ih =>
    rw [List.foldl_cons, ih]
    rfl

/-- A byte that no lane touches reads as before the stores of the lanes. -/
theorem winByte_scrStoreWin_other (x : Path) (w : MWord) (hew : w.ori = true → w.ew.toNat ≤ 2) (win : SMap Byte) (ls : List Lane) {b : Nat}
    (hb : ∀ ln ∈ ls, b ∉ scrBytes w (x.scrAddr w ln).toNat) : winByte (scrStoreWin x w win ls) b = winByte win b := by
  induction ls generalizing win with
  | nil => rfl
  | cons l ls ih =>
    exact (ih _ fun ln hln => hb ln (List.mem_cons_of_mem _ hln)).trans
      (winByte_scrStore_other win w _ _ hew (hb l List.mem_cons_self))

/-- STS and scratchpad STB where no lane faults and no watchpoint is met. -/
theorem State.scratchStore_does {s : State} {i : Instr} {nfo : Info} {x : Path} {w : MWord} (hexec : exec i s = s.scratchStore i w)
    (hi : Issues s i nfo x {}) (hcause : ∀ ln ∈ x.exec w.hd, x.scrCause w true ln = 0)
    (hwatch : s.watched x true false true (fun ln => scrBytes w (x.scrAddr w ln).toNat) (x.exec w.hd) = []) :
    Does s i x w.hd.hold (fun _ => x.next) (fun ln => if ln.t.executes w.hd then ln.t.count else ln.t) s
      (x.scrStores w x.w) := by
  have hstores : (fun v => (x.exec w.hd).foldl (Path.scrStoreLane w x) v) = x.scrStores w := funext (x.scrStoreLane_foldl w (x.exec w.hd))
  exact Does.of_finish (ck := fun _ => {}) (f := fun ln t => if ln.t.executes w.hd then t.count else t) hi hexec
    ((State.scratchWord_acts _ hcause hwatch).trans (congrArg (x.finish s w.hd.hold (fun _ => x.next) _) hstores))
    (State.path_parts hi.path).2.1 (Same.refl _) (fun _ => rfl) (fun _ _ => ⟨rfl, rfl⟩) (fun _ => rfl) rfl

end Sys2Proof.Machine

section

open Sys2Proof Sys2Proof.Machine

/-- Settles O24: a window stored and then loaded element by element (`scrLoad_scrStore`); a scratchpad load and a scratchpad store whose lanes
have no fault act on all of them, and a store that issues has an element width that its bytes account for (`ew_of_stCauses`). -/
theorem scratchpadWords : Obligations.ScratchpadWords := by
  unfold Obligations.ScratchpadWords
  refine ⟨fun m w a v hform halign => ⟨scrLoad_scrStore m w a v hform halign, fun b hb =>
    winByte_scrStore_other m w a v (fun h => (hform h).1) hb⟩, ?load, ?store⟩
  case load =>
    intro s i w nfo x adr bytes ex r hit hword hin hagree hwatch hi
    have hcause : ∀ ln ∈ x.exec w.hd, x.scrCause w false ln = 0 := fun ln hln =>
      have ⟨hpos, hlen, halign⟩ := hin ln hln
      Path.scrCause_zero false hpos hlen halign nofun
    rcases hword with rfl | ⟨rfl, hspace⟩
    · exact State.scratchLoad_does (exec_lds s) hi (by cases hi.word; rfl) rfl hcause hwatch hagree
    · exact State.scratchLoad_does ((exec_ldb s).trans (if_pos hspace)) hi (by cases hi.word; rfl) rfl hcause hwatch hagree
  case store =>
    intro s i w nfo x adr bytes ex win wrel hword hin hwatch hi
    have hcause : ∀ ln ∈ x.exec w.hd, x.scrCause w true ln = 0 := fun ln hln =>
      have ⟨hpos, hlen, halign, hberm⟩ := hin ln hln
      Path.scrCause_zero true hpos hlen halign fun _ => hberm
    have hcauses : stCauses w = [] := by
      have hnil := hi.causes_nil
      rcases hword with rfl | ⟨rfl, -⟩ <;> cases hi.word <;> exact hnil
    refine ⟨?_, fun b hb => winByte_scrStoreWin_other x w (fun _ => ew_of_stCauses hcauses) x.w.win ex hb⟩
    rcases hword with rfl | ⟨rfl, hspace⟩
    · exact State.scratchStore_does (exec_sts s) hi hcause hwatch
    · exact State.scratchStore_does ((exec_stb s).trans (if_pos hspace)) hi hcause hwatch

end

/-! SUPPORT and PROOF of the STAMP words (O33). -/

namespace Sys2Proof.Machine

/-- A write of the lodge takes no time. -/
@[simp] theorem State.lodgeWrite_ck (s : State) (ctx va : Nat) (bs : List Byte) : (s.lodgeWrite ctx va bs).1.ck = s.ck := by
  unfold State.lodgeWrite
  split
  · next t _ =>
    split
    · rfl
    · have hdgen := congrArg State.ck (s.setDgen_rest ctx t)
      exact (State.writeM_ck ..).trans hdgen
  · rfl

/-- Writing a stamp record takes no time. -/
@[simp] theorem State.writeStamp_ck (s : State) (wid n : Nat) (intr lost : Bool) : (s.writeStamp wid n intr lost).ck = s.ck := by
  unfold State.writeStamp
  split
  · rfl
  · exact (State.modWG_ck ..).trans (State.lodgeWrite_ck ..)

/-- A STAMP word that issues acts once, with the entry that its first executing lane names, and then advances its path. -/
theorem State.stampWord_next {s : State} {i : Instr} {nfo : Info} {x : Path} {w : FWord} {form : Nat} {ln : Lane}
    (hi : Issues s i nfo x (stampChecks w form x)) (hln : (x.exec w.hd).head? = some ln) (f : Path → Lane → Nat → State → State) :
    s.stampWord i w form f = .next (x.advance (f x ln (x.read32 ln w.a) s) w.hd.hold) := by
  obtain ⟨ls, hls⟩ := Path.exec_cons hln
  rw [State.stampWord, State.word_next hi, hls]

end Sys2Proof.Machine

section

open Sys2Proof Sys2Proof.Machine

/-- Settles O33: each form acts once for its path (`State.stampWord_next`), and STAMP.IN writes the entry's record first exactly where the entry is
open. -/
theorem stampWords : Obligations.StampWords := by
  unfold Obligations.StampWords
  intro s w nfo x ln e q does put opened
  refine ⟨fun hclosed hln hi => ?fresh, fun hopen hln hi => ?lost, fun hln hi => ?mma, fun hln hi => ?out⟩
  case fresh =>
    rw [exec_stampIn, execStampIn, State.stampWord_next hi hln]
    dsimp only
    rw [if_neg (Bool.eq_false_iff.1 hclosed)]
  case lost =>
    rw [exec_stampIn, execStampIn, State.stampWord_next hi hln]
    dsimp only
    rw [if_pos hopen, State.writeStamp_ck]
  case mma => exact (exec_stampMma s).trans (State.stampWord_next hi hln _)
  case out => exact (exec_stampOut s).trans (State.stampWord_next hi hln _)

end

/-! SUPPORT and PROOF of the matrix words that enter the queue of their core (O39). -/

namespace Sys2Proof.Machine

/-! ## The matrix queue beside the end of a word (R31, R149) -/

/-- The end of a word and a change of its core's matrix queue do not meet. -/
theorem Path.finish_matrixQueue (x : Path) (s : State) (q : List MEntry → List MEntry) (hold : Bool) (pc : Lane → Nat)
    (f : Lane → Thread → Thread) (h : WG → WG) :
    (x.finish s hold pc f h).modCore x.w.core (fun c => { c with mq := q c.mq })
      = x.finish (s.modCore x.w.core (fun c => { c with mq := q c.mq })) hold pc f h := by
  unfold Path.finish State.setHeld
  refine (State.modCore_comm _ x.w.core ?_ ?_ ?_).trans (congrArg (State.modCore · x.w.core _) (State.modCore_modWG ..))
  all_goals exact fun _ => rfl

/-- The entry of a path's matrix word. -/
def Path.matrixEntry (x : Path) (op : MOp) (first : Bool) : MEntry := ⟨x.w.wid, x.g.gid, x.g.span.isSome, first, op⟩

/-- A state in which the entry of a path's matrix word stands last in the queue of its core. -/
def Path.queued (x : Path) (s : State) (op : MOp) (first : Bool) : State :=
  s.modCore x.w.core (fun c => { c with mq := c.mq ++ [x.matrixEntry op first] })

/-- To advance and then to enter the queue is to enter the queue and then to advance. -/
theorem Path.enter_eq (x : Path) (s : State) (hd : Head) (op : MOp) (first : Bool) (f : WG → WG) :
    x.enter s hd op first f = x.finish (x.queued s op first) hd.hold (fun _ => x.next) (fun _ t => t) f :=
  x.finish_matrixQueue s (· ++ [x.matrixEntry op first]) ..

/-- A scratchpad operand without a fault lets its word act (R144). -/
theorem Path.operand_ok {x : Path} {cause : Nat} (h : cause = 0) (s : State) (hd : Head) (base : Nat) (act : State) :
    x.operand s hd cause base act = act :=
  if_pos h

/-- How a matrix word completes whose body enters the queue beside a change of the workgroup that does not look at its threads. -/
theorem Does.of_enter {s : State} {i : Instr} {nfo : Info} {x : Path} {c : Checks} {ck : Path → Checks} {body : Path → State → State}
    {hd : Head} {op : MOp} {first : Bool} {f : WG → WG} (hexec : exec i s = s.word i ck body) (hi : Issues s i nfo x c) (hck : ck x = c)
    (hbody : body x s = x.enter s hd op first f) (hwid : ∀ w, (f w).wid = w.wid)
    (hthreads : ∀ (w : WG) (ts : List Thread),
      ({ (f { w with threads := ts }) with threads := w.threads } : WG) = f w ∧ (f { w with threads := ts }).threads = ts) :
    Does s i x hd.hold (fun _ => x.cur.pc + 8) (fun ln => ln.t) (x.queued s op first) (f x.w) :=
  Does.of_finish (f := fun _ t => t) (hck ▸ hi) hexec (hbody.trans (x.enter_eq ..))
    ((State.wg?_modCore ..).trans (State.path_parts hi.path).2.1) (Same.refl _) hwid hthreads (fun _ => rfl) rfl

/-- How a matrix word completes that only enters the queue. -/
theorem Does.of_enter_id {s : State} {i : Instr} {nfo : Info} {x : Path} {c : Checks} {ck : Path → Checks} {body : Path → State → State}
    {hd : Head} {op : MOp} {first : Bool} (hexec : exec i s = s.word i ck body) (hi : Issues s i nfo x c) (hck : ck x = c)
    (hbody : body x s = x.enter s hd op first id) :
    Does s i x hd.hold (fun _ => x.cur.pc + 8) (fun ln => ln.t) (x.queued s op first) x.w :=
  Does.of_enter hexec hi hck hbody (fun _ => rfl) fun _ _ => ⟨rfl, rfl⟩

/-! ## MMA and MMAW (R57, R158) -/

/-- What an MMA's tiles and its slot add to a span. -/
def Span.join (tiles : List Nat) (phys : Nat) (sp : Span) : Span :=
  { sp with wtiles := unionSet tiles sp.wtiles, rslots := insertSet phys sp.rslots, begun := true }

/-- Joining a span changes stamps, and the span in its group. -/
theorem Path.joinSpan_eq (x : Path) (s : State) (tiles : List Nat) (phys : Nat) : ∃ z : List Stamp → List Stamp, ∀ w : WG,
    x.joinSpan s tiles phys w
      = ({ w with stamps := z w.stamps } : WG).modGroup x.g.gid (fun g => { g with span := g.span.map (Span.join tiles phys) }) := by
  obtain ⟨z, hz⟩ := (WG.spanStamps_alone x.g.gid (fun z => { z with t3 := s.now })).ite (fun _ => x.g.span.any (fun sp => !sp.begun))
  exact ⟨z, fun w => congrArg (WG.modGroup · x.g.gid (fun g => { g with span := g.span.map (Span.join tiles phys) })) (hz w)⟩

/-- The destination tiles of an MMA of a shape, from its tile on. -/
def mmaTiles (tile : Nat) (h : Shape) : List Nat := (List.range (h.m / 16 * (h.n / 16))).map (tile + ·)

/-- How MMA and MMAW complete, where `win` is the window word of the latter. -/
theorem State.mmaWord_does {s : State} {i : Instr} {nfo : Info} {x : Path} {w : FWord} {win : Path → Option Nat}
    (hexec : exec i s = s.mmaWord i w win)
    (hi : Issues s i nfo x
      { decl := statCauses x [FSpec w % 4] ++ (if isLit w.a then accCauses x w.a else []),
        lane := fun ln => mmaCauses s x (x.read32 ln w.a) (shapeOf (x.read32 ln w.c)) (win x) (FSpec w % 4) })
    (hfault : storedFault x.window (x.num w.b) (storedA (shapeOf (x.num w.c)) (win x)) = 0) :
    Does s i x w.hd.hold (fun _ => x.cur.pc + 8) (fun ln => ln.t)
      (x.queued s (.mma (x.num w.a) (x.num w.b) (x.num w.c) (FSpec w % 4) (win x)) (x.g.span.any (fun sp => !sp.begun)))
      (x.joinSpan s (mmaTiles (x.num w.a) (shapeOf (x.num w.c))) (physOf (s.slotView x.w).1 (FSpec w % 4)) x.w) := by
  obtain ⟨z, hz⟩ := x.joinSpan_eq s (mmaTiles (x.num w.a) (shapeOf (x.num w.c))) (physOf (s.slotView x.w).1 (FSpec w % 4))
  exact Does.of_enter hexec hi rfl (Path.operand_ok hfault ..) (fun v => by rw [hz]; rfl) (fun v ts => by rw [hz, hz]; exact ⟨rfl, rfl⟩)

/-! ## MZERO, MLDA and MSTA (R160, R161, R380) -/

/-- A tile number below .acc breaks nothing. -/
theorem accCauses_nil {x : Path} {o : Opnd} (h : x.num o < x.l.hdr.acc) : accCauses x o = [] := if_neg (by omega)

/-- From 1 to 256 tiles that end at or below .acc break nothing. -/
theorem mzeroCauses_nil {x : Path} {t n : Nat} (hpos : 1 ≤ n) (hmax : n ≤ 256) (hacc : t + n ≤ x.l.hdr.acc) : mzeroCauses x t n = [] :=
  if_neg (by simp; omega)

/-- How MZERO completes. -/
theorem State.mzero_does {s : State} {nfo : Info} {x : Path} {w : FWord} (hi : Issues s (.mzero w) nfo x {}) (hpos : 1 ≤ x.num w.b)
    (hmax : x.num w.b ≤ 256) (hacc : x.num w.a + x.num w.b ≤ x.l.hdr.acc) :
    Does s (.mzero w) x w.hd.hold (fun _ => x.cur.pc + 8) (fun ln => ln.t) (x.queued s (.mzero (x.num w.a) (x.num w.b)) false) x.w := by
  have htile : x.num w.a < x.l.hdr.acc := by omega
  have hcount : ¬ (x.num w.b = 0 ∨ 256 < x.num w.b) := by omega
  exact Does.of_enter_id (exec_mzero s) hi (by simp [accCauses_nil htile, mzeroCauses_nil hpos hmax hacc, hcount]) rfl

/-- How MLDA and MSTA complete. -/
theorem State.tileWord_does {s : State} {i : Instr} {nfo : Info} {x : Path} {w : FWord} {store : Bool} {op : Nat → Nat → MOp}
    (hexec : exec i s = s.tileWord i w store op) (hi : Issues s i nfo x {}) (hfault : tileFault x.window (x.num w.b) w.ty store = 0)
    (hacc : x.num w.a < x.l.hdr.acc) :
    Does s i x w.hd.hold (fun _ => x.cur.pc + 8) (fun ln => ln.t) (x.queued s (op (x.num w.a) (x.num w.b)) false) x.w :=
  Does.of_enter_id hexec hi (by simp [accCauses_nil hacc]) (Path.operand_ok hfault ..)

end Sys2Proof.Machine

section

open Sys2Proof Sys2Proof.Machine

/-- Settles O39: with its operands' checks passed, each word ends in an advance beside its entry at the end of its core's queue (`Does.of_enter`),
and MMA and MMAW beside the change of their group's span. -/
theorem matrixWordsEnterTheQueue : Obligations.MatrixWordsEnterTheQueue := by
  unfold Obligations.MatrixWordsEnterTheQueue
  intro s w nfo x a b c slot size queued enters mma tile
  refine ⟨fun hfault hi => ?mldb, fun hi => ?mswap, fun hfault hi => ?mma, fun hfault hi => ?mmaw, fun hpos hmax hacc hi => ?mzero,
    fun hfault hacc hi => ?mlda, fun hfault hacc hi => ?msta⟩
  case mldb => exact Does.of_enter_id (exec_mldb s) hi rfl (Path.operand_ok hfault ..)
  case mswap => exact Does.of_enter_id (exec_mswap s) hi rfl rfl
  case mma => exact State.mmaWord_does (win := fun _ => none) (exec_mma s) hi hfault
  case mmaw => exact State.mmaWord_does (win := fun x => some (x.num (nextS w.c))) (exec_mmaw s) hi hfault
  case mzero => exact State.mzero_does hi hpos hmax hacc
  case mlda => exact State.tileWord_does (exec_mlda s) hi hfault hacc
  case msta => exact State.tileWord_does (exec_msta s) hi hfault hacc

end

section

/-! SUPPORT and PROOF of the canonical form of memory at the home slices, which every step keeps (O55). A lemma per operation of a step, in the
order of the model: it keeps the form of memory (`…_wf`). -/

namespace Sys2Proof.Machine

/-- The form looks at memory alone. -/
@[simp] theorem State.memWf_mk {ck ns agenda issue cur before due late free mem poison tags retired quarantined slices paused monitors replies
    faults gbt queues ctxs slots lidNext lodge rasRing rasSeq corrected domain admitted portsDown fw spares turns failing repairs ways
    struckWays evictFirst rcache parts units images imageBase ckpts codes reductions launches link cores wgs widNext} :
    (State.mk ck ns agenda issue cur before due late free mem poison tags retired quarantined slices paused monitors replies faults gbt
      queues ctxs slots lidNext lodge rasRing rasSeq corrected domain admitted portsDown fw spares turns failing repairs ways struckWays
      evictFirst rcache parts units images imageBase ckpts codes reductions launches link cores wgs widNext).memWf ↔ mem.wf = true := Iff.rfl

@[simp] theorem State.mem_wf_iff (s : State) : s.mem.wf = true ↔ s.memWf := Iff.rfl

@[simp] theorem Mem.wf_mk_slots (m : Mem) (slots : SMap (BitVec 512)) : (⟨m.bytes, m.keys, slots⟩ : Mem).wf = m.wf := rfl

/-- What a step comes to keeps the form: its next state, where there is one, has memory in canonical form. -/
def OutcomeWf (o : Host.Outcome State Fault Refusal) : Prop := ∀ t, o = .next t → t.memWf

@[simp] theorem outcomeWf_next {t : State} : OutcomeWf (.next t) ↔ t.memWf := by simp [OutcomeWf]

@[simp] theorem outcomeWf_fault (r : Fault) : OutcomeWf (.fault r) := by simp [OutcomeWf]

@[simp] theorem outcomeWf_refused (r : Refusal) : OutcomeWf (.refused r) := by simp [OutcomeWf]

/-- A command's run keeps the form: the state that it answers has memory in canonical form. -/
def AnswerWf (a : Answer) : Prop := ∀ t v, a = .ok (t, v) → t.memWf

@[simp] theorem answerWf_ok {t : State} {v : Nat} : AnswerWf (.ok (t, v)) ↔ t.memWf := by
  simp [AnswerWf]

@[simp] theorem answerWf_error (n : Nat) : AnswerWf (.error n) := by simp [AnswerWf]

@[simp] theorem answerWf_okay {t : State} : AnswerWf (okay t) ↔ t.memWf := answerWf_ok

theorem answerWf_ite {p : Prop} [Decidable p] {a b : Answer} (ha : AnswerWf a) (hb : AnswerWf b) : AnswerWf (if p then a else b) := by
  split
  · exact ha
  · exact hb

@[simp] theorem State.memWf_modWG (s : State) (wid : Nat) (f : WG → WG) : (s.modWG wid f).memWf ↔ s.memWf := Iff.rfl

@[simp] theorem State.memWf_modLaunch (s : State) (lid : Nat) (f : Launch → Launch) : (s.modLaunch lid f).memWf ↔ s.memWf := Iff.rfl

@[simp] theorem State.memWf_modCtx (s : State) (n : Nat) (f : Ctx → Ctx) : (s.modCtx n f).memWf ↔ s.memWf := Iff.rfl

@[simp] theorem State.memWf_modQueue (s : State) (q : Nat) (f : QDesc → QDesc) : (s.modQueue q f).memWf ↔ s.memWf := Iff.rfl

@[simp] theorem State.memWf_modPart (s : State) (n : Nat) (f : Part → Part) : (s.modPart n f).memWf ↔ s.memWf := Iff.rfl

@[simp] theorem State.memWf_spend (s : State) (n : Nat) : (s.spend n).memWf ↔ s.memWf := Iff.rfl

@[simp] theorem State.memWf_raise (s : State) (lid core rank sub : Nat) (recs : List TrapRec) : (s.raise lid core rank sub recs).memWf ↔ s.memWf :=
  Iff.rfl

@[simp] theorem State.memWf_sweepLaunch (s : State) (lid : Nat) : (s.sweepLaunch lid).memWf ↔ s.memWf := Iff.rfl

@[simp] theorem State.memWf_uncache (s : State) (drop : CachedEntry → Bool) : (s.uncache drop).memWf ↔ s.memWf := Iff.rfl

@[simp] theorem State.memWf_toSlice (s : State) (r : Req) : (s.toSlice r).memWf ↔ s.memWf := Iff.rfl

@[simp] theorem State.memWf_leaveMonitor (s : State) (wid tid : Nat) : (s.leaveMonitor wid tid).memWf ↔ s.memWf := Iff.rfl

@[simp] theorem State.memWf_setRun (s : State) (wid tid : Nat) (r : Run) : (s.setRun wid tid r).memWf ↔ s.memWf := Iff.rfl

@[simp] theorem State.memWf_setSt (s : State) (key st : Nat) : (s.setSt key st).memWf ↔ s.memWf := by simp [State.setSt]

@[simp] theorem State.memWf_setBind (s : State) (n r : Nat) : (s.setBind n r).memWf ↔ s.memWf := Iff.rfl

section
variable {s : State} (h : s.memWf)
include h

theorem State.lidNext_wf (n : Nat) : ({ s with lidNext := n } : State).memWf := h

theorem State.corrected_wf (c : SMap (List Nat)) : ({ s with corrected := c } : State).memWf := h

theorem State.reductions_wf (rs : List Reduction) : ({ s with reductions := rs } : State).memWf := h

theorem State.link_wf (l : Option (List Byte)) : ({ s with link := l } : State).memWf := h

theorem State.struckWays_wf (m : SMap Nat) : ({ s with struckWays := m } : State).memWf := h

theorem State.keySlots_wf (m : SMap (BitVec 512)) : ({ s with mem := { s.mem with slots := m } } : State).memWf := h

/-! ### The shared operations of the state -/

theorem State.modWG_wf (wid : Nat) (f : WG → WG) : (s.modWG wid f).memWf := h

theorem State.modLaunch_wf (lid : Nat) (f : Launch → Launch) : (s.modLaunch lid f).memWf := h

@[simp] theorem State.modCore_wf (key : Nat) (f : LCore → LCore) : (s.modCore key f).memWf := by
  unfold State.modCore
  split <;> simp [h]

@[simp] theorem State.modView_wf (key lid : Nat) (f : View → View) : (s.modView key lid f).memWf := by simp [State.modView, h]

theorem State.modCtx_wf (n : Nat) (f : Ctx → Ctx) : (s.modCtx n f).memWf := h

theorem State.modQueue_wf (q : Nat) (f : QDesc → QDesc) : (s.modQueue q f).memWf := h

theorem State.modPart_wf (n : Nat) (f : Part → Part) : (s.modPart n f).memWf := h

theorem State.spend_wf (n : Nat) : (s.spend n).memWf := h

@[simp] theorem State.fillLine_wf (line : Nat) : (s.fillLine line).memWf := by
  unfold State.fillLine
  dsimp only
  (repeat' split) <;> simp [h]

@[simp] theorem State.fetchLine_wf (key line : Nat) : (s.fetchLine key line).memWf := by simp [State.fetchLine, h]

@[simp] theorem State.fetchLines_wf (ps : List (Nat × Nat)) : (s.fetchLines ps).memWf := foldl_memWf _ (fun s a h => by simp [h]) _ _ h

@[simp] theorem State.retirePage_wf (line : Nat) : (s.retirePage line).memWf := by
  unfold State.retirePage
  dsimp only
  (repeat' split) <;> simp [h]

theorem State.raise_wf (lid core rank sub : Nat) (recs : List TrapRec) : (s.raise lid core rank sub recs).memWf := h

@[simp] theorem State.raiseReturn_wf (lid core : Nat) (r : TrapRec) : (s.raiseReturn lid core r).memWf := by
  unfold State.raiseReturn
  (repeat' split) <;> simp [h]

theorem State.sweepLaunch_wf (lid : Nat) : (s.sweepLaunch lid).memWf := h

@[simp] theorem State.owe_wf (d : Due) : (s.owe d).memWf := by
  unfold State.owe
  (repeat' split) <;> simp [h]

@[simp] theorem State.oweAll_wf (ds : List Due) : (s.oweAll ds).memWf := foldl_memWf _ (fun s a h => by simp [h]) _ _ h

@[simp] theorem State.enterCore_wf (key lid : Nat) : (s.enterCore key lid).memWf := by
  unfold State.enterCore
  split <;> simp [h]

@[simp] theorem State.refresh_wf (key scope : Nat) : (s.refresh key scope).memWf := by simp [State.refresh, h]

@[simp] theorem State.refreshSectors_wf (key : Nat) (secs : List Nat) : (s.refreshSectors key secs).memWf := by
  unfold State.refreshSectors
  split <;> simp [h]

@[simp] theorem State.wakeLine_wf (line ctx : Nat) : (s.wakeLine line ctx).memWf := h

@[simp] theorem State.bindError_wf : s.bindError.memWf := h

/-! ### Operands and traps -/

@[simp] theorem State.setHeld_wf (x : Path) (hold : Bool) : (s.setHeld x hold).memWf := by simp [State.setHeld, h]

@[simp] theorem Path.finish_wf (x : Path) (hold : Bool) (pc : Lane → Nat) (f : Lane → Thread → Thread) (h0 : WG → WG) :
    (x.finish s hold pc f h0).memWf := by
  simp [Path.finish, h]

@[simp] theorem Path.advance_wf (x : Path) (hold : Bool) : (x.advance s hold).memWf := by simp [Path.advance, h]

@[simp] theorem State.giveWay_wf (x : Path) : (s.giveWay x).memWf := by
  unfold State.giveWay
  split <;> simp [h]

@[simp] theorem State.switchPoint_wf (x : Path) : (s.switchPoint x).memWf := by
  unfold State.switchPoint
  split <;> simp [h]

@[simp] theorem Path.trap_wf (x : Path) (cls : Nat) (who : List (Lane × Nat × Nat × Nat)) : (x.trap s cls who).memWf := h

/-! ### Stops and debug events -/

@[simp] theorem writeEvents_wf (ctx : Nat) (dropped : Bool) (r : Ring) (es : List DbgEv) : (writeEvents s ctx dropped r es).1.memWf := by
  induction es generalizing s r with
  | nil => exact h
  | cons e es ih => exact ih (State.ringWrite_wf h ctx true r _) _

@[simp] theorem State.debugEvents_wf (ctx : Nat) (es : List DbgEv) : (s.debugEvents ctx es).memWf := by
  unfold State.debugEvents
  split <;> simp [h]

@[simp] theorem State.dropReads_wf (mine : Nat → Nat → Bool) : (s.dropReads mine).memWf := h

@[simp] theorem State.parkGroup_wf (wid gid : Nat) : (s.parkGroup wid gid).memWf := h

@[simp] theorem State.stopGroup_wf (wid gid : Nat) (all : Bool) (es : List DbgEv) : (s.stopGroup wid gid all es).memWf := by simp [State.stopGroup, h]

@[simp] theorem State.parkLaunch_wf (lid : Nat) : (s.parkLaunch lid).memWf := by
  unfold State.parkLaunch
  refine foldl_memWf _ (fun s a h => ?_) _ _ ?_ <;> (try split) <;> simp [h]

@[simp] theorem State.takeStops_wf (wid gid : Nat) : (s.takeStops wid gid).memWf := by
  unfold State.takeStops
  dsimp only
  repeat' split
  all_goals simp [h]

@[simp] theorem State.stopWatched_wf (x : Path) (defer : Bool) (hits : List (Lane × Nat × Bool × Nat)) : (s.stopWatched x defer hits).memWf := by
  unfold State.stopWatched
  (repeat' split) <;> simp [h]

/-! ### The issue of a word -/

@[simp] theorem State.breakStop_wf (x : Path) (hold : Bool) : (s.breakStop x hold).1.memWf := by
  unfold State.breakStop
  dsimp only
  (repeat' split) <;> simp [h]

@[simp] theorem Path.idle_wf (x : Path) (i : Instr) (nfo : Info) : (x.idle s i nfo).memWf := by simp [Path.idle, h]

theorem Path.act_wf (x : Path) (i : Instr) (nfo : Info) {body : Path → State → State}
    (hb : ∀ x t, t.memWf → (body x t).memWf) : (x.act s i nfo body).memWf := by
  unfold Path.act
  split
  · exact Path.idle_wf h x i nfo
  · exact hb x s h

theorem Path.issue_wf (x : Path) (i : Instr) (nfo : Info) (ck : Path → Checks) {body : Path → State → State}
    (hb : ∀ x t, t.memWf → (body x t).memWf) : (x.issue s i nfo ck body).memWf := by
  unfold Path.issue
  split
  · exact Path.trap_wf h x _ _
  · exact Path.act_wf h x i nfo hb

theorem Path.run_wf (x : Path) (i : Instr) (nfo : Info) (ck : Path → Checks) {body : Path → State → State}
    (hb : ∀ x t, t.memWf → (body x t).memWf) : (x.run s i nfo ck body).memWf := by
  have hbreak := State.breakStop_wf h x nfo.head.hold
  unfold Path.run
  dsimp only
  split
  · exact h
  · split
    · exact hbreak
    · exact Path.issue_wf hbreak _ i nfo ck hb

theorem State.word_wf {i : Instr} {ck : Path → Checks} {body : Path → State → State}
    (hb : ∀ x t, t.memWf → (body x t).memWf) : OutcomeWf (s.word i ck body) := by
  unfold State.word
  split
  · exact outcomeWf_next.2 (Path.run_wf h _ i _ ck hb)
  · exact outcomeWf_fault _

@[simp] theorem Path.commit_wf (x : Path) (i : Instr) (nfo : Info) (d : Opnd) (f : Lane → LaneRes) : (x.commit s i nfo d f).memWf := by
  simp [Path.commit, h]

theorem State.alu_wf (i : Instr) (d : Opnd) (decl : Path → List Nat) (f : State → Path → Lane → LaneRes) :
    OutcomeWf (s.alu i d decl f) := by
  unfold State.alu
  split
  · exact outcomeWf_fault _
  · exact State.word_wf h fun x t ht => Path.commit_wf ht x i _ d _

/-! ### The reading of code -/

@[simp] theorem Path.hold_wf (x : Path) (ls : List Lane) (w : Lane → Wait) : (x.hold s ls w).memWf := h

@[simp] theorem Path.pageWait_wf (x : Path) (kind : Access) (page : Nat) (who : List (Lane × Nat)) : (x.pageWait s kind page who).memWf := h

@[simp] theorem State.oweBlock_wf (x : Path) : (s.oweBlock x).memWf := by simp [State.oweBlock, h]

@[simp] theorem Path.block_wf (x : Path) (hd : Head) (z : Lane → Wait) : (x.block s hd z).memWf := by
  unfold Path.block
  dsimp only
  exact State.oweBlock_wf (State.switchPoint_wf (Path.hold_wf (Path.finish_wf h ..) ..) _) _

/-! ### The scratchpad -/

theorem scrTrap_wf {x : Path} {cause addr : Lane → Nat} {ls : List Lane} {t : State} (ht : scrTrap x s cause addr ls = some t) :
    t.memWf := by
  unfold scrTrap at ht
  dsimp only at ht
  split at ht
  · cases ht
  · cases ht
    exact Path.trap_wf h x 8 _

/-! ### Words on global memory -/

theorem State.globalWord_wf {x : Path} {ls : List Lane} {va : Lane → Nat} {n align : Nat} {r w wr wd : Bool}
    {act : Path → List (Lane × List Trans) → State → State} (ha : ∀ x acc t, t.memWf → (act x acc t).memWf) :
    (s.globalWord x ls va n align r w wr wd act).memWf := by
  unfold State.globalWord
  split
  · exact Path.trap_wf h x 9 _
  · exact Path.pageWait_wf h x _ _ _
  · exact ha _ _ _ (State.stopWatched_wf h x false _)

@[simp] theorem State.addStore_wf (core lid ctx uid : Nat) (word : List (Nat × Nat)) (t : Thread) (pas : List (Nat × Nat)) (bs : List Byte) :
    (s.addStore core lid ctx uid word t pas bs).memWf := by
  simp [State.addStore, h]

/-! ### Loads and stores -/

@[simp] theorem Path.sendLoads_wf (x : Path) (w : MWord) (acc : List (Lane × List Trans)) : (x.sendLoads s w acc).memWf := by simp [Path.sendLoads, h]

theorem State.globalLoad_wf (i : Instr) (w : MWord) : OutcomeWf (s.globalLoad i w) :=
  State.word_wf h fun _ _ ht => State.globalWord_wf ht fun x acc _ hu => Path.sendLoads_wf hu x w acc

theorem State.scratchWord_wf {x : Path} {hd : Head} {cause addr : Lane → Nat} {bytes : Lane → List Nat} {rd wr : Bool}
    {act : Path → State → State} (ha : ∀ x t, t.memWf → (act x t).memWf) : (s.scratchWord x hd cause addr bytes rd wr act).memWf := by
  unfold State.scratchWord
  split
  · next ht => exact scrTrap_wf h ht
  · exact ha _ _ (State.stopWatched_wf h x _ _)

theorem State.gatherTrap_wf {x : Path} {vals : List (Lane × List Word)} {t : State} (ht : s.gatherTrap x vals = some t) : t.memWf := by
  unfold State.gatherTrap at ht
  dsimp only at ht
  split at ht
  · cases ht
  · cases ht
    exact State.raise_wf h _ _ _ _ _

@[simp] theorem Path.scrLoads_wf (x : Path) (i : Instr) (nfo : Info) (w : MWord) : (x.scrLoads s i nfo w).memWf := by
  have hlearnt := fun f => State.modWG_wf h x.w.wid f
  unfold Path.scrLoads
  dsimp only
  split
  · next ht =>
    split at ht
    · exact Path.idle_wf (State.gatherTrap_wf (hlearnt _) ht) x i nfo
    · cases ht
  · exact Path.commit_wf (hlearnt _) x i nfo w.d _

theorem State.scratchLoad_wf (i : Instr) (w : MWord) : OutcomeWf (s.scratchLoad i w) := by
  unfold State.scratchLoad
  split
  · exact outcomeWf_fault _
  · exact State.word_wf h fun _ _ ht => State.scratchWord_wf ht fun x _ hu => Path.scrLoads_wf hu x i _ w

theorem execLdb_wf (w : MWord) : OutcomeWf (execLdb w s) := by
  unfold execLdb
  split
  · exact State.scratchLoad_wf h _ w
  · exact State.globalLoad_wf h _ w

@[simp] theorem State.closeGather_wf (w : WG) (g : Group) (q : Gather) : (s.closeGather w g q).memWf := by
  unfold State.closeGather
  dsimp only
  split <;> simp [h]

@[simp] theorem State.arrive_wf (wid tid : Nat) (f : LoadFly) : (s.arrive wid tid f).memWf := by
  unfold State.arrive
  dsimp only
  repeat' split
  all_goals simp [h]

theorem execLoadReturn_wf (wid tid : Nat) : OutcomeWf (execLoadReturn wid tid s) := by
  unfold execLoadReturn
  (repeat' split) <;> simp [h]

@[simp] theorem Path.storeLane_wf (x : Path) (w : MWord) (a : Lane × List Trans) : (x.storeLane w s a).memWf :=
  State.addStore_wf (foldl_memWf _ (fun _ tr ht => State.setDgen_wf ht x.ctx tr) a.2 s h) ..

theorem State.globalStore_wf (i : Instr) (w : MWord) : OutcomeWf (s.globalStore i w) :=
  State.word_wf h fun _ _ ht => State.globalWord_wf ht fun x acc _ hu =>
    Path.finish_wf (foldl_memWf _ (fun _ a hv => Path.storeLane_wf hv x w a) acc _ hu) ..

theorem State.scratchStore_wf (i : Instr) (w : MWord) : OutcomeWf (s.scratchStore i w) :=
  State.word_wf h fun _ _ ht => State.scratchWord_wf ht fun _ _ hu => Path.finish_wf hu ..

theorem execStb_wf (w : MWord) : OutcomeWf (execStb w s) := by
  unfold execStb
  split
  · exact State.scratchStore_wf h _ w
  · exact State.globalStore_wf h _ w

@[simp] theorem State.prefetch_wf (key line : Nat) (first : Bool) : (s.prefetch key line first).memWf := by simp [State.prefetch, h]

theorem execPref_wf (w : MWord) : OutcomeWf (execPref w s) :=
  State.word_wf h fun x t ht => Path.advance_wf (foldl_memWf _ (fun u ln hu => by split <;> simp [hu]) _ t ht) x _

/-! ### The home slices -/

@[simp] theorem State.cacheEntry_wf (slice ctx r e : Nat) : (s.cacheEntry slice ctx r e).memWf := by
  unfold State.cacheEntry
  dsimp only
  split <;> simp [h]

theorem State.uncache_wf (drop : CachedEntry → Bool) : (s.uncache drop).memWf := h

theorem State.toSlice_wf (r : Req) : (s.toSlice r).memWf := h

@[simp] theorem State.answer_wf (r : Req) (code detail fl : Nat) (y hi : DWord) : (s.answer r code detail fl y hi).memWf := by
  unfold State.answer
  split <;> simp [h]

@[simp] theorem State.applyRan_wf (r : Req) (old : Nat) (ran : Ran) : (s.applyRan r old ran).memWf := by
  unfold State.applyRan
  refine State.answer_wf ?_ r _ _ _ _ _
  split
  · refine State.wakeLine_wf (State.writeM_wf ?_ _ _ _) _ _
    split
    · exact h
    · exact State.setDgen_wf h _ _
  · exact h

@[simp] theorem State.runEntry_wf (r : Req) (entry : Option Nat) : (s.runEntry r entry).memWf := by
  unfold State.runEntry
  refine State.applyRan_wf (State.fetchLine_wf ?_ _ _) r _ _
  split
  · exact h
  · exact State.publishLine_wf h _ _ _

@[simp] theorem State.runRoutine_wf (r : Req) : (s.runRoutine r).memWf := by
  unfold State.runRoutine
  (repeat' split) <;> simp [h, State.sendFault_wf]

@[simp] theorem State.runRead_wf (r : Req) (n : Nat) : (s.runRead r n).memWf := by
  unfold State.runRead
  split <;> simp [h]

@[simp] theorem State.runReq_wf (r : Req) : (s.runReq r).memWf := by
  unfold State.runReq
  (repeat' split) <;> simp [h]

theorem execLineRoutineRun_wf (slice : Nat) : OutcomeWf (execLineRoutineRun slice s) := by
  unfold execLineRoutineRun
  (repeat' split) <;> simp [h]

theorem execDetRequestApply_wf (lid : Nat) : OutcomeWf (execDetRequestApply lid s) := by
  unfold execDetRequestApply
  dsimp only
  (repeat' split) <;> simp [h]

@[simp] theorem State.routineError_wf (w : WG) (t : Thread) (p : Reply) : (s.routineError w t p).memWf := by simp [State.routineError, h]

@[simp] theorem State.routineReply_wf (w : WG) (t : Thread) (p : Reply) : (s.routineReply w t p).memWf := by
  unfold State.routineReply
  dsimp only
  (repeat' split) <;> simp [h]

@[simp] theorem State.joinMonitor_wf (pa ctx wid tid : Nat) : (s.joinMonitor pa ctx wid tid).memWf := by
  unfold State.joinMonitor
  split <;> simp [h]

theorem State.leaveMonitor_wf (wid tid : Nat) : (s.leaveMonitor wid tid).memWf := h

theorem State.setRun_wf (wid tid : Nat) (r : Run) : (s.setRun wid tid r).memWf := h

@[simp] theorem State.waitvRead_wf (wid tid : Nat) (z : WaitV) : (s.waitvRead wid tid z).memWf := by
  unfold State.waitvRead
  dsimp only
  repeat' split
  all_goals simp [h]

@[simp] theorem State.waitvEnd_wf (wid tid : Nat) (z : WaitV) (y : DWord) (acq : Clock) : (s.waitvEnd wid tid z y acq).memWf := h

@[simp] theorem State.waitvSleep_wf (wid tid ctx : Nat) (z : WaitV) : (s.waitvSleep wid tid ctx z).memWf := by
  unfold State.waitvSleep
  dsimp only
  split <;> simp [h]

@[simp] theorem State.waitvReply_wf (w : WG) (t : Thread) (p : Reply) (z : WaitV) : (s.waitvReply w t p z).memWf := by
  unfold State.waitvReply
  (repeat' split) <;> simp [h]

theorem execWaitvWake_wf (wid tid : Nat) : OutcomeWf (execWaitvWake wid tid s) := by
  refine outcomeWf_next.2 ?_
  split
  · exact h
  · split
    · exact h
    · split
      · exact State.waitvRead_wf h _ _ _
      · exact State.waitvRead_wf (foldl_memWf _ (fun _ _ ht => State.wakeLine_wf ht _ _) _ s h) _ _ _

theorem execWaitvPoll_wf (wid tid : Nat) : OutcomeWf (execWaitvPoll wid tid s) := by
  unfold execWaitvPoll
  (repeat' split) <;> simp [h]

theorem execWaitvTimeout_wf (wid tid : Nat) : OutcomeWf (execWaitvTimeout wid tid s) := by
  unfold execWaitvTimeout
  (repeat' split) <;> simp [h]

@[simp] theorem State.ldaReply_wf (w : WG) (p : Reply) (width : Nat) (sx gather : Bool) : (s.ldaReply w p width sx gather).memWf := by
  simp [State.ldaReply, h]

theorem execReply_wf (wid tid : Nat) : OutcomeWf (execReply wid tid s) := by
  unfold execReply
  dsimp only
  (repeat' split) <;> simp [h]

/-! ### Atomics, routines and waits -/

@[simp] theorem State.dispatchReq_wf (r : Req) : (s.dispatchReq r).memWf := by
  unfold State.dispatchReq
  split <;> simp [h]

@[simp] theorem State.sendAll_wf (rs : List Req) : (s.sendAll rs).memWf := by
  induction rs generalizing s with
  | nil => exact h
  | cons r rs ih => exact ih (State.dispatchReq_wf (State.modView_wf h _ _ _) _)

@[simp] theorem Path.send_wf (x : Path) (hd : Head) (h0 : SlotHold) (rs : List Req) : (x.send s hd h0 rs).memWf := by simp [Path.send, h]

@[simp] theorem Path.sendFit_wf (x : Path) (hd : Head) (h0 : SlotHold) (req : Lane × List Trans → Req) (acc : List (Lane × List Trans)) :
    (x.sendFit s hd h0 req acc).memWf := by
  unfold Path.sendFit
  dsimp only
  split <;> simp [h]

theorem execAtom_wf (w : FWord) : OutcomeWf (execAtom w s) :=
  State.word_wf h fun _ _ ht => State.globalWord_wf ht fun x acc _ hu => Path.sendFit_wf hu x w.hd _ _ acc

theorem execAtomScr_wf (w : FWord) : OutcomeWf (execAtomScr w s) :=
  State.word_wf h fun _ _ ht => State.scratchWord_wf ht fun _ _ hu => Path.finish_wf hu ..

theorem execLrcall_wf (w : FWord) : OutcomeWf (execLrcall w s) :=
  State.word_wf h fun _ _ ht => State.globalWord_wf ht fun x acc _ hu => Path.sendFit_wf hu x w.hd _ _ acc

theorem execLda_wf (w : MWord) : OutcomeWf (execLda w s) :=
  State.word_wf h fun _ _ ht => State.globalWord_wf ht fun _ _ _ hu =>
    foldl_memWf _ (fun _ r hv => State.dispatchReq_wf hv r) _ _ (Path.finish_wf hu ..)

@[simp] theorem Path.lrEnd_wf (x : Path) (w : FWord) (status : Nat) : (x.lrEnd s w status).memWf := by simp [Path.lrEnd, h]

theorem State.tableEntry_wf {x : Path} {hd : Head} {r : Nat} {act : Trans → State} (ha : ∀ t, (act t).memWf) :
    (s.tableEntry x hd r act).memWf := by
  unfold State.tableEntry
  dsimp only
  split
  · split
    · exact Path.pageWait_wf h x _ _ _
    · exact Path.trap_wf h x 9 _
  · exact ha _

@[simp] theorem State.writeEntry_wf (ctx r : Nat) (t : Trans) (f : Nat → Nat) : (s.writeEntry ctx r t f).memWf :=
  State.uncache_wf (State.writeM_wf (State.setDgen_wf h ctx t) _ _ _) _

theorem execLrdef_wf (w : FWord) : OutcomeWf (execLrdef w s) :=
  State.word_wf h fun x t ht => by
    dsimp only
    split
    · exact ht
    · split
      · exact Path.trap_wf ht x 9 _
      · exact Path.pageWait_wf ht x _ _ _
      · split
        · exact State.retirePage_wf (Path.trap_wf ht x 22 _) _
        · have hpub := fun key clk line => State.publishLine_wf ht key clk line
          split
          · exact Path.lrEnd_wf (hpub _ _ _) x w 1
          · split
            · exact Path.lrEnd_wf (hpub _ _ _) x w _
            · exact State.tableEntry_wf (hpub _ _ _) fun _ => Path.lrEnd_wf (State.writeEntry_wf (hpub _ _ _) _ _ _ _) x w 0

theorem execLrdrop_wf (w : FWord) : OutcomeWf (execLrdrop w s) :=
  State.word_wf h fun x t ht => by
    dsimp only
    split
    · exact ht
    · split
      · exact Path.lrEnd_wf ht x w 1
      · exact State.tableEntry_wf ht fun _ => Path.lrEnd_wf (State.writeEntry_wf ht _ _ _ _) x w 0

theorem execWaitv_wf (w : FWord) : OutcomeWf (execWaitv w s) :=
  State.word_wf h fun _ _ ht => State.globalWord_wf ht fun x _ _ hu =>
    foldl_memWf _ (fun _ r hv => State.dispatchReq_wf hv r) _ _ (State.modWG_wf (Path.block_wf hu x w.hd _) _ _)

theorem execWake_wf (w : FWord) : OutcomeWf (execWake w s) :=
  State.word_wf h fun x t ht => by
    split
    · exact Path.trap_wf ht x 9 _
    · exact Path.pageWait_wf ht x _ _ _
    · exact foldl_memWf _ (fun _ r hv => State.dispatchReq_wf hv r) _ _ (Path.finish_wf ht ..)

/-! ### Barriers -/

theorem Path.barTrap_wf {x : Path} {b : Nat} {cs : List (Lane × Nat)} {t : State} (ht : x.barTrap s b cs = some t) : t.memWf := by
  unfold Path.barTrap at ht
  dsimp only at ht
  split at ht
  · cases ht
  · cases ht
    exact Path.trap_wf h x 13 _

theorem execBararv_wf (w : FWord) : OutcomeWf (execBararv w s) :=
  State.word_wf h fun x t ht => by
    split
    · exact ht
    · dsimp only
      split
      · next hu => exact Path.barTrap_wf ht hu
      · simp [ht]

theorem execBar_wf (w : FWord) : OutcomeWf (execBar w s) :=
  State.word_wf h fun x t ht => by
    split
    · exact ht
    · dsimp only
      split
      · exact Path.trap_wf ht x 14 _
      · split
        · next hu => exact Path.barTrap_wf ht hu
        · split
          · exact State.modCore_wf (State.owe_wf (State.oweBlock_wf (State.switchPoint_wf (Path.hold_wf (Path.finish_wf
              (State.modWG_wf ht _ _) ..) ..) x) x) _) _ _
          · exact State.owe_wf (State.oweBlock_wf (State.switchPoint_wf (Path.hold_wf (Path.finish_wf
              (State.modWG_wf ht _ _) ..) ..) x) x) _

theorem execBarwait_wf (w : FWord) : OutcomeWf (execBarwait w s) :=
  State.word_wf h fun x t ht => by
    split
    · exact ht
    · dsimp only
      split
      · exact Path.trap_wf ht x 14 _
      · split
        · exact Path.trap_wf ht x 13 _
        · exact State.oweBlock_wf (State.switchPoint_wf (Path.hold_wf (Path.finish_wf ht ..) ..) x) x

theorem execBartx_wf (w : FWord) : OutcomeWf (execBartx w s) :=
  State.word_wf h fun x t ht => by
    split
    · exact ht
    · dsimp only
      split
      · next hu => exact Path.barTrap_wf ht hu
      · exact State.owe_wf (Path.finish_wf ht ..) _

theorem execBarinit_wf (w : FWord) : OutcomeWf (execBarinit w s) :=
  State.word_wf h fun x t ht => by
    split
    · exact ht
    · dsimp only
      split
      · next hu => exact Path.barTrap_wf ht hu
      · exact State.owe_wf (Path.finish_wf ht ..) _

@[simp] theorem State.testBar_wf (wid b : Nat) : (s.testBar wid b).memWf := by
  unfold State.testBar
  dsimp only
  (repeat' split) <;> simp [h]

@[simp] theorem State.exitPoison_wf (wid sub : Nat) : (s.exitPoison wid sub).memWf := by
  unfold State.exitPoison
  (repeat' split) <;> simp [h]

@[simp] theorem State.poisonBar_wf (wid b : Nat) : (s.poisonBar wid b).memWf := by
  unfold State.poisonBar
  dsimp only
  (repeat' split) <;> simp [h]

theorem execBarrierDeadlock_wf (wid : Nat) : OutcomeWf (execBarrierDeadlock wid s) := by
  unfold execBarrierDeadlock
  (repeat' split) <;> simp [h]

theorem execXbarv_wf (w : FWord) : OutcomeWf (execXbarv w s) :=
  State.word_wf h fun x t ht => by
    split
    · exact ht
    · dsimp only
      split
      · next hu => exact Path.barTrap_wf ht hu
      · exact State.modLaunch_wf (Path.finish_wf ht ..) _ _

theorem execXbwait_wf (w : FWord) : OutcomeWf (execXbwait w s) := State.word_wf h fun x t ht => by dsimp only; (repeat' split) <;> simp [ht]

theorem execXbset_wf (w : FWord) : OutcomeWf (execXbset w s) :=
  State.word_wf h fun x t ht => by
    split
    · exact ht
    · dsimp only
      split
      · next hu => exact scrTrap_wf ht hu
      · split
        · next hu => exact Path.barTrap_wf ht hu
        · exact State.modLaunch_wf (Path.advance_wf ht x _) _ _

theorem execXbarRelease_wf (lid x core : Nat) : OutcomeWf (execXbarRelease lid x core s) := by
  unfold execXbarRelease
  (repeat' split) <;> simp [h]

/-! ### The data of a copy -/

@[simp] theorem State.fetchSources_wf (ctx : Nat) (c : CopyCmd) (es : List CElem) : (s.fetchSources ctx c es).memWf := by simp [State.fetchSources, h]

/-! ### Masks -/

@[simp] theorem State.maskWrite_wf (i : Instr) (hd : Head) (k : Nat) (decl : Path → List Nat) (uni : Path → List (Nat × (Lane → Nat)))
    (f : Path → BitVec 64 → BitVec 64) : OutcomeWf (s.maskWrite i hd k decl uni f) :=
  State.word_wf h fun x t ht => by simp [ht]

theorem execKwait_wf (w : FWord) : OutcomeWf (execKwait w s) := State.word_wf h fun x t ht => by simp [ht]

theorem execKwaitRelease_wf (wid gid : Nat) : OutcomeWf (execKwaitRelease wid gid s) := by
  unfold execKwaitRelease
  (repeat' split) <;> simp [h]

theorem execRejoinDeadlock_wf (wid gid : Nat) : OutcomeWf (execRejoinDeadlock wid gid s) := by
  unfold execRejoinDeadlock
  (repeat' split) <;> simp [h]

/-! ### Branches and groups -/

@[simp] theorem State.branch_wf (i : Instr) (hd : Head) (link : Opnd) (target : Path → Lane → Nat) : OutcomeWf (s.branch i hd link target) :=
  State.word_wf h fun x t ht => by dsimp only; split <;> simp [ht]

theorem execSwitch_wf (w : FWord) : OutcomeWf (execSwitch w s) := State.word_wf h fun x t ht => by dsimp only; (repeat' split) <;> simp [ht]

@[simp] theorem State.oweLeave_wf (x : Path) : (s.oweLeave x).memWf := by simp [State.oweLeave, h]

theorem execRegroup_wf (w : RegroupWord) : OutcomeWf (execRegroup w s) :=
  State.word_wf h fun x t ht => by
    dsimp only
    split
    · exact Path.trap_wf ht x 9 _
    · exact State.oweLeave_wf (State.modWG_wf (Path.finish_wf ht ..) _ _) x

@[simp] theorem State.formAll_wf (wid gsz : Nat) (args : List Word) (fs : List (Nat × List Nat)) : (s.formAll wid gsz args fs).memWf := by
  induction fs generalizing s with
  | nil => exact h
  | cons f fs ih =>
    unfold State.formAll
    split
    · exact h
    · split
      · split
        · exact h
        · exact State.raise_wf h _ _ _ _ _
      · refine ih ?_
        split <;> simp [h]

theorem execGroupFormationFullBin_wf (wid pc stage : Nat) : OutcomeWf (execGroupFormationFullBin wid pc stage s) := by
  unfold execGroupFormationFullBin
  dsimp only
  (repeat' split) <;> simp [h]

theorem execGroupFormationQuiescence_wf (wid : Nat) : OutcomeWf (execGroupFormationQuiescence wid s) := by
  unfold execGroupFormationQuiescence
  (repeat' split) <;> simp [h]

theorem execYield_wf (w : FWord) : OutcomeWf (execYield w s) := State.word_wf h fun x t ht => by simp [ht]

/-! ### The choice of the next path -/

@[simp] theorem State.countWaits_wf (key u : Nat) (ps : List Pick) (sel : Option (Nat × Nat)) : (s.countWaits key u ps sel).memWf := h

@[simp] theorem State.select_wf (key u : Nat) (ps : List Pick) (p : Pick) : (s.select key u ps p).memWf := by simp [State.select, h]

@[simp] theorem State.opportunity_wf (sel : UnitSel) : (s.opportunity sel).memWf := by
  unfold State.opportunity
  dsimp only
  (repeat' split) <;> simp [h]

@[simp] theorem State.ordered_wf : s.ordered.memWf := h

theorem execIssueOpportunity_wf (sel : List UnitSel) : OutcomeWf (execIssueOpportunity sel s) :=
  outcomeWf_next.2 (State.ordered_wf (foldl_memWf _ (fun _ u ht => State.opportunity_wf ht u) _ s h))

theorem execAgeingPromotion_wf (wid gid tid : Nat) : OutcomeWf (execAgeingPromotion wid gid tid s) := by
  unfold execAgeingPromotion
  dsimp only
  (repeat' split) <;> simp [h]

theorem execGroupStarvationSelect_wf (wid gid : Nat) : OutcomeWf (execGroupStarvationSelect wid gid s) := by
  unfold execGroupStarvationSelect
  dsimp only
  (repeat' split) <;> simp [h]

@[simp] theorem Path.unassigned_wf (x : Path) : (x.unassigned s).memWf := by
  unfold Path.unassigned
  dsimp only
  split <;> simp [h]

@[simp] theorem State.endStep_wf (wid gid : Nat) : (s.endStep wid gid).memWf := by
  unfold State.endStep
  dsimp only
  repeat' split
  all_goals simp [h]

/-! ### Integer words -/

theorem State.binary_wf (i : Instr) (w : FWord) (n : Nat) (op : Nat → Nat → Nat × Nat) : OutcomeWf (s.binary i w n op) :=
  State.alu_wf h _ _ _ _

theorem State.binaryImm_wf (i : Instr) (w : IWord) (t : Ty) (op : Nat → Nat → Nat × Nat) : OutcomeWf (s.binaryImm i w t op) :=
  State.alu_wf h _ _ _ _

theorem execNop_wf (w : FWord) : OutcomeWf (execNop w s) := State.word_wf h fun x t ht => by simp [ht]

theorem State.carry_wf (i : Instr) (w : FWord) (sub : Bool) : OutcomeWf (s.carry i w sub) := State.alu_wf h _ _ _ _

theorem State.shift_wf (i : Instr) (w : FWord) (op : ShiftOp) : OutcomeWf (s.shift i w op) := State.alu_wf h _ _ _ _

theorem execMovSpecial_wf (w : FWord) : OutcomeWf (execMovSpecial w s) := State.word_wf h fun x t ht => by simp [ht]

/-! ### System words and stamps -/

theorem execExit_wf (w : FWord) : OutcomeWf (execExit w s) :=
  State.word_wf h fun x t ht => by
    refine State.owe_wf (State.oweLeave_wf ?_ x) _
    have hgone := fun y f g k => State.exitPoison_wf (State.modWG_wf (Path.finish_wf ht y w.hd.hold (fun _ => x.next) f g) x.w.wid k) x.w.wid
      (2 * x.cur.unit)
    split
    · exact State.giveWay_wf (hgone _ _ _ _) x
    · exact hgone _ _ _ _

theorem execTrap_wf (w : FWord) : OutcomeWf (execTrap w s) := State.word_wf h fun x t ht => by simp [ht]

theorem execTrapret_wf (w : FWord) : OutcomeWf (execTrapret w s) := State.word_wf h fun x t ht => by simp [ht]

theorem execBkpt_wf (w : FWord) : OutcomeWf (execBkpt w s) := State.word_wf h fun x t ht => by split <;> simp [ht]

theorem execSysrd_wf (w : FWord) : OutcomeWf (execSysrd w s) := State.word_wf h fun x t ht => by simp [ht]

theorem execSyswr_wf (w : FWord) : OutcomeWf (execSyswr w s) := State.word_wf h fun x t ht => by simp [ht]

@[simp] theorem State.writeStamp_wf (wid n : Nat) (intr lost : Bool) : (s.writeStamp wid n intr lost).memWf := by
  unfold State.writeStamp
  split <;> simp [h, State.lodgeWrite_wf]

@[simp] theorem State.writeStamps_wf (wid : Nat) (intr : Bool) : (s.writeStamps wid intr).memWf :=
  foldl_memWf _ (fun t n ht => by
    split
    · exact State.writeStamp_wf ht wid n intr false
    · exact ht) _ s h

theorem State.stampWord_wf {i : Instr} {w : FWord} {form : Nat} {f : Path → Lane → Nat → State → State}
    (hf : ∀ x ln n t, t.memWf → (f x ln n t).memWf) : OutcomeWf (s.stampWord i w form f) :=
  State.word_wf h fun x t ht => by
    split
    · exact Path.advance_wf (hf x _ _ t ht) x _
    · exact Path.advance_wf ht x _

theorem execStampIn_wf (w : FWord) : OutcomeWf (execStampIn w s) :=
  State.stampWord_wf h fun x ln n t ht => State.modWG_wf (by split <;> simp [ht]) _ _

theorem execStampMma_wf (w : FWord) : OutcomeWf (execStampMma w s) :=
  State.stampWord_wf h fun _ _ _ _ ht => State.modWG_wf ht _ _

theorem execStampOut_wf (w : FWord) : OutcomeWf (execStampOut w s) :=
  State.stampWord_wf h fun _ _ _ _ ht => State.modWG_wf ht _ _

/-! ### Copies -/

@[simp] theorem Path.onceTrap_wf (x : Path) (hd : Head) (cls cause fva detail : Nat) : (x.onceTrap s hd cls cause fva detail).memWf := h

theorem Path.copyChecks_wf {x : Path} {hd : Head} {cmd : Nat} {modes : List Nat} {q d : Nat} {t : State}
    (ht : x.copyChecks s hd cmd modes q d = some t) : t.memWf := by
  unfold Path.copyChecks at ht
  dsimp only at ht
  repeat' split at ht
  all_goals cases ht
  all_goals simp [h]

@[simp] theorem Path.copyEnd_wf (x : Path) (i : Instr) (hd : Head) (cmd q : Nat) (desc : List Word) (pat : DWord) :
    (x.copyEnd s i hd cmd q desc pat).memWf := by
  unfold Path.copyEnd
  dsimp only
  (repeat' split) <;> simp [h]

theorem State.copyWord_wf (i : Instr) (w : FWord) (cmd : Nat) (modes : List Nat) : OutcomeWf (s.copyWord i w cmd modes) :=
  State.word_wf h fun x t ht => by
    split
    · exact ht
    · dsimp only
      split
      · exact Path.trap_wf ht x 1 _
      · split
        · next hu => exact Path.copyChecks_wf ht hu
        · exact Path.copyEnd_wf ht x i w.hd cmd _ _ _

theorem execQfence_wf (w : FWord) : OutcomeWf (execQfence w s) := State.word_wf h fun x t ht => by split <;> simp [ht]

@[simp] theorem State.releaseQwaits_wf (wid : Nat) : (s.releaseQwaits wid).memWf := by
  unfold State.releaseQwaits
  split <;> simp [h]

theorem execQwait_wf (w : FWord) : OutcomeWf (execQwait w s) :=
  State.word_wf h fun _ _ ht => State.releaseQwaits_wf (Path.hold_wf (Path.finish_wf ht ..) ..) _

theorem execFenceEntryHead_wf (wid q : Nat) : OutcomeWf (execFenceEntryHead wid q s) := by
  unfold execFenceEntryHead
  dsimp only
  (repeat' split) <;> simp [h]

@[simp] theorem State.copyTrap_wf (w : WG) (c : CopyCmd) (cls cause fva detail : Nat) : (s.copyTrap w c cls cause fva detail).memWf := h

@[simp] theorem State.copyFails_wf (w : WG) (c : CopyCmd) : (s.copyFails w c).memWf := by
  unfold State.copyFails
  refine State.owe_wf (State.owe_wf (State.releaseQwaits_wf ?_ _) _) _
  split <;> simp [h]

@[simp] theorem State.reductionClash_wf (w : WG) (c : CopyCmd) : (s.reductionClash w c).memWf :=
  State.owe_wf (State.owe_wf (State.releaseQwaits_wf (State.copyTrap_wf (State.modWG_wf h _ _) ..) _) _) _

@[simp] theorem State.lowerPend_wf (w : WG) (c : CopyCmd) (n : Nat) (secs : List Nat) : (s.lowerPend w c n secs).memWf := by
  unfold State.lowerPend
  dsimp only
  (repeat' split) <;> simp [h]

@[simp] theorem State.putSector_wf (w : WG) (ctx : Nat) (c : CopyCmd) (t : Option Trans) (cells : List Host.Cell) (fl : Nat) :
    (s.putSector w ctx c t cells fl).memWf := by
  unfold State.putSector
  split
  · exact State.modWG_wf (State.writeM_wf (State.setDgen_wf h _ _) _ _ _) _ _
  · exact State.modWG_wf h _ _

@[simp] theorem State.runSector_wf (w : WG) (ctx : Nat) (c : CopyCmd) (es : List CElem) (sec : Nat) :
    (s.runSector w ctx c es sec).memWf := by
  have hread := fun f => State.modWG_wf (State.fetchSources_wf h ctx c (inSector sec es)) w.wid f
  unfold State.runSector
  dsimp only
  split
  · exact State.copyTrap_wf (State.modWG_wf (hread _) _ _) ..
  · exact State.sendFault_wf (hread _) _ _ _ _
  · exact State.copyFails_wf (State.retirePage_wf (hread _) _) w _
  · split
    · split
      · split
        · exact State.sendFault_wf (hread _) _ _ _ _
        · exact State.copyTrap_wf (State.modWG_wf (hread _) _ _) ..
      · exact State.lowerPend_wf (State.putSector_wf (hread _) ..) w _ _ _
    · exact State.lowerPend_wf (State.putSector_wf (hread _) ..) w _ _ _

theorem State.runHead_wf {wid q : Nat} {act : State → WG → Nat → CopyCmd → State} (ha : ∀ t w n c, t.memWf → (act t w n c).memWf) :
    (s.runHead wid q act).memWf := by
  unfold State.runHead
  dsimp only
  repeat' split
  all_goals simp [h, ha]

theorem execCopySlotTake_wf (wid q : Nat) : OutcomeWf (execCopySlotTake wid q s) := by
  unfold execCopySlotTake
  dsimp only
  (repeat' split) <;> simp [h]

theorem execCopySectorWrite_wf (wid q : Nat) : OutcomeWf (execCopySectorWrite wid q s) :=
  outcomeWf_next.2 (State.runHead_wf h fun t w n c ht => by dsimp only; (repeat' split) <;> simp [ht])

@[simp] theorem State.completeCmd_wf (wid : Nat) (c : CopyCmd) : (s.completeCmd wid c).memWf := by
  have hstamps := foldl_memWf (fun (s : State) n => s.modWG wid (fun g => g.modStamp n (fun z => { z with t2 := s.now })))
    (fun _ _ ht => State.modWG_wf ht _ _) c.stampIn s h
  have hdone := fun f => State.modWG_wf (foldl_memWf (fun (s : State) n =>
    (s.modWG wid (fun g => g.modStamp n (fun z => { z with t6 := s.now }))).writeStamp wid n false false)
    (fun _ _ ht => State.writeStamp_wf (State.modWG_wf ht _ _) _ _ _ _) c.stampOut _ hstamps) wid f
  unfold State.completeCmd
  dsimp only
  refine State.owe_wf (State.owe_wf (State.releaseQwaits_wf ?_ _) _) _
  split
  · exact State.reductions_wf (hdone _) _
  · exact hdone _

theorem execCopyComplete_wf (wid q : Nat) : OutcomeWf (execCopyComplete wid q s) :=
  outcomeWf_next.2 (State.runHead_wf h fun t w n c ht => by dsimp only; (repeat' split) <;> simp [ht])

theorem execDomainReductionArrival_wf (c : Contribution) : OutcomeWf (execDomainReductionArrival c s) := by
  unfold execDomainReductionArrival
  split <;> simp [h]

@[simp] theorem State.acquire_wf (w : WG) (gid n : Nat) (d : Opnd) (tids : List Nat) : (s.acquire w gid n d tids).memWf := by simp [State.acquire, h]

theorem execCbacq_wf (w : FWord) : OutcomeWf (execCbacq w s) := State.word_wf h fun x t ht => by dsimp only; (repeat' split) <;> simp [ht]

theorem execCbrel_wf (w : FWord) : OutcomeWf (execCbrel w s) := State.word_wf h fun x t ht => by dsimp only; (repeat' split) <;> simp [ht]

theorem execCbrelCfg_wf (w : FWord) : OutcomeWf (execCbrelCfg w s) :=
  State.word_wf h fun x t ht => by dsimp only; (repeat' split) <;> simp [ht]

@[simp] theorem State.retryPath_wf (wid gid : Nat) (k : Nat × Nat × Opnd) : (State.retryPath wid gid s k).memWf := by
  unfold State.retryPath
  (repeat' split) <;> simp [h]

theorem execCbacqRetry_wf (wid gid : Nat) : OutcomeWf (execCbacqRetry wid gid s) := by
  refine outcomeWf_next.2 ?_
  repeat' split
  · exact h
  · exact h
  · exact foldl_memWf _ (fun _ k ht => State.retryPath_wf ht wid gid k) _ s h
  · exact h

/-! ### Phases and fences -/

@[simp] theorem Path.publishes_wf (x : Path) (ls : List Lane) : (x.publishes s ls).memWf := by simp [Path.publishes, h, State.publish_wf]

theorem State.phaseWord_wf (i : Instr) (w : FWord) (pub ref : Bool) : OutcomeWf (s.phaseWord i w pub ref) :=
  State.word_wf h fun x t ht => by
    have hpub : (x.publishes t (x.exec w.hd)).memWf := Path.publishes_wf ht x _
    refine Path.finish_wf ?_ ..
    cases pub <;> cases ref <;> simp only [Bool.false_eq_true, if_true, if_false]
    · exact ht
    · exact State.refresh_wf ht _ _
    · exact State.modCore_wf hpub _ _
    · exact State.modCore_wf (State.refresh_wf hpub _ _) _ _

theorem execFence_wf (w : FWord) : OutcomeWf (execFence w s) := State.word_wf h fun x t ht => by simp [ht]

/-! ### Code versions -/

theorem execCvput_wf (w : FWord) : OutcomeWf (execCvput w s) := State.word_wf h fun x t ht => by dsimp only; (repeat' split) <;> simp [ht]

@[simp] theorem Path.sealed_wf (x : Path) (w : FWord) (n : Nat) : (x.sealed s w n).memWf := by simp [Path.sealed, h]

theorem execCvseal_wf (w : FWord) : OutcomeWf (execCvseal w s) := State.word_wf h fun x t ht => by dsimp only; (repeat' split) <;> simp [ht]

@[simp] theorem Path.handOver_wf (x : Path) (w : FWord) (q record : Nat) (t : Trans) : (x.handOver s w q record t).memWf := by
  unfold Path.handOver
  refine Path.finish_wf (State.lidNext_wf (State.modLaunch_wf (State.modQueue_wf (State.writeM_wf ?_ _ _ _) _ _) _ _) _) ..
  exact State.setDgen_wf h x.ctx t

@[simp] theorem Path.stageAt_wf (x : Path) (ls : List Lane) (z : Option (Option Nat)) : (x.stageAt s ls z).memWf := h

@[simp] theorem Path.intoRing_wf (x : Path) (w : FWord) (q record : Nat) : (x.intoRing s w q record).memWf := by
  unfold Path.intoRing
  dsimp only
  (repeat' split) <;> simp [h]

theorem execLaunch_wf (w : FWord) : OutcomeWf (execLaunch w s) :=
  State.word_wf h fun x t ht => by
    have hstage : ∀ b : Bool, (if b then t else x.stageAt (x.publishes t (x.exec w.hd)) (x.exec w.hd) (some none)).memWf := fun b => by
      split
      · exact ht
      · exact Path.stageAt_wf (Path.publishes_wf ht x _) x _ _
    split
    · exact ht
    · dsimp only
      split
      · exact Path.onceTrap_wf ht ..
      · split
        · exact Path.intoRing_wf ht x w _ _
        · split
          · split
            · exact Path.pageWait_wf (hstage _) x _ _ _
            · exact Path.onceTrap_wf (hstage _) ..
          · split
            · exact State.retirePage_wf (Path.onceTrap_wf (hstage _) ..) _
            · exact Path.intoRing_wf (Path.stageAt_wf (hstage _) x _ _) x w _ _

/-! ### Collectives -/

theorem State.collective_wf (i : Instr) (w : FWord) (hd : Head) (decl : Path → List Nat) (f : Path → List Lane → Lane → LaneRes) :
    OutcomeWf (s.collective i w hd decl f) := State.alu_wf h _ _ _ _

/-! ### Launches -/

@[simp] theorem State.setSt_wf (key st : Nat) : (s.setSt key st).memWf := by simp [State.setSt, h]

theorem execGroupBindingEntryWrite_wf (index : Nat) (entry : DWord) : OutcomeWf (execGroupBindingEntryWrite index entry s) := by
  unfold execGroupBindingEntryWrite
  dsimp only
  (repeat' split) <;> simp [h]

theorem execPartitionStart_wf (part : Nat) : OutcomeWf (execPartitionStart part s) := by
  unfold execPartitionStart
  (repeat' split) <;> simp [h]

theorem execLockedClockMode_wf (part : Nat) (on : Bool) : OutcomeWf (execLockedClockMode part on s) := by
  unfold execLockedClockMode
  (repeat' split) <;> simp [h]

@[simp] theorem State.traceLaunch_wf (l : Launch) (kind : Nat) : (s.traceLaunch l kind).memWf := by simp [State.traceLaunch, h, State.trace_wf]

@[simp] theorem State.traceGroup_wf (l : Launch) (kind wgid key : Nat) : (s.traceGroup l kind wgid key).memWf := by
  simp [State.traceGroup, h, State.trace_wf]

@[simp] theorem State.storeSignal_wf (lid : Nat) : (s.storeSignal lid).memWf := by
  unfold State.storeSignal
  (repeat' split) <;> simp [h, State.sendFault_wf, State.lodgeExch_wf]

@[simp] theorem State.reportCount_wf (lid : Nat) : (s.reportCount lid).memWf := by
  unfold State.reportCount
  (repeat' split) <;> simp [h]

theorem execSignalIntervalExpiry_wf (lid : Nat) : OutcomeWf (execSignalIntervalExpiry lid s) := by
  unfold execSignalIntervalExpiry
  (repeat' split) <;> simp [h]

theorem State.setBind_wf (n r : Nat) : (s.setBind n r).memWf := h

@[simp] theorem State.repin_wf (ctx : Nat) : (s.repin ctx).memWf := h

@[simp] theorem State.pinKernel_wf (l : Launch) (key : Nat) : (s.pinKernel l key).memWf := by
  unfold State.pinKernel
  split <;> simp [h]

@[simp] theorem State.pinGroups_wf (of : WG → Bool) : (s.pinGroups of).memWf := by
  unfold State.pinGroups
  refine foldl_memWf _ (fun s a h => ?_) _ _ ?_ <;> (try split) <;> simp [h]

@[simp] theorem State.unpin_wf (ctx : Nat) : (s.unpin ctx).memWf := h

@[simp] theorem State.unbind_wf (lid : Nat) : (s.unbind lid).memWf := by
  unfold State.unbind
  split
  · exact h
  · refine State.unpin_wf (State.modLaunch_wf ?_ _ _) _
    split <;> simp [h]

@[simp] theorem State.raiseAlone_wf (l : Launch) (cls cause fva detail : Nat) : (s.raiseAlone l cls cause fva detail).memWf := h

theorem execTimeLimit_wf (lid : Nat) : OutcomeWf (execTimeLimit lid s) := by
  unfold execTimeLimit
  (repeat' split) <;> simp [h]

@[simp] theorem State.bindTo_wf (n part : Nat) (l : Launch) : (s.bindTo n part l).memWf := by
  have hactive : (if (s.part part).power = .idle then s.modPart part (fun p => { p with power := .active }) else s).memWf := by
    split <;> simp [h]
  have hbound := fun f of => State.pinGroups_wf (State.modLaunch_wf hactive l.lid f) of
  unfold State.bindTo
  dsimp only
  split
  · split
    · exact State.raiseAlone_wf (hbound _ _) ..
    · exact hbound _ _
  · exact hbound _ _

@[simp] theorem State.freeSlot_wf (n : Nat) : (s.freeSlot n).memWf := foldl_memWf _ (fun s a h => by simp [h]) _ _ h

@[simp] theorem State.rebind_wf (slot r : Nat) (l : Launch) : (s.rebind slot r l).memWf := by
  unfold State.rebind
  split <;> simp [h]

theorem execBindRun_wf (slot : Nat) (record : DWord) : OutcomeWf (execBindRun slot record s) := by
  refine outcomeWf_next.2 ?_
  dsimp only
  repeat' split
  all_goals simp [h]

theorem execBindStopRequest_wf (slot : Nat) : OutcomeWf (execBindStopRequest slot s) := by
  unfold execBindStopRequest
  dsimp only
  split <;> simp [h]

theorem execReorderStall_wf (lid : Nat) : OutcomeWf (execReorderStall lid s) := by
  unfold execReorderStall
  (repeat' split) <;> simp [h]

@[simp] theorem State.begin_wf (l : Launch) : (s.begin_ l).memWf := by
  unfold State.begin_
  split <;> simp [h]

@[simp] theorem State.dropViews_wf (lid : Nat) : (s.dropViews lid).memWf := h

@[simp] theorem State.freeBound_wf (lid : Nat) : (s.freeBound lid).memWf := by
  unfold State.freeBound
  (repeat' split) <;> simp [h]

@[simp] theorem State.endLaunch_wf (lid : Nat) : (s.endLaunch lid).memWf := by
  unfold State.endLaunch
  split
  · exact h
  · exact State.traceLaunch_wf (State.freeBound_wf (State.storeSignal_wf (State.dropViews_wf (State.modLaunch_wf h _ _) _) _) _) _ _

theorem execWorkgroupPlacement_wf (part : Nat) : OutcomeWf (execWorkgroupPlacement part s) := by
  refine outcomeWf_next.2 ?_
  dsimp only
  repeat' split
  all_goals simp [h]

@[simp] theorem State.enter_wf (key : Nat) : (s.enter key).memWf := by simp [State.enter, h]

@[simp] theorem State.occupy_wf (key : Nat) : (s.occupy key).memWf := by
  unfold State.occupy
  dsimp only
  (repeat' split) <;> simp [h]

@[simp] theorem State.vacate_wf (key : Nat) : (s.vacate key).memWf := by
  unfold State.vacate
  split <;> simp [h]

@[simp] theorem State.vacateAll_wf (keys : List Nat) : (s.vacateAll keys).memWf := foldl_memWf _ (fun s a h => by simp [h]) _ _ h

theorem execWorkgroupResidency_wf (lid wgid base : Nat) : OutcomeWf (execWorkgroupResidency lid wgid base s) := by
  refine outcomeWf_next.2 ?_
  split
  · exact h
  · split
    · exact h
    · dsimp only
      split
      · exact h
      · exact State.pinKernel_wf (State.occupy_wf (State.enterCore_wf (State.modLaunch_wf (by exact h) _ _) _ _) _) _ _

@[simp] theorem State.reportDone_wf (lid wgid : Nat) : (s.reportDone lid wgid).memWf := by
  unfold State.reportDone
  dsimp only
  (repeat' split) <;> simp [h]

@[simp] theorem State.release_wf (w : WG) : (s.release w).memWf := by simp [State.release, h]

theorem execWorkgroupCompletion_wf (wid : Nat) : OutcomeWf (execWorkgroupCompletion wid s) := by
  refine outcomeWf_next.2 ?_
  split
  · exact h
  · split
    · exact h
    · split
      · exact h
      · exact State.reportDone_wf (State.traceGroup_wf (State.modLaunch_wf (State.release_wf (State.writeStamps_wf
          (State.publishAll_wf h _ _) _ _) _) _ _) ..) _ _

theorem execZeroingComplete_wf (core : Nat) : OutcomeWf (execZeroingComplete core s) := by
  unfold execZeroingComplete
  split <;> simp [h]

/-! ### The matrix unit -/

theorem execMatrixQueueEntry_wf (core : Nat) : OutcomeWf (execMatrixQueueEntry core s) := by
  unfold execMatrixQueueEntry
  (repeat' split) <;> simp [h]

@[simp] theorem State.rollBack_wf (wid gid : Nat) : (s.rollBack wid gid).memWf := by
  unfold State.rollBack
  (repeat' split) <;> simp [h]

@[simp] theorem Path.enter_wf (x : Path) (hd : Head) (op : MOp) (first : Bool) (f : WG → WG) : (x.enter s hd op first f).memWf := by
  simp [Path.enter, h]

theorem Path.operand_wf {x : Path} {hd : Head} {cause base : Nat} {act : State} (ha : act.memWf) : (x.operand s hd cause base act).memWf := by
  unfold Path.operand
  split
  · exact ha
  · exact Path.onceTrap_wf h x hd 8 cause base base

theorem execMldb_wf (w : FWord) : OutcomeWf (execMldb w s) :=
  State.word_wf h fun x _ ht => Path.operand_wf ht (Path.enter_wf ht x w.hd _ _ _)

theorem execMswap_wf (w : FWord) : OutcomeWf (execMswap w s) := State.word_wf h fun x t ht => by simp [ht]

theorem State.mmaWord_wf (i : Instr) (w : FWord) (win : Path → Option Nat) : OutcomeWf (s.mmaWord i w win) :=
  State.word_wf h fun x _ ht => Path.operand_wf ht (Path.enter_wf ht x w.hd _ _ _)

theorem execMspan_wf (w : SpanWord) : OutcomeWf (execMspan w s) := State.word_wf h fun x t ht => by simp [ht]

theorem execMcommit_wf (w : FWord) : OutcomeWf (execMcommit w s) := State.word_wf h fun x t ht => by simp [ht]

theorem execMzero_wf (w : FWord) : OutcomeWf (execMzero w s) := State.word_wf h fun x t ht => by simp [ht]

theorem State.tileWord_wf (i : Instr) (w : FWord) (store : Bool) (op : Nat → Nat → MOp) : OutcomeWf (s.tileWord i w store op) :=
  State.word_wf h fun x _ ht => Path.operand_wf ht (Path.enter_wf ht x w.hd _ _ _)

/-! ### Images -/

@[simp] theorem State.storeImage_wf (i : Image) (bs : List Byte) : (s.storeImage i bs).memWf := State.writeM_wf h i.ctx _ _

@[simp] theorem State.keepImage_wf (l : Launch) (term : Bool) : (s.keepImage l term).memWf := by simp [State.keepImage, h]

@[simp] theorem State.saveGroups_wf (a : Nat) (ws : List WG) : (s.saveGroups a ws).memWf := by
  induction ws generalizing s a with
  | nil => exact h
  | cons w ws ih =>
    unfold State.saveGroups
    split
    · exact ih h a
    · exact ih (State.writeM_wf h _ _ _) _

@[simp] theorem State.saveCore_wf (key : Nat) : (s.saveCore key).memWf := by simp [State.saveCore, h]

/-! ### The packet parser -/

@[simp] theorem State.queueIrqAt_wf (q : Nat) : (s.queueIrqAt q).memWf := h

theorem execQueueDescriptorWrite_wf (q : Nat) (desc : BitVec 256) : OutcomeWf (execQueueDescriptorWrite q desc s) := by
  unfold execQueueDescriptorWrite
  (repeat' split) <;> simp [h]

@[simp] theorem State.reject_wf (q code : Nat) : (s.reject q code).memWf := h

theorem execQueueDoorbell_wf (q : Nat) (wr : Word) : OutcomeWf (execQueueDoorbell q wr s) := by
  unfold execQueueDoorbell
  dsimp only
  (repeat' split) <;> simp [h]

theorem State.readPacket_wf {q : Nat} {t : State} (ht : s.readPacket q = .none_ t) : t.memWf := by
  unfold State.readPacket at ht
  dsimp only at ht
  repeat' split at ht
  all_goals cases ht
  all_goals simp [h, State.sendFault_wf]

theorem execLaunchPacket_wf (q : Nat) : OutcomeWf (execLaunchPacket q s) := by
  refine outcomeWf_next.2 ?_
  split
  · next hu => exact State.readPacket_wf h hu
  · dsimp only
    repeat' split
    all_goals simp [h]

theorem execWaitPacket_wf (q : Nat) : OutcomeWf (execWaitPacket q s) := by
  refine outcomeWf_next.2 ?_
  split
  · next hu => exact State.readPacket_wf h hu
  · repeat' split
    all_goals simp [h]

theorem execWaitPacketRelease_wf (q : Nat) : OutcomeWf (execWaitPacketRelease q s) := by
  unfold execWaitPacketRelease
  dsimp only
  (repeat' split) <;> simp [h, State.sendFault_wf]

/-! ### The restoring of a launch -/

@[simp] theorem State.restoreCore_wf (l : Launch) (key : Nat) (f : List Byte) : (s.restoreCore l key f).memWf :=
  State.occupy_wf (State.refresh_wf (State.modCore_wf (State.modView_wf (State.enterCore_wf h _ _) _ _ _) _ _) _ _) _

theorem State.plantAll_wf (l : Launch) (i : Image) (ps : List Parts) {t : State} (ht : s.plantAll l i ps = some t) : t.memWf := by
  induction ps generalizing s with
  | nil => cases ht; exact h
  | cons p ps ih =>
    unfold State.plantAll at ht
    dsimp only at ht
    split at ht
    · exact ih (by simp [h]) ht
    · cases ht

@[simp] theorem State.reissue_wf (r : Req) : (s.reissue r).memWf := by
  unfold State.reissue
  (repeat' split) <;> simp [h, State.sendFault_wf]

@[simp] theorem State.reissueAll_wf (l : Launch) (ps : List Parts) : (s.reissueAll l ps).memWf := foldl_memWf _ (fun s a h => by simp [h]) _ _ h

@[simp] theorem State.openHandles_wf (ctx : Nat) (bs : List Byte) : (s.openHandles ctx bs).memWf := foldl_memWf _ (fun s a h => by simp [h]) _ _ h

@[simp] theorem State.resume_wf (lid : Nat) : (s.resume lid).memWf := by
  unfold State.resume
  dsimp only
  repeat' split
  all_goals simp [h]

@[simp] theorem State.restoreRunning_wf (l : Launch) (i : Image) : (s.restoreRunning l i).memWf := by
  unfold State.restoreRunning
  refine foldl_memWf _ (fun s a h => ?_) _ _ ?_ <;> (try split) <;> simp [h]

theorem execImageRestore_wf (lid part : Nat) : OutcomeWf (execImageRestore lid part s) := by
  refine outcomeWf_next.2 ?_
  split
  · exact h
  · dsimp only
    split
    · exact h
    · split
      · exact h
      · split
        · exact h
        · next hu =>
          exact State.resume_wf (State.reissueAll_wf (State.restoreRunning_wf (State.openHandles_wf
            (State.plantAll_wf (by exact h) _ _ _ hu) _ _) _ _) _ _) _

/-! ### The serialiser -/

@[simp] theorem State.oweUnpark_wf (w : WG) : (s.oweUnpark w).memWf := by simp [State.oweUnpark, h]

@[simp] theorem State.unparkAll_wf (ctx : Nat) : (s.unparkAll ctx).memWf := foldl_memWf _ (fun s a h => by simp [h]) _ _ h

@[simp] theorem State.endSteps_wf (ctx : Nat) : (s.endSteps ctx).memWf := foldl_memWf _ (fun s a h => by simp [h]) _ _ h

@[simp] theorem State.endRight_wf (ctx kind : Nat) : (s.endRight ctx kind).memWf := by
  unfold State.endRight
  split
  · exact h
  · exact State.unparkAll_wf (State.modCtx_wf (State.debugEvents_wf (State.endSteps_wf h _) _ _) _ _) _

@[simp] theorem State.endNamed_wf (l : Launch) : (s.endNamed l).memWf := by
  unfold State.endNamed
  split <;> simp [h]

@[simp] theorem State.abandonWaits_wf (of : WG → Bool) : (s.abandonWaits of).memWf := h

@[simp] theorem State.rollBackAll_wf (of : WG → Bool) : (s.rollBackAll of).memWf := foldl_memWf _ (fun s a h => by simp [h]) _ _ h

theorem execSerialiserStop_wf (lid : Nat) : OutcomeWf (execSerialiserStop lid s) := by
  refine outcomeWf_next.2 ?_
  split
  · exact h
  · split
    · exact h
    · refine State.abandonWaits_wf (State.rollBackAll_wf (State.modLaunch_wf ?_ _ _) _) _
      split <;> simp [h]

@[simp] theorem State.placeWaiting_wf (l : Launch) : (s.placeWaiting l).memWf := foldl_memWf _ (fun s a h => by simp [h]) _ _ h

@[simp] theorem State.publishLaunch_wf (l : Launch) : (s.publishLaunch l).memWf := foldl_memWf _ (fun s a h => by simp [h, State.publishAll_wf]) _ _ h

@[simp] theorem State.settleBars_wf (l : Launch) : (s.settleBars l).memWf := h

@[simp] theorem State.interruptStamps_wf (of : WG → Bool) : (s.interruptStamps of).memWf := foldl_memWf _ (fun s a h => by simp [h]) _ _ h

theorem execSerialiserPublishWrite_wf (lid : Nat) : OutcomeWf (execSerialiserPublishWrite lid s) := by
  refine outcomeWf_next.2 ?_
  split
  · exact h
  · next l _ =>
    have hsaved := fun cores => foldl_memWf State.saveCore (fun _ k ht => State.saveCore_wf ht k) cores _
      (State.interruptStamps_wf (State.settleBars_wf (State.publishLaunch_wf (State.rollBackAll_wf (State.abandonWaits_wf h l.owns)
        l.owns) l) l) l.owns)
    have himage := fun i bs cores => State.modLaunch_wf (State.traceLaunch_wf (State.vacateAll_wf (State.sweepLaunch_wf
      (State.storeImage_wf (hsaved cores) i bs) lid) cores) l 5) lid
    split
    · exact h
    · dsimp only
      split
      · exact h
      · split
        · exact State.setBind_wf (himage _ _ _ _) _ _
        · exact himage _ _ _ _

@[simp] theorem State.endTurn_wf (key : Nat) : (s.endTurn key).memWf :=
  have hnamed := foldl_memWf State.endNamed (fun _ l ht => State.endNamed_wf ht l) (s.launchesOn key) s h
  State.setSt_wf (State.modCore_wf (State.saveCore_wf (State.interruptStamps_wf (State.publishAll_wf (State.rollBackAll_wf
    (State.abandonWaits_wf hnamed _) _) _ _) _) key) key _) key 2

theorem execTurnSwitch_wf (pcore : Nat) : OutcomeWf (execTurnSwitch pcore s) := by
  unfold execTurnSwitch
  (repeat' split) <;> simp [h]

theorem execJobCheckpoint_wf (ctx : Nat) : OutcomeWf (execJobCheckpoint ctx s) := by
  unfold execJobCheckpoint
  dsimp only
  split <;> simp [h]

/-! ### Faults -/

theorem execPageFault_wf (ctx page : Nat) : OutcomeWf (execPageFault ctx page s) :=
  outcomeWf_next.2 (foldl_memWf _ (fun _ _ ht => State.sendFault_wf ht _ _ _ _) _ s h)

@[simp] theorem State.dropFault_wf (ctx page : Nat) : (s.dropFault ctx page).memWf := h

@[simp] theorem State.retryWord_wf (wid tid page : Nat) : (s.retryWord wid tid page).memWf := h

@[simp] theorem State.flushRing_wf (ctx : Nat) (dbg : Bool) (drop : Nat → Bool) : (s.flushRing ctx dbg drop).memWf := by
  unfold State.flushRing
  dsimp only
  split <;> simp [h, State.ringFlush_wf]

@[simp] theorem State.retrySrc_wf (page ctx : Nat) (x3 : FaultSrc) : (State.retrySrc page ctx s x3).memWf := by
  unfold State.retrySrc
  (repeat' split) <;> simp [h]

theorem execFaultAnswerRetry_wf (ctx page : Nat) : OutcomeWf (execFaultAnswerRetry ctx page s) := by
  refine outcomeWf_next.2 ?_
  repeat' split
  · exact h
  · exact h
  · exact foldl_memWf _ (fun _ x ht => State.retrySrc_wf ht page ctx x) _ _ (State.dropFault_wf h _ _)

@[simp] theorem State.failGroup_wf (w : WG) (gid pc : Nat) (who : List (Nat × Thread × Nat)) : (s.failGroup w gid pc who).memWf := h

@[simp] theorem State.failWords_wf (ctx page : Nat) (ids : List (Nat × Nat)) : (s.failWords ctx page ids).memWf :=
  foldl_memWf _ (fun _ k ht => by dsimp only; split <;> simp [ht]) _ s h

@[simp] theorem State.failSrc_wf (page ctx : Nat) (x3 : FaultSrc) : (State.failSrc page ctx s x3).memWf := by
  unfold State.failSrc
  (repeat' split) <;> simp [h]

theorem execFaultAnswerFail_wf (ctx page : Nat) : OutcomeWf (execFaultAnswerFail ctx page s) := by
  refine outcomeWf_next.2 ?_
  repeat' split
  · exact h
  · exact h
  · exact State.failWords_wf (foldl_memWf _ (fun _ x ht => State.failSrc_wf ht page ctx x) _ _ (State.dropFault_wf h _ _)) _ _ _

@[simp] theorem State.dropReqs_wf (hit : Req → Bool) : (s.dropReqs hit).memWf := h

theorem execPteInvalidation_wf (ctx va len : Nat) : OutcomeWf (execPteInvalidation ctx va len s) :=
  outcomeWf_next.2 (foldl_memWf _ (fun _ r ht => State.reissue_wf ht r) _ _ (State.dropReqs_wf
    (foldl_memWf _ (fun _ _ ht => foldl_memWf _ (fun _ r hu => State.runReq_wf hu r) _ _ (by exact ht)) _ s h) _))

@[simp] theorem State.unitRecord_wf (k : UnitKind) (n : Nat) : (s.unitRecord k n).memWf := by simp [State.unitRecord, h, State.ras_wf]

@[simp] theorem State.setService_wf (k : UnitKind) (n : Nat) (v : Service) : (s.setService k n v).memWf := by simp [State.setService, h]

@[simp] theorem State.coreFails_wf (n : Nat) : (s.coreFails n).memWf := by
  unfold State.coreFails
  (repeat' split) <;> simp [h]

@[simp] theorem State.settleFailing_wf : s.settleFailing.memWf := foldl_memWf _ (fun s a h => by simp [h]) _ _ h

@[simp] theorem State.killLaunch_wf (l : Launch) : (s.killLaunch l).memWf := by
  have hleft := fun f => State.modLaunch_wf (State.vacateAll_wf (State.sweepLaunch_wf h l.lid) (s.coresOf l.lid)) l.lid f
  have hsettled := fun f dropped rs => State.settleFailing_wf (State.writeRecords_wf (hleft f) l.ctx dropped rs)
  unfold State.killLaunch
  dsimp only
  split
  · exact State.keepImage_wf (hsettled _ _ _) l true
  · exact hsettled _ _ _

theorem execFatalTrap_wf (lid : Nat) : OutcomeWf (execFatalTrap lid s) := by
  unfold execFatalTrap
  dsimp only
  (repeat' split) <;> simp [h]

@[simp] theorem State.endContextNow_wf (ctx seq : Nat) : (s.endContextNow ctx seq).memWf := by
  have hraised := foldl_memWf (fun (s : State) l => s.raiseAlone l 23 0 0 seq) (fun _ l ht => State.raiseAlone_wf ht l 23 0 0 seq)
    (s.launches.filter (fun l => l.ctx == ctx && l.phase != .complete)) s h
  exact State.modCtx_wf (State.endRight_wf (State.uncache_wf (by exact hraised) _) _ _) _ _

@[simp] theorem State.endContext_wf (ctx seq : Nat) : (s.endContext ctx seq).memWf := by
  unfold State.endContext
  split <;> simp [h]

@[simp] theorem State.repair_wf (x1 : Repair) : (s.repair x1).memWf := by
  unfold State.repair
  split <;> simp [h]

@[simp] theorem State.sweepGroup_wf (wid : Nat) : (s.sweepGroup wid).memWf := h

@[simp] theorem State.relaunchRecord_wf (l : Launch) (seq : Nat) : (s.relaunchRecord l seq).memWf := by
  unfold State.relaunchRecord
  split <;> simp [h, State.writeRecords_wf]

@[simp] theorem State.killGroup_wf (w : WG) (l : Launch) (seq : Nat) : (s.killGroup w l seq).memWf := by
  unfold State.killGroup
  split
  · exact State.traceGroup_wf (State.modLaunch_wf (State.release_wf (State.sweepGroup_wf (State.relaunchRecord_wf h _ _) _) _) _ _) ..
  · exact State.raiseAlone_wf h ..

@[simp] theorem State.hardCore_wf (w : WG) (hard : Bool) : (s.hardCore w hard).memWf := by
  unfold State.hardCore
  split <;> simp [h]

@[simp] theorem State.strikeGroup_wf (wid unit loc kind : Nat) (hard : Bool) : (s.strikeGroup wid unit loc kind hard).memWf := by
  unfold State.strikeGroup
  split
  · exact h
  · split
    · exact h
    · exact State.hardCore_wf (State.killGroup_wf (State.ras_wf h _) ..) _ _

@[simp] theorem State.strikeTile_wf (wid tile loc kind : Nat) (commit hard : Bool) :
    (s.strikeTile wid tile loc kind commit hard).memWf := by
  unfold State.strikeTile
  split
  · exact h
  · split
    · exact h
    · exact State.hardCore_wf (State.modWG_wf (State.ras_wf h _) _ _) _ _
    · split
      · exact State.strikeGroup_wf h ..
      · exact State.hardCore_wf (State.modWG_wf (State.rollBack_wf (State.ras_wf h _) _ _) _ _) _ _

@[simp] theorem State.poisonLine_wf (line : Nat) : (s.poisonLine line).memWf := by simp [State.poisonLine, h]

@[simp] theorem State.quarantine_wf (slice way line : Nat) : (s.quarantine slice way line).memWf := h

@[simp] theorem State.strikeWay_wf (line : Nat) (hard : Bool) : (s.strikeWay line hard).memWf := by
  unfold State.strikeWay
  (repeat' split) <;> simp [h]

@[simp] theorem State.strikeDirty_wf (line kind : Nat) (hard : Bool) : (s.strikeDirty line kind hard).memWf := by
  unfold State.strikeDirty
  dsimp only
  split
  · exact h
  · refine State.endContext_wf (State.struckWays_wf ?_ _) _ _
    exact State.poisonLine_wf (State.ras_wf (State.strikeWay_wf h _ _) _) _

@[simp] theorem State.lodgeRestart_wf : s.lodgeRestart.memWf := h

theorem execUncorrectableError_wf (at_ : Struck) (hard : Bool) : OutcomeWf (execUncorrectableError at_ hard s) := by
  refine outcomeWf_next.2 ?_
  cases at_ with
  | llcClean line =>
    dsimp only
    split
    · exact h
    · refine State.ras_wf ?_ _
      split <;> simp [h]
  | pageEntry => exact State.endContext_wf (State.poisonLine_wf (State.ras_wf h _) _) _ _
  | _ => simp [h, State.ras_wf]

@[simp] theorem State.wornOut_wf (x1 : Struck) : (s.wornOut x1).memWf := by
  unfold State.wornOut
  (repeat' split) <;> simp [h]

theorem execCorrectedError_wf (at_ : Struck) : OutcomeWf (execCorrectedError at_ s) := by
  refine outcomeWf_next.2 ?_
  split
  · exact h
  · dsimp only
    split
    · refine State.wornOut_wf (State.ras_wf ?_ _) _
      exact State.corrected_wf h _
    · refine State.ras_wf ?_ _
      exact State.corrected_wf h _

theorem execSlicePauseEnd_wf (slice : Nat) : OutcomeWf (execSlicePauseEnd slice s) := by
  unfold execSlicePauseEnd
  split <;> simp [h]

/-! ### Float words -/

theorem State.float_wf (i : Instr) (w : FWord) (op : FloatOp) : OutcomeWf (s.float i w op) := State.alu_wf h _ _ _ _

theorem State.floatImm_wf (i : Instr) (w : IWord) (op : FloatOp) : OutcomeWf (s.floatImm i w op) := State.alu_wf h _ _ _ _

theorem State.specialFn_wf (i : Instr) (w : FWord) (op : SpecialFn) : OutcomeWf (s.specialFn i w op) := State.binary_wf h _ _ _ _

/-! ### The link and the peers -/

theorem execCompanionStore_wf (ctx va : Nat) (bytes : List Byte) : OutcomeWf (execCompanionStore ctx va bytes s) := by
  refine outcomeWf_next.2 ?_
  split
  · exact h
  · split
    · exact h
    · exact foldl_memWf _ (fun _ _ ht => State.writeM_wf ht _ _ _) _ _ (foldl_memWf _ (fun _ t ht => State.setDgen_wf ht ctx t) _ s h)

theorem execCompanionLoad_wf (ctx va n : Nat) : OutcomeWf (execCompanionLoad ctx va n s) := by
  unfold execCompanionLoad
  dsimp only
  (repeat' split) <;> simp [h]

theorem execPeerAccess_wf (acc : PeerAccess) : OutcomeWf (execPeerAccess acc s) := by
  refine outcomeWf_next.2 ?_
  dsimp only
  split
  · exact State.link_wf h _
  · split
    · split
      · exact State.link_wf (State.retirePage_wf h _) _
      · exact State.link_wf (State.fetchLines_wf h _) _
    · exact State.link_wf (State.writeM_wf h _ _ _) _
    · exact State.toSlice_wf h _

@[simp] theorem State.setUp_wf (d : Nat) (up : Bool) : (s.setUp d up).memWf := h

@[simp] theorem State.lostAccess_wf (wid tid pc va seq : Nat) : (s.lostAccess wid tid pc va seq).memWf := by
  unfold State.lostAccess
  (repeat' split) <;> simp [h]

theorem execPeerTimeout_wf (d : Nat) : OutcomeWf (execPeerTimeout d s) := by
  refine outcomeWf_next.2 ?_
  split
  · exact h
  · exact foldl_memWf _ (fun _ _ ht => State.lostAccess_wf ht ..) _ _ (by exact State.ras_wf (State.setUp_wf h d false) _)

theorem execPeerAnswers_wf (d : Nat) : OutcomeWf (execPeerAnswers d s) := by
  unfold execPeerAnswers
  split <;> simp [h]

theorem execPeerPortFailure_wf (port : Nat) : OutcomeWf (execPeerPortFailure port s) := by
  unfold execPeerPortFailure
  split <;> simp [h]

/-! ### The lodge -/

@[simp] theorem State.respond_wf (op status value : Nat) : (s.respond op status value).memWf := h

@[simp] theorem State.answerUnlisted_wf : s.answerUnlisted.memWf := by
  unfold State.answerUnlisted
  dsimp only
  split <;> simp [h]

theorem execRegisterWrite_wf (agent : Nat) (reg : LodgeReg) (value : DWord) : OutcomeWf (execRegisterWrite agent reg value s) := by
  unfold execRegisterWrite
  split <;> simp [h]

@[simp] theorem State.firmwareUp_wf : s.firmwareUp.memWf :=
  State.answerUnlisted_wf (foldl_memWf _ (fun _ r ht => State.repair_wf ht r) _ _ (by exact h))

theorem execFirmwareReady_wf : OutcomeWf (execFirmwareReady s) := by
  unfold execFirmwareReady
  split <;> simp [h]

theorem execFirmwareReadyTimeout_wf : OutcomeWf (execFirmwareReadyTimeout s) := by
  unfold execFirmwareReadyTimeout
  (repeat' split) <;> simp [h]

theorem execResetRelease_wf (straps : BitVec 8) : OutcomeWf (execResetRelease straps s) := by simp [execResetRelease, h]

theorem execThermalHalt_wf : OutcomeWf (execThermalHalt s) := by simp [execThermalHalt, h]

theorem execThermalResume_wf : OutcomeWf (execThermalResume s) := by simp [execThermalResume, h]

theorem execPowerCapAdjust_wf (part steps : Nat) : OutcomeWf (execPowerCapAdjust part steps s) := by
  unfold execPowerCapAdjust
  split <;> simp [h]

@[simp] theorem State.moveFrontier_wf (lid : Nat) : (s.moveFrontier lid).memWf := by
  unfold State.moveFrontier
  (repeat' split) <;> simp [h]

@[simp] theorem State.tick_wf (dck dns : Nat) : (s.tick dck dns).memWf := State.memWf_of_mem h (State.tick_mem s dck dns)

@[simp] theorem State.offCore_wf (key : Nat) : (s.offCore key).memWf := by
  unfold State.offCore
  split <;> simp [h]

@[simp] theorem State.leaveService_wf (n : Nat) : (s.leaveService n).memWf := by
  unfold State.leaveService
  refine foldl_memWf _ (fun s a h => ?_) _ _ ?_ <;> simp [h]

@[simp] theorem State.drainCore_wf (n : Nat) : (s.drainCore n).memWf := by
  unfold State.drainCore
  repeat' split
  · exact foldl_memWf _ (fun _ k ht => State.offCore_wf ht k) _ s h
  · exact h
  · exact State.leaveService_wf h n

@[simp] theorem State.emptySlice_wf (n : Nat) : (s.emptySlice n).memWf := h

@[simp] theorem State.reroute_wf (n : Nat) : (s.reroute n).memWf := foldl_memWf _ (fun s a h => by simp [h]) _ _ h

theorem execUnitDrainComplete_wf (kind : UnitKind) (num : Nat) : OutcomeWf (execUnitDrainComplete kind num s) := by
  refine outcomeWf_next.2 ?_
  split
  · exact h
  · cases kind with
    | core => exact State.drainCore_wf h num
    | slice =>
      dsimp only
      split
      · exact h
      · exact State.reroute_wf (State.setService_wf (State.emptySlice_wf h _) _ _ _) _
    | polder =>
      dsimp only
      split
      · exact State.setService_wf h _ _ _
      · exact h
    | farChannel => exact State.setService_wf h _ _ _

@[simp] theorem State.backSt_wf (key : Nat) : (s.backSt key).memWf := by
  unfold State.backSt
  split <;> simp [h]

theorem execUnitTestPassed_wf (kind : UnitKind) (num : Nat) : OutcomeWf (execUnitTestPassed kind num s) := by
  refine outcomeWf_next.2 ?_
  split
  · exact h
  · split
    · exact foldl_memWf _ (fun _ k ht => State.backSt_wf ht k) _ _ (State.setService_wf h _ _ _)
    · exact State.reroute_wf (State.setService_wf (State.emptySlice_wf h _) _ _ _) _
    · exact State.setService_wf h _ _ _

@[simp] theorem State.sampleUnit_wf (part place key u : Nat) : (State.sampleUnit part place s key u).memWf := by
  unfold State.sampleUnit
  dsimp only
  split <;> simp [h, State.trace_wf]

theorem execTraceSample_wf (part : Nat) : OutcomeWf (execTraceSample part s) := by
  refine outcomeWf_next.2 ?_
  dsimp only
  split
  · exact h
  · exact State.modPart_wf (foldl_memWf _ (fun _ key ht => foldl_memWf _ (fun _ u hu => State.sampleUnit_wf hu _ _ _ _) _ _ ht) _ s h) _ _

/-! ### The mailbox -/

theorem State.command_wf (op agent : Nat) (b : MailBlock) {run : Cmd → State → Answer} (hr : ∀ c t, t.memWf → AnswerWf (run c t)) :
    (s.command op agent b run).memWf := by
  unfold State.command
  dsimp only
  split
  · exact h
  · split
    · exact h
    · split
      · exact State.respond_wf (by exact h) _ _ _
      · split
        · next hrun => exact State.respond_wf (hr _ _ (by exact h) _ _ hrun) _ _ _
        · exact State.respond_wf (by exact h) _ _ _

theorem State.lodgeCmd_wf (op n agent : Nat) (b : MailBlock) {run : Cmd → State → Answer} (hr : ∀ c t, t.memWf → AnswerWf (run c t)) :
    (s.lodgeCmd op n agent b run).memWf :=
  State.command_wf h op agent b fun c t ht => by
    split
    · exact answerWf_error _
    · exact hr c t ht

theorem State.debugCmd_wf (op agent : Nat) (b : MailBlock) {run : Cmd → State → Answer} (hr : ∀ c t, t.memWf → AnswerWf (run c t)) :
    (s.debugCmd op agent b run).memWf :=
  State.command_wf h op agent b fun c t ht => by
    split
    · exact answerWf_error _
    · split
      · exact answerWf_error _
      · exact hr c t ht

theorem execPark_wf (agent : Nat) (b : MailBlock) : OutcomeWf (execPark agent b s) :=
  outcomeWf_next.2 (State.debugCmd_wf h _ _ _ fun c t ht => by
    dsimp only
    split
    · exact answerWf_error _
    · exact answerWf_okay.2 (foldl_memWf _ (fun _ _ hu => State.stopGroup_wf hu _ _ _ _) _ t ht))

@[simp] theorem State.unpark_wf (step : Bool) (p : WG × Group) : (s.unpark step p).memWf := h

theorem execResume_wf (agent : Nat) (b : MailBlock) : OutcomeWf (execResume agent b s) :=
  outcomeWf_next.2 (State.debugCmd_wf h _ _ _ fun c t ht => by
    dsimp only
    split
    · exact answerWf_error _
    · split
      · exact answerWf_error _
      · exact answerWf_okay.2 (foldl_memWf _ (fun _ p hu => State.oweUnpark_wf hu p.1) _ _
          (foldl_memWf _ (fun _ p hu => State.unpark_wf hu false p) _ t ht)))

theorem execStep_wf (agent : Nat) (b : MailBlock) : OutcomeWf (execStep agent b s) :=
  outcomeWf_next.2 (State.debugCmd_wf h _ _ _ fun c t ht => by (repeat' split) <;> simp [ht])

@[simp] theorem State.stopLaunch_wf (lid : Nat) : (s.stopLaunch lid).memWf := foldl_memWf _ (fun s a h => by simp [h]) _ _ h

theorem execStopall_wf (agent : Nat) (b : MailBlock) : OutcomeWf (execStopall agent b s) :=
  outcomeWf_next.2 (State.debugCmd_wf h _ _ _ fun c t ht => by
    dsimp only
    split
    · exact answerWf_error _
    · exact answerWf_okay.2 (foldl_memWf _ (fun _ lid hu => State.stopLaunch_wf hu lid) _ t ht))

theorem execResumeall_wf (agent : Nat) (b : MailBlock) : OutcomeWf (execResumeall agent b s) :=
  outcomeWf_next.2 (State.debugCmd_wf h _ _ _ fun c t ht => by simp [ht])

theorem execRead_wf (agent : Nat) (b : MailBlock) : OutcomeWf (execRead agent b s) :=
  outcomeWf_next.2 (State.debugCmd_wf h _ _ _ fun c t ht => by dsimp only; (repeat' split) <;> simp [ht])

theorem execEdit_wf (agent : Nat) (b : MailBlock) : OutcomeWf (execEdit agent b s) :=
  outcomeWf_next.2 (State.debugCmd_wf h _ _ _ fun c t ht => by (repeat' split) <;> simp [ht])

@[simp] theorem State.applyEdit_wf (ctx : Nat) (e : Edit) : (State.applyEdit ctx s e).memWf := by
  unfold State.applyEdit
  split
  · exact h
  · split
    case h_6 =>
      split
      · exact h
      · exact State.modWG_wf (State.addStore_wf (foldl_memWf _ (fun _ tr ht => State.setDgen_wf ht ctx tr) _ s h) ..) _ _
    all_goals simp [h]

@[simp] theorem State.fenceEdit_wf (ctx : Nat) (e : Edit) : (State.fenceEdit ctx s e).memWf := by
  unfold State.fenceEdit
  (repeat' split) <;> simp [h]

theorem execCommit_wf (agent : Nat) (b : MailBlock) : OutcomeWf (execCommit agent b s) :=
  outcomeWf_next.2 (State.debugCmd_wf h _ _ _ fun c t ht => by
    have happlied := foldl_memWf (State.applyEdit c.ctx) (fun _ e hu => State.applyEdit_wf hu c.ctx e) (t.ctx c.ctx).dbg.overlay t ht
    dsimp only
    repeat' split
    case isFalse.isFalse.isFalse =>
      exact answerWf_okay.2 (State.modCtx_wf (foldl_memWf _ (fun _ e hu => State.fenceEdit_wf hu c.ctx e) _ _ happlied) _ _)
    all_goals exact answerWf_error _)

theorem execDiscard_wf (agent : Nat) (b : MailBlock) : OutcomeWf (execDiscard agent b s) :=
  outcomeWf_next.2 (State.debugCmd_wf h _ _ _ fun c t ht => by simp [ht])

theorem execSetbp_wf (agent : Nat) (b : MailBlock) : OutcomeWf (execSetbp agent b s) :=
  outcomeWf_next.2 (State.debugCmd_wf h _ _ _ fun c t ht => by (repeat' split) <;> simp [ht])

theorem execSetwp_wf (agent : Nat) (b : MailBlock) : OutcomeWf (execSetwp agent b s) :=
  outcomeWf_next.2 (State.debugCmd_wf h _ _ _ fun c t ht => by (repeat' split) <;> simp [ht])

theorem execCtxdef_wf (agent : Nat) (b : MailBlock) : OutcomeWf (execCtxdef agent b s) :=
  outcomeWf_next.2 (State.lodgeCmd_wf h _ _ _ _ fun c t ht => by (repeat' split) <;> simp [ht])

theorem execErrring_wf (agent : Nat) (b : MailBlock) : OutcomeWf (execErrring agent b s) :=
  outcomeWf_next.2 (State.lodgeCmd_wf h _ _ _ _ fun c t ht => by split <;> simp [ht])

theorem execRasring_wf (agent : Nat) (b : MailBlock) : OutcomeWf (execRasring agent b s) :=
  outcomeWf_next.2 (State.lodgeCmd_wf h _ _ _ _ fun c t ht => by split <;> simp [ht])

theorem execGrant_wf (agent : Nat) (b : MailBlock) : OutcomeWf (execGrant agent b s) :=
  outcomeWf_next.2 (State.lodgeCmd_wf h _ _ _ _ fun c t ht => by (repeat' split) <;> simp [ht])

theorem execRevoke_wf (agent : Nat) (b : MailBlock) : OutcomeWf (execRevoke agent b s) :=
  outcomeWf_next.2 (State.lodgeCmd_wf h _ _ _ _ fun c t ht => by simp [ht])

theorem execKeyload_wf (agent : Nat) (b : MailBlock) : OutcomeWf (execKeyload agent b s) :=
  outcomeWf_next.2 (State.lodgeCmd_wf h _ _ _ _ fun c t ht => by
    refine answerWf_ite (answerWf_error 4) (answerWf_ite (answerWf_error 10) ?_)
    split
    · exact answerWf_error 9
    · exact answerWf_okay.2 (State.keySlots_wf ht _))

@[simp] theorem State.eraseKey_wf (k : Nat) : (s.eraseKey k).memWf := h

theorem execKeyclear_wf (agent : Nat) (b : MailBlock) : OutcomeWf (execKeyclear agent b s) :=
  outcomeWf_next.2 (State.lodgeCmd_wf h _ _ _ _ fun c t ht => by (repeat' split) <;> simp [ht])

theorem execAttest_wf (agent : Nat) (b : MailBlock) : OutcomeWf (execAttest agent b s) :=
  outcomeWf_next.2 (State.lodgeCmd_wf h _ _ _ _ fun c t ht => by split <;> simp [ht, State.writeM_wf])

theorem execFwstage_wf (agent : Nat) (b : MailBlock) : OutcomeWf (execFwstage agent b s) :=
  outcomeWf_next.2 (State.lodgeCmd_wf h _ _ _ _ fun c t ht => by dsimp only; (repeat' split) <;> simp [ht])

theorem execFwswitch_wf (agent : Nat) (b : MailBlock) : OutcomeWf (execFwswitch agent b s) :=
  outcomeWf_next.2 (State.lodgeCmd_wf h _ _ _ _ fun c t ht => by dsimp only; (repeat' split) <;> simp [ht])

@[simp] theorem State.beginDrain_wf (k : UnitKind) (n : Nat) : (s.beginDrain k n).memWf := by
  unfold State.beginDrain
  split
  · exact foldl_memWf _ (fun _ _ ht => State.wakeLine_wf ht _ _) _ s h
  · exact foldl_memWf _ (fun _ _ ht => State.setBind_wf ht _ _) _ s h
  · exact h

theorem execUnit_wf (agent : Nat) (b : MailBlock) : OutcomeWf (execUnit agent b s) :=
  outcomeWf_next.2 (State.lodgeCmd_wf h _ _ _ _ fun c t ht => by (repeat' split) <;> simp [ht])

theorem execDomain_wf (agent : Nat) (b : MailBlock) : OutcomeWf (execDomain agent b s) :=
  outcomeWf_next.2 (State.lodgeCmd_wf h _ _ _ _ fun c t ht => by split <;> simp [ht])

theorem execAdmit_wf (agent : Nat) (b : MailBlock) : OutcomeWf (execAdmit agent b s) :=
  outcomeWf_next.2 (State.lodgeCmd_wf h _ _ _ _ fun c t ht => by dsimp only; (repeat' split) <;> simp [ht])

theorem execPower_wf (agent : Nat) (b : MailBlock) : OutcomeWf (execPower agent b s) :=
  outcomeWf_next.2 (State.lodgeCmd_wf h _ _ _ _ fun c t ht => by (repeat' split) <;> simp [ht])

/-! ### The agenda -/

theorem State.runDue_wf (d : Due) : OutcomeWf (s.runDue d) := by
  cases d with
  | kwait wid gid => exact execKwaitRelease_wf h wid gid
  | bar wid b => exact outcomeWf_next.2 (State.testBar_wf h wid b)
  | rejoin wid gid => exact execRejoinDeadlock_wf h wid gid
  | deadlock wid => exact execBarrierDeadlock_wf h wid
  | finish wid => exact execWorkgroupCompletion_wf h wid
  | stops wid gid => exact outcomeWf_next.2 (State.takeStops_wf h wid gid)
  | stepEnd wid gid => exact outcomeWf_next.2 (State.endStep_wf h wid gid)

@[simp] theorem State.comeTo_wf (q : Cue) (qs : List Cue) : (s.comeTo q qs).memWf := by simp [State.comeTo, h, State.reach_wf]

@[simp] theorem State.nextMove_wf : s.nextMove.2.memWf := by
  unfold State.nextMove
  dsimp only
  (repeat' split) <;> simp [h, State.reach_wf]

/-! ### The step -/

@[simp] theorem State.startCk_wf : s.startCk.memWf := by simp [State.startCk, h]

/-- Every instruction word and every move keeps the form. -/
theorem exec_wf (i : Instr) : OutcomeWf (exec i s) := by
  cases i with
  | groupBindingEntryWrite index entry => exact execGroupBindingEntryWrite_wf h index entry
  | partitionStart part => exact execPartitionStart_wf h part
  | turnSwitch pcore => exact execTurnSwitch_wf h pcore
  | issueOpportunity sel => exact execIssueOpportunity_wf h sel
  | ageingPromotion wid gid tid => exact execAgeingPromotion_wf h wid gid tid
  | groupStarvationSelect wid gid => exact execGroupStarvationSelect_wf h wid gid
  | kwaitRelease wid gid => exact execKwaitRelease_wf h wid gid
  | rejoinDeadlock wid gid => exact execRejoinDeadlock_wf h wid gid
  | groupFormationFullBin wid pc stage => exact execGroupFormationFullBin_wf h wid pc stage
  | groupFormationQuiescence wid => exact execGroupFormationQuiescence_wf h wid
  | workgroupResidency lid wgid base => exact execWorkgroupResidency_wf h lid wgid base
  | workgroupCompletion wid => exact execWorkgroupCompletion_wf h wid
  | workgroupPlacement part => exact execWorkgroupPlacement_wf h part
  | zeroingComplete core => exact execZeroingComplete_wf h core
  | serialiserStop lid => exact execSerialiserStop_wf h lid
  | serialiserPublishWrite lid => exact execSerialiserPublishWrite_wf h lid
  | imageRestore lid part => exact execImageRestore_wf h lid part
  | jobCheckpoint ctx => exact execJobCheckpoint_wf h ctx
  | queueDescriptorWrite q desc => exact execQueueDescriptorWrite_wf h q desc
  | queueDoorbell q wr => exact execQueueDoorbell_wf h q wr
  | launchPacket q => exact execLaunchPacket_wf h q
  | waitPacket q => exact execWaitPacket_wf h q
  | waitPacketRelease q => exact execWaitPacketRelease_wf h q
  | signalIntervalExpiry lid => exact execSignalIntervalExpiry_wf h lid
  | bindRun slot rec => exact execBindRun_wf h slot rec
  | bindStopRequest slot => exact execBindStopRequest_wf h slot
  | reorderStall lid => exact execReorderStall_wf h lid
  | timeLimit lid => exact execTimeLimit_wf h lid
  | lockedClockMode part on => exact execLockedClockMode_wf h part on
  | copySlotTake wid q => exact execCopySlotTake_wf h wid q
  | copySectorWrite wid q => exact execCopySectorWrite_wf h wid q
  | copyComplete wid q => exact execCopyComplete_wf h wid q
  | fenceEntryHead wid q => exact execFenceEntryHead_wf h wid q
  | barrierDeadlock wid => exact execBarrierDeadlock_wf h wid
  | xbarRelease lid x core => exact execXbarRelease_wf h lid x core
  | waitvWake wid tid => exact execWaitvWake_wf h wid tid
  | waitvPoll wid tid => exact execWaitvPoll_wf h wid tid
  | waitvTimeout wid tid => exact execWaitvTimeout_wf h wid tid
  | cbacqRetry wid gid => exact execCbacqRetry_wf h wid gid
  | matrixQueueEntry core => exact execMatrixQueueEntry_wf h core
  | lineRoutineRun slice => exact execLineRoutineRun_wf h slice
  | detRequestApply lid => exact execDetRequestApply_wf h lid
  | reply wid tid => exact execReply_wf h wid tid
  | loadReturn wid tid => exact execLoadReturn_wf h wid tid
  | pageFault ctx page => exact execPageFault_wf h ctx page
  | faultAnswerRetry ctx page => exact execFaultAnswerRetry_wf h ctx page
  | faultAnswerFail ctx page => exact execFaultAnswerFail_wf h ctx page
  | pteInvalidation ctx va len => exact execPteInvalidation_wf h ctx va len
  | companionStore ctx va bytes => exact execCompanionStore_wf h ctx va bytes
  | companionLoad ctx va n => exact execCompanionLoad_wf h ctx va n
  | peerAccess acc => exact execPeerAccess_wf h acc
  | peerTimeout d => exact execPeerTimeout_wf h d
  | fatalTrap lid => exact execFatalTrap_wf h lid
  | correctedError at_ => exact execCorrectedError_wf h at_
  | uncorrectableError at_ hard => exact execUncorrectableError_wf h at_ hard
  | slicePauseEnd slice => exact execSlicePauseEnd_wf h slice
  | firmwareReadyTimeout => exact execFirmwareReadyTimeout_wf h
  | thermalHalt => exact execThermalHalt_wf h
  | thermalResume => exact execThermalResume_wf h
  | powerCapAdjust part steps => exact execPowerCapAdjust_wf h part steps
  | resetRelease straps => exact execResetRelease_wf h straps
  | traceSample part => exact execTraceSample_wf h part
  | park agent b => exact execPark_wf h agent b
  | resume agent b => exact execResume_wf h agent b
  | step agent b => exact execStep_wf h agent b
  | stopall agent b => exact execStopall_wf h agent b
  | resumeall agent b => exact execResumeall_wf h agent b
  | read agent b => exact execRead_wf h agent b
  | edit agent b => exact execEdit_wf h agent b
  | commit agent b => exact execCommit_wf h agent b
  | discard agent b => exact execDiscard_wf h agent b
  | setbp agent b => exact execSetbp_wf h agent b
  | setwp agent b => exact execSetwp_wf h agent b
  | ctxdef agent b => exact execCtxdef_wf h agent b
  | errring agent b => exact execErrring_wf h agent b
  | rasring agent b => exact execRasring_wf h agent b
  | grant agent b => exact execGrant_wf h agent b
  | revoke agent b => exact execRevoke_wf h agent b
  | keyload agent b => exact execKeyload_wf h agent b
  | keyclear agent b => exact execKeyclear_wf h agent b
  | attest agent b => exact execAttest_wf h agent b
  | fwstage agent b => exact execFwstage_wf h agent b
  | fwswitch agent b => exact execFwswitch_wf h agent b
  | unit agent b => exact execUnit_wf h agent b
  | domain agent b => exact execDomain_wf h agent b
  | admitPeer agent b => exact execAdmit_wf h agent b
  | power agent b => exact execPower_wf h agent b
  | registerWrite agent reg value => exact execRegisterWrite_wf h agent reg value
  | nop w => exact execNop_wf h w
  | movSpecial w => exact execMovSpecial_wf h w
  | kwait w => exact execKwait_wf h w
  | switch w => exact execSwitch_wf h w
  | regroup w => exact execRegroup_wf h w
  | yield w => exact execYield_wf h w
  | exit w => exact execExit_wf h w
  | trap w => exact execTrap_wf h w
  | trapret w => exact execTrapret_wf h w
  | bkpt w => exact execBkpt_wf h w
  | sysrd w => exact execSysrd_wf h w
  | syswr w => exact execSyswr_wf h w
  | stampIn w => exact execStampIn_wf h w
  | stampMma w => exact execStampMma_wf h w
  | stampOut w => exact execStampOut_wf h w
  | lda w => exact execLda_wf h w
  | ldb w => exact execLdb_wf h w
  | stb w => exact execStb_wf h w
  | pref w => exact execPref_wf h w
  | atom w => exact execAtom_wf h w
  | atomScr w => exact execAtomScr_wf h w
  | lrcall w => exact execLrcall_wf h w
  | lrdef w => exact execLrdef_wf h w
  | lrdrop w => exact execLrdrop_wf h w
  | waitv w => exact execWaitv_wf h w
  | wake w => exact execWake_wf h w
  | fence w => exact execFence_wf h w
  | bar w => exact execBar_wf h w
  | bararv w => exact execBararv_wf h w
  | barwait w => exact execBarwait_wf h w
  | bartx w => exact execBartx_wf h w
  | barinit w => exact execBarinit_wf h w
  | xbarv w => exact execXbarv_wf h w
  | xbwait w => exact execXbwait_wf h w
  | xbset w => exact execXbset_wf h w
  | qfence w => exact execQfence_wf h w
  | qwait w => exact execQwait_wf h w
  | cbacq w => exact execCbacq_wf h w
  | cbrel w => exact execCbrel_wf h w
  | cbrelCfg w => exact execCbrelCfg_wf h w
  | cvput w => exact execCvput_wf h w
  | cvseal w => exact execCvseal_wf h w
  | launch w => exact execLaunch_wf h w
  | mldb w => exact execMldb_wf h w
  | mswap w => exact execMswap_wf h w
  | mspan w => exact execMspan_wf h w
  | mcommit w => exact execMcommit_wf h w
  | mzero w => exact execMzero_wf h w
  | firmwareReady => exact execFirmwareReady_wf h
  | peerAnswers d => exact execPeerAnswers_wf h d
  | peerPortFailure port => exact execPeerPortFailure_wf h port
  | domainReductionArrival c => exact execDomainReductionArrival_wf h c
  | unitDrainComplete kind num => exact execUnitDrainComplete_wf h kind num
  | unitTestPassed kind num => exact execUnitTestPassed_wf h kind num
  | pairedWord w | imad w | icmp w | ibfe w | ibfi w | lea w | lop w | sel w | movi w | plop w | pmovToReg w | pmovFromReg w | pmovPred w
  | fcmp w | fcvt w | frcp w | npack w | nunpk w | nscale w | krd w | time w =>
    dsimp only [exec]
    exact State.alu_wf h _ _ _ _
  | iadd w | isub w | imul w | imulhi w | imin w | imax w | iabs w | ineg w | ipopc w | iclz w | ibrev w | mov w | fabs w | fneg w
  | fclass w | frnd w =>
    dsimp only [exec]
    exact State.binary_wf h _ _ _ _
  | iaddImm w | isubImm w | imulImm w | imulhiImm w | iminImm w | imaxImm w | leaImm w | shlImm w | shrImm w | sarImm w =>
    dsimp only [exec]
    exact State.binaryImm_wf h _ _ _ _
  | iaddc w | isubb w =>
    dsimp only [exec]
    exact State.carry_wf h _ _ _
  | shl w | shr w | sar w =>
    dsimp only [exec]
    exact State.shift_wf h _ _ _
  | fadd w | fsub w | fmul w | ffma w | fmin w | fmax w =>
    dsimp only [exec]
    exact State.float_wf h _ _ _
  | faddImm w | fmulImm w | fminImm w | fmaxImm w =>
    dsimp only [exec]
    exact State.floatImm_wf h _ _ _
  | frsq w | fsqrt w | fexp2 w | flog2 w | ftanh w =>
    dsimp only [exec]
    exact State.specialFn_wf h _ _ _
  | gshfl w | gbfly w | gred w | gscan w | gvote w | gmatch w | grank w =>
    dsimp only [exec]
    exact State.collective_wf h _ _ _ _ _
  | join w | leave w | kmov w | kand w | kor w | kset w =>
    dsimp only [exec]
    exact State.maskWrite_wf h _ _ _ _ _ _
  | bra w | brx w | call w | ret w =>
    dsimp only [exec]
    exact State.branch_wf h _ _ _ _
  | ld w =>
    dsimp only [exec]
    exact State.globalLoad_wf h _ _
  | lds w =>
    dsimp only [exec]
    exact State.scratchLoad_wf h _ _
  | st w =>
    dsimp only [exec]
    exact State.globalStore_wf h _ _
  | sts w =>
    dsimp only [exec]
    exact State.scratchStore_wf h _ _
  | phasePub w | phaseRef w | phase w =>
    dsimp only [exec]
    exact State.phaseWord_wf h _ _ _ _
  | cpin w | cpout w | cpoutDomainReduction w | cpgath w | cpgathDigest w | cpscat w | cpfill w | cpfillScratchpad w =>
    dsimp only [exec]
    exact State.copyWord_wf h _ _ _ _
  | mma w | mmaw w =>
    dsimp only [exec]
    exact State.mmaWord_wf h _ _ _
  | mlda w | msta w =>
    dsimp only [exec]
    exact State.tileWord_wf h _ _ _ _

/-- A word whose fetch does not come to a word keeps the form: its path traps, waits for a page, or stands at an unassigned word. -/
theorem Path.fetchWord_wf {x : Path} {t : State} (ht : x.fetchWord s = .stays t) : t.memWf := by
  unfold Path.fetchWord at ht
  split at ht
  · split at ht
    · cases ht
      exact Path.pageWait_wf h x _ _ _
    · cases ht
      exact Path.trap_wf h x 9 _
  · cases ht
    exact State.retirePage_wf (Path.trap_wf h x 22 _) _
  · split at ht
    · cases ht
      exact Path.unassigned_wf h x
    · cases ht

theorem stepWord_wf : OutcomeWf (stepWord s) := by
  unfold stepWord
  split
  · exact outcomeWf_next.2 h
  · split
    · next ht => exact outcomeWf_next.2 (Path.fetchWord_wf h ht)
    · exact exec_wf h _

theorem step_wf : OutcomeWf (step s) := by
  unfold step
  split
  · exact stepWord_wf (by exact h)
  · exact exec_wf (State.reach_wf (by exact h) _) _
  · split
    · exact State.runDue_wf (by exact h) _
    · split
      · exact exec_wf (State.nextMove_wf h) _
      · exact outcomeWf_next.2 (State.startCk_wf h)

end

/-- Settles O55: memory stays in canonical form at every step, since each change of memory that a word or a move makes is a write of cells to it,
which keeps the form, and every other change leaves memory alone. -/
theorem stepKeepsMemoryForm : Obligations.StepKeepsMemoryForm := fun _ t h e => step_wf h t e

end Sys2Proof.Machine

end

section

/-! SUPPORT and PROOF of the thread's view of memory (O21): the store that a byte of a load comes from, and a store's place in its core's
order. -/

namespace Sys2Proof.Machine

/-! ## The stores that a load takes -/

theorem lookByte_nil (must : UStore → Bool) (brel : SMap Clock) (snap : Mem) (key pa : Nat) :
    (lookByte [] must brel snap key pa).b = snap.read key pa := rfl

/-- The byte is the last taken covering store's. -/
theorem lookByte_concat (us : List (UStore × Bool)) (e : UStore × Bool) (must : UStore → Bool) (brel : SMap Clock) (snap : Mem) (key pa : Nat) :
    (lookByte (us ++ [e]) must brel snap key pa).b =
      if e.2 then (e.1.byte snap key pa).getD (lookByte us must brel snap key pa).b else (lookByte us must brel snap key pa).b := by
  unfold lookByte
  rw [List.foldl_concat]
  cases e.1.byte snap key pa <;> cases e.2 <;> rfl

theorem lookByte_eq_getLastD (us : List (UStore × Bool)) (must : UStore → Bool) (brel : SMap Clock) (snap : Mem) (key pa : Nat) :
    (lookByte us must brel snap key pa).b = ((us.filter (·.2)).filterMap (fun e => e.1.byte snap key pa)).getLastD (snap.read key pa) := by
  induction us using List.reverseRecOn with
  | nil => rfl
  | append_singleton us e ih =>
    rw [lookByte_concat, ih, List.filter_append, List.filterMap_append]
    cases htaken : e.2 <;> cases hb : e.1.byte snap key pa <;> simp [htaken, hb]

/-- The byte is the snapshot's where no taken store covers it, else that of the last one that does. -/
theorem lookByte_cases (us : List (UStore × Bool)) (must : UStore → Bool) (brel : SMap Clock) (snap : Mem) (key pa : Nat) :
    ((lookByte us must brel snap key pa).b = snap.read key pa ∧ ∀ e ∈ us, e.2 = true → e.1.byte snap key pa = none)
    ∨ ∃ l₁ u l₂, us = l₁ ++ u :: l₂ ∧ u.1.byte snap key pa = some (lookByte us must brel snap key pa).b
        ∧ ∀ e ∈ l₂, e.2 = true → e.1.byte snap key pa = none := by
  induction us using List.reverseRecOn with
  | nil => exact .inl ⟨rfl, by simp⟩
  | append_singleton us e ih =>
    rw [lookByte_concat]
    by_cases htaken : e.2 = true ∧ (e.1.byte snap key pa).isSome = true
    · obtain ⟨b, hb⟩ := Option.isSome_iff_exists.1 htaken.2
      exact .inr ⟨us, e, [], rfl, by simp [htaken.1, hb], by simp⟩
    · have hsame : (if e.2 then (e.1.byte snap key pa).getD (lookByte us must brel snap key pa).b else (lookByte us must brel snap key pa).b)
          = (lookByte us must brel snap key pa).b := by
        split <;> simp_all
      have hlast : e.2 = true → e.1.byte snap key pa = none := by simpa using htaken
      rw [hsame]
      obtain ⟨hread, hnone⟩ | ⟨l₁, u, l₂, rfl, hu, hnone⟩ := ih
      · exact .inl ⟨hread, List.forall_mem_append.2 ⟨hnone, by simpa using htaken⟩⟩
      · refine .inr ⟨l₁, u, l₂ ++ [e], by simp, hu, fun a ha => ?_⟩
        obtain ha | rfl := by simpa using ha
        · exact hnone a ha
        · exact hlast

theorem takenStores_fst (free : Nat) (must : UStore → Bool) (obs : SMap Nat) (pas : List Nat) (us : List UStore) :
    (takenStores free must obs pas us).map (·.1) = us := by
  refine List.ext_getElem? fun i => ?_
  cases hu : us[i]? <;> simp [takenStores, hu]

theorem takenStores_of_must {free : Nat} {must : UStore → Bool} {obs : SMap Nat} {pas : List Nat} {us : List UStore} {e : UStore × Bool}
    (he : e ∈ takenStores free must obs pas us) (hm : must e.1 = true) : e.2 = true := by
  obtain ⟨i, hi, rfl⟩ := List.mem_mapIdx.1 he
  simp_all

/-- Whether a load takes the store at a place of its core's list. -/
def takes (ts : List (UStore × Bool)) (i : Nat) : Bool := ts[i]?.any (·.2)

theorem takes_of_must {free : Nat} {must : UStore → Bool} {obs : SMap Nat} {pas : List Nat} {us : List UStore} {i : Nat} {u : UStore}
    (hu : us[i]? = some u) (hm : must u = true) : takes (takenStores free must obs pas us) i = true := by
  simp [takes, takenStores, hu, hm]

theorem filter_takenStores (free : Nat) (must : UStore → Bool) (obs : SMap Nat) (pas : List Nat) (us : List UStore) :
    (takenStores free must obs pas us).filter (·.2) =
      (us.zipIdx.filter (fun e => takes (takenStores free must obs pas us) e.2)).map (fun e => (e.1, true)) := by
  have hzip : takenStores free must obs pas us
      = us.zipIdx.map (fun e => (e.1, takes (takenStores free must obs pas us) e.2)) := by
    refine List.ext_getElem? fun i => ?_
    cases hu : us[i]? <;> simp [takenStores, takes, hu]
  conv_lhs => rw [hzip, List.filter_map]
  refine List.map_congr_left fun e he => ?_
  have htaken := (List.mem_filter.1 he).2
  simpa using htaken

/-! ## A load's bytes -/

/-- The stores of the core's list that a thread's load takes for its bytes in a sector. -/
def State.sectorStores (s : State) (x : Path) (ln : Lane) (free : Nat) (pas : List (Nat × Nat)) (q : Nat) : List (UStore × Bool) :=
  takenStores (free + (pas.map (fun p => p.1 / 32)).dedup.idxOf q * (s.core x.w.core).ulist.length) (fun u => u.precedes (x.uid ln) ln.t.vc)
    ln.t.obs ((pas.map (·.1)).filter (fun a => a / 32 == q)) (s.core x.w.core).ulist

theorem State.loadBytes_getElem? {s : State} {x : Path} {ln : Lane} {free : Nat} {pas : List (Nat × Nat)} {j pa key : Nat}
    (hj : pas[j]? = some (pa, key)) :
    (s.loadBytes x ln free pas).bytes[j]? = some (lookByte (s.sectorStores x ln free pas (pa / 32)) (fun u => u.precedes (x.uid ln) ln.t.vc)
      (s.core x.w.core).brel (s.snapOf x.w.core) key pa).b := by
  simp [State.loadBytes, State.sectorStores, hj]

/-! ## A store's place -/

theorem placeStore_split (free : Nat) (word : List (Nat × Nat)) (u : UStore) (vc : Clock) (es : List UStore) :
    ∃ l₁ l₂, placeStore free word u vc es = l₁ ++ u :: l₂ ∧ es = l₁ ++ l₂
      ∧ ∀ e ∈ l₁, e.precedes u.uid vc = false ∧ e.pub = false ∧ (e.uid, e.seq) ∉ word := by
  induction es with
  | nil => exact ⟨[], [], rfl, rfl, by simp⟩
  | cons e es ih =>
    unfold placeStore
    split
    · exact ⟨[], e :: es, rfl, rfl, by simp⟩
    · next hpass =>
      obtain ⟨l₁, l₂, hplaced, hes, hall⟩ := ih
      refine ⟨e :: l₁, l₂, by simp [hplaced], by simp [hes], List.forall_mem_cons.2 ⟨?_, hall⟩⟩
      simp only [Bool.or_eq_true, List.contains_iff_mem, not_or, Bool.not_eq_true] at hpass
      exact ⟨hpass.1.1.1, hpass.1.1.2, hpass.1.2⟩

end Sys2Proof.Machine

section

open Sys2Proof Sys2Proof.Machine

/-- Settles O21: a byte of a load is that of the last covering store taken for its sector (`lookByte_cases`, `lookByte_eq_getLastD`), and what
precedes the load is taken (`takenStores_of_must`); a store's place by induction on the list (`placeStore_split`). -/
theorem threadsView : Obligations.ThreadsView := by
  unfold Obligations.ThreadsView
  refine ⟨fun s x ln free pas j pa key hj => ?latest, fun s x ln free pas sector => ?whole, placeStore_split⟩
  case latest =>
    intro us snap covers must
    refine ⟨_, State.loadBytes_getElem? hj, ?_⟩
    have hnot : ∀ e ∈ s.sectorStores x ln free pas (pa / 32), (e.2 = true → e.1.byte snap key pa = none) → covers e.1 → ¬ must e.1 := by
      intro e he hnone hcov hmust
      simp [covers, hnone (takenStores_of_must he hmust)] at hcov
    have hfst : (s.sectorStores x ln free pas (pa / 32)).map (·.1) = us := takenStores_fst ..
    obtain ⟨hread, hnone⟩ | ⟨l₁, u, l₂, hsplit, hu, hnone⟩ := lookByte_cases (s.sectorStores x ln free pas (pa / 32))
      (fun u => u.precedes (x.uid ln) ln.t.vc) (s.core x.w.core).brel snap key pa
    · refine .inl ⟨hread, fun u hu => ?_⟩
      rw [← hfst] at hu
      obtain ⟨e, he, rfl⟩ := List.mem_map.1 hu
      exact hnot e he (hnone e he)
    · refine .inr ⟨l₁.map (·.1), u.1, l₂.map (·.1), by simp [← hfst, hsplit], hu, fun v hv => ?_⟩
      obtain ⟨e, he, rfl⟩ := List.mem_map.1 hv
      exact hnot e (by simp [hsplit, he]) (hnone e he)
  case whole =>
    intro us snap
    refine ⟨takes (s.sectorStores x ln free pas sector), fun i u hu hm => takes_of_must hu hm, fun j pa key hj hsector => ?_⟩
    subst hsector
    rw [State.loadBytes_getElem? hj, lookByte_eq_getLastD]
    unfold State.sectorStores
    rw [filter_takenStores, List.filterMap_map]
    rfl

end

end

section

/-! SUPPORT and PROOF of the global stores (O23). -/

namespace Sys2Proof.Machine

/-! ## What a lane's store leaves unchanged -/

@[simp] theorem State.setDgen_wgs (s : State) (ctx : Nat) (t : Trans) : (s.setDgen ctx t).wgs = s.wgs := by
  have hrest := congrArg State.wgs (s.setDgen_rest ctx t)
  exact hrest

/-- The checkpoint generation goes into one byte, the entry's own (R174). -/
theorem State.setDgen_bytes_other (s : State) (ctx : Nat) {t : Trans} {a : Nat} (ha : a ≠ t.ea + 1) :
    (s.setDgen ctx t).mem.bytes.get unlisted a = s.mem.bytes.get unlisted a := by
  unfold State.setDgen
  dsimp only
  split
  · rfl
  · exact SMap.get_put_other unlisted s.mem.bytes _ ha

theorem State.foldl_setDgen_wgs (s : State) (ctx : Nat) (ts : List Trans) : (ts.foldl (fun m t => m.setDgen ctx t) s).wgs = s.wgs := by
  induction ts generalizing s with
  | nil => rfl
  | cons t ts ih => exact (ih _).trans (s.setDgen_wgs ctx t)

theorem State.foldl_setDgen_bytes_other (s : State) (ctx : Nat) {ts : List Trans} {a : Nat} (ha : ∀ t ∈ ts, a ≠ t.ea + 1) :
    (ts.foldl (fun m t => m.setDgen ctx t) s).mem.bytes.get unlisted a = s.mem.bytes.get unlisted a := by
  induction ts generalizing s with
  | nil => rfl
  | cons t ts ih =>
    obtain ⟨ht, hts⟩ := List.forall_mem_cons.1 ha
    exact (ih _ hts).trans (s.setDgen_bytes_other ctx ht)

@[simp] theorem State.addStore_wgs (s : State) (core lid ctx uid : Nat) (word : List (Nat × Nat)) (t : Thread) (pas : List (Nat × Nat))
    (bs : List Byte) : (s.addStore core lid ctx uid word t pas bs).wgs = s.wgs := by
  simp [State.addStore]

@[simp] theorem State.addStore_mem (s : State) (core lid ctx uid : Nat) (word : List (Nat × Nat)) (t : Thread) (pas : List (Nat × Nat))
    (bs : List Byte) : (s.addStore core lid ctx uid word t pas bs).mem = s.mem := by
  simp [State.addStore]

/-! ## The stores of a word -/

/-- The stores of a word's lanes, one after another (R414). -/
def Path.storeLanes (x : Path) (w : MWord) (tr : Lane → List Trans) (s : State) (ls : List Lane) : State :=
  (ls.map (fun ln => (ln, tr ln))).foldl (x.storeLane w) s

theorem Path.storeLanes_wgs (x : Path) (w : MWord) (tr : Lane → List Trans) (s : State) (ls : List Lane) :
    (x.storeLanes w tr s ls).wgs = s.wgs := by
  induction ls generalizing s with
  | nil => rfl
  | cons ln ls ih => exact (ih _).trans ((State.addStore_wgs ..).trans (s.foldl_setDgen_wgs x.ctx (tr ln)))

theorem Path.storeLanes_bytes_other (x : Path) (w : MWord) {tr : Lane → List Trans} (s : State) {ls : List Lane} {a : Nat}
    (ha : ∀ ln ∈ ls, ∀ t ∈ tr ln, a ≠ t.ea + 1) : (x.storeLanes w tr s ls).mem.bytes.get unlisted a = s.mem.bytes.get unlisted a := by
  induction ls generalizing s with
  | nil => rfl
  | cons ln ls ih =>
    obtain ⟨hln, hls⟩ := List.forall_mem_cons.1 ha
    refine (ih _ hls).trans ?_
    show (State.addStore ..).mem.bytes.get unlisted a = _
    rw [State.addStore_mem]
    exact s.foldl_setDgen_bytes_other x.ctx hln

/-- Of the lanes of a path that stand for their threads, the executing ones are those of the word. -/
theorem State.path_exec_any {s : State} {x : Path} (hx : s.path = some x) (hd : Head) {ln : Lane} (hln : x.laneOf ln.tid = some ln) :
    (x.exec hd).any (fun e => e.tid == ln.tid) = ln.t.executes hd := by
  have hfind := State.path_exec_find hx hd ln.tid
  rw [hln] at hfind
  rw [← List.isSome_find?, hfind]
  cases hex : ln.t.executes hd <;> simp [Option.filter, hex]

/-- A change of the device that leaves the workgroups leaves a path's. -/
theorem State.path_group_of_wgs {s m : State} {x : Path} (hx : s.path = some x) (hm : m.wgs = s.wgs) : m.wg? x.w.wid = some x.w := by
  have hgroup := (State.path_parts hx).2.1
  unfold State.wg? at hgroup ⊢
  rwa [hm]

/-- ST and global STB where every lane passes and no watchpoint is met. -/
theorem State.globalStore_does {s : State} {i : Instr} {nfo : Info} {x : Path} {w : MWord} {tr : Lane → List Trans}
    (hexec : exec i s = s.globalStore i w) (hi : Issues s i nfo x {})
    (hpass : ∀ ln ∈ x.exec w.hd,
      s.access x.ctx (x.memAddr w ln) (memBytes w.width.toNat) (globalAlign w.width.toNat) false true false = .ok (tr ln))
    (hwatch : s.watched x false false true (fun ln => rangeBytes (x.memAddr w ln) (memBytes w.width.toNat)) (x.exec w.hd) = []) :
    Does s i x w.hd.hold (fun _ => x.next) (fun ln => if ln.t.executes w.hd then ln.t.count else ln.t)
      (x.storeLanes w tr s (x.exec w.hd)) x.w := by
  have hgroup : (x.storeLanes w tr s (x.exec w.hd)).wg? x.w.wid = some x.w := State.path_group_of_wgs hi.path (x.storeLanes_wgs w tr s _)
  obtain ⟨hkeeps, hacts⟩ := Path.finish_acts hi.path hgroup w.hd.hold (fun _ => x.next)
    (fun ln t => if ((x.exec w.hd).map (fun ln => (ln, tr ln))).any (fun a => a.1.tid == ln.tid) then t.count else t) id
    (fun _ => rfl) (fun _ _ => ⟨rfl, rfl⟩)
  have hword := State.globalWord_acts (fun x acc s => x.finish (acc.foldl (x.storeLane w) s) w.hd.hold (fun _ => x.next)
    (fun ln t => if acc.any (fun a => a.1.tid == ln.tid) then t.count else t) id) hpass hwatch
  refine ⟨_, hexec.trans ((State.word_next hi _).trans (congrArg _ hword)), hkeeps, hacts.congr fun ln hln => ?_⟩
  simp [List.any_map, Function.comp_def, State.path_exec_any hi.path w.hd hln]

end Sys2Proof.Machine

section

open Sys2Proof Sys2Proof.Machine

/-- Settles O23: both words are the shared global store, whose lanes write no byte of M but the generation of their pages. -/
theorem globalStores : Obligations.GlobalStores := by
  unfold Obligations.GlobalStores
  intro s i w nfo x tr n va ex word m hword hpass hwatch hi
  have hm : m = x.storeLanes w tr s ex := by
    unfold Path.storeLanes
    rw [List.foldl_map]
    rfl
  have hexec : exec i s = s.globalStore i w := by
    obtain rfl | ⟨rfl, hspace⟩ := hword
    · exact exec_st s
    · exact (exec_stb s).trans (if_neg hspace)
  rw [hm]
  exact ⟨State.globalStore_does hexec hi hpass hwatch, fun a ha => x.storeLanes_bytes_other w s ha⟩

end

end

section

/-! SUPPORT and PROOF of the definitions of routines (O28): what the writing of an entry leaves, and how LRDEF and LRDROP end. -/

namespace Sys2Proof.Machine

/-! ## Bytes written and read back -/

/-- Bytes written under a key read back under it. -/
theorem Mem.readN_writeCells (m : Mem) (key pa : Nat) (bs : List Byte) : (m.writeCells key (cellsAt pa bs)).readN key pa bs.length = bs := by
  refine List.ext_getElem? fun i => ?_
  by_cases hi : i < bs.length
  · have hcell : (pa + i, bs[i]) ∈ cellsAt pa bs := mem_cellsAt.2 ⟨by omega, by simp [hi]⟩
    rw [Mem.getElem?_readN _ _ _ hi, Mem.writeCells_read _ _ _ hcell, List.getElem?_eq_getElem hi]
    rintro ⟨a, b⟩ hd (rfl : a = pa + i)
    obtain ⟨-, hb⟩ := mem_cellsAt.1 hd
    simp_all
  · have hlen : ∀ (m : Mem) (n pa : Nat), (m.readN key pa n).length = n := fun m n => by
      induction n with
      | zero => exact fun _ => rfl
      | succ n ih => exact fun pa => congrArg (· + 1) (ih (pa + 1))
    rw [List.getElem?_eq_none (by rw [hlen]; omega), List.getElem?_eq_none (by omega)]

/-- Bytes written in one line leave the bytes of every other line. -/
theorem Mem.writeCells_line_other (m : Mem) (key : Nat) {pa a : Nat} {bs : List Byte} (hbs : pa % 128 + bs.length ≤ 128)
    (ha : a / 128 ≠ pa / 128) : (m.writeCells key (cellsAt pa bs)).bytes.get unlisted a = m.bytes.get unlisted a := by
  refine Mem.writeCells_raw_other m key _ fun c hc => ?_
  obtain ⟨hle, hb⟩ := mem_cellsAt.1 (show (c.1, c.2) ∈ cellsAt pa bs from hc)
  have hlt : c.1 - pa < bs.length := (List.getElem?_eq_some_iff.1 hb).1
  omega

/-! ## An entry written (R202, R205, R206) -/

theorem State.writeEntry_mem (s : State) (ctx r : Nat) (t : Trans) (f : Nat → Nat) :
    (s.writeEntry ctx r t f).mem = (s.setDgen ctx t).mem.writeCells t.key (cellsAt t.pa (bytesOf 128 (f (natOfBytes (s.mem.readN t.key t.pa 128))))) := by
  simp [State.writeEntry, State.uncache]

theorem State.writeEntry_rcache (s : State) (ctx r : Nat) (t : Trans) (f : Nat → Nat) :
    (s.writeEntry ctx r t f).rcache =
      (s.rcache.map (fun e => (e.1, e.2.filter (fun c => !(c.ctx == ctx && c.r == r))))).filter (fun e => !e.2.isEmpty) := by
  have hrest := congrArg State.rcache (s.setDgen_rest ctx t)
  simp only [State.writeEntry, State.uncache, State.writeM_rcache]
  exact congrArg (fun m => List.filter _ (List.map _ m)) hrest

theorem State.writeEntry_wgs (s : State) (ctx r : Nat) (t : Trans) (f : Nat → Nat) : (s.writeEntry ctx r t f).wgs = s.wgs := by
  simp [State.writeEntry, State.uncache]

theorem State.not_mem_writeEntry_rcache {s : State} {ctx r : Nat} {t : Trans} {f : Nat → Nat} {p : Nat × List CachedEntry} {c : CachedEntry}
    (hp : p ∈ (s.writeEntry ctx r t f).rcache) (hc : c ∈ p.2) : ¬ (c.ctx = ctx ∧ c.r = r) := by
  rw [State.writeEntry_rcache] at hp
  obtain ⟨q, -, rfl⟩ := List.mem_map.1 (List.mem_filter.1 hp).1
  have hkept := (List.mem_filter.1 hc).2
  rintro ⟨rfl, rfl⟩
  simp at hkept

theorem State.mem_writeEntry_rcache {s : State} {ctx r : Nat} (t : Trans) (f : Nat → Nat) {p : Nat × List CachedEntry} {c : CachedEntry}
    (hp : p ∈ s.rcache) (hc : c ∈ p.2) (hother : ¬ (c.ctx = ctx ∧ c.r = r)) :
    ∃ q ∈ (s.writeEntry ctx r t f).rcache, q.1 = p.1 ∧ c ∈ q.2 := by
  have hkept : c ∈ p.2.filter (fun c => !(c.ctx == ctx && c.r == r)) := List.mem_filter.2 ⟨hc, by
    rw [Bool.not_eq_true', ← Bool.not_eq_true, Bool.and_eq_true, beq_iff_eq, beq_iff_eq]
    exact hother⟩
  refine ⟨(p.1, p.2.filter (fun c => !(c.ctx == ctx && c.r == r))), ?_, rfl, hkept⟩
  rw [State.writeEntry_rcache]
  refine List.mem_filter.2 ⟨List.mem_map.2 ⟨p, hp, rfl⟩, ?_⟩
  rw [Bool.not_eq_true', ← Bool.not_eq_true, List.isEmpty_iff]
  exact List.ne_nil_of_mem hkept

/-! ## A translation keeps the place in a line (R170, R286) -/

theorem walk_line_place {s : State} {n table va : Nat} {t : Trans} (h : s.walk n table va = .ok t) : t.pa % 128 = va % 128 := by
  induction n generalizing table with
  | zero => cases h
  | succ n ih =>
    unfold State.walk at h
    dsimp only at h
    split at h
    · cases h
    · split at h
      · split at h
        · cases h
        · cases h
          dsimp only [leafBits]
          split
          · omega
          · split <;> omega
      · split at h
        · cases h
        · exact ih h

theorem actsAt_line_place (s : State) (t : Trans) : (s.actsAt t).pa % 128 = t.pa % 128 := by
  unfold State.actsAt
  split
  · next h =>
    simp only [Bool.and_eq_true, isPeer, decide_eq_true_eq] at h
    show peerOff t.pa % 128 = t.pa % 128
    unfold peerOff
    omega
  · rfl

theorem checkPage_line_place {s : State} {ctx va : Nat} {r w x : Bool} {t : Trans} (h : s.checkPage ctx va r w x = .ok t) :
    t.pa % 128 = va % 128 := by
  unfold State.checkPage at h
  split at h
  · cases h
  · split at h
    · cases h
    · next u hwalk =>
      split at h
      · cases h
      · split at h
        · cases h
          rw [actsAt_line_place, walk_line_place hwalk]
        · cases h

/-- An aligned line that an access reaches is a line of memory. -/
theorem access_line_aligned {s : State} {ctx va : Nat} {r w x : Bool} {t : Trans} (h : s.access ctx va 128 128 r w x = .ok [t]) :
    t.pa % 128 = 0 := by
  unfold State.access at h
  split at h
  · cases h
  · next halign =>
    have hone : pagesOf va 128 = [va] := if_pos (by omega)
    simp only [hone, List.map_cons, List.map_nil] at h
    cases hcheck : s.checkPage ctx (va % 2 ^ 64) r w x with
    | cause c =>
      rw [hcheck] at h
      simp [minOf] at h
    | ok u =>
      rw [hcheck] at h
      have hu : u = t := by simpa [minOf] using h
      have hplace := checkPage_line_place hcheck
      subst hu
      omega

theorem State.lineOf_aligned (s : State) (key : Nat) {pa : Nat} (h : pa % 128 = 0) : s.lineOf key pa = natOfBytes (s.mem.readN key pa 128) := by
  unfold State.lineOf
  rw [Nat.div_mul_cancel (Nat.dvd_of_mod_eq_zero h)]

/-! ## The ends of LRDEF and LRDROP (R205, R206, R377) -/

theorem State.publishMarked_wgs (s : State) (key : Nat) (marks : List Bool) : (s.publishMarked key marks).wgs = s.wgs := by
  unfold State.publishMarked
  rw [State.modCore_wgs]
  refine List.foldlRecOn (motive := fun t : State => t.wgs = s.wgs) _ _ rfl fun t ht p _ => ?_
  split
  · rwa [State.writeM_wgs]
  · exact ht

theorem State.publishLine_wgs (s : State) (key : Nat) (clk : Clock) (line : Nat) : (s.publishLine key clk line).wgs = s.wgs := by
  simp [State.publishLine, State.publishMarked_wgs]

/-- A table entry whose page is checked is acted on. -/
theorem State.tableEntry_ok {s : State} {x : Path} {hd : Head} {r : Nat} {act : Trans → State} {t : Trans}
    (h : s.checkPage x.ctx (s.entryVa x.ctx r) true false false = .ok t) : s.tableEntry x hd r act = act t := by
  simp only [State.tableEntry, h]

/-- A definition whose word has come to a status goes on past the word, beside a change of the device that leaves its workgroups. -/
theorem Does.of_lrEnd {s m : State} {i : Instr} {nfo : Info} {x : Path} {ck : Path → Checks} {body : Path → State → State} {w : FWord}
    {status : Nat} (hexec : exec i s = s.word i ck body) (hi : Issues s i nfo x (ck x)) (hbody : body x s = x.lrEnd m w status)
    (hm : m.wgs = s.wgs) :
    Does s i x w.hd.hold (fun _ => x.cur.pc + 8) (fun ln => ln.t) m (x.w.setS x.g.gid w.d [BitVec.ofNat 32 status]) :=
  Does.of_finish hi hexec hbody (State.path_group_of_wgs hi.path hm) (Same.refl _) (fun v => v.setS_wid _ _ _) (fun v ts => v.setS_over_threads x.g.gid w.d _ ts) (fun _ => rfl) rfl

/-- LRDEF with the image's line in reach (R205): it is published and read, and the definition takes it. -/
def Path.lrdefAt (x : Path) (s : State) (w : FWord) (ln : Lane) (tr : Trans) : State :=
  let s1 := s.publishLine x.w.core (x.clocks (x.exec w.hd)) (tr.pa / 128)
  let img := natOfBytes (s1.mem.readN tr.key tr.pa 128)
  if 64 ≤ x.read32 ln w.b then x.lrEnd s1 w 1
  else if imageStatus img ≠ 0 then x.lrEnd s1 w (imageStatus img)
  else s1.tableEntry x w.hd (x.read32 ln w.b) (fun t =>
    x.lrEnd (s1.writeEntry x.ctx (x.read32 ln w.b) t (fun old => entryWith img true ((slVer old + 1) % 2 ^ 16))) w 0)

theorem Does.of_lrdef {s m : State} {nfo : Info} {x : Path} {w : FWord} {ln : Lane} {rest : List Lane} {tr : Trans} {status : Nat}
    (hi : Issues s (.lrdef w) nfo x { uniform := [(1, fun ln => x.pair ln w.a), (2, fun ln => x.read32 ln w.b)] })
    (hex : x.exec w.hd = ln :: rest) (hacc : s.access x.ctx (x.pair ln w.a) 128 128 true false false = .ok [tr])
    (hpoison : s.poisoned tr.pa 128 = none) (hend : x.lrdefAt s w ln tr = x.lrEnd m w status) (hm : m.wgs = s.wgs) :
    Does s (.lrdef w) x w.hd.hold (fun _ => x.cur.pc + 8) (fun ln => ln.t) m (x.w.setS x.g.gid w.d [BitVec.ofNat 32 status]) := by
  have hcheck : s.globalCheck x (ln :: rest) (fun _ => x.pair ln w.a) 128 128 true false = .ok ((ln :: rest).map (fun ln => (ln, [tr]))) :=
    State.globalCheck_ok (tr := fun _ => [tr]) (fun _ _ => hacc)
  refine Does.of_lrEnd (exec_lrdef s) hi (Eq.trans ?_ hend) hm
  simp only [Path.lrdefAt, hex, hcheck, List.map_cons, List.head?_cons, Option.map_some, Option.getD_some, oneTrans, List.headD_cons, hpoison,
    State.lineOf_aligned _ _ (access_line_aligned hacc), lrTarget]

end Sys2Proof.Machine

section

open Sys2Proof Sys2Proof.Machine

/-- Settles O28: the entry's bytes are written in its own line, in which they read back, and the copies of it leave the slices; each word ends
with its status beside that writing. -/
theorem routineDefinitions : Obligations.RoutineDefinitions := by
  unfold Obligations.RoutineDefinitions
  refine ⟨fun s ctx r e f halign => ?written, fun s w nfo x ln tr e => ?words⟩
  case written =>
    intro m old
    refine ⟨?_, fun a hline hdgen => ?_, fun p hp c hc => State.not_mem_writeEntry_rcache hp hc,
      fun p hp c hc hother => State.mem_writeEntry_rcache e f hp hc hother⟩
    · have hread := Mem.readN_writeCells (s.setDgen ctx e).mem e.key e.pa (bytesOf 128 (f (natOfBytes (s.mem.readN e.key e.pa 128))))
      rwa [length_bytesOf, ← State.writeEntry_mem s ctx r e f] at hread
    · rw [State.writeEntry_mem, Mem.writeCells_line_other _ _ (by rw [length_bytesOf]; omega) hline]
      exact s.setDgen_bytes_other ctx hdgen
  case words =>
    intro r va s1 img ends entry hhead
    obtain ⟨rest, hex⟩ : ∃ rest, x.exec w.hd = ln :: rest := by
      cases hex : x.exec w.hd with
      | nil => simp [hex] at hhead
      | cons l ls => exact ⟨ls, by simpa [hex] using hhead⟩
    refine ⟨fun hacc hpoison hi => ?def_, fun hi => ?drop⟩
    case def_ =>
      have hwgs : s1.wgs = s.wgs := s.publishLine_wgs ..
      refine ⟨fun hr => Does.of_lrdef hi hex hacc hpoison (if_pos hr) hwgs, fun hr hbad => ?_, fun hr hgood hentry => ?_⟩
      · exact Does.of_lrdef hi hex hacc hpoison ((if_neg (Nat.not_le.2 hr)).trans (if_pos hbad)) hwgs
      · exact Does.of_lrdef hi hex hacc hpoison
          ((if_neg (Nat.not_le.2 hr)).trans ((if_neg (not_not.2 hgood)).trans (State.tableEntry_ok hentry)))
          ((s1.writeEntry_wgs ..).trans hwgs)
    case drop =>
      refine ⟨fun hr => ?_, fun hr hentry => ?_⟩
      · refine Does.of_lrEnd (exec_lrdrop s) hi ?_ rfl
        simp only [hex]
        exact if_pos hr
      · refine Does.of_lrEnd (exec_lrdrop s) hi ?_ (s.writeEntry_wgs ..)
        simp only [hex]
        refine (if_neg (Nat.not_le.2 hr)).trans ?_
        exact State.tableEntry_ok hentry

end

end

section

/-! SUPPORT and PROOF of the publishes, the refreshes and the fences (O29). -/

namespace Sys2Proof

variable {α : Type}

theorem SMap.get_append_of_off_right (d : α) (a : SMap α) {b : SMap α} {k : Nat} (hb : ∀ e ∈ b, e.1 ≠ k) :
    SMap.get d (a ++ b) k = SMap.get d a k := by
  induction a with
  | nil => exact SMap.get_of_not_mem d hb
  | cons e a ih => simp [SMap.get, ih]

theorem SMap.get_append_of_off_left (d : α) {a : SMap α} (b : SMap α) {k : Nat} (ha : ∀ e ∈ a, e.1 ≠ k) :
    SMap.get d (a ++ b) k = SMap.get d b k := by
  induction a with
  | nil => rfl
  | cons e a ih =>
    obtain ⟨he, ha⟩ := List.forall_mem_cons.1 ha
    simp [SMap.get, he, ih ha]

theorem SMap.filter_key_off (m : SMap α) {p : Nat → Bool} {k : Nat} (hk : p k = false) : ∀ e ∈ m.filter (fun e => p e.1), e.1 ≠ k := by
  rintro e he rfl
  simp [hk] at he

end Sys2Proof

namespace Sys2Proof.Machine

/-! ## The stores that a publish takes (R183, R255) -/

variable {can must : UStore → Bool} {extra : Nat → Bool}

theorem publishSet_cons (can must : UStore → Bool) (extra : Nat → Bool) (n : Nat) (u : UStore) (us : List UStore) :
    publishSet can must extra n (u :: us) =
      let take := can u && (must u || extra n || u.cells.any (fun c => (publishSet can must extra (n + 1) us).2.contains c.1))
      (take :: (publishSet can must extra (n + 1) us).1,
        if take then u.cells.map (·.1) ++ (publishSet can must extra (n + 1) us).2 else (publishSet can must extra (n + 1) us).2) := rfl

theorem publishSet_length (n : Nat) (us : List UStore) : (publishSet can must extra n us).1.length = us.length := by
  induction us generalizing n with
  | nil => rfl
  | cons u us ih => simp [publishSet_cons, ih]

/-- The addresses that a publish notes are those of the stores that it takes. -/
theorem mem_publishSet_addrs {n j : Nat} {us : List UStore} {v : UStore} (hv : us[j]? = some v)
    (htaken : (publishSet can must extra n us).1[j]? = some true) {d : Host.Cell} (hd : d ∈ v.cells) :
    d.1 ∈ (publishSet can must extra n us).2 := by
  induction us generalizing n j with
  | nil => simp at hv
  | cons u us ih =>
    rw [publishSet_cons] at htaken ⊢
    cases j with
    | zero =>
      obtain rfl : u = v := by simpa using hv
      have htake : _ = true := Option.some.inj htaken
      simp only [htake, if_true]
      exact List.mem_append_left _ (List.mem_map_of_mem hd)
    | succ j =>
      have htail := ih (n := n + 1) hv htaken
      dsimp only
      split
      · exact List.mem_append_right _ htail
      · exact htail

theorem publishSet_can {n i : Nat} {us : List UStore} {u : UStore} (hu : us[i]? = some u)
    (htaken : (publishSet can must extra n us).1[i]? = some true) : can u = true := by
  induction us generalizing n i with
  | nil => simp at hu
  | cons v us ih =>
    cases i with
    | zero =>
      obtain rfl : v = u := by simpa using hu
      have htake : _ = true := Option.some.inj htaken
      exact (Bool.and_eq_true_iff.1 htake).1
    | succ i => exact ih (n := n + 1) hu htaken

theorem publishSet_must {n i : Nat} {us : List UStore} {u : UStore} (hu : us[i]? = some u) (hcan : can u = true) (hmust : must u = true) :
    (publishSet can must extra n us).1[i]? = some true := by
  induction us generalizing n i with
  | nil => simp at hu
  | cons v us ih =>
    cases i with
    | zero =>
      obtain rfl : v = u := by simpa using hu
      simp [publishSet_cons, hcan, hmust]
    | succ i => exact ih (n := n + 1) hu

/-- Core order per byte: a store goes along with a later one on a byte of it. -/
theorem publishSet_before {n i j : Nat} {us : List UStore} {u v : UStore} (hu : us[i]? = some u) (hv : us[j]? = some v) (hij : i < j)
    (hcan : can u = true) (htaken : (publishSet can must extra n us).1[j]? = some true)
    (hbyte : ∃ c ∈ u.cells, ∃ d ∈ v.cells, c.1 = d.1) : (publishSet can must extra n us).1[i]? = some true := by
  induction us generalizing n i j with
  | nil => simp at hu
  | cons w us ih =>
    obtain ⟨j, rfl⟩ : ∃ k, j = k + 1 := ⟨j - 1, by omega⟩
    cases i with
    | zero =>
      obtain rfl : w = u := by simpa using hu
      obtain ⟨c, hc, d, hd, hcd⟩ := hbyte
      have haddr := mem_publishSet_addrs (us := us) (j := j) (n := n + 1) hv htaken hd
      have hany : w.cells.any (fun c => (publishSet can must extra (n + 1) us).2.contains c.1) = true :=
        List.any_eq_true.2 ⟨c, hc, by simpa [hcd] using haddr⟩
      simp only [publishSet_cons, hcan, hany, Bool.true_and, Bool.or_true, List.getElem?_cons_zero]
    | succ i => exact ih (n := n + 1) hu hv (by omega) htaken

theorem State.canPublish_iff (s : State) (u : UStore) :
    s.canPublish u = true ↔ u.pub = false ∧ ∀ l, s.launch? u.lid = some l → l.phase ≠ .dying := by
  unfold State.canPublish
  cases s.launch? u.lid <;> simp

/-! ## What a publish leaves (R183) -/

/-- A list beside marks of its length is the list with the mark of each place. -/
theorem zip_marks (us : List UStore) {marks : List Bool} (hlen : marks.length = us.length) :
    us.zip marks = us.zipIdx.map (fun e => (e.1, marks[e.2]? == some true)) := by
  refine List.ext_getElem? fun i => ?_
  by_cases hi : i < us.length
  · simp [hi, hlen]
  · simp [hi, hlen]

/-- The stores of a core's list that are marked enter M, in order. -/
theorem State.foldl_writeM_mem (s : State) (l : List (UStore × Bool)) :
    (l.foldl (fun s p => if p.2 then s.writeM p.1.ctx p.1.key p.1.cells else s) s).mem
      = (l.filter (·.2)).foldl (fun m p => m.writeCells p.1.key p.1.cells) s.mem := by
  induction l generalizing s with
  | nil => rfl
  | cons p l ih =>
    rw [List.foldl_cons, ih]
    cases hp : p.2 <;> simp [hp]

theorem State.foldl_writeM_core (s : State) (l : List (UStore × Bool)) (k : Nat) :
    (l.foldl (fun s p => if p.2 then s.writeM p.1.ctx p.1.key p.1.cells else s) s).core k = s.core k := by
  refine List.foldlRecOn (motive := fun t : State => t.core k = s.core k) _ _ rfl fun t ht p _ => ?_
  split
  · exact (congrArg (fun cs => (cs.find? fun c : LCore => c.key == k).getD (LCore.fresh k)) (State.writeM_cores ..)).trans ht
  · exact ht

/-- The stores of a core's list, the marked ones as published. -/
def published (us : List UStore) (marks : List Bool) : List UStore :=
  (us.zip marks).map (fun p => if p.2 then { p.1 with pub := true } else p.1)

/-- The marks that a publish puts on the list of its core. -/
def State.publishMarks (s : State) (key : Nat) (must : UStore → Bool) : List Bool :=
  (publishSet s.canPublish must (fun i => Config.choose (s.free + i)) 0 (s.core key).ulist).1

theorem State.publishMarked_core (s : State) (key : Nat) (marks : List Bool) (k : Nat) :
    (s.publishMarked key marks).core k = if k = key then { s.core key with ulist := published (s.core key).ulist marks } else s.core k := by
  refine (State.core_modCore _ key k _ ?_).trans ?_
  · exact fun _ => rfl
  · rw [State.foldl_writeM_core, State.foldl_writeM_core]
    rfl

theorem State.publishMarked_mem (s : State) (key : Nat) (marks : List Bool) :
    (s.publishMarked key marks).mem =
      (((s.core key).ulist.zip marks).filter (·.2)).foldl (fun m p => m.writeCells p.1.key p.1.cells) s.mem := by
  unfold State.publishMarked
  rw [State.modCore_mem, State.foldl_writeM_mem]

theorem State.publish_core (s : State) (key : Nat) (must : UStore → Bool) (k : Nat) :
    (s.publish key must).core k =
      if k = key then { s.core key with ulist := published (s.core key).ulist (s.publishMarks key must) } else s.core k :=
  s.publishMarked_core key (s.publishMarks key must) k

theorem State.publish_mem (s : State) (key : Nat) (must : UStore → Bool) :
    (s.publish key must).mem =
      (((s.core key).ulist.zip (s.publishMarks key must)).filter (·.2)).foldl (fun m p => m.writeCells p.1.key p.1.cells) s.mem :=
  s.publishMarked_mem key (s.publishMarks key must)

theorem State.publish_wgs (s : State) (key : Nat) (must : UStore → Bool) : (s.publish key must).wgs = s.wgs :=
  State.publishMarked_wgs s key _

/-! ## What a refresh leaves (R183, R185) -/

theorem refreshMem_bytes_local (scope : Nat) (m old : Mem) {a : Nat} (ha : isLocal a = true) :
    (refreshMem scope m old).bytes.get unlisted a = m.bytes.get unlisted a := by
  unfold refreshMem
  rw [SMap.get_append_of_off_right, SMap.get_append_of_off_right, SMap.get_filter_key unlisted m.bytes ha]
  · exact SMap.filter_key_off (p := fun a => !isLocal a && !isPeer a) _ (by simp [ha])
  · exact SMap.filter_key_off _ (by simp_all [isLocal, isPeer]; omega)

theorem refreshMem_bytes_companion (scope : Nat) (m old : Mem) {a : Nat} (ha : isCompanion a = true) :
    (refreshMem scope m old).bytes.get unlisted a = (if scope = 1 then m else old).bytes.get unlisted a := by
  have hlocal : isLocal a = false := by simp_all [isLocal, isCompanion]
  have hpeer : isPeer a = false := by simp_all [isPeer, isCompanion]; omega
  unfold refreshMem
  rw [SMap.get_append_of_off_right, SMap.get_append_of_off_left, SMap.get_filter_key (p := fun a => !isLocal a && !isPeer a)]
  · split <;> rfl
  · simp [hlocal, hpeer]
  · exact SMap.filter_key_off _ hlocal
  · exact SMap.filter_key_off _ hpeer

theorem refreshMem_bytes_peer (scope : Nat) (m old : Mem) {a : Nat} (ha : isPeer a = true) :
    (refreshMem scope m old).bytes.get unlisted a = (if scope = 2 then m else old).bytes.get unlisted a := by
  have hlocal : isLocal a = false := by simp_all [isLocal, isPeer]; omega
  unfold refreshMem
  rw [List.append_assoc, SMap.get_append_of_off_left, SMap.get_append_of_off_left, SMap.get_filter_key _ _ ha]
  · split <;> rfl
  · exact SMap.filter_key_off (p := fun a => !isLocal a && !isPeer a) _ (by simp [ha])
  · exact SMap.filter_key_off _ hlocal

/-- The unpublished stores that have a byte stay as they are. -/
theorem LCore.settle_unpublished (c : LCore) (gone : Nat → Bool) :
    (c.settle gone).ulist.filter (fun u => !u.pub) = c.ulist.filter (fun u => !u.pub && !u.cells.isEmpty) := by
  unfold LCore.settle
  dsimp only
  induction c.ulist with
  | nil => rfl
  | cons u us ih =>
    cases hp : u.pub
    · simp only [List.map_cons, hp, Bool.false_eq_true, if_false, List.filter_cons]
      split <;> simp_all
    · simp only [List.map_cons, hp, if_true, List.filter_cons]
      split <;> simp_all

theorem State.refresh_core (s : State) (key scope k : Nat) :
    (s.refresh key scope).core k =
      if k = key then { (s.core key).settle (inScope scope) with snap := refreshMem scope s.mem (s.core key).snap } else s.core k :=
  State.core_modCore s key k _ fun _ => rfl

theorem State.refresh_rest (s : State) (key scope : Nat) : ({ s.refresh key scope with cores := s.cores } : State) = s := by
  unfold State.refresh State.modCore
  split <;> rfl

/-! ## The ends of the words -/

/-- How a word completes that changes the threads of its executing lanes, beside a change of the device that leaves its workgroups. -/
theorem Does.of_executing {s m : State} {i : Instr} {nfo : Info} {x : Path} {ck : Path → Checks} {body : Path → State → State} {hd : Head}
    {f : Lane → Thread → Thread} (hi : Issues s i nfo x (ck x)) (hexec : exec i s = s.word i ck body)
    (hbody : body x s = x.finish m hd.hold (fun _ => x.next) (fun ln t => if ln.t.executes hd then f ln t else t) id) (hm : m.wgs = s.wgs) :
    Does s i x hd.hold (fun _ => x.cur.pc + 8) (fun ln => if ln.t.executes hd then f ln ln.t else ln.t) m x.w :=
  Does.of_finish hi hexec hbody (State.path_group_of_wgs hi.path hm) (Same.refl _) (fun _ => rfl) (fun _ _ => ⟨rfl, rfl⟩) (fun _ => rfl) rfl

end Sys2Proof.Machine

section

open Sys2Proof Sys2Proof.Machine

/-- Settles O29: the marks of `publishSet`, walked from the list's end, are the stores that a publish takes; the segments of the address space in
order are the refreshed snapshot; each word ends past itself beside these. -/
theorem phasesAndFences : Obligations.PhasesAndFences := by
  unfold Obligations.PhasesAndFences
  refine ⟨fun s key must => ?publish, fun s key scope => ?refresh, fun s w nfo x => ?words⟩
  case publish =>
    intro us may t
    have hlen : (s.publishMarks key must).length = us.length := publishSet_length ..
    have hcore : t.core key = { s.core key with ulist := published us (s.publishMarks key must) } :=
      (s.publish_core key must key).trans (if_pos rfl)
    refine ⟨fun i => (s.publishMarks key must)[i]? == some true, fun i u hu hmay hmust => ?_, fun i u hu htaken => ?_,
      fun i j u v hu hv hij hmay htaken hbyte => ?_, ?_, ?_, ?_, fun k hk => ?_⟩
    · exact beq_iff_eq.2 (publishSet_must hu ((s.canPublish_iff u).2 hmay) hmust)
    · exact (s.canPublish_iff u).1 (publishSet_can hu (beq_iff_eq.1 htaken))
    · exact beq_iff_eq.2 (publishSet_before hu hv hij ((s.canPublish_iff u).2 hmay) (beq_iff_eq.1 htaken) hbyte)
    · rw [hcore, published, zip_marks us hlen, List.map_map]
      rfl
    · rw [State.publish_mem, zip_marks us hlen, List.filter_map, List.foldl_map]
      rfl
    · rw [hcore]
    · exact (s.publish_core key must k).trans (if_neg hk)
  case refresh =>
    intro t old new from_
    have hcore : t.core key = { (s.core key).settle (inScope scope) with snap := refreshMem scope s.mem old } :=
      (s.refresh_core key scope key).trans (if_pos rfl)
    have hnew : new = refreshMem scope s.mem old := congrArg LCore.snap hcore
    refine ⟨s.refresh_rest key scope, fun k hk => (s.refresh_core key scope k).trans (if_neg hk), fun a ha => ?_, fun a ha => ?_, fun a ha => ?_,
      ?_, ?_⟩
    · dsimp only [from_]
      rw [hnew, refreshMem_bytes_local scope s.mem old ha]
    · dsimp only [from_]
      rw [hnew, refreshMem_bytes_companion scope s.mem old ha]
      split <;> rfl
    · dsimp only [from_]
      rw [hnew, refreshMem_bytes_peer scope s.mem old ha]
      split <;> rfl
    · rw [hnew]
      rfl
    · rw [hcore]
      exact (s.core key).settle_unpublished (inScope scope)
  case words =>
    intro pub ref count does counted
    have href : ∀ m : State, (ref m).wgs = m.wgs := fun m => m.modCore_wgs ..
    have hcount : ∀ m : State, (count m).wgs = m.wgs := fun m => m.modCore_wgs ..
    have hpub : (pub s).wgs = s.wgs := s.publish_wgs ..
    refine ⟨?_, ?_, ?_, ?_⟩
    · exact fun hi => Does.of_executing (f := fun _ t => { t with phc := t.phc + 1 }) hi (exec_phasePub s) rfl ((hcount _).trans hpub)
    · exact fun hi => Does.of_executing (f := fun _ t => { t with phc := t.phc + 1 }) hi (exec_phaseRef s) rfl (href s)
    · exact fun hi => Does.of_executing (f := fun _ t => { t with phc := t.phc + 1 }) hi (exec_phase s) rfl ((hcount _).trans ((href _).trans hpub))
    · exact fun hi => Does.of_executing (f := fun ln t => t.fence (x.uid ln)) hi (exec_fence s) rfl rfl

end

end

section

/-! SUPPORT and PROOF of the events at the slices (O44): the requests that take effect, the publish of a line, a routine's run on it, and the
reads of a blocked WAITV. -/

namespace Sys2Proof.Machine

/-! ## Bytes and numbers -/

theorem bytesOf_natOfBytes (bs : List Byte) : bytesOf bs.length (natOfBytes bs) = bs := by
  induction bs with
  | nil => rfl
  | cons b bs ih =>
    have hlt := b.isLt
    have hbyte : BitVec.ofNat 8 (b.toNat + 256 * natOfBytes bs) = b := by
      apply BitVec.eq_of_toNat_eq
      rw [BitVec.toNat_ofNat]
      omega
    have hrest : (b.toNat + 256 * natOfBytes bs) / 256 = natOfBytes bs := by omega
    rw [List.length_cons, natOfBytes, bytesOf, hbyte, hrest, ih]

theorem Mem.length_readN (m : Mem) (key pa n : Nat) : (m.readN key pa n).length = n := by
  induction n generalizing pa with
  | zero => rfl
  | succ n ih => exact congrArg (· + 1) (ih (pa + 1))

/-! ## The publish of a line (R187) -/

/-- The marks that the publish of a line puts on the stores of its core. -/
def State.lineMarks (s : State) (key : Nat) (clk : Clock) (line : Nat) : List Bool :=
  (publishSet s.canPublish (fun u => u.meets line && u.seq ≤ clk.get 0 u.uid)
    (fun i => ((s.core key).ulist.map (UStore.meets line)).getD i false && Config.choose (s.free + i)) 0
    ((s.core key).ulist.map (UStore.inLine line))).1

/-- A core with other stores in its list. -/
def LCore.withStores (us : List UStore) (c : LCore) : LCore := { c with ulist := us }

theorem State.core_withStores (s : State) (key k : Nat) (us : List UStore) :
    (s.modCore key (LCore.withStores us)).core k = if k = key then { s.core key with ulist := us } else s.core k :=
  State.core_modCore s key k (LCore.withStores us) fun _ => rfl

theorem State.publishLine_eq (s : State) (key : Nat) (clk : Clock) (line : Nat) :
    s.publishLine key clk line =
      ((s.modCore key (LCore.withStores ((cutMarked line (s.core key).ulist (s.lineMarks key clk line)).map (·.1)))).publishMarked key
        ((cutMarked line (s.core key).ulist (s.lineMarks key clk line)).map (·.2))).spend (s.core key).ulist.length := rfl

theorem UStore.meets_inLine (u : UStore) (line : Nat) : (u.inLine line).meets line = u.meets line := by
  simp [UStore.meets, UStore.inLine, List.any_filter]

/-- The parts that a marked store is cut into write its bytes in the line. -/
theorem UStore.split_writes (u : UStore) (line : Nat) (m : Mem) :
    (((u.split line).map (fun u => (u, u.meets line))).filter (·.2)).foldl (fun m p => m.writeCells p.1.key p.1.cells) m
      = m.writeCells u.key (u.cells.filter (fun c => c.1 / 128 == line)) := by
  have hnone : u.meets line = false → u.cells.filter (fun c => c.1 / 128 == line) = [] := fun h => by
    simpa [UStore.meets] using h
  have hout : ∀ cs : List Host.Cell, ({ u with cells := cs.filter (fun c => c.1 / 128 != line) } : UStore).meets line = false := fun cs => by
    simp [UStore.meets]
  unfold UStore.split
  dsimp only
  split
  · next hempty =>
    have hall : u.cells.filter (fun c => c.1 / 128 == line) = u.cells := by
      simpa [List.filter_eq_self] using hempty
    cases hm : u.meets line
    · rw [hnone hm]
      simp [hm, Mem.writeCells]
    · simp [hm, hall]
  · cases hm : u.meets line
    · rw [hnone hm]
      simp [UStore.meets_inLine, hm, hout, Mem.writeCells]
    · have hin := (u.meets_inLine line).trans hm
      simp only [List.map_cons, List.map_nil, hin, hout, List.filter_cons, List.filter_nil, if_true, Bool.false_eq_true, if_false,
        List.foldl_cons, List.foldl_nil]
      rfl

theorem cutMarked_writes (line : Nat) (us : List UStore) (marks : List Bool) (m : Mem) :
    ((cutMarked line us marks).filter (·.2)).foldl (fun m p => m.writeCells p.1.key p.1.cells) m
      = ((us.zip marks).filter (·.2)).foldl (fun m p => m.writeCells p.1.key (p.1.cells.filter (fun c => c.1 / 128 == line))) m := by
  unfold cutMarked
  induction us.zip marks generalizing m with
  | nil => rfl
  | cons p l ih =>
    rw [List.flatMap_cons, List.filter_append, List.foldl_append, List.filter_cons]
    cases hp : p.2
    · simp [ih]
    · simp only [if_true, UStore.split_writes, ih, List.foldl_cons]

theorem State.publishLine_mem (s : State) (key : Nat) (clk : Clock) (line : Nat) :
    (s.publishLine key clk line).mem =
      (((s.core key).ulist.zip (s.lineMarks key clk line)).filter (·.2)).foldl
        (fun m p => m.writeCells p.1.key (p.1.cells.filter (fun c => c.1 / 128 == line))) s.mem := by
  rw [publishLine_eq, State.spend_mem, State.publishMarked_mem, State.core_withStores, if_pos rfl, State.modCore_mem,
    List.zip_map']
  exact (congrArg (fun l : List (UStore × Bool) => (l.filter (·.2)).foldl (fun m p => m.writeCells p.1.key p.1.cells) s.mem) (List.map_id _)).trans
    (cutMarked_writes ..)

theorem State.publishLine_core_other (s : State) {key k : Nat} (clk : Clock) (line : Nat) (hk : k ≠ key) :
    (s.publishLine key clk line).core k = s.core k :=
  (State.publishMarked_core _ key _ k).trans ((if_neg hk).trans ((s.core_withStores key k _).trans (if_neg hk)))

theorem State.publishMarked_snap (s : State) (key : Nat) (marks : List Bool) (k : Nat) :
    ((s.publishMarked key marks).core k).snap = (s.core k).snap := by
  rw [State.publishMarked_core]
  split
  · next h => rw [h]
  · rfl

theorem State.publishLine_snap (s : State) (key : Nat) (clk : Clock) (line : Nat) (k : Nat) :
    ((s.publishLine key clk line).core k).snap = (s.core k).snap := by
  refine (State.publishMarked_snap _ key _ k).trans ?_
  refine (congrArg LCore.snap (s.core_withStores key k _)).trans ?_
  split
  · next h => rw [h]
  · rfl

theorem State.lineMarks_length (s : State) (key : Nat) (clk : Clock) (line : Nat) :
    (s.lineMarks key clk line).length = (s.core key).ulist.length :=
  (publishSet_length 0 _).trans (List.length_map _)

/-- The publish of a line takes the stores on it that precede. -/
theorem State.lineMarks_must (s : State) {key : Nat} {clk : Clock} {line i : Nat} {u : UStore} (hu : (s.core key).ulist[i]? = some u)
    (hmay : s.canPublish u = true) (hseq : u.seq ≤ clk.get 0 u.uid) (hmeets : u.meets line = true) :
    (s.lineMarks key clk line)[i]? = some true := by
  have hin : ((s.core key).ulist.map (UStore.inLine line))[i]? = some (u.inLine line) := by rw [List.getElem?_map, hu]; rfl
  refine publishSet_must hin hmay (Bool.and_eq_true_iff.2 ⟨?_, decide_eq_true hseq⟩)
  rw [UStore.meets_inLine]
  exact hmeets

/-- The publish of a line takes none that has been published or whose launch a fatal trap ends. -/
theorem State.lineMarks_can (s : State) {key : Nat} {clk : Clock} {line i : Nat} {u : UStore} (hu : (s.core key).ulist[i]? = some u)
    (htaken : (s.lineMarks key clk line)[i]? = some true) : s.canPublish u = true := by
  have hin : ((s.core key).ulist.map (UStore.inLine line))[i]? = some (u.inLine line) := by rw [List.getElem?_map, hu]; rfl
  exact (publishSet_can hin htaken :)

/-- The publish of a line writes in the line only. -/
theorem State.publishLine_line_other (s : State) (key : Nat) (clk : Clock) {line a : Nat} (ha : a / 128 ≠ line) :
    (s.publishLine key clk line).mem.bytes.get unlisted a = s.mem.bytes.get unlisted a := by
  rw [State.publishLine_mem]
  refine List.foldlRecOn (motive := fun m : Mem => m.bytes.get unlisted a = s.mem.bytes.get unlisted a) _ _ rfl fun m hm p _ => ?_
  refine (Mem.writeCells_raw_other m _ _ fun c hc => ?_).trans hm
  obtain ⟨-, hline⟩ := List.mem_filter.1 hc
  rw [beq_iff_eq.1 hline]
  exact Ne.symm ha

theorem State.modCore_eq (s : State) (key : Nat) (f : LCore → LCore) : ∃ cs, s.modCore key f = { s with cores := cs } := by
  unfold State.modCore
  split
  · exact ⟨_, rfl⟩
  · exact ⟨_, rfl⟩

/-- The writing of stores changes memory and what belongs to the last-level cache, and nothing else. -/
theorem State.foldl_writeM_rest (s : State) (l : List (UStore × Bool)) :
    ∃ m t, l.foldl (fun s p => if p.2 then s.writeM p.1.ctx p.1.key p.1.cells else s) s = { s.cacheOf t with mem := m } := by
  induction l generalizing s with
  | nil => exact ⟨s.mem, s, rfl⟩
  | cons p l ih =>
    rw [List.foldl_cons]
    obtain ⟨m, t, hrest⟩ := ih (if p.2 then s.writeM p.1.ctx p.1.key p.1.cells else s)
    refine ⟨m, t, hrest.trans ?_⟩
    split
    · obtain ⟨u, hwrite⟩ := s.writeM_rest p.1.ctx p.1.key p.1.cells
      rw [hwrite]
    · rfl

/-- The publish of a line changes memory, its core's list and what belongs to the last-level cache, and nothing else. -/
theorem State.publishLine_rest (s : State) (key : Nat) (clk : Clock) (line : Nat) :
    ∃ m t cs, s.publishLine key clk line = { s.cacheOf t with mem := m, cores := cs } := by
  rw [State.publishLine_eq]
  obtain ⟨cs, hcut⟩ := s.modCore_eq key (LCore.withStores ((cutMarked line (s.core key).ulist (s.lineMarks key clk line)).map (·.1)))
  rw [hcut]
  unfold State.publishMarked
  dsimp only
  generalize (State.core _ key).ulist.zip _ = marked
  obtain ⟨m, t, hwrites⟩ := State.foldl_writeM_rest { s with cores := cs } marked
  obtain ⟨cs', hmark⟩ := State.modCore_eq (marked.foldl (fun s p => if p.2 then s.writeM p.1.ctx p.1.key p.1.cells else s) { s with cores := cs }) key
    (LCore.withStores (marked.map (fun p => if p.2 then { p.1 with pub := true } else p.1)))
  refine ⟨m, { t with free := t.free + (s.core key).ulist.length }, cs', (congrArg (State.spend · (s.core key).ulist.length) hmark).trans ?_⟩
  rw [hwrites]
  rfl

/-! ## A routine's run (R208) -/

variable {r : Req}

/-- A reply to a thread of this device joins the others. -/
theorem State.answer_eq (s : State) (hk : ∀ d, r.kind ≠ .peer d) (code detail fl : Nat) (y hi : DWord) :
    s.answer r code detail fl y hi =
      { s with replies := s.replies ++ [⟨r, code, detail, BitVec.ofNat 7 fl, y, hi, s.relOfM r.core r.loaded⟩] } := by
  unfold State.answer
  split
  · next hpeer => exact absurd hpeer (hk _)
  · rfl

theorem State.wakeLine_mem (s : State) (line ctx : Nat) : (s.wakeLine line ctx).mem = s.mem := rfl

/-- The translation of a request, as its generation is set under. -/
def Req.trans (r : Req) : Trans :=
  { lvl := r.lvl, ea := r.ea, base := r.base, pa := r.pa, key := r.key, r := true, w := true, x := false, det := r.det, dgen := 256 }

/-- The line as a routine's run leaves it in memory: nothing changes where it aborts or leaves the line as it was. -/
def State.ranOn (s : State) (r : Req) (old : Nat) (ran : Ran) : State :=
  if ran.code = 0 && ran.line != old then
    ((s.setDgen r.ctx r.trans).writeM r.ctx r.key (cellsAt (r.pa / 128 * 128) (bytesOf 128 ran.line))).wakeLine (r.pa / 128) r.ctx
  else s

theorem State.applyRan_eq (s : State) (hk : ∀ d, r.kind ≠ .peer d) (old : Nat) (ran : Ran) :
    s.applyRan r old ran = (s.ranOn r old ran).answer r ran.code ran.detail ran.fl (if ran.code = 0 then ran.y else 0) 0 := by
  unfold State.applyRan State.ranOn
  cases hkind : r.kind with
  | peer d => exact absurd hkind (hk d)
  | _ => rfl

theorem State.setDgen_eq (s : State) (ctx : Nat) (t : Trans) : ∃ m, s.setDgen ctx t = { s with mem := m } := by
  unfold State.setDgen
  dsimp only
  split
  · exact ⟨s.mem, rfl⟩
  · exact ⟨_, rfl⟩

/-- A routine's run changes memory, what belongs to the last-level cache, and the monitors of the line with their waiters. -/
theorem State.ranOn_rest (s : State) (r : Req) (old : Nat) (ran : Ran) :
    ∃ m t ws ms, s.ranOn r old ran = { s.cacheOf t with mem := m, wgs := ws, monitors := ms } := by
  unfold State.ranOn
  split
  · obtain ⟨t, hwrite⟩ := (s.setDgen r.ctx r.trans).writeM_rest r.ctx r.key (cellsAt (r.pa / 128 * 128) (bytesOf 128 ran.line))
    obtain ⟨m, hdgen⟩ := s.setDgen_eq r.ctx r.trans
    rw [hwrite, hdgen]
    exact ⟨_, t, _, _, rfl⟩
  · exact ⟨s.mem, s, s.wgs, s.monitors, rfl⟩

theorem State.ranOn_mem (s : State) (r : Req) (old : Nat) (ran : Ran) :
    (s.ranOn r old ran).mem = if ran.code = 0 && ran.line != old then
      (s.setDgen r.ctx r.trans).mem.writeCells r.key (cellsAt (r.pa / 128 * 128) (bytesOf 128 ran.line)) else s.mem := by
  unfold State.ranOn
  split
  · rw [State.wakeLine_mem, State.writeM_mem]
  · rfl

/-- The line reads back as the routine leaves it, and as before where it aborts. -/
theorem State.ranOn_line (s : State) (r : Req) {old : Nat} {ran : Ran} (hold : old = natOfBytes (s.mem.readN r.key (r.pa / 128 * 128) 128)) :
    (s.ranOn r old ran).mem.readN r.key (r.pa / 128 * 128) 128 = bytesOf 128 (if ran.code = 0 then ran.line else old) := by
  have hsame : s.mem.readN r.key (r.pa / 128 * 128) 128 = bytesOf 128 old := by
    have hbytes := bytesOf_natOfBytes (s.mem.readN r.key (r.pa / 128 * 128) 128)
    rw [Mem.length_readN, ← hold] at hbytes
    exact hbytes.symm
  rw [State.ranOn_mem]
  split
  · next hwrites =>
    obtain ⟨hcode, -⟩ := Bool.and_eq_true_iff.1 hwrites
    have hread := Mem.readN_writeCells (s.setDgen r.ctx r.trans).mem r.key (r.pa / 128 * 128) (bytesOf 128 ran.line)
    rw [length_bytesOf] at hread
    rw [if_pos (of_decide_eq_true hcode), hread]
  · next hkeeps =>
    refine hsame.trans (congrArg (bytesOf 128) ?_)
    split
    · next hcode =>
      by_contra hne
      exact hkeeps (Bool.and_eq_true_iff.2 ⟨decide_eq_true hcode, bne_iff_ne.2 (Ne.symm hne)⟩)
    · rfl

theorem State.ranOn_line_other (s : State) (r : Req) (old : Nat) (ran : Ran) {a : Nat} (ha : a / 128 ≠ r.pa / 128) (hdgen : a ≠ r.ea + 1) :
    (s.ranOn r old ran).mem.bytes.get unlisted a = s.mem.bytes.get unlisted a := by
  rw [State.ranOn_mem]
  split
  · rw [Mem.writeCells_line_other _ _ (by rw [length_bytesOf]; omega) (by omega)]
    exact s.setDgen_bytes_other r.ctx hdgen
  · rfl

/-- What a routine does on a line: an entry's words, or a built-in. -/
def Req.runs (r : Req) (entry : Option Nat) (old : Nat) : Ran :=
  match entry with
  | some e => entryRun e r.opnds (r.pa % 128) old
  | none => builtinRun r.r r.opnds (r.pa % 128) old

/-- A routine publishes to its line, runs on it as M holds it, and replies. -/
theorem State.runEntry_eq (s : State) (hk : ∀ d, r.kind ≠ .peer d) (entry : Option Nat) {s1 : State}
    (hs1 : s1 = (s.publishLine r.core r.clk (r.pa / 128)).fetchLine r.key (r.pa / 128)) :
    s.runEntry r entry = (s1.ranOn r (natOfBytes (s1.mem.readN r.key (r.pa / 128 * 128) 128))
        (r.runs entry (natOfBytes (s1.mem.readN r.key (r.pa / 128 * 128) 128)))).answer r
      (r.runs entry (natOfBytes (s1.mem.readN r.key (r.pa / 128 * 128) 128))).code
      (r.runs entry (natOfBytes (s1.mem.readN r.key (r.pa / 128 * 128) 128))).detail
      (r.runs entry (natOfBytes (s1.mem.readN r.key (r.pa / 128 * 128) 128))).fl
      (if (r.runs entry (natOfBytes (s1.mem.readN r.key (r.pa / 128 * 128) 128))).code = 0 then
        (r.runs entry (natOfBytes (s1.mem.readN r.key (r.pa / 128 * 128) 128))).y else 0) 0 := by
  rw [← State.applyRan_eq _ hk, hs1]
  unfold State.runEntry
  cases hkind : r.kind with
  | peer d => exact absurd hkind (hk d)
  | _ => rfl

/-- A state with the replies, launches, queues, barrier table and lodge of another. -/
def State.Serves (s t : State) : Prop :=
  t.replies = s.replies ∧ t.launches = s.launches ∧ t.queues = s.queues ∧ t.gbt = s.gbt ∧ t.lodge = s.lodge

theorem State.Serves.trans {s t u : State} (h : s.Serves t) (h' : t.Serves u) : s.Serves u := by
  obtain ⟨hreplies, hlaunches, hqueues, hgbt, hlodge⟩ := h
  obtain ⟨hreplies', hlaunches', hqueues', hgbt', hlodge'⟩ := h'
  exact ⟨hreplies'.trans hreplies, hlaunches'.trans hlaunches, hqueues'.trans hqueues, hgbt'.trans hgbt, hlodge'.trans hlodge⟩

theorem State.publishLine_serves (s : State) (key : Nat) (clk : Clock) (line : Nat) : s.Serves (s.publishLine key clk line) := by
  obtain ⟨m, t, cs, hpublish⟩ := s.publishLine_rest key clk line
  rw [hpublish]
  exact ⟨rfl, rfl, rfl, rfl, rfl⟩

theorem State.ranOn_serves (s : State) (r : Req) (old : Nat) (ran : Ran) : s.Serves (s.ranOn r old ran) := by
  obtain ⟨m, t, ws, ms, hran⟩ := s.ranOn_rest r old ran
  rw [hran]
  exact ⟨rfl, rfl, rfl, rfl, rfl⟩

theorem State.fetchLine_serves (s : State) (key line : Nat) : s.Serves (s.fetchLine key line) := by
  rw [State.fetchLine_rest]
  exact ⟨rfl, rfl, rfl, rfl, rfl⟩

theorem State.fetchLine_mem (s : State) (key line : Nat) : (s.fetchLine key line).mem = s.mem := by
  rw [State.fetchLine_rest]

/-- The parts of a routine's run: a state that holds the memory after the publish, the run there, and the reply. -/
theorem State.runEntry_parts (s : State) (hk : ∀ d, r.kind ≠ .peer d) (entry : Option Nat) {old : Nat} {ran : Ran}
    (hold : old = natOfBytes ((s.publishLine r.core r.clk (r.pa / 128)).mem.readN r.key (r.pa / 128 * 128) 128)) (hran : ran = r.runs entry old) :
    ∃ t : State, t.mem = (s.publishLine r.core r.clk (r.pa / 128)).mem ∧ s.Serves (t.ranOn r old ran)
      ∧ s.runEntry r entry = (t.ranOn r old ran).answer r ran.code ran.detail ran.fl (if ran.code = 0 then ran.y else 0) 0 := by
  have hmem := (s.publishLine r.core r.clk (r.pa / 128)).fetchLine_mem r.key (r.pa / 128)
  have hserves := (s.publishLine_serves r.core r.clk (r.pa / 128)).trans (State.fetchLine_serves _ r.key (r.pa / 128))
  obtain ⟨t, ht⟩ : ∃ t, t = (s.publishLine r.core r.clk (r.pa / 128)).fetchLine r.key (r.pa / 128) := ⟨_, rfl⟩
  rw [← ht] at hmem hserves
  refine ⟨t, hmem, hserves.trans (t.ranOn_serves r old ran), ?_⟩
  rw [← hmem] at hold
  rw [s.runEntry_eq hk entry ht, ← hold, ← hran]

theorem Req.not_peer (h : r.kind = .lrcall ∨ ∃ b, r.kind = .atom b) (d : Nat) : r.kind ≠ .peer d := by
  obtain h | ⟨b, h⟩ := h <;> simp [h]

/-! ## What a slice finds (R202, R286) -/

/-- What a request comes to by what its slice finds for its number. -/
def State.onFound (s : State) (r : Req) : EntryRes → State
  | .absent va => s.sendFault r.ctx va .load (.table (s.sliceOf r.pa) r)
  | .failed c => s.answer r 7 c 0 0 0
  | .poison l _ => (s.retirePage l).answer r 5 0 0 0 0
  | .invalid => s.answer r 1 0 0 0 0
  | .entry e =>
    if slAnum e ≠ r.opnds.length then (if s.mayCache r then s.cacheEntry (s.sliceOf r.pa) r.ctx r.r e else s).answer r 6 0 0 0 0
    else (if s.mayCache r then s.cacheEntry (s.sliceOf r.pa) r.ctx r.r e else s).runEntry r (some e)

theorem State.runRoutine_found {s : State} (hk : ∀ d, r.kind ≠ .peer d) (hpoison : s.poisoned r.pa 1 = none) (hr : r.r < 64)
    (hpeer : isPeer r.pa = false) : s.runRoutine r = s.onFound r (s.entryFor (s.sliceOf r.pa) r.ctx r.r) := by
  have hremote : r.remote = false := by
    unfold Req.remote
    rw [hpeer]
    cases hkind : r.kind with
    | peer d => exact absurd hkind (hk d)
    | _ => rfl
  unfold State.runRoutine
  simp only [hpoison, hremote, Nat.not_le.2 hr, if_false, Bool.false_eq_true]
  cases s.entryFor (s.sliceOf r.pa) r.ctx r.r <;> rfl

theorem State.runRoutine_builtin {s : State} (hpoison : s.poisoned r.pa 1 = none) (hr : 64 ≤ r.r) : s.runRoutine r = s.runEntry r none := by
  unfold State.runRoutine
  simp only [hpoison, hr, if_true]

theorem State.runRoutine_peer {s : State} (hpoison : s.poisoned r.pa 1 = none) (hr : r.r < 64) (hpeer : isPeer r.pa = true) :
    s.runRoutine r = s.answer r 1 0 0 0 0 := by
  unfold State.runRoutine Req.remote
  simp only [hpoison, Nat.not_le.2 hr, if_false, hpeer, Bool.true_or, if_true]

theorem State.runRoutine_poisoned {s : State} {line seq : Nat} (hpoison : s.poisoned r.pa 1 = some (line, seq)) :
    s.runRoutine r = (s.retirePage line).answer r 4 0 0 0 0 := by
  unfold State.runRoutine
  simp only [hpoison]

/-! ## Reads (R178, R371) -/

/-- A tag that is clear stays clear when a line is filled. -/
theorem State.fillLine_tag_clear {s : State} (line : Nat) {l : Nat} (h : s.tags.get 0 l = 0) : (s.fillLine line).tags.get 0 l = 0 := by
  unfold State.fillLine
  dsimp only
  split
  · exact h
  · split
    · exact h
    · dsimp only
      generalize (s.waysAt (s.setOf line)).getD _ 0 - 1 = victim
      by_cases hl : l = victim
      · rw [hl]
        exact SMap.get_put_same ..
      · rw [SMap.get_put_other _ _ _ hl]
        exact h

theorem State.fetchLine_tag_clear {s : State} (key line : Nat) {l : Nat} (h : s.tags.get 0 l = 0) : (s.fetchLine key line).tags.get 0 l = 0 :=
  s.fetchLine_tags key line l (State.fillLine_tag_clear line h)

theorem State.fetchLine_tag_foreign {s : State} {key line : Nat} (h : s.foreign key line = true) : (s.fetchLine key line).tags.get 0 line = 0 := by
  unfold State.fetchLine
  simp only [h, if_true]
  exact SMap.get_put_same ..

/-- The lines of some bytes, one fetched after another, of which those that stand under another key keep no tag. -/
theorem State.foldl_fetchLine_tags (ls : List (Nat × Nat)) (s : State) {p : Nat × Nat} (hp : p ∈ ls) (hforeign : s.foreign p.2 p.1 = true) :
    (ls.foldl (fun s p => s.fetchLine p.2 p.1) s).tags.get 0 p.1 = 0 := by
  have hclear : ∀ (ls : List (Nat × Nat)) (t : State), t.tags.get 0 p.1 = 0 → (ls.foldl (fun s p => s.fetchLine p.2 p.1) t).tags.get 0 p.1 = 0 :=
    fun ls t ht => List.foldlRecOn (motive := fun t : State => t.tags.get 0 p.1 = 0) ls _ ht fun t ht q _ => State.fetchLine_tag_clear q.2 q.1 ht
  induction ls generalizing s with
  | nil => cases hp
  | cons q ls ih =>
    obtain rfl | hp := List.mem_cons.1 hp
    · exact hclear ls _ (State.fetchLine_tag_foreign hforeign)
    · refine ih (s.fetchLine q.2 q.1) hp ?_
      rw [s.fetchLine_rest]
      exact hforeign

theorem State.fetchLines_tags (s : State) (ps : List (Nat × Nat)) {p : Nat × Nat} (hp : p ∈ ps) (hforeign : s.foreign p.2 (p.1 / 128) = true) :
    (s.fetchLines ps).tags.get 0 (p.1 / 128) = 0 :=
  State.foldl_fetchLine_tags _ s (p := (p.1 / 128, p.2)) (List.mem_dedup.2 (List.mem_map.2 ⟨p, hp, rfl⟩)) hforeign

theorem State.runRead_eq {s : State} {n : Nat} (hk : ∀ d, r.kind ≠ .peer d) (hpoison : s.poisoned r.pa n = none) :
    s.runRead r n =
      { s.fetchLines ((rangeBytes r.pa n).map (fun a => (a, r.key))) with replies := s.replies ++
          [⟨r, 0, 0, 0, BitVec.ofNat 64 (natOfBytes (s.mem.readN r.key r.pa n)), BitVec.ofNat 64 (natOfBytes (s.mem.readN r.key r.pa n) / 2 ^ 64),
            s.relOfM r.core r.loaded⟩] } := by
  unfold State.runRead
  simp only [hpoison]
  rw [State.answer_eq _ hk, s.fetchLines_rest]
  rfl

/-! ## The built-in routines (R212) -/

theorem bitsOf_putBits_mod (x lo w v : Nat) : bitsOf (putBits x lo w v) lo w = v % 2 ^ w := by
  refine Nat.eq_of_testBit_eq fun i => ?_
  rw [testBit_bitsOf, Nat.testBit_mod_two_pow]
  by_cases hi : i < w
  · rw [testBit_putBits_field x v hi]
  · simp [hi]

theorem builtinRun_line {k ofs line : Nat} (ops : List DWord) {op n : Nat} (hop : op = if k = 76 ∨ k = 77 then k - 60 else k - 64)
    (hn : n = if atomIs32 op then 32 else 64) :
    builtinRun k ops ofs line =
      ⟨0, 0, putBits line (8 * ofs) n (atomOp op (bitsOf line (8 * ofs) n) ((ops.getD 0 0).toNat % 2 ^ n) ((ops.getD 1 0).toNat % 2 ^ n)).1,
        BitVec.ofNat 64 (bitsOf line (8 * ofs) n),
        (atomOp op (bitsOf line (8 * ofs) n) ((ops.getD 0 0).toNat % 2 ^ n) ((ops.getD 1 0).toNat % 2 ^ n)).2⟩ := by
  have hsame : (if k = 76 || k = 77 then k + 4 - 64 else k - 64) = op := by
    rw [hop]
    by_cases h76 : k = 76 ∨ k = 77 <;> simp [h76]
  subst hn
  unfold builtinRun
  simp only [hsame]

/-! ## The events of a slice (R195, R213) -/

/-- The requests in a range that an invalidation names (R195). -/
def Req.inRange (ctx va len : Nat) (r : Req) : Bool :=
  (match r.kind with | .peer _ => false | _ => r.ctx == ctx) && va / 128 * 128 ≤ r.va && r.va < va + len

/-- The requests of a slice up to the last that an invalidation names complete. -/
def State.completeHits (hit : Req → Bool) (s : State) (k : Nat) : State :=
  (splitLast hit (s.slices.get [] k)).1.foldl State.runReq { s with slices := s.slices.put [] k (splitLast hit (s.slices.get [] k)).2 }

/-- The slices at which requests complete under an old entry. -/
def State.hitSlices (s : State) (hit : Req → Bool) : List Nat :=
  (s.slices.filter (fun e => e.2.any hit && !s.paused.contains e.1)).map (fun e => e.1)

theorem exec_pteInvalidation_eq (s : State) (ctx va len : Nat) {t : State}
    (ht : t = (s.hitSlices (Req.inRange ctx va len)).foldl (State.completeHits (Req.inRange ctx va len)) s) :
    exec (.pteInvalidation ctx va len) s = .next ((t.heldReqs (Req.inRange ctx va len)).foldl State.reissue (t.dropReqs (Req.inRange ctx va len))) := by
  rw [ht]
  rfl

theorem splitLast_of_none {hit : Req → Bool} {rs : List Req} (h : ∀ r ∈ rs, hit r = false) : splitLast hit rs = ([], rs) := by
  induction rs with
  | nil => rfl
  | cons r rs ih =>
    obtain ⟨hr, hrs⟩ := List.forall_mem_cons.1 h
    simp [splitLast, ih hrs, hr]

theorem splitLast_append {hit : Req → Bool} (before : List Req) {r : Req} {after : List Req} (hr : hit r = true)
    (h : ∀ r ∈ after, hit r = false) : splitLast hit (before ++ r :: after) = (before ++ [r], after) := by
  induction before with
  | nil => simp [splitLast, splitLast_of_none h, hr]
  | cons b before ih => simp [splitLast, ih]

theorem filter_eq_self_of_none {hit : Req → Bool} {rs : List Req} (h : ∀ r ∈ rs, hit r = false) : rs.filter (fun r => !hit r) = rs :=
  List.filter_eq_self.2 fun r hr => by rw [h r hr]; rfl

theorem filter_eq_nil_of_none {hit : Req → Bool} {rs : List Req} (h : ∀ r ∈ rs, hit r = false) : rs.filter hit = [] :=
  List.filter_eq_nil_iff.2 fun r hr => by rw [h r hr]; exact Bool.false_ne_true

variable {s : State} {hit : Req → Bool}

/-- An invalidation that meets no request holds none. -/
theorem State.heldReqs_of_none (hwindow : ∀ l ∈ s.launches, ∀ r ∈ l.window, hit r = false)
    (hfaults : ∀ f ∈ s.faults, ∀ p r, FaultSrc.table p r ∈ f.srcs → hit r = false) (hslices : ∀ e ∈ s.slices, ∀ r ∈ e.2, hit r = false) :
    s.heldReqs hit = [] := by
  unfold State.heldReqs
  rw [List.append_eq_nil_iff, List.append_eq_nil_iff, List.flatMap_eq_nil_iff, List.flatMap_eq_nil_iff, List.flatMap_eq_nil_iff]
  refine ⟨⟨fun l hl => filter_eq_nil_of_none (hwindow l hl), fun f hf => List.filterMap_eq_nil_iff.2 fun x hx => ?_⟩,
    fun e he => filter_eq_nil_of_none (hslices e (List.mem_filter.1 he).1)⟩
  cases x with
  | table p r => simp [hfaults f hf p r hx]
  | _ => rfl

/-- An invalidation that meets no request withdraws none. -/
theorem State.dropReqs_of_none (hwindow : ∀ l ∈ s.launches, ∀ r ∈ l.window, hit r = false)
    (hfaults : ∀ f ∈ s.faults, f.srcs ≠ [] ∧ ∀ p r, FaultSrc.table p r ∈ f.srcs → hit r = false)
    (hslices : ∀ e ∈ s.slices, e.2 ≠ [] ∧ ∀ r ∈ e.2, hit r = false) : s.dropReqs hit = s := by
  have hlaunches : s.launches.map (fun (l : Launch) => { l with window := l.window.filter (fun r => !hit r) }) = s.launches := by
    refine (List.map_congr_left fun l hl => ?_).trans (List.map_id _)
    rw [filter_eq_self_of_none (hwindow l hl)]
    rfl
  have hkept : s.slices.map (fun e => if s.paused.contains e.1 then (e.1, e.2.filter (fun r => !hit r)) else e) = s.slices := by
    refine (List.map_congr_left fun e he => ?_).trans (List.map_id _)
    split
    · rw [filter_eq_self_of_none (hslices e he).2]
      rfl
    · rfl
  have hqueues : s.slices.filter (fun e => !e.2.isEmpty) = s.slices :=
    List.filter_eq_self.2 fun e he => by simpa using (hslices e he).1
  have hsrcs : (s.faults.map (fun (f : FaultReq) => { f with srcs := f.srcs.filter (fun x => match x with
      | .table _ r => !hit r
      | _ => true) })).filter (fun f => !f.srcs.isEmpty) = s.faults := by
    refine (congrArg (List.filter _) ((List.map_congr_left fun f hf => ?_).trans (List.map_id _))).trans
      (List.filter_eq_self.2 fun f hf => by simpa using (hfaults f hf).1)
    have hall : f.srcs.filter (fun x => match x with
        | .table _ r => !hit r
        | _ => true) = f.srcs := List.filter_eq_self.2 fun x hx => by
      cases x with
      | table p r => simp [(hfaults f hf).2 p r hx]
      | _ => rfl
    exact congrArg (fun srcs => ({ f with srcs := srcs } : FaultReq)) hall
  unfold State.dropReqs
  rw [hlaunches, hkept, hqueues]
  exact congrArg (fun fs => ({ s with faults := fs } : State)) hsrcs

/-- Where no request is in the range, none completes under an old entry. -/
theorem State.hitSlices_of_none (h : ∀ e ∈ s.slices, ∀ r ∈ e.2, hit r = false) : s.hitSlices hit = [] := by
  refine List.map_eq_nil_iff.2 (List.filter_eq_nil_iff.2 fun e he hany => ?_)
  obtain ⟨r, hr, hhit⟩ := List.any_eq_true.1 (Bool.and_eq_true_iff.1 hany).1
  exact Bool.false_ne_true ((h e he r hr).symm.trans hhit)

/-- The one slice that holds requests completes them up to the last in the range. -/
theorem State.foldl_hitSlices_single {slice : Nat} {before after : List Req} (hslices : s.slices = [(slice, before ++ r :: after)])
    (hpaused : slice ∉ s.paused) (hr : hit r = true) (hafter : ∀ r ∈ after, hit r = false) :
    (s.hitSlices hit).foldl (State.completeHits hit) s =
      (before ++ [r]).foldl State.runReq ({ s with slices := s.slices.put [] slice after } : State) := by
  have hone : s.hitSlices hit = [slice] := by
    simp [State.hitSlices, hslices, hpaused, hr]
  have hqueue : s.slices.get [] slice = before ++ r :: after := by
    simp [hslices, SMap.get]
  rw [hone, List.foldl_cons, List.foldl_nil, State.completeHits, hqueue, splitLast_append before hr hafter]

/-- An invalidation leaves no request that it names in a reorder window. -/
theorem State.dropReqs_window (s : State) (hit : Req → Bool) : ∀ l ∈ (s.dropReqs hit).launches, ∀ r ∈ l.window, hit r = false := by
  intro l hl r hr
  obtain ⟨l', -, rfl⟩ := List.mem_map.1 hl
  simpa using (List.mem_filter.1 hr).2

end Sys2Proof.Machine

section

open Sys2Proof Sys2Proof.Machine

/-- Settles O44: a publish of a line is the fold of its taken stores over M, a run is that publish, one write of the line and one reply, and
the events of the slices and of a blocked WAITV are their functions case by case. -/
theorem sliceEvents : Obligations.SliceEvents := by
  unfold Obligations.SliceEvents
  refine ⟨⟨fun s slice r rest hhead hpaused => ?run, fun s lid l r hl hbound hfind hwaits hpaused hturn hdone => ?det, fun s slice => ?pause,
    fun s ctx va len => ?invalid⟩, ⟨fun s key clk line => ?line, fun s r entry hkind => ?entry, fun s r hkind => ?found,
    fun s r width sx gather hkind hpoison => ?lda, fun s ps => ?fetch, fun k ops ofs line hk => ?builtin⟩, fun s wid tid z hz hreading => ?waitv⟩
  case run =>
    rw [exec_lineRoutineRun]
    unfold execLineRoutineRun
    simp [hhead, hpaused]
  case det =>
    rw [exec_detRequestApply]
    unfold execDetRequestApply
    simp [hl, hfind, hwaits, hpaused, hturn, hdone, Launch.runs, hbound]
  case pause =>
    refine ⟨fun hpaused => ?_, fun hserves => ?_⟩
    · exact congrArg _ (if_pos (List.contains_iff_mem.2 hpaused))
    · exact congrArg _ (if_neg (fun h => hserves (List.contains_iff_mem.1 h)))
  case invalid =>
    intro hit held
    refine ⟨fun hslices hheld => ?_, fun slice before r after hslices hpaused hr hafter => ?_⟩
    · have hwindow : ∀ l ∈ s.launches, ∀ r ∈ l.window, Req.inRange ctx va len r = false := hheld.1
      have hfaults : ∀ f ∈ s.faults, f.srcs ≠ [] ∧ ∀ p r, FaultSrc.table p r ∈ f.srcs → Req.inRange ctx va len r = false := hheld.2
      have hqueues : ∀ e ∈ s.slices, e.2 ≠ [] ∧ ∀ r ∈ e.2, Req.inRange ctx va len r = false := hslices
      rw [exec_pteInvalidation_eq s ctx va len rfl, State.hitSlices_of_none fun e he => (hqueues e he).2, List.foldl_nil,
        State.heldReqs_of_none hwindow (fun f hf => (hfaults f hf).2) (fun e he => (hqueues e he).2), List.foldl_nil,
        State.dropReqs_of_none hwindow hfaults hqueues]
    · exact ⟨exec_pteInvalidation_eq s ctx va len (State.foldl_hitSlices_single hslices hpaused hr hafter).symm, State.dropReqs_window _ _⟩
  case line =>
    intro us may t
    refine ⟨fun i => (s.lineMarks key clk line)[i]? == some true, fun i u hu hmay hseq hmeets => ?_, fun i u hu htaken => ?_, ?_,
      s.publishLine_snap key clk line key, fun k hk => s.publishLine_core_other clk line hk⟩
    · have hline : u.meets line = true := by simpa [UStore.meets] using hmeets
      exact beq_iff_eq.2 (s.lineMarks_must hu ((s.canPublish_iff u).2 hmay) hseq hline)
    · exact (s.canPublish_iff u).1 (s.lineMarks_can hu (beq_iff_eq.1 htaken))
    · rw [s.publishLine_mem, zip_marks _ (s.lineMarks_length key clk line), List.filter_map, List.foldl_map]
      rfl
  case entry =>
    intro s1 base old ran t
    have hk := Req.not_peer hkind
    have hran : ran = r.runs entry old := by cases entry <;> rfl
    obtain ⟨u, hu, ⟨hreplies, hlaunches, hqueues, hgbt, hlodge⟩, hrun⟩ := s.runEntry_parts hk entry (old := old) rfl hran
    rw [State.answer_eq _ hk] at hrun
    rw [show t = _ from hrun]
    refine ⟨⟨(u.ranOn r old ran).relOfM r.core r.loaded, by rw [← hreplies]⟩, ?_, fun a hline hdgen => ?_, hlaunches, hqueues, hgbt, hlodge⟩
    · exact u.ranOn_line r (congrArg (fun m : Mem => natOfBytes (m.readN r.key base 128)) hu.symm)
    · refine (u.ranOn_line_other r old ran hline hdgen).trans ?_
      rw [hu]
      exact s.publishLine_line_other r.core r.clk hline
  case found =>
    intro found kept
    have hk := Req.not_peer hkind
    have hroutine : s.runReq r = s.runRoutine r := by
      obtain hkind | ⟨b, hkind⟩ := hkind <;> simp [State.runReq, hkind]
    rw [hroutine]
    refine ⟨fun line seq hpoison => State.runRoutine_poisoned hpoison, fun hpoison => ⟨State.runRoutine_builtin hpoison,
      State.runRoutine_peer hpoison, fun hr hpeer => ?_⟩⟩
    rw [State.runRoutine_found hk hpoison hr hpeer]
    refine ⟨fun e he hargs => ?_, fun e he hargs => ?_, fun he => ?_, fun line seq he => ?_, fun c he => ?_, fun va he => ?_⟩
    · exact (congrArg (s.onFound r) he).trans (if_neg (not_not_intro hargs))
    · exact (congrArg (s.onFound r) he).trans (if_pos hargs)
    · exact congrArg (s.onFound r) he
    · exact congrArg (s.onFound r) he
    · exact congrArg (s.onFound r) he
    · exact congrArg (s.onFound r) he
  case lda =>
    intro x
    have hk : ∀ d, r.kind ≠ .peer d := fun d => by simp [hkind]
    have hread : s.runReq r = s.runRead r (memBytes width) := by simp [State.runReq, hkind]
    have hloaded : r.loaded = rangeBytes r.pa (memBytes width) := by simp [Req.loaded, hkind]
    rw [hread, State.runRead_eq hk hpoison, hloaded]
    refine ⟨rfl, ?_, fun i hi hforeign => ?_⟩
    · rw [s.fetchLines_rest]
    refine s.fetchLines_tags ((rangeBytes r.pa (memBytes width)).map fun a => (a, r.key)) (p := (r.pa + i, r.key)) ?_ hforeign
    exact List.mem_map.2 ⟨r.pa + i, List.mem_map.2 ⟨i, List.mem_range.2 hi, rfl⟩, rfl⟩
  case fetch =>
    intro t
    refine ⟨?_, fun p hp hforeign => s.fetchLines_tags ps hp hforeign⟩
    have hrest : t = s.cacheOf t := s.fetchLines_rest ps
    rw [hrest]
  case builtin =>
    intro op n old ran
    have hran := builtinRun_line ops (k := k) (ofs := ofs) (line := line) (op := op) (n := n) rfl rfl
    have hold : bitsOf line (8 * ofs) n = old := bitsOf_eq_div line (8 * ofs) n
    rw [hold] at hran
    rw [show ran = _ from hran, ← bitsOf_eq_div]
    exact ⟨rfl, rfl, bitsOf_putBits_mod .., fun i hi => testBit_putBits_other _ _ hi⟩
  case waitv =>
    refine ⟨fun hmon hwoken => ?_, fun hmon hpolls => ?_, fun hmon hpassed => ?_, fun w t p hw hwid htid hcode => ⟨fun hy => ?_,
      fun hy hfirst hwoken hclock => ?_⟩⟩
    · rw [exec_waitvWake]
      simp [execWaitvWake, hz, hmon, hreading, hwoken]
    · rw [exec_waitvPoll]
      simp [execWaitvPoll, hz, hmon, hreading, Nat.not_lt.2 hpolls]
    · rw [exec_waitvTimeout]
      simp [execWaitvTimeout, hz, hmon, hreading, Nat.not_lt.2 hpassed]
    · simp [State.waitvReply, hcode, hy, htid]
    · simp [State.waitvReply, hcode, hy, hfirst, hwoken, Nat.not_le.2 hclock, htid]

end

end

section

/-! SUPPORT and PROOF of the events of the coherent link and of the domain's peers (O50). -/

namespace Sys2Proof.Machine

variable {s : State}

/-! ## What a store over the link leaves unchanged (R174, R284) -/

/-- Generations and bytes that are written one after another change memory and what belongs to the last-level cache, and nothing else. -/
theorem foldl_memory_rest {α : Type} {f : State → α → State} (hf : ∀ s a, ∃ m t, f s a = { s.cacheOf t with mem := m }) (l : List α) (s : State) :
    ∃ m t, l.foldl f s = { s.cacheOf t with mem := m } := by
  induction l generalizing s with
  | nil => exact ⟨s.mem, s, rfl⟩
  | cons a l ih =>
    obtain ⟨m, t, hfirst⟩ := hf s a
    obtain ⟨m', t', hrest⟩ := ih (f s a)
    refine ⟨m', t', hrest.trans ?_⟩
    rw [hfirst]

theorem State.writeM_memory (s : State) (ctx key : Nat) (cs : List Host.Cell) : ∃ m t, s.writeM ctx key cs = { s.cacheOf t with mem := m } := by
  obtain ⟨t, hwrite⟩ := s.writeM_rest ctx key cs
  exact ⟨_, t, hwrite⟩

theorem State.setDgen_memory (s : State) (ctx : Nat) (t : Trans) : ∃ m u, s.setDgen ctx t = { s.cacheOf u with mem := m } := by
  obtain ⟨m, hdgen⟩ := s.setDgen_eq ctx t
  exact ⟨m, s, hdgen⟩

/-- A change of memory and of what belongs to the last-level cache is undone by giving these back. -/
theorem State.restored_of_memory {t : State} (h : ∃ m u, t = { s.cacheOf u with mem := m }) :
    ({ t with mem := s.mem, tags := s.tags, ways := s.ways, struckWays := s.struckWays, evictFirst := s.evictFirst, free := s.free } : State) = s := by
  obtain ⟨m, u, ht⟩ := h
  rw [ht]

/-! ## A silent peer (R287) -/

/-- A state with the domain table and the slices' queues of another, none of whose windows holds a request to a peer. -/
def State.Quiet (s : State) (d : Nat) (t : State) : Prop :=
  t.domain = s.domain ∧ t.slices = s.slices ∧ ∀ l ∈ t.launches, ∀ r ∈ l.window, atPeer d r.pa = false

/-- The trap of a lost access marks its launch as ending and leaves every window as it was. -/
theorem State.Quiet.lostAccess {d : Nat} {t : State} (h : s.Quiet d t) (wid tid pc va seq : Nat) : s.Quiet d (t.lostAccess wid tid pc va seq) := by
  obtain ⟨hdomain, hslices, hwindow⟩ := h
  have hraised : ∀ lid core rank sub recs, s.Quiet d (t.raise lid core rank sub recs) := fun lid core rank sub recs => by
    refine ⟨hdomain, hslices, fun l hl => ?_⟩
    obtain ⟨l', hl', rfl⟩ := List.mem_map.1 hl
    have hsame := hwindow l' hl'
    split
    · dsimp only
      split
      · exact hsame
      · exact hsame
    · exact hsame
  unfold State.lostAccess
  split
  · exact ⟨hdomain, hslices, hwindow⟩
  · split
    · exact ⟨hdomain, hslices, hwindow⟩
    · exact hraised ..

theorem State.Quiet.foldl_lostAccess {d : Nat} {t : State} (h : s.Quiet d t) (lost : List (Nat × Nat × Nat × Nat)) (seq : Nat) :
    s.Quiet d (lost.foldl (fun s e => s.lostAccess e.1 e.2.1 e.2.2.1 e.2.2.2 seq) t) :=
  List.foldlRecOn (motive := fun t : State => s.Quiet d t) lost _ h fun _ ht _ _ => ht.lostAccess ..

/-! ## A peer's routine (R286) -/

/-- The request that an atomic or a built-in routine of a peer sends to the home slice. -/
def peerReq (device key pa r : Nat) (operands : List DWord) : Req :=
  { kind := .peer device, lid := 0, wid := 0, tid := 0, core := 0, ctx := Config.peerTag device key pa % 512, key := key, va := 0, pa := pa,
    r := r, opnds := operands, d := .none, pc := 0, ordinal := 0, phc := 0, detn := 0, det := false, wgid := 0, clk := [], lvl := 3, ea := 0,
    base := 0 }

/-! ## UP of a domain table entry (R285) -/

/-- UP of an entry, which is its bit 2. -/
def withUp (x : DWord) (up : Bool) : DWord := BitVec.ofNat 64 (putBits x.toNat 2 1 (bit1 up))

theorem withUp_up (x : DWord) (up : Bool) : (withUp x up).getLsbD 2 = up := by
  have hfield := testBit_putBits_field x.toNat (bit1 up) (lo := 2) (w := 1) Nat.one_pos
  rw [Nat.add_zero] at hfield
  rw [withUp, BitVec.getLsbD_ofNat, hfield]
  cases up <;> rfl

theorem withUp_other (x : DWord) (up : Bool) {i : Nat} (hi : i ≠ 2) : (withUp x up).getLsbD i = x.getLsbD i := by
  rw [withUp, BitVec.getLsbD_ofNat, testBit_putBits_other _ _ (by omega), BitVec.testBit_toNat]
  by_cases hin : i < 64
  · simp [hin]
  · simp [BitVec.getLsbD_of_ge x i (Nat.not_lt.1 hin)]

theorem State.setUp_up (s : State) (d : Nat) (up : Bool) : ((s.setUp d up).domain.get 0 d).getLsbD 2 = up := by
  refine (congrArg (fun x : DWord => x.getLsbD 2) (SMap.get_put_same ..)).trans (withUp_up _ up)

/-- The record of a peer's silence leaves the domain table, the slices and the launches as they are. -/
theorem State.ras_quiet (s : State) (r : Ras) : (s.ras r).domain = s.domain ∧ (s.ras r).slices = s.slices ∧ (s.ras r).launches = s.launches := by
  obtain ⟨_, _, _, hras⟩ := s.ras_eq r
  rw [hras]
  exact ⟨rfl, rfl, rfl⟩

end Sys2Proof.Machine

section

open Sys2Proof Sys2Proof.Machine

/-- Settles O50: what the link and a peer write changes memory and the last-level cache only, and the trap of a lost access leaves the
windows, the queues and the domain table to the time-out. -/
theorem linkEvents : Obligations.LinkEvents := by
  unfold Obligations.LinkEvents
  refine ⟨fun s ctx va bytes hsome hlen => ?store, fun s ctx va n hsome hlen => ?load, fun s device key pa hlocal htier => ?peer,
    fun s acc hfails => ?remote, fun s d hup => ?timeout, fun s d hd => ?answers, fun s port hport => ?port⟩
  case store =>
    rw [exec_companionStore]
    unfold execCompanionStore
    refine ⟨fun c hfault => ?_, fun ts hok => ?_⟩
    · simp [hfault, hsome, Nat.not_lt.2 hlen]
    · intro m
      obtain ⟨m1, t1, hdgen⟩ := foldl_memory_rest (fun s t => State.setDgen_memory s ctx t) ts s
      obtain ⟨m2, t2, hwrite⟩ := foldl_memory_rest (fun s (p : (Nat × Nat) × Byte) => State.writeM_memory s ctx p.1.2 [(p.1.1, p.2)])
        ((placeBytes va bytes.length ts).zip bytes) (ts.foldl (fun s t => s.setDgen ctx t) s)
      refine ⟨by simp [hok, hsome, Nat.not_lt.2 hlen, m], State.restored_of_memory ⟨m2, t2, hwrite.trans ?_⟩⟩
      rw [hdgen]
  case load =>
    rw [exec_companionLoad]
    unfold execCompanionLoad
    refine ⟨fun c hfault => ?_, fun ts hok hclean => ?_⟩
    · simp [hfault, Nat.pos_iff_ne_zero.1 hsome, Nat.not_lt.2 hlen]
    · have hnone : (placeBytes va n ts).findSome? (fun p => s.poisoned p.1 1) = none :=
        List.findSome?_eq_none_iff.2 fun p hp => Option.isNone_iff_eq_none.1 (List.all_eq_true.1 hclean p hp)
      simp [hok, hnone, Nat.pos_iff_ne_zero.1 hsome, Nat.not_lt.2 hlen]
  case peer =>
    refine ⟨fun n hclean => ?_, fun bytes => ⟨?_, State.writeM_mem .., State.restored_of_memory (State.writeM_memory ..)⟩,
      fun r operands => ⟨peerReq device key pa r operands, ?_, rfl, rfl, rfl, rfl, rfl⟩⟩
    · have hbytes : (rangeBytes pa n).map (fun a => (a, key)) = (List.range n).map (fun i => (pa + i, key)) := List.map_map
      rw [exec_peerAccess, ← hbytes]
      simp only [execPeerAccess, hlocal, htier, hclean, Bool.and_self, Bool.not_true, Bool.false_eq_true, if_false]
    · rw [exec_peerAccess]
      simp [execPeerAccess, hlocal, htier]
    · rw [exec_peerAccess]
      simp only [execPeerAccess, hlocal, htier, Bool.and_self, Bool.not_true, Bool.false_eq_true, if_false, peerReq]
  case remote =>
    rw [exec_peerAccess]
    unfold execPeerAccess
    dsimp only
    rw [hfails]
    rfl
  case timeout =>
    intro lost m t
    obtain ⟨hdomain, hslices, hlaunches⟩ := (s.setUp d false).ras_quiet (rasOf (Config.unstated 20) 10 (Config.rasLoc 10 d 1)
      (Config.rasLoc 10 d 2) 0 none (!lost.isEmpty) false false)
    obtain ⟨hdomain', hslices', hwindow⟩ := State.Quiet.foldl_lostAccess (d := d) (s := { m with slices := m.slices.put [] (1000 + d) [] })
      (t := { m with
        slices := m.slices.put [] (1000 + d) []
        launches := m.launches.map (fun (l : Launch) => { l with window := l.window.filter (fun r => !atPeer d r.pa) }) })
      ⟨rfl, rfl, fun l hl r hr => by
        obtain ⟨l', -, rfl⟩ := List.mem_map.1 hl
        simpa using (List.mem_filter.1 hr).2⟩ lost m.rasSeq
    refine ⟨?_, ?_, ?_, hwindow⟩
    · rw [exec_peerTimeout]
      unfold execPeerTimeout
      rw [hup]
      rfl
    · rw [show t.domain = m.domain from hdomain', show m.domain = _ from hdomain]
      exact s.setUp_up d false
    · rw [show t.slices = m.slices.put [] (1000 + d) [] from hslices']
      exact SMap.get_put_same ..
  case answers =>
    refine ⟨?_, withUp_up _ true, fun i hi => withUp_other _ true hi⟩
    rw [exec_peerAnswers]
    exact congrArg _ (if_neg (Nat.not_le.2 hd))
  case port =>
    refine ⟨?_, fun p => mem_insertSet_iff⟩
    rw [exec_peerPortFailure]
    exact congrArg _ (if_neg (Nat.not_le.2 hport))

end

end

section

/-! SUPPORT and PROOF of the commands of the lodge (O53). -/

namespace Sys2Proof.Machine

variable {s : State} {agent : Nat} {b : MailBlock}

/-- An accepted lodge command whose run ends well answers status 0 with what the run leaves. -/
theorem answers_of_run {i : Instr} {op n v : Nat} {run : Cmd → State → Answer} {t : State}
    (hexec : exec i s = .next (s.lodgeCmd op n agent b run)) (hok : LodgeOk s agent b op n)
    (hrun : run (cmdOf agent b) (s.received agent b) = .ok (t, v)) : Answers s i op 0 v t := by
  obtain ⟨⟨hready, hbusy, hop⟩, hrsv, hargs⟩ := hok
  have hzero : ((cmdOf agent b).args.drop n).any (· != 0) = false := by
    refine List.any_eq_false.2 fun x hx => ?_
    have hx0 := List.all_eq_true.1 hargs x hx
    simpa using hx0
  have hcommand : s.lodgeCmd op n agent b run = t.respond op 0 v := by
    unfold State.lodgeCmd State.command
    have hup : s.up = true := hready
    have hfree : (s.lodge.busy && !(s.lodge.agent = agent && s.lodge.cmd = blockWords b)) = false := by simp [hbusy]
    have hreceived : run (cmdOf agent b) { s with lodge := { s.lodge with cmd := blockWords b, agent := agent } } = .ok (t, v) := hrun
    simp only [hup, hfree, hop, hrsv, hzero, hreceived, Bool.not_true, Bool.false_or, Bool.false_and, Bool.false_eq_true, if_false, ne_eq,
      not_true_eq_false, decide_false]
  exact hexec.trans (congrArg _ hcommand)

/-! ## The checks of the commands -/

theorem keyId_checks {k : Nat} (hfirst : 1 ≤ k) (hlast : k < 1024) : (decide (k = 0) || decide (1024 ≤ k)) = false := by
  rw [Bool.or_eq_false_iff]
  exact ⟨decide_eq_false (by omega), decide_eq_false (by omega)⟩

theorem unit_checks {k : UnitKind} {n num : Nat} {v : Service} (hnum : num < n) (hmove : moveOk (s.service k num) v = true)
    (hpartner : v = .draining → s.partnerOk k num = true) :
    (decide (n ≤ num) || !moveOk (s.service k num) v || (decide (v = .draining) && !s.partnerOk k num)) = false := by
  rw [decide_eq_false (Nat.not_le.2 hnum), hmove]
  by_cases hdrains : v = .draining
  · rw [hpartner hdrains, Bool.not_true, Bool.and_false]
    rfl
  · rw [decide_eq_false hdrains]
    rfl

theorem power_checks {p : Nat} {v : Power} (hnum : p < 16) (hmove : s.powerOk p v = true) :
    (decide (16 ≤ p) || !s.powerOk p v) = false := by
  rw [decide_eq_false (Nat.not_le.2 hnum), hmove]
  rfl

/-! ## What the commands leave -/

/-- No slice keeps an entry that is named. -/
theorem State.uncache_gone (s : State) (drop : CachedEntry → Bool) : ∀ r ∈ (s.uncache drop).rcache, ∀ e ∈ r.2, drop e = false := by
  intro r hr e he
  obtain ⟨r', -, rfl⟩ := List.mem_map.1 (List.mem_filter.1 hr).1
  simpa using (List.mem_filter.1 he).2

/-- A domain table entry as DOMAIN leaves it: its low two bits from the command and its UP from before (R285). -/
def domainEntry (x : DWord) (v : Nat) : DWord := BitVec.ofNat 64 (v % 4 + 4 * bitsOf x.toNat 2 1)

theorem domainEntry_toNat (x : DWord) (v : Nat) : (domainEntry x v).toNat = v % 4 + 4 * bitsOf x.toNat 2 1 := by
  have hup := bitsOf_lt x.toNat 2 1
  rw [domainEntry, BitVec.toNat_ofNat, Nat.mod_eq_of_lt (by omega)]

theorem domainEntry_up (x : DWord) (v : Nat) : (domainEntry x v).getLsbD 2 = x.getLsbD 2 := by
  have hup := bitsOf_lt x.toNat 2 1
  have hbit : (bitsOf x.toNat 2 1).testBit 0 = x.toNat.testBit 2 := testBit_bitsOf ..
  rw [← BitVec.testBit_toNat, ← BitVec.testBit_toNat, domainEntry_toNat, ← hbit, Nat.testBit_eq_decide_div_mod_eq,
    Nat.testBit_eq_decide_div_mod_eq]
  exact decide_eq_decide.2 (by omega)

/-- The admitted pairs after ADMIT. -/
def admitted (es : List (Nat × Nat)) (e : Nat × Nat) (on : Nat) : List (Nat × Nat) :=
  if on = 0 then es.filter (fun x => x != e) else if es.contains e then es else es ++ [e]

theorem mem_admitted {es : List (Nat × Nat)} {e x : Nat × Nat} {on : Nat} (hon : on < 2) :
    x ∈ admitted es e on ↔ if x = e then on = 1 else x ∈ es := by
  unfold admitted
  by_cases hx : x = e
  · by_cases h0 : on = 0
    · simp [hx, h0]
    · have h1 : on = 1 := by omega
      by_cases he : e ∈ es <;> simp [hx, h1, he]
  · by_cases h0 : on = 0
    · simp [hx, h0]
    · by_cases he : e ∈ es <;> simp [hx, h0, he]

theorem admitted_run (t : State) (e : Nat × Nat) (on : Nat) :
    (if on = 0 then okay { t with admitted := t.admitted.filter (fun x => x != e) }
      else if t.admitted.contains e then okay t else okay { t with admitted := t.admitted ++ [e] })
      = .ok ({ t with admitted := admitted t.admitted e on }, 0) := by
  unfold admitted
  by_cases h0 : on = 0
  · rw [if_pos h0, if_pos h0]
    rfl
  · rw [if_neg h0, if_neg h0]
    by_cases hin : t.admitted.contains e = true
    · rw [if_pos hin, if_pos hin]
      rfl
    · rw [if_neg hin, if_neg hin]
      rfl

end Sys2Proof.Machine

section

open Sys2Proof Sys2Proof.Machine

/-- Settles O53: the checks that a command makes hold of what the statement asks of it, so its run ends well and `answers_of_run` gives the
answer. -/
theorem lodgeCommands : Obligations.LodgeCommands := by
  unfold Obligations.LodgeCommands
  refine ⟨fun s agent b => ?_, fun s agent b => ?_⟩
  · intro c m ring
    refine ⟨fun hok hroot hrtab hpart hlim hfree => ⟨?gone, answers_of_run (exec_ctxdef s) hok ?ctxdef⟩,
      fun hok hring hdefined => answers_of_run (exec_errring s) hok ?errring, fun hok hring => answers_of_run (exec_rasring s) hok ?rasring,
      fun hok hring hdefined hright => answers_of_run (exec_grant s) hok ?grant, fun hok => answers_of_run (exec_revoke s) hok rfl,
      fun hok hfirst hlast hkeys x hwrap => answers_of_run (exec_keyload s) hok ?keyload,
      fun hok hfirst hlast hunused => answers_of_run (exec_keyclear s) hok ?keyclear,
      fun hok hnonce hreport => answers_of_run (exec_attest s) hok ?attest, fun hok hplace himage => answers_of_run (exec_fwstage s) hok ?fwstage,
      fun hok hbank => answers_of_run (exec_fwswitch s) hok ?fwswitch⟩
    case gone =>
      intro r hr e he
      simpa using m.uncache_gone _ r hr e he
    case ctxdef =>
      have hbounds : (decide (2 ^ 32 ≤ c.arg 1) || decide (c.arg 2 % 2 ^ 13 ≠ 0) || decide (16 ≤ c.arg 4) || decide (2 ^ 32 ≤ c.arg 5)) = false := by
        simp only [Nat.not_le.2 hroot, hrtab, Nat.not_le.2 hpart, Nat.not_le.2 hlim, ne_eq, not_true_eq_false, decide_false, Bool.or_self]
      have hnone : m.launches.any (fun l => l.ctx == c.ctx && l.slot.isSome) = false :=
        List.any_eq_false.2 fun l hl => by
          by_cases hctx : l.ctx = c.ctx
          · simp [hfree l hl hctx]
          · simp [hctx]
      exact (if_neg (ne_true_of_eq_false hbounds)).trans (if_neg (ne_true_of_eq_false hnone))
    case errring =>
      have hchecks : (!ringOk (c.arg 1) (c.arg 2) (c.arg 3) || !(s.ctx c.ctx).defined) = false := by rw [hring, hdefined]; rfl
      exact if_neg (ne_true_of_eq_false hchecks)
    case rasring =>
      exact if_neg (by simpa using hring)
    case grant =>
      have hchecks : (!ringOk (c.arg 1) 0 (c.arg 2) || !(s.ctx c.ctx).defined) = false := by rw [hring, hdefined]; rfl
      have hnone : ((s.received agent b).ctx (cmdOf agent b).ctx).dbg.holder = none := hright
      refine (if_neg (ne_true_of_eq_false hchecks)).trans ?_
      rw [hnone]
      rfl
    case keyload =>
      have hkey : unwrapKeys ((cmdOf agent b).arg 1) ((s.received agent b).mem.readN 0 ((cmdOf agent b).arg 2) 1160) = some x := hwrap
      refine (if_neg (ne_true_of_eq_false (keyId_checks hfirst hlast))).trans ((if_neg (ne_true_of_eq_false hkeys)).trans ?_)
      rw [hkey]
      rfl
    case keyclear =>
      have hnone : m.ctxs.any (fun e => e.2.kset.getLsbD (c.arg 1)) = false :=
        List.any_eq_false.2 fun e he => ne_true_of_eq_false (hunused e he)
      exact (if_neg (ne_true_of_eq_false (keyId_checks hfirst hlast))).trans (if_neg (ne_true_of_eq_false hnone))
    case attest =>
      have hchecks : (!placeOk (c.arg 1) 32 || !placeOk (c.arg 2) 2585) = false := by rw [hnonce, hreport]; rfl
      exact if_neg (ne_true_of_eq_false hchecks)
    case fwstage =>
      have hheld : (!placeOk (c.arg 1) (c.arg 2)) = false := congrArg not hplace
      have hgenuine : (!s.imageAccepted (s.mem.readN 0 (c.arg 1) (c.arg 2))) = false := congrArg not himage
      exact (if_neg (ne_true_of_eq_false hheld)).trans (if_neg (ne_true_of_eq_false hgenuine))
    case fwswitch =>
      have hgood : (!s.fw.ok (!s.lodge.bank)) = false := congrArg not hbank
      exact if_neg (ne_true_of_eq_false hgood)
  · intro c m
    refine ⟨fun hok k n v hkind hservice hnum hmove => ⟨fun hother => answers_of_run (exec_unit s) hok ?unit,
      fun hdrains hpartner => answers_of_run (exec_unit s) hok ?drain⟩,
      fun hok hnum => ⟨domainEntry (s.domain.get 0 (c.arg 1)) (c.arg 2), answers_of_run (exec_domain s) hok ?domain, ?_, domainEntry_up .., ?_⟩,
      fun hok hnum hmodule hon => ⟨admitted s.admitted (c.arg 1, c.arg 2) (c.arg 3), answers_of_run (exec_admit s) hok ?peers,
        fun e => mem_admitted hon⟩,
      fun hok v hpower hnum hmove => ⟨fun hon => answers_of_run (exec_power s) hok ?power, fun hoff => answers_of_run (exec_power s) hok ?off⟩⟩
    case unit =>
      have hkind' : unitKindOf ((cmdOf agent b).arg 1) = some (k, n) := hkind
      have hservice' : serviceOf ((cmdOf agent b).arg 3) = some v := hservice
      dsimp only
      rw [hkind', hservice']
      refine (if_neg (ne_true_of_eq_false (unit_checks hnum hmove fun hdrains => absurd hdrains hother))).trans ?_
      rw [if_neg hother]
      rfl
    case drain =>
      have hkind' : unitKindOf ((cmdOf agent b).arg 1) = some (k, n) := hkind
      have hservice' : serviceOf ((cmdOf agent b).arg 3) = some v := hservice
      dsimp only
      rw [hkind', hservice']
      refine (if_neg (ne_true_of_eq_false (unit_checks hnum hmove fun _ => hpartner))).trans ?_
      rw [if_pos hdrains, hdrains]
      rfl
    case domain => exact if_neg (Nat.not_le.2 hnum)
    case peers =>
      have hbounds : (decide (256 ≤ c.arg 1) || decide (1024 ≤ c.arg 2) || decide (2 ≤ c.arg 3)) = false := by
        simp only [Nat.not_le.2 hnum, Nat.not_le.2 hmodule, Nat.not_le.2 hon, decide_false, Bool.or_self]
      refine (if_neg (ne_true_of_eq_false hbounds)).trans ?_
      exact admitted_run m ..
    case power =>
      have hpower' : powerOf ((cmdOf agent b).arg 2) = some v := hpower
      dsimp only
      rw [hpower']
      exact (if_neg (ne_true_of_eq_false (power_checks hnum hmove))).trans (if_neg hon)
    case off =>
      have hpower' : powerOf ((cmdOf agent b).arg 2) = some v := hpower
      dsimp only
      rw [hpower']
      exact (if_neg (ne_true_of_eq_false (power_checks hnum hmove))).trans (if_pos hoff)
    · have hup := bitsOf_lt (s.domain.get 0 (c.arg 1)).toNat 2 1
      rw [domainEntry_toNat]
      omega
    · have hup := bitsOf_lt (s.domain.get 0 (c.arg 1)).toNat 2 1
      rw [domainEntry_toNat]
      omega

end

end

/-! SUPPORT and PROOF of the slice reads (O27): requests that come to their slices after the end of a word, and the return slots that they
take. -/

namespace Sys2Proof.Machine

/-! ## Requests after the end of a word (R74, R371) -/

section

variable {m t : State} {x : Path} {hold : Bool} {pc : Lane → Nat} {g : Lane → Thread} {w' : WG}

/-- A request that comes to its slice leaves what a word keeps. -/
theorem Keeps.toSlice (h : Keeps m t x) (r : Req) : Keeps (m.toSlice r) (t.toSlice r) x :=
  ⟨congrArg (State.toSlice · r) h.rest, h.others, h.cores⟩

theorem Keeps.toSlices (h : Keeps m t x) (rs : List Req) : Keeps (rs.foldl State.toSlice m) (rs.foldl State.toSlice t) x := by
  induction rs generalizing m t with
  | nil => exact h
  | cons r rs ih => exact ih (h.toSlice r)

theorem State.toSlices_wg? (s : State) (rs : List Req) (j : Nat) : (rs.foldl State.toSlice s).wg? j = s.wg? j := by
  induction rs generalizing s with
  | nil => rfl
  | cons r rs ih => exact ih (s.toSlice r)

theorem Acts.toSlices (h : Acts t x hold pc g w') (rs : List Req) : Acts (rs.foldl State.toSlice t) x hold pc g w' := by
  obtain ⟨v, hv, hrest⟩ := h
  exact ⟨v, (t.toSlices_wg? rs _).trans hv, hrest⟩

/-- Requests that take no place in the reorder window leave their core for their slices (R213). -/
theorem State.dispatchReqs_eq (s : State) {rs : List Req} (hrs : ∀ r ∈ rs, r.det = false) :
    rs.foldl State.dispatchReq s = rs.foldl State.toSlice s :=
  List.foldl_ext _ _ s fun _ r hr => if_neg (ne_true_of_eq_false (hrs r hr))

/-- A word that ends and then sends such requests sends them beside its end. -/
theorem Does.of_requests {s : State} {i : Instr} {rs : List Req} (hexec : exec i s = .next (rs.foldl State.dispatchReq t))
    (hrs : ∀ r ∈ rs, r.det = false) (hend : Keeps s t x ∧ Acts t x hold pc g w') : Does s i x hold pc g (rs.foldl State.toSlice s) w' :=
  ⟨_, hexec.trans (congrArg _ (t.dispatchReqs_eq hrs)), hend.1.toSlices rs, hend.2.toSlices rs⟩

/-- A change of the path's workgroup leaves what a word keeps. -/
theorem Keeps.modWG (h : Keeps m t x) {f : WG → WG} (hf : ∀ w, (f w).wid = w.wid) : Keeps m (t.modWG x.w.wid f) x :=
  ⟨h.rest, fun wid hne => (State.wg?_modWG_other t f hf hne).trans (h.others wid hne), fun k => by rw [State.core_modWG]; exact h.cores k⟩

end

/-! ## Return slots (R204) -/

/-- The threads of the lanes that execute a word take its return slot. -/
def Path.takeSlot (x : Path) (hd : Head) (slot : SlotHold) (tid : Nat) (t : Thread) : Thread :=
  if x.executing hd tid then { t with slot := some slot } else t

theorem Path.executing_lane {x : Path} {ln : Lane} (hd : Head) (hln : x.laneOf ln.tid = some ln) :
    x.executing hd ln.tid = ln.t.executes hd := by
  rw [Path.executing, hln, Option.any_some]

theorem Path.executing_none {x : Path} {tid : Nat} (hd : Head) (hnone : x.laneOf tid = none) : x.executing hd tid = false := by
  rw [Path.executing, hnone, Option.any_none]

/-- A thread that has moved past a word, and takes a return slot. -/
theorem Moved.slot {hold : Bool} {pc : Nat} {a b : Thread} (h : Moved hold pc a b) (slot : SlotHold) :
    Moved hold pc { a with slot := some slot } { b with slot := some slot } :=
  ⟨h.stands, h.age, h.count, h.kept, congrArg (fun t : Thread => ({ t with slot := some slot } : Thread)) h.rest⟩

/-- Return slots that are taken after the end of a word. -/
theorem Acts.takeSlots {t : State} {x : Path} {hold : Bool} {pc : Lane → Nat} {g : Lane → Thread} {w' : WG} (h : Acts t x hold pc g w')
    (hd : Head) (slot : SlotHold) :
    Acts (t.modWG x.w.wid (fun v => v.modThreads (x.takeSlot hd slot))) x hold pc (fun ln => x.takeSlot hd slot ln.tid (g ln)) w' := by
  obtain ⟨v, hv, hrest, hother, hlanes⟩ := h
  refine ⟨_, State.wg?_modWG_same t _ (fun v => v.modThreads (x.takeSlot hd slot)) (fun _ => rfl) hv, hrest, fun tid hnone => ?_,
    fun tid ln hln => ?_⟩
  · have hstays : x.takeSlot hd slot tid = id := funext fun a => if_neg (ne_true_of_eq_false (Path.executing_none hd hnone))
    rw [WG.threads_modThreads, hstays, Option.map_id_fun, id, hother tid hnone]
  · obtain ⟨b, hb, hmoved⟩ := hlanes tid ln hln
    obtain rfl : ln.tid = tid := by simpa using List.find?_some hln
    refine ⟨_, (WG.threads_modThreads ..).trans (congrArg _ hb), ?_⟩
    unfold Path.takeSlot
    dsimp only
    split
    · exact hmoved.slot slot
    · exact hmoved

/-- What a word has collected of its executing lanes, one by one, is of those lanes' threads. -/
theorem Path.exec_map_any {s : State} {x : Path} (hx : s.path = some x) (hd : Head) {α : Type} {f : Lane → α} {tidOf : α → Nat}
    (hf : ∀ ln, tidOf (f ln) = ln.tid) (tid : Nat) : ((x.exec hd).map f).any (fun a => tidOf a == tid) = x.executing hd tid := by
  rw [List.any_map, ← Path.exec_any hx]
  exact congrArg _ (funext fun ln => congrArg (· == tid) (hf ln))

/-! ## LDA (R371) -/

/-- The request of a lane of an LDA. -/
def Path.ldaOf (x : Path) (w : MWord) (tr : Trans) (ln : Lane) : Req :=
  x.request (.lda w.width.toNat w.sx (isS w.d)) 0 [] w.d (x.memAddr w ln) tr false ln

/-- The group of an s destination gathers the lanes that the word has collected (R374). -/
theorem Path.gathering_eq {x : Path} {w : MWord} (hne : x.exec w.hd ≠ []) (ts : Lane → List Trans) :
    (fun v : WG => if isS w.d && !((x.exec w.hd).map (fun ln => (ln, ts ln))).isEmpty then
      v.modGroup x.g.gid (fun g => { g with gathers := g.gathers
        ++ [⟨x.cur.pc, w.d, ((x.exec w.hd).map (fun ln => (ln, ts ln))).map (fun a => a.1.tid), []⟩] }) else v) = x.gathering w := by
  funext v
  simp [Path.gathering, hne, Function.comp_def]

/-- An LDA whose lanes all pass and meet no watchpoint. -/
theorem State.lda_does {s : State} {nfo : Info} {x : Path} {w : MWord} {tr : Lane → Trans} (hi : Issues s (.lda w) nfo x {})
    (hpass : ∀ ln ∈ x.exec w.hd,
      s.access x.ctx (x.memAddr w ln) (memBytes w.width.toNat) (globalAlign w.width.toNat) true false false = .ok [tr ln])
    (hwatch : s.watched x false true false (fun ln => rangeBytes (x.memAddr w ln) (memBytes w.width.toNat)) (x.exec w.hd) = []) :
    Does s (.lda w) x w.hd.hold (fun _ => x.next)
      (fun ln => if ln.t.executes w.hd then { ln.t with slot := some ⟨w.d, memRegs w.width.toNat, true⟩ } else ln.t)
      (((x.exec w.hd).map (fun ln => x.ldaOf w (tr ln) ln)).foldl State.toSlice s) (x.gathering w x.w) := by
  have hhead : nfo.head = w.hd := by cases hi.word; rfl
  have hne : x.exec w.hd ≠ [] := hhead ▸ hi.runs
  have hslots : (fun (ln : Lane) (t : Thread) => if ((x.exec w.hd).map (fun ln => x.ldaOf w (tr ln) ln)).any (fun r => r.tid == ln.tid)
      then ({ t with slot := some ⟨w.d, memRegs w.width.toNat, true⟩ } : Thread) else t)
      = fun ln => x.takeSlot w.hd ⟨w.d, memRegs w.width.toNat, true⟩ ln.tid := by
    funext ln t
    rw [Path.exec_map_any hi.path w.hd (tidOf := Req.tid) (fun _ => rfl), Path.takeSlot]
  obtain ⟨hkeeps, hacts⟩ := Path.finish_acts hi.path (State.path_parts hi.path).2.1 w.hd.hold (fun _ => x.next)
    (fun ln => x.takeSlot w.hd ⟨w.d, memRegs w.width.toNat, true⟩ ln.tid) (x.gathering w) (x.gathering_wid w) (x.gathering_over_threads w)
  refine Does.of_requests ((exec_lda s).trans ((State.word_next hi _).trans (congrArg _ ?_)))
    (List.forall_mem_map.2 fun _ _ => rfl) ⟨hkeeps, hacts.congr fun ln hln => ?_⟩
  · refine (State.globalWord_acts (tr := fun ln => [tr ln]) _ hpass hwatch).trans ?_
    dsimp only
    rw [Path.gathering_eq hne, List.map_map, ← hslots]
    rfl
  · rw [Path.takeSlot, Path.executing_lane w.hd hln]

/-! ## WAKE (R230, R428) -/

/-- The request of a lane of a WAKE. -/
def Path.wakeOf (x : Path) (w : FWord) (tr : Trans) (ln : Lane) : Req := x.request .wake 0 [] .none (x.pair ln w.a) tr false ln

/-- A WAKE whose lanes all pass. -/
theorem State.wake_does {s : State} {nfo : Info} {x : Path} {w : FWord} {tr : Lane → Trans} (hi : Issues s (.wake w) nfo x {})
    (hpass : ∀ ln ∈ x.exec w.hd, s.access x.ctx (x.pair ln w.a) 1 1 true false false = .ok [tr ln]) :
    Does s (.wake w) x w.hd.hold (fun _ => x.next)
      (fun ln => if ln.t.executes w.hd then { ln.t with slot := some ⟨.none, 0, false⟩ } else ln.t)
      (((x.exec w.hd).map (fun ln => x.wakeOf w (tr ln) ln)).foldl State.toSlice s) x.w := by
  have hslots : (fun (ln : Lane) (t : Thread) => if ((x.exec w.hd).map (fun ln => (ln, [tr ln]))).any (fun a => a.1.tid == ln.tid)
      then ({ t with slot := some ⟨.none, 0, false⟩ } : Thread) else t) = fun ln => x.takeSlot w.hd ⟨.none, 0, false⟩ ln.tid := by
    funext ln t
    rw [Path.exec_map_any hi.path w.hd (tidOf := fun a : Lane × List Trans => a.1.tid) (fun _ => rfl), Path.takeSlot]
  obtain ⟨hkeeps, hacts⟩ := Path.finish_acts hi.path (State.path_parts hi.path).2.1 w.hd.hold (fun _ => x.next)
    (fun ln => x.takeSlot w.hd ⟨.none, 0, false⟩ ln.tid) id (fun _ => rfl) (fun _ _ => ⟨rfl, rfl⟩)
  refine Does.of_requests ((exec_wake s).trans ((State.word_next hi _).trans (congrArg _ ?_)))
    (List.forall_mem_map.2 fun _ _ => rfl) ⟨hkeeps, hacts.congr fun ln hln => ?_⟩
  · rw [State.globalCheck_ok (tr := fun ln => [tr ln]) hpass]
    dsimp only
    rw [hslots, List.map_map]
    rfl
  · rw [Path.takeSlot, Path.executing_lane w.hd hln]

/-! ## WAITV (R229, R427) -/

/-- The request of a lane of a WAITV, and the wait in which it blocks. -/
def Path.waitvOf (x : Path) (w : FWord) (tr : Trans) (ln : Lane) : Req := x.request (.waitv (is64 w.ty)) 0 [] w.d (x.pair ln w.a) tr false ln

def Path.waitvWait (x : Path) (s : State) (w : FWord) (tr : Trans) (ln : Lane) : WaitV :=
  { va := x.pair ln w.a, pa := tr.pa, key := tr.key, w64 := is64 w.ty, cmp := BitVec.ofNat 64 (x.read ln w.ty w.b), d := w.d,
    start := s.ck, since := s.ck, interval := 0, mon := false, woken := false, reading := true, last := 0 }

/-- Of lanes with threads of their own, each is found by its thread. -/
theorem find?_lane {ls : List Lane} (hnodup : (ls.map (fun ln => ln.tid)).Nodup) {ln : Lane} (hln : ln ∈ ls) :
    ls.find? (fun e => e.tid == ln.tid) = some ln := by
  cases hfind : ls.find? (fun e => e.tid == ln.tid) with
  | none => exact absurd (beq_self_eq_true ln.tid) (List.find?_eq_none.1 hfind ln hln)
  | some e =>
    exact congrArg some (List.inj_on_of_nodup_map hnodup (List.mem_of_find?_eq_some hfind) hln (by simpa using List.find?_some hfind))

/-- The translation of a lane's access among those that a word has collected. -/
def collectedTrans (acc : List (Lane × List Trans)) (ln : Lane) : Trans :=
  oneTrans (((acc.find? (fun a => a.1.tid == ln.tid)).map (fun a => a.2)).getD [])

theorem collectedTrans_eq {ls : List Lane} (hnodup : (ls.map (fun ln => ln.tid)).Nodup) (tr : Lane → Trans) {ln : Lane} (hln : ln ∈ ls) :
    collectedTrans (ls.map (fun ln => (ln, [tr ln]))) ln = tr ln := by
  have hfind : ls.find? ((fun a : Lane × List Trans => a.1.tid == ln.tid) ∘ fun ln => (ln, [tr ln])) = some ln := find?_lane hnodup hln
  rw [collectedTrans, List.find?_map, hfind]
  rfl

/-- A WAITV whose lanes all pass and meet no watchpoint. -/
theorem State.waitv_does {s : State} {nfo : Info} {x : Path} {w : FWord} {tr : Lane → Trans} (hi : Issues s (.waitv w) nfo x {})
    (hpass : ∀ ln ∈ x.exec w.hd, s.access x.ctx (x.pair ln w.a) (widthOf w.ty / 8) (widthOf w.ty / 8) true false false = .ok [tr ln])
    (hwatch : s.watched x false true false (fun ln => rangeBytes (x.pair ln w.a) (widthOf w.ty / 8)) (x.exec w.hd) = [])
    (hnodup : ((x.exec w.hd).map (fun ln => ln.tid)).Nodup) :
    Does s (.waitv w) x w.hd.hold (blockedAt x w.hd)
      (fun ln => if ln.t.executes w.hd then
        { ln.t with slot := some ⟨w.d, regsOf w.ty, true⟩, run := .wait (.waitv (x.waitvWait s w (tr ln) ln)) } else ln.t)
      (((x.exec w.hd).map (fun ln => x.waitvOf w (tr ln) ln)).foldl State.toSlice s) x.w := by
  obtain ⟨found, hdef⟩ : ∃ found, collectedTrans ((x.exec w.hd).map (fun ln => (ln, [tr ln]))) = found := ⟨_, rfl⟩
  have hfound : ∀ ln ∈ x.exec w.hd, found ln = tr ln := fun ln hln => hdef ▸ collectedTrans_eq hnodup tr hln
  have hslots : (fun (i : Nat) (t : Thread) => if ((x.exec w.hd).map (fun ln => (ln, [tr ln]))).any (fun a => a.1.tid == i)
      then ({ t with slot := some ⟨w.d, regsOf w.ty, true⟩ } : Thread) else t) = x.takeSlot w.hd ⟨w.d, regsOf w.ty, true⟩ := by
    funext i t
    rw [Path.exec_map_any hi.path w.hd (tidOf := fun a : Lane × List Trans => a.1.tid) (fun _ => rfl), Path.takeSlot]
  have hreqs : (x.exec w.hd).map (fun ln => x.waitvOf w (found ln) ln) = (x.exec w.hd).map (fun ln => x.waitvOf w (tr ln) ln) :=
    List.map_congr_left fun ln hln => by rw [hfound ln hln]
  obtain ⟨hkeeps, hacts⟩ := Path.block_acts hi.path w.hd (fun ln => .waitv (x.waitvWait s w (found ln) ln))
  refine Does.of_requests (t := (x.block s w.hd (fun ln => .waitv (x.waitvWait s w (found ln) ln))).modWG x.w.wid
      (fun v => v.modThreads (x.takeSlot w.hd ⟨w.d, regsOf w.ty, true⟩)))
    ((exec_waitv s).trans ((State.word_next hi _).trans (congrArg _ ?_))) (List.forall_mem_map.2 fun _ _ => rfl)
    ⟨hkeeps.modWG fun _ => rfl, (hacts.takeSlots w.hd _).congr fun ln hln => ?_⟩
  · refine (State.globalWord_acts (tr := fun ln => [tr ln]) _ hpass hwatch).trans ?_
    dsimp only
    rw [hslots, List.map_map, ← hreqs, ← hdef]
    rfl
  · rw [Path.takeSlot, Path.executing_lane w.hd hln, blocked]
    by_cases hex : ln.t.executes w.hd = true
    · rw [if_pos hex, if_pos hex, if_pos hex, hfound ln (List.mem_filter.2 ⟨List.mem_of_find?_eq_some hln, hex⟩)]
    · rw [if_neg hex, if_neg hex, if_neg hex]

end Sys2Proof.Machine

section

open Sys2Proof Sys2Proof.Machine

/-- Settles O27: each word ends, in WAITV's case with its executing lanes blocked, and its requests then come to their slices
(`Does.of_requests`). -/
theorem sliceReads : Obligations.SliceReads := by
  unfold Obligations.SliceReads
  intro s nfo x tr
  refine ⟨?lda, ?wake, ?waitv⟩
  case lda =>
    intro w n va ex rs hpass hwatch hi
    exact State.lda_does hi hpass hwatch
  case wake =>
    intro w ex rs hpass hi
    exact State.wake_does hi hpass
  case waitv =>
    intro w n ex rs z hpass hwatch hnodup hi
    exact State.waitv_does hi hpass hwatch hnodup

end

/-! SUPPORT and PROOF of the barrier words (O34): arrivals beside the end of a word, the wait part of BAR and BARWAIT, and the test of a
barrier object. -/

namespace Sys2Proof.Machine

/-! ## Lanes that wait at a word (R33, R307) -/

/-- Of the lanes of a path that are picked by what their threads are, a thread finds its lane of the path where that is picked. -/
theorem State.path_filter_find {s : State} {x : Path} (hx : s.path = some x) {p : Lane → Bool} (hp : ∀ a b : Lane, a.t = b.t → p a = p b)
    (tid : Nat) : (x.lanes.filter p).find? (fun ln => ln.tid == tid) = (x.laneOf tid).filter p := by
  rw [List.find?_filter, Path.laneOf]
  cases hfind : x.lanes.find? (fun ln => ln.tid == tid) with
  | none => exact List.find?_eq_none.2 fun a ha h => List.find?_eq_none.1 hfind a ha (of_decide_eq_true h).2
  | some ln =>
    have htid : ln.tid = tid := by simpa using List.find?_some hfind
    have hsame : ∀ a ∈ x.lanes, a.tid = tid → p a = p ln := fun a ha hat =>
      hp a ln (State.path_lane_unique hx ha (List.mem_of_find?_eq_some hfind) (hat.trans htid.symm))
    by_cases hpl : p ln = true
    · obtain ⟨htrue, as, bs, hsplit, hbefore⟩ := List.find?_eq_some_iff_append.1 hfind
      rw [Option.filter_some_pos hpl]
      refine List.find?_eq_some_iff_append.2 ⟨decide_eq_true ⟨hpl, htrue⟩, as, bs, hsplit, fun a ha => ?_⟩
      have hother : (a.tid == tid) = false := by simpa using hbefore a ha
      simp [hother]
    · rw [Option.filter_some_neg (by simpa using hpl)]
      refine List.find?_eq_none.2 fun a ha h => hpl ?_
      obtain ⟨hpa, hat⟩ := of_decide_eq_true h
      rw [← hsame a ha (by simpa using hat)]
      exact hpa

/-- What becomes of the thread of a lane that waits at a word where it is picked, and else goes on as `f` says. -/
def waitThread (p : Lane → Bool) (wait : Lane → Wait) (f : Lane → Thread → Thread) (ln : Lane) (t : Thread) : Thread :=
  if p ln then { f ln t with run := .wait (wait ln) } else f ln t

/-- To end a word beside a change of the workgroup that leaves its threads, and then to hold some of its lanes at their waits, is to make
those wait and then to end the word. -/
theorem Path.hold_finish_picked {s m : State} {x : Path} (hx : s.path = some x) {p : Lane → Bool} (hp : ∀ a b : Lane, a.t = b.t → p a = p b)
    (hold : Bool) (pc : Lane → Nat) (wait : Lane → Wait) (f : Lane → Thread → Thread) {h : WG → WG} (hwid : ∀ w, (h w).wid = w.wid)
    (hcomm : ∀ w f, (h w).modThreads f = h (w.modThreads f)) :
    x.hold (x.finish m hold pc f h) (x.lanes.filter p) wait = x.finish m hold pc (waitThread p wait f) h := by
  unfold Path.hold Path.finish
  rw [State.setHeld_modWG]
  refine congrArg (State.setHeld · x hold) ((State.modWG_modWG m x.w.wid (fun w => (hwid _).trans (x.onLanes_wid _ w)) _).trans
    (congrArg (m.modWG x.w.wid) (funext fun w => (hcomm _ _).trans (congrArg h ?_))))
  simp only [Path.onLanes, WG.modThreads, List.mapIdx_mapIdx]
  congr 2
  funext i t
  simp only [Function.comp]
  rw [State.path_filter_find hx hp]
  unfold Path.laneOf
  cases x.lanes.find? (fun ln => ln.tid == i) with
  | none => rfl
  | some ln =>
    by_cases hpl : p ln = true
    · simp only [Option.filter_some_pos hpl, waitThread, hpl, if_true]
      exact Thread.past_waits (f ln t) hold (pc ln) (wait ln)
    · simp [Option.filter, waitThread, hpl]

/-- A change of the workgroup that leaves its threads, and then the end of a word, are the end of the word beside the change. -/
theorem Path.finish_modWG (x : Path) (s : State) (hold : Bool) (pc : Lane → Nat) (f : Lane → Thread → Thread) {h : WG → WG}
    (hwid : ∀ w, (h w).wid = w.wid) (hcomm : ∀ w f, (h w).modThreads f = h (w.modThreads f)) :
    x.finish (s.modWG x.w.wid h) hold pc f id = x.finish s hold pc f h :=
  congrArg (State.setHeld · x hold) ((State.modWG_modWG s x.w.wid hwid _).trans
    (congrArg (s.modWG x.w.wid) (funext fun w => hcomm w _)))

/-! ## Arrivals (R223) -/

/-- An object with room for all arriving lanes raises no trap. -/
theorem arriveCauses_zero {o : Bar} {ls : List Lane} (hinit : o.expect ≠ 0) (hroom : o.arrived + ls.length ≤ o.expect) :
    ∀ p ∈ arriveCauses o ls, p.2 = 0 := by
  refine List.forall_mem_map.2 fun q hq => ?_
  have hlt := (List.mem_zipIdx' hq).1
  rw [if_neg hinit, if_neg (by omega)]

/-- The test that is owed is owed. -/
theorem mem_insertDue (d : Due) (ds : List Due) : d ∈ insertDue d ds := by
  induction ds with
  | nil => exact List.mem_cons_self
  | cons e es ih =>
    unfold insertDue
    split
    · exact List.mem_cons_self
    · exact List.mem_cons_of_mem _ ih

theorem State.mem_due_owe_bar (s : State) (wid b : Nat) : Due.bar wid b ∈ (s.owe (.bar wid b)).due := by
  by_cases howed : s.due.contains (.bar wid b) = true
  · have hsame : s.owe (.bar wid b) = s := if_pos howed
    rw [hsame]
    simpa using howed
  · have hnew : s.owe (.bar wid b) = { s with due := insertDue (.bar wid b) s.due } := if_neg howed
    rw [hnew]
    exact mem_insertDue _ _

/-! A barrier object written leaves the rest of its workgroup. `WG.setBar` is unfolded before its fields are compared, since the kernel would
else compare the bytes of the windows. -/

theorem WG.setBar_wid (w : WG) (size b : Nat) (o : Bar) : (w.setBar size b o).wid = w.wid := by
  unfold WG.setBar
  rfl

theorem WG.setBar_modThreads (w : WG) (size b : Nat) (o : Bar) (f : Nat → Thread → Thread) :
    (w.setBar size b o).modThreads f = (w.modThreads f).setBar size b o := by
  unfold WG.setBar
  rfl

theorem WG.setBar_over_threads (w : WG) (size b : Nat) (o : Bar) (ts : List Thread) :
    ({ ({ w with threads := ts } : WG).setBar size b o with threads := w.threads } : WG) = w.setBar size b o
      ∧ (({ w with threads := ts } : WG).setBar size b o).threads = ts := by
  unfold WG.setBar
  exact ⟨rfl, rfl⟩

/-- A barrier object that some lanes have arrived at (R182, R223). -/
def Path.arrived (x : Path) (b : Nat) (ls : List Lane) (o : Bar) (v : WG) : WG := (x.joinArrivals b ls v).setBar x.window b o

theorem Path.arrived_wid (x : Path) (b : Nat) (ls : List Lane) (o : Bar) (v : WG) : (x.arrived b ls o v).wid = v.wid :=
  WG.setBar_wid ..

theorem Path.arrived_modThreads (x : Path) (b : Nat) (ls : List Lane) (o : Bar) (v : WG) (f : Nat → Thread → Thread) :
    (x.arrived b ls o v).modThreads f = x.arrived b ls o (v.modThreads f) := WG.setBar_modThreads ..

theorem Path.arrived_over_threads (x : Path) (b : Nat) (ls : List Lane) (o : Bar) (v : WG) (ts : List Thread) :
    ({ x.arrived b ls o { v with threads := ts } with threads := v.threads } : WG) = x.arrived b ls o v
      ∧ (x.arrived b ls o { v with threads := ts }).threads = ts := (x.joinArrivals b ls v).setBar_over_threads x.window b o ts

/-- A word that issues completes, and owes the test of a barrier object at the end of its ck (R224). -/
def OwesTest (s : State) (i : Instr) (x : Path) (hold : Bool) (pc : Lane → Nat) (g : Lane → Thread) (w' : WG) (b : Nat) : Prop :=
  ∃ t, exec i s = .next t ∧ Keeps s t x ∧ Acts t x hold pc g w' ∧ Due.bar x.w.wid b ∈ t.due

section

variable {s : State} {i : Instr} {nfo : Info} {x : Path} {ck : Path → Checks} {body : Path → State → State} {hold : Bool} {b : Nat}

/-- A barrier word that ends beside a change of its workgroup, and then owes the object's test. -/
theorem OwesTest.of_finish {f : Lane → Thread → Thread} {g : Lane → Thread} {h : WG → WG} {w' : WG}
    (hi : Issues s i nfo x (ck x)) (he : exec i s = s.word i ck body)
    (hb : body x s = (x.finish s hold (fun _ => x.next) f h).owe (.bar x.w.wid b)) (hwid : ∀ v, (h v).wid = v.wid)
    (hover : ∀ (v : WG) (ts : List Thread),
      ({ h { v with threads := ts } with threads := v.threads } : WG) = h v ∧ (h { v with threads := ts }).threads = ts)
    (hg : ∀ ln, f ln ln.t = g ln) (hw' : h x.w = w') : OwesTest s i x hold (fun _ => x.cur.pc + 8) g w' b := by
  obtain ⟨hkeeps, hacts⟩ := Path.finish_acts hi.path (State.path_parts hi.path).2.1 hold (fun _ => x.next) f h hwid hover
  rw [funext hg, hw'] at hacts
  exact ⟨_, he.trans ((State.word_next hi _).trans (congrArg _ hb)), hkeeps.same (Same.owe _ _), hacts.same (Same.owe _ _),
    State.mem_due_owe_bar ..⟩

end

/-- The token that a BARARV gives an executing lane in a v destination. -/
def tokenThread (hd : Head) (d : Opnd) (o : Bar) (ln : Lane) (t : Thread) : Thread :=
  match d with
  | .v r => if ln.t.executes hd then t.setV r.toNat [BitVec.ofNat 32 o.gen] else t
  | _ => t

/-! ## The wait part of BAR and BARWAIT (R223, R307) -/

/-- Whether a lane waits at a barrier word, by its token. -/
def barWaits (hd : Head) (o : Bar) (token : Lane → Nat) (ln : Lane) : Bool := ln.t.executes hd && o.gen == tokGen (token ln)

/-- Where a lane stands after a barrier word: at it while it waits. -/
def Path.barStands (x : Path) (hd : Head) (o : Bar) (token : Lane → Nat) (ln : Lane) : Nat :=
  if barWaits hd o token ln then x.cur.pc else x.next

/-- What BAR and BARWAIT leave of the thread of a lane. -/
def Path.barLane (x : Path) (hd : Head) (b : Nat) (o : Bar) (token : Lane → Nat) (d : Opnd) (ln : Lane) : Thread :=
  if barWaits hd o token ln then { ln.t with run := .wait (.bar b (token ln) d) }
  else if ln.t.executes hd then ln.t.pastBar x.w b o ln.tid (token ln) d else ln.t

/-- What the word does to it before its lanes are held. -/
def Path.barPasses (x : Path) (hd : Head) (b : Nat) (o : Bar) (token : Lane → Nat) (d : Opnd) (ln : Lane) (t : Thread) : Thread :=
  if ln.t.executes hd && !barWaits hd o token ln then t.pastBar x.w b o ln.tid (token ln) d else t

theorem Path.waitThread_barPasses (x : Path) (hd : Head) (b : Nat) (o : Bar) (token : Lane → Nat) (d : Opnd) (ln : Lane) :
    waitThread (barWaits hd o token) (fun l => .bar b (token l) d) (x.barPasses hd b o token d) ln ln.t = x.barLane hd b o token d ln := by
  unfold waitThread Path.barPasses Path.barLane
  by_cases hwaits : barWaits hd o token ln = true
  · simp [hwaits]
  · by_cases hex : ln.t.executes hd = true <;> simp [hwaits, hex]

/-- The lanes that wait are picked by their threads, and execute the word. -/
theorem barWaits_thread (hd : Head) (o : Bar) {token : Lane → Nat} (htoken : ∀ a b : Lane, a.t = b.t → token a = token b) {p q : Lane}
    (hpq : p.t = q.t) : barWaits hd o token p = barWaits hd o token q := by
  unfold barWaits
  rw [hpq, htoken p q hpq]

theorem Path.exec_filter_barWaits (x : Path) (hd : Head) (o : Bar) (token : Lane → Nat) :
    (x.exec hd).filter (barWaits hd o token) = x.lanes.filter (barWaits hd o token) := by
  rw [Path.exec, List.filter_filter]
  refine congrArg (List.filter · x.lanes) (funext fun ln => ?_)
  unfold barWaits
  cases ln.t.executes hd <;> simp

/-- The wait part of BAR and BARWAIT, beside a change of the workgroup: the lanes go past the word, and those that wait are held at it. -/
def Path.barHeld (x : Path) (s : State) (hd : Head) (b : Nat) (o : Bar) (token : Lane → Nat) (d : Opnd) (h : WG → WG) : State :=
  x.hold (x.finish s hd.hold (x.barStands hd o token) (x.barPasses hd b o token d) h) ((x.exec hd).filter (barWaits hd o token))
    (fun l => .bar b (token l) d)

/-- What the wait part leaves, whatever may follow it. -/
theorem Path.barWait_acts {s : State} {x : Path} (hx : s.path = some x) (hd : Head) (b : Nat) (o : Bar) {token : Lane → Nat}
    (htoken : ∀ p q : Lane, p.t = q.t → token p = token q) (d : Opnd) {h : WG → WG}
    (hwid : ∀ w, (h w).wid = w.wid) (hcomm : ∀ w f, (h w).modThreads f = h (w.modThreads f))
    (hh : ∀ (w : WG) (ts : List Thread),
      ({ h { w with threads := ts } with threads := w.threads } : WG) = h w ∧ (h { w with threads := ts }).threads = ts)
    {t : State} (ht : Same (x.barHeld s hd b o token d h) t) :
    Keeps s t x ∧ Acts t x hd.hold (x.barStands hd o token) (x.barLane hd b o token d) (h x.w) := by
  rw [Path.barHeld, x.exec_filter_barWaits, Path.hold_finish_picked hx (fun _ _ => barWaits_thread hd o htoken) _ _ _ _ hwid hcomm] at ht
  obtain ⟨hkeeps, hacts⟩ := Path.finish_acts hx (State.path_parts hx).2.1 hd.hold (x.barStands hd o token)
    (waitThread (barWaits hd o token) (fun l => .bar b (token l) d) (x.barPasses hd b o token d)) h hwid hh
  rw [funext (x.waitThread_barPasses hd b o token d)] at hacts
  exact ⟨hkeeps.same ht, hacts.same ht⟩

/-- The running group of a core set again. -/
theorem Same.running (a : State) (k : Nat) (r : Option (Nat × Nat)) : Same a (a.modCore k (fun c => { c with running := r })) := by
  refine ⟨by unfold State.modCore; split <;> rfl, fun j => ?_⟩
  rw [State.core_modCore a k j (fun c => { c with running := r }) (fun _ => rfl)]
  split
  · next h => subst h; rfl
  · rfl

/-- What follows the wait part of a BAR: a switch point, the tests that it owes, and where the arrival has completed the generation, the group
that ran before (R46, R224, R307). -/
def Path.barDone (x : Path) (s held : State) (b : Nat) (o : Bar) : State :=
  let t := ((held.switchPoint x).oweBlock x).owe (.bar x.w.wid b)
  if o.arrived = o.expect && o.pend = 0 then t.modCore x.w.core (fun c => { c with running := (s.core x.w.core).running }) else t

theorem Path.barDone_same (x : Path) (s held : State) (b : Nat) (o : Bar) : Same held (x.barDone s held b o) := by
  have howes : Same held (((held.switchPoint x).oweBlock x).owe (.bar x.w.wid b)) :=
    (Same.switchPoint held x).trans ((Same.oweAll _ _).trans (Same.owe _ _))
  unfold Path.barDone
  dsimp only
  split
  · exact howes.trans (Same.running _ _ _)
  · exact howes

theorem Path.barDone_due (x : Path) (s held : State) (b : Nat) (o : Bar) : Due.bar x.w.wid b ∈ (x.barDone s held b o).due := by
  have howes := ((held.switchPoint x).oweBlock x).mem_due_owe_bar x.w.wid b
  unfold Path.barDone
  dsimp only
  split
  · rw [State.modCore_due]
    exact howes
  · exact howes

/-- The token of a lane of a BAR is its thread's. -/
theorem Lane.barTok_thread (o : Bar) (p q : Lane) (hpq : p.t = q.t) : p.barTok o = q.barTok o := by
  unfold Lane.barTok Lane.again
  rw [hpq]

section

variable {s : State} {nfo : Info} {x : Path} {w : FWord} {ln : Lane} {ls : List Lane} (hls : x.exec w.hd = ln :: ls) {b : Nat}
  (hb : barNum x w ln = b) {o : Bar} (ho : x.w.bar x.window b = o)

include hls hb ho

/-- A BARARV whose lanes have room in their object. -/
theorem State.bararv_owes (hi : Issues s (.bararv w) nfo x (barChecks w [] x)) (hinit : o.expect ≠ 0)
    (hroom : o.arrived + (x.exec w.hd).length ≤ o.expect) :
    OwesTest s (.bararv w) x w.hd.hold (fun _ => x.next) (fun ln => tokenThread w.hd w.d o ln ln.t)
      (x.arrived b (x.exec w.hd) (o.arriveAll x.l.isDet (x.barBefore s b).arrived (x.exec w.hd)) x.w) b := by
  refine OwesTest.of_finish (ck := barChecks w []) (f := tokenThread w.hd w.d o) hi (exec_bararv s) ?_
    (x.arrived_wid b (x.exec w.hd) _) (x.arrived_over_threads b (x.exec w.hd) _) (fun _ => rfl) rfl
  rw [hls] at hroom ⊢
  dsimp only
  rw [hb, ho, Path.barTrap_none x s _ (arriveCauses_zero hinit hroom)]
  rfl

/-- A BAR whose lanes have room in their object. -/
theorem State.bar_owes (hi : Issues s (.bar w) nfo x (barChecks w [] x)) (hinit : o.expect ≠ 0) (hsound : o.poison = false)
    {new : List Lane} (hnew : (x.exec w.hd).filter (fun l => !l.again) = new) (hroom : o.arrived + new.length ≤ o.expect) :
    OwesTest s (.bar w) x w.hd.hold (x.barStands w.hd o (fun l => l.barTok o)) (x.barLane w.hd b o (fun l => l.barTok o) w.d)
      (x.arrived b new (o.arriveAll x.l.isDet (x.barBefore s b).arrived new) x.w) b := by
  have hcauses : ∀ p ∈ arriveCauses o new ++ ((ln :: ls).filter Lane.again).map (fun l => (l, if o.expect = 0 then 1 else 0)), p.2 = 0 :=
    List.forall_mem_append.2 ⟨arriveCauses_zero hinit hroom, List.forall_mem_map.2 fun l _ => if_neg hinit⟩
  rw [hls] at hnew
  generalize hafter : o.arriveAll x.l.isDet (x.barBefore s b).arrived new = after
  obtain ⟨hkeeps, hacts⟩ := Path.barWait_acts hi.path w.hd b o (Lane.barTok_thread o) w.d (x.arrived_wid b new after)
    (x.arrived_modThreads b new after) (x.arrived_over_threads b new after) (x.barDone_same s _ b after)
  refine ⟨_, (exec_bar s).trans ((State.word_next (ck := barChecks w []) hi _).trans (congrArg _ ?_)), hkeeps, hacts, x.barDone_due ..⟩
  unfold Path.barHeld
  rw [← x.finish_modWG s _ _ _ (x.arrived_wid b new after) (x.arrived_modThreads b new after), hls]
  dsimp only
  rw [hb, ho, hnew, if_neg (ne_true_of_eq_false hsound), Path.barTrap_none x s _ hcauses]
  dsimp only
  rw [hafter]
  rfl

/-- A BARWAIT at a sound object. -/
theorem State.barwait_does (hi : Issues s (.barwait w) nfo x (barChecks w [] x)) (hinit : o.expect ≠ 0) (hsound : o.poison = false) :
    Does s (.barwait w) x w.hd.hold (x.barStands w.hd o (barToken x w)) (x.barLane w.hd b o (barToken x w) w.d) s x.w := by
  refine ⟨_, (exec_barwait s).trans (State.word_next (ck := barChecks w []) hi _), ?_⟩
  rw [hls]
  dsimp only
  rw [hb, ho, if_neg (ne_true_of_eq_false hsound), if_neg hinit, ← hls]
  exact Path.barWait_acts hi.path w.hd b o (fun p q hpq => congrArg (readOpnd x.old.s · .n32 w.b) hpq) w.d (h := id) (fun _ => rfl)
    (fun _ _ => rfl) (fun _ _ => ⟨rfl, rfl⟩) ((Same.switchPoint _ x).trans (Same.oweAll _ _))

/-- A BARTX that keeps PEND within its range. -/
theorem State.bartx_owes (hi : Issues s (.bartx w) nfo x (barChecks w [(2, fun ln => x.read32 ln w.b)] x)) (hinit : o.expect ≠ 0)
    (hpend : o.pend + (x.read32 ln w.b : Int) < 2 ^ 55) :
    OwesTest s (.bartx w) x w.hd.hold (fun _ => x.next) (fun ln => ln.t)
      (x.w.setBar x.window b { o with pend := o.pend + (x.read32 ln w.b : Int) }) b := by
  have hcause : (if o.expect = 0 then 1 else if (2 : Int) ^ 55 ≤ o.pend + (x.read32 ln w.b : Int) then 4 else 0) = 0 :=
    (if_neg hinit).trans (if_neg (Int.not_le.2 hpend))
  refine OwesTest.of_finish (ck := fun x => barChecks w [(2, fun ln => x.read32 ln w.b)] x) (f := fun _ t => t)
    (h := fun v => v.setBar x.window b { o with pend := o.pend + (x.read32 ln w.b : Int) }) hi (exec_bartx s) ?_
    (fun v => v.setBar_wid ..) (fun v ts => v.setBar_over_threads ..) (fun _ => rfl) rfl
  rw [hls]
  dsimp only
  rw [hb, ho, Path.barTrap_zero x s _ (ln :: ls) hcause]

end

/-! ## BARINIT (R223 to R225) -/

/-- An object that a BARINIT sets up: what the ck has counted into it since `old` stays (R224). -/
def Bar.setUp (o old : Bar) (n : Nat) : Bar :=
  { o with expect := n, arrived := o.arrived - old.arrived, cand := if o.arrived = 0 then 0 else o.cand, pend := o.pend - old.pend,
           poison := o.poison && !old.poison }

/-- The object is set up in its workgroup. -/
def WG.setUpBar (size b : Nat) (old : Bar) (n : Nat) (v : WG) : WG := v.setBar size b ((v.bar size b).setUp old n)

theorem WG.setUpBar_over_threads (size b : Nat) (old : Bar) (n : Nat) (v : WG) (ts : List Thread) :
    ({ WG.setUpBar size b old n { v with threads := ts } with threads := v.threads } : WG) = v.setUpBar size b old n
      ∧ (WG.setUpBar size b old n { v with threads := ts }).threads = ts := v.setBar_over_threads size b ((v.bar size b).setUp old n) ts

/-- A BARINIT of an object that nothing uses, for a number of threads within its workgroup's. -/
theorem State.barinit_owes {s : State} {nfo : Info} {x : Path} {w : FWord} {ln : Lane} {ls : List Lane} (hls : x.exec w.hd = ln :: ls)
    {b n : Nat} (hb : barNum x w ln = b) (hn : x.read32 ln w.b = n) {old : Bar} (hold : x.barBefore s b = old)
    (hi : Issues s (.barinit w) nfo x (barChecks w [(2, fun ln => x.read32 ln w.b)] x)) (hnone : old.arrived = 0) (hclear : old.pend = 0)
    (hfree : (((s.before.find? (fun v => v.wid == x.w.wid)).getD x.w).threads.any (fun t => t.onBar b)) = false) (hlow : 1 ≤ n)
    (hhigh : n ≤ x.l.hdr.n) :
    OwesTest s (.barinit w) x w.hd.hold (fun _ => x.next) (fun ln => ln.t) (x.w.setUpBar x.window b old n) b := by
  have hcause : (if (decide (old.arrived ≠ 0) || decide (old.pend ≠ 0)
      || (((s.before.find? (fun v => v.wid == x.w.wid)).getD x.w).threads.any (fun t => t.onBar b)) || decide (n = 0)
      || decide (x.l.hdr.n < n)) = true then 3 else 0) = 0 := by
    rw [hfree]
    refine if_neg ?_
    simp only [hnone, hclear, ne_eq, not_true_eq_false, decide_false, Bool.or_false, Bool.false_or, Bool.or_eq_true, decide_eq_true_eq]
    omega
  refine OwesTest.of_finish (ck := fun x => barChecks w [(2, fun ln => x.read32 ln w.b)] x) (f := fun _ t => t)
    (h := WG.setUpBar x.window b old n) hi (exec_barinit s) ?_ (fun v => v.setBar_wid ..) (fun v => v.setUpBar_over_threads x.window b old n)
    (fun _ => rfl) rfl
  rw [hls]
  dsimp only
  rw [hb, hn, hold, Path.barTrap_zero x s _ (ln :: ls) hcause]
  rfl

/-! ## The test of a barrier object (R192, R223) -/

/-- A workgroup whose barrier object has completed its generation, with the threads that wait for it still waiting. -/
def WG.completeBar (size b : Nat) (new : Bar) (gen : Nat) (v : WG) : WG :=
  let v := v.setBar size b new
  { v with bdone := SMap.put [] v.bdone (genKey b gen) (v.bclk.get [] b), bclk := SMap.put [] v.bclk b [], bsec := SMap.put [] v.bsec b [] }

theorem WG.completeBar_wid (v : WG) (size b : Nat) (new : Bar) (gen : Nat) : ((v.completeBar size b new gen).releaseBar b new gen).wid = v.wid := by
  unfold WG.releaseBar WG.modThreads WG.completeBar WG.setBar
  rfl

theorem WG.completeBar_rest (v : WG) (size b : Nat) (new : Bar) (gen : Nat) :
    ((v.completeBar size b new gen).releaseBar b new gen).win = (v.setBar size b new).win
      ∧ ((v.completeBar size b new gen).releaseBar b new gen).groups = v.groups
      ∧ ((v.completeBar size b new gen).releaseBar b new gen).flags = v.flags := by
  unfold WG.releaseBar WG.modThreads WG.completeBar WG.setBar
  exact ⟨rfl, rfl, rfl⟩

theorem WG.completeBar_threads (v : WG) (size b : Nat) (new : Bar) (gen : Nat) : (v.completeBar size b new gen).threads = v.threads := by
  unfold WG.completeBar WG.setBar
  rfl

section

variable {s : State} {wid : Nat} {w : WG} (hw : s.wg? wid = some w) (b : Nat)

include hw

theorem State.testBar_stays (h : (w.bar (s.windowOf w) b).expect = 0 ∨ (w.bar (s.windowOf w) b).arrived ≠ (w.bar (s.windowOf w) b).expect
    ∨ (w.bar (s.windowOf w) b).pend ≠ 0) : s.testBar wid b = s := by
  unfold State.testBar
  rw [hw]
  exact if_pos (by simpa [or_assoc] using h)

theorem State.testBar_completes {o : Bar} (ho : w.bar (s.windowOf w) b = o) (hinit : o.expect ≠ 0) (hall : o.arrived = o.expect)
    (hpend : o.pend = 0) {new : Bar} (hnew : { o with role := o.cand, arrived := 0, gen := (o.gen + 1) % 2 ^ 22 } = new) :
    (s.testBar wid b).wg? wid = some ((w.completeBar (s.windowOf w) b new o.gen).releaseBar b new o.gen) := by
  unfold State.testBar
  rw [hw]
  dsimp only
  rw [ho, hnew, if_neg (by simp [hinit, hall, hpend]), State.wg?_refreshSectors]
  exact State.wg?_modWG_same s wid (fun g => (g.completeBar (s.windowOf w) b new o.gen).releaseBar b new o.gen)
    (fun g => g.completeBar_wid ..) hw

end

theorem WG.releaseBar_other (v : WG) (b : Nat) (o : Bar) (gen : Nat) {tid : Nat} {t : Thread} (ht : v.threads[tid]? = some t)
    (hnot : ∀ c k d, t.run = .wait (.bar c k d) → ¬ (c = b ∧ k % 2 ^ 22 = gen)) : (v.releaseBar b o gen).threads[tid]? = some t := by
  unfold WG.releaseBar
  rw [WG.threads_modThreads, ht, Option.map_some]
  split
  · next c k d hrun => exact congrArg some (if_neg (hnot c k d hrun))
  · rfl

theorem WG.releaseBar_waiter (v : WG) (b : Nat) (o : Bar) (gen : Nat) {tid k : Nat} {d : Opnd} {t : Thread} (ht : v.threads[tid]? = some t)
    (hrun : t.run = .wait (.bar b k d)) (hgen : k % 2 ^ 22 = gen) :
    (v.releaseBar b o gen).threads[tid]? = some (t.pastBar v b o tid k d).release := by
  unfold WG.releaseBar
  rw [WG.threads_modThreads, ht, Option.map_some, hrun]
  exact congrArg some (if_pos ⟨rfl, hgen⟩)

theorem Thread.pastBar_pc (t : Thread) (v : WG) (b : Nat) (o : Bar) (tid k : Nat) (d : Opnd) : (t.pastBar v b o tid k d).pc = t.pc := by
  unfold Thread.pastBar
  cases d <;> rfl

/-- The role of a thread that a completed generation has let go on (R223). -/
theorem Thread.pastBar_role (t : Thread) (v : WG) (b : Nat) {o : Bar} (tid : Nat) {k gen : Nat} (r : BitVec 7)
    (hgen : k % 2 ^ 22 = gen) (hnext : o.gen = (gen + 1) % 2 ^ 22) :
    (t.pastBar v b o tid k (.v r)).v.get 0 r.toNat = if tid = o.role then 1 else 0 := by
  have htoken : (tokGen k == (o.gen + 2 ^ 22 - 1) % 2 ^ 22) = true := by
    rw [tokGen, hgen, hnext, beq_iff_eq]
    have hlt := Nat.mod_lt k (Nat.two_pow_pos 22)
    rw [hgen] at hlt
    omega
  have hrole : o.role? tid k = if tid = o.role then 1 else 0 := by
    rw [Bar.role?, htoken, Bool.and_true]
    by_cases htid : tid = o.role <;> simp [bit1, htid]
  unfold Thread.pastBar Thread.setV
  dsimp only
  rw [SMap.get_putAll, hrole, if_pos (Nat.le_refl _), Nat.sub_self]
  split <;> rfl

end Sys2Proof.Machine

section

open Sys2Proof Sys2Proof.Machine

/-- Settles O34: with the checks passed, each word's first executing lane names an object that raises no trap (`Path.barTrap_none`); the word
ends beside the object's change, in BAR's and BARWAIT's case with its waiting lanes held (`Path.barWait_acts`), and the object's test lets
exactly the waiters of its generation go on. -/
theorem barrierWords : Obligations.BarrierWords := by
  unfold Obligations.BarrierWords
  refine ⟨?words, ?init, ?test⟩
  case words =>
    intro s w nfo x ln size num b o ex ck after again token new owes next hln hinit
    obtain ⟨ls, hls⟩ := Path.exec_cons hln
    refine ⟨fun hi hroom => ?arrive, fun hi hsound hroom => ?bar, fun hi hsound => ?wait, fun hi hpend => ?transfer⟩
    case arrive => exact State.bararv_owes hls rfl rfl hi hinit hroom
    case bar => exact State.bar_owes hls rfl rfl hi hinit hsound rfl hroom
    case wait => exact State.barwait_does hls rfl rfl hi hinit hsound
    case transfer => exact State.bartx_owes hls rfl rfl hi hinit hpend
  case init =>
    intro s w nfo x ln size num b n old hln hi hnone hclear hfree hlow hhigh now inits
    obtain ⟨ls, hls⟩ := Path.exec_cons hln
    have hinits := State.barinit_owes hls rfl rfl rfl hi hnone hclear hfree hlow hhigh
    have hsetUp : now.setUp old n =
        { now with expect := n, cand := if now.arrived = 0 then 0 else now.cand, poison := now.poison && !old.poison } := by
      rw [Bar.setUp, hnone, hclear, Nat.sub_zero, Int.sub_zero]
    refine ⟨hsetUp ▸ hinits, fun hsame => ?_⟩
    have hfresh : now.setUp old n = { now with expect := n, arrived := 0, cand := 0, pend := 0, poison := false } := by
      rw [hsetUp, hsame, hnone, hclear, if_pos rfl, Bool.and_not_self]
    exact hfresh ▸ hinits
  case test =>
    intro s wid b w hw size o
    refine ⟨rfl, State.testBar_stays hw b, ?_⟩
    intro hinit hall hpend new
    obtain ⟨hwin, hgroups, hflags⟩ := w.completeBar_rest size b new o.gen
    have hthread : ∀ {tid : Nat} {t : Thread}, w.threads[tid]? = some t → (w.completeBar size b new o.gen).threads[tid]? = some t :=
      fun h => (congrArg (fun ts : List Thread => ts[_]?) (w.completeBar_threads size b new o.gen)).trans h
    refine ⟨_, State.testBar_completes hw b rfl hinit hall hpend rfl, hwin, hgroups, hflags,
      fun tid t ht hnot => WG.releaseBar_other _ b _ _ (hthread ht) hnot, fun tid t k d ht hrun hgen => ?_⟩
    refine ⟨_, WG.releaseBar_waiter _ b _ _ (hthread ht) hrun hgen, rfl, congrArg (· + 8) (Thread.pastBar_pc ..), fun r hd => ?_⟩
    subst hd
    exact Thread.pastBar_role t _ b tid r hgen rfl

end

/-! SUPPORT and PROOF of the copy words (O36): stamps that attach, a command at the end of its queue, and the checks that pass. -/

namespace Sys2Proof.Machine

/-! ## Stamps that attach to a command (R168) -/

/-- One entry changed among the stamps of a workgroup. -/
def stampsAfter (f : Stamp → Stamp) (zs : List Stamp) (n : Nat) : List Stamp :=
  ((List.range 16).map (fun i => zs.getD i Stamp.free)).mapIdx (fun i z => if i = n then f z else z)

theorem WG.modStamp_eq (w : WG) (n : Nat) (f : Stamp → Stamp) : w.modStamp n f = { w with stamps := stampsAfter f w.stamps n } := rfl

/-- Changes of some stamp entries change nothing else of the workgroup. -/
theorem WG.modStamps_eq (w : WG) (ns : List Nat) (f : Stamp → Stamp) :
    ns.foldl (fun (v : WG) n => v.modStamp n f) w = { w with stamps := ns.foldl (stampsAfter f) w.stamps } := by
  induction ns generalizing w with
  | nil => rfl
  | cons n ns ih => rw [List.foldl_cons, List.foldl_cons, ih, WG.modStamp_eq]

/-! ## A command enters its queue (R168, R194, R318) -/

section

variable (x : Path) (s : State) (cmd q : Nat) (desc : List Word) (pat : DWord) (ranges : List OpenRange) (w : WG)

/-- The stamp entries that attach to a command at its start and at its end. -/
def Path.attaching (out : Bool) : List Nat := w.waitingStamps ((s.before.find? (fun v => v.wid == x.w.wid)).getD x.w) s.ck q out

/-- The stamp entries of a workgroup when they have attached. -/
def Path.stampsAttached : List Stamp :=
  (x.attaching s q w true).foldl (stampsAfter (fun z => { z with outQ := none }))
    ((x.attaching s q w false).foldl (stampsAfter (fun z => { z with t1 := s.now, inQ := none })) w.stamps)

/-- The command that enters the queue. -/
def Path.entering : CopyCmd :=
  { CopyCmd.fresh w.serial cmd q 0 x.cur.pc desc pat with stampIn := x.attaching s q w false, stampOut := x.attaching s q w true }

/-- A command that enters its queue, and what it leaves of the workgroup. -/
theorem Path.enqueue_eq : x.enqueue s cmd q desc pat ranges w =
    { w with
      stamps := x.stampsAttached s q w
      ranges := w.ranges ++ ranges
      serial := w.serial + 1
      queues := (List.range 8).map (fun i => if i = q then w.queues.getD i [] ++ [x.entering s cmd q desc pat w] else w.queues.getD i []) } := by
  unfold Path.enqueue
  dsimp only
  rw [WG.modStamps_eq, WG.modStamps_eq]
  rfl

theorem Path.enqueue_over_threads (ts : List Thread) :
    x.enqueue s cmd q desc pat ranges { w with threads := ts } = { x.enqueue s cmd q desc pat ranges w with threads := ts } := by
  rw [Path.enqueue_eq, Path.enqueue_eq]
  rfl

theorem Path.enqueue_threads : (x.enqueue s cmd q desc pat ranges w).threads = w.threads := by rw [Path.enqueue_eq]

theorem Path.enqueue_wid : (x.enqueue s cmd q desc pat ranges w).wid = w.wid := by rw [Path.enqueue_eq]

theorem Path.enqueue_queue {k : Nat} (hk : k < 8) : (x.enqueue s cmd q desc pat ranges w).queues.getD k []
    = if k = q then w.queues.getD k [] ++ [x.entering s cmd q desc pat w] else w.queues.getD k [] := by
  rw [Path.enqueue_eq]
  simp only [List.getD_eq_getElem?_getD, List.getElem?_map, List.getElem?_range hk, Option.map_some, Option.getD_some]

/-- What a command that enters a queue leaves of the workgroup's parts. -/
theorem Path.enqueue_spec (hq : q < 8) :
    (x.enqueue s cmd q desc pat ranges w).ranges = w.ranges ++ ranges ∧ (x.enqueue s cmd q desc pat ranges w).serial = w.serial + 1
    ∧ (x.enqueue s cmd q desc pat ranges w).win = w.win ∧ (x.enqueue s cmd q desc pat ranges w).groups = w.groups
    ∧ (x.enqueue s cmd q desc pat ranges w).queues.getD q [] = w.queues.getD q [] ++ [x.entering s cmd q desc pat w]
    ∧ ∀ k, k < 8 → k ≠ q → (x.enqueue s cmd q desc pat ranges w).queues.getD k [] = w.queues.getD k [] := by
  refine ⟨?_, ?_, ?_, ?_, (x.enqueue_queue s cmd q desc pat ranges w hq).trans (if_pos rfl),
    fun k hk hkq => (x.enqueue_queue s cmd q desc pat ranges w hk).trans (if_neg hkq)⟩
  all_goals rw [Path.enqueue_eq]

end

/-! ## The copy words (R216, R318, R319) -/

theorem exec_copyRow {row : (FWord → Instr) × Nat × List Nat} (hrow : row ∈ copyRows) (s : State) (w : FWord) :
    exec (row.1 w) s = s.copyWord (row.1 w) w row.2.1 row.2.2 := by
  simp only [copyRows, List.mem_cons, List.not_mem_nil, or_false] at hrow
  rcases hrow with rfl | rfl | rfl | rfl | rfl | rfl | rfl | rfl <;> rfl

/-- The commands of a queue that have not completed. -/
def WG.pending (v : WG) (i : Nat) : Nat := ((v.queues.getD i []).filter (fun c => !c.done)).length

theorem queuesRoom_copyRow {row : (FWord → Instr) × Nat × List Nat} (hrow : row ∈ copyRows) (v : WG) (w : FWord) :
    queuesRoom v (row.1 w) = decide (v.pending (FSpec w % 8) < 32) := by
  simp only [copyRows, List.mem_cons, List.not_mem_nil, or_false] at hrow
  rcases hrow with rfl | rfl | rfl | rfl | rfl | rfl | rfl | rfl <;> rfl

theorem WG.openRanges_eq (v : WG) : v.openRanges = (v.ranges.filter (fun o => o.fence = none)).length := by
  unfold WG.openRanges
  congr 2
  funext o
  cases o.fence <;> rfl

section

variable {s : State} {i : Instr} {hd : Head} {x : Path} {cmd q : Nat} {desc : List Word} {pat : DWord}

/-- The runs of bytes that a command reads and writes on DET pages, with the first address on an absent page (R194). -/
def Path.copyReads (x : Path) (s : State) (cmd : Nat) (desc : List Word) : Option Nat × List (Nat × Nat) :=
  s.detRuns x.ctx false (readRuns (descNum desc) (elemsOf cmd (descNum desc) 0 (readList x.w.win cmd (descNum desc))))

def Path.copyWrites (x : Path) (s : State) (cmd : Nat) (desc : List Word) : Option Nat × List (Nat × Nat) :=
  s.detRuns x.ctx true (writeRuns cmd (descNum desc) (elemsOf cmd (descNum desc) 0 (readList x.w.win cmd (descNum desc))))

/-- The ranges that a command opens. -/
def Path.copyOpens (x : Path) (s : State) (cmd q : Nat) (desc : List Word) : List OpenRange :=
  newRanges q (x.copyReads s cmd desc).2 (x.copyWrites s cmd desc).2

/-- A workgroup in which a fence entry has gone into every queue of its launch, and no range is open (R194). -/
def Path.fenceAll (x : Path) (w : WG) : WG := { w.fence (2 ^ x.l.hdr.queues - 1) x.cur.pc with ranges := [] }

variable (hrd : (x.copyReads s cmd desc).1 = none) (hwr : (x.copyWrites s cmd desc).1 = none)

include hrd hwr

/-- A command whose ranges fit, clash with none, and whose queue has room. -/
theorem Path.copyEnd_enters (hfit : x.w.openRanges + (x.copyOpens s cmd q desc).length ≤ 64)
    (hclash : rangeClash x.w.ranges q (x.copyReads s cmd desc).2 (x.copyWrites s cmd desc).2 = false) (hroom : queuesRoom x.w i = true) :
    x.copyEnd s i hd cmd q desc pat
      = x.finish s hd.hold (fun _ => x.next) (fun _ t => t) (x.enqueue s cmd q desc pat (x.copyOpens s cmd q desc)) := by
  unfold Path.copyReads at hrd
  unfold Path.copyWrites at hwr
  unfold Path.copyEnd
  dsimp only
  rw [hrd, hwr]
  refine (if_neg (Nat.not_lt.2 hfit)).trans ((if_neg (ne_true_of_eq_false hclash)).trans (if_neg ?_))
  rw [hroom]
  simp

/-- A command that would be beyond the 64 open ranges, where every queue of its launch has room for two more entries. -/
theorem Path.copyEnd_fences (hfull : 64 < x.w.openRanges + (x.copyOpens s cmd q desc).length)
    (hroom : ∀ k, k < x.l.hdr.queues → x.w.pending k < 31) :
    x.copyEnd s i hd cmd q desc pat = x.finish s hd.hold (fun _ => x.next) (fun _ t => t)
      (fun w => x.enqueue s cmd q desc pat (x.copyOpens s cmd q desc) (x.fenceAll w)) := by
  unfold Path.copyReads at hrd
  unfold Path.copyWrites at hwr
  unfold Path.copyEnd
  dsimp only
  rw [hrd, hwr]
  have hrooms : (List.range x.l.hdr.queues).any (fun k => decide (31 ≤ x.w.pending k)) = false :=
    List.any_eq_false.2 fun k hk => by simpa using hroom k (List.mem_range.1 hk)
  exact (if_pos hfull).trans (if_neg (ne_true_of_eq_false hrooms))

end

section

variable {s : State} {i : Instr} {w : FWord} {nfo : Info} {x : Path} {ln : Lane} {cmd : Nat} {modes : List Nat} {desc : List Word} {pat : DWord}
  (hexec : exec i s = s.copyWord i w cmd modes) (hi : Issues s i nfo x {}) (hln : (x.exec w.hd).head? = some ln)
  (hqueue : FSpec w % 8 < x.l.hdr.queues) (hdesc : wordsOf 8 (readRegs x.old.s ln.t w.a 8) = desc)
  (hpat : (if cmd = 5 then BitVec.ofNat 64 (x.pair ln w.b) else 0) = pat)
  (hchecks : x.copyChecks s w.hd cmd modes (FSpec w % 8) (descNum desc) = none)

include hexec hi hln hqueue hdesc hpat hchecks

/-- A copy word whose checks pass ends with its command, and the change of the workgroup `h` that this comes to. -/
theorem State.copyWord_does {h : WG → WG}
    (hend : x.copyEnd s i w.hd cmd (FSpec w % 8) desc pat = x.finish s w.hd.hold (fun _ => x.next) (fun _ t => t) h)
    (hwid : ∀ v, (h v).wid = v.wid) (hover : ∀ v ts, h { v with threads := ts } = { h v with threads := ts })
    (hthreads : ∀ v, (h v).threads = v.threads) :
    Does s i x w.hd.hold (fun _ => x.cur.pc + 8) (fun ln => ln.t) s (h x.w) := by
  obtain ⟨ls, hls⟩ := Path.exec_cons hln
  have hqueue' : ¬ x.l.hdr.queues ≤ FSpec w % 8 := Nat.not_le.2 hqueue
  refine Does.of_finish (ck := fun x => { decl := if x.l.hdr.queues ≤ FSpec w % 8 && (x.exec w.hd).isEmpty then [14] else [] })
    (f := fun _ t => t) (h := h) (by simpa [hqueue'] using hi) hexec ?_ (State.path_parts hi.path).2.1 (Same.refl _) hwid
    (fun v ts => ?_) (fun _ => rfl) rfl
  · subst hdesc hpat
    simp only [hls]
    rw [if_neg hqueue', hchecks]
    exact hend
  · rw [hover]
    refine ⟨?_, rfl⟩
    rw [← hthreads v]

end

/-- What the fence entries that a command sends ahead leave in a queue. -/
theorem Path.fenceAll_queue (x : Path) (w : WG) {k : Nat} (hk : k < 8) : (x.fenceAll w).queues.getD k [] = w.queues.getD k []
    ++ if k < x.l.hdr.queues then [CopyCmd.fresh w.serial 0 k (2 ^ x.l.hdr.queues - 1) x.cur.pc [] 0] else [] := by
  refine (w.fence_queue (2 ^ x.l.hdr.queues - 1) x.cur.pc hk).trans ?_
  simp only [Nat.testBit_two_pow_sub_one, decide_eq_true_eq]

end Sys2Proof.Machine

section

open Sys2Proof Sys2Proof.Machine

/-- Settles O36: with its checks passed, a copy word ends in an advance beside its command's entry (`copyWord_does`), before which it fences
every queue where its ranges do not fit, and the entry leaves the parts of the workgroup as `enqueue_spec` says. -/
theorem copyWords : Obligations.CopyWords := by
  unfold Obligations.CopyWords
  intro row hrow s w nfo x ln q desc d pat es rd wr new after every fenced pending opened mine hln hqueue h8 hchecks hrd hwr hi
  have hexec := exec_copyRow hrow s w
  have hq : q < 8 := Nat.mod_lt _ (by decide)
  have hopen : opened = x.w.openRanges := x.w.openRanges_eq.symm
  refine ⟨fun hfit hclash hroom => ?enters, fun hfull hroom => ?fences⟩
  case enters =>
    obtain ⟨hranges, hserial, hwin, hgroups, hmine, hothers⟩ := x.enqueue_spec s row.2.1 q desc pat new x.w hq
    refine ⟨?_, hranges, hserial, hwin, hgroups, ⟨_, hmine, rfl, rfl, rfl, rfl, rfl, rfl, rfl⟩, hothers⟩
    refine State.copyWord_does (h := x.enqueue s row.2.1 q desc pat new) hexec hi hln hqueue rfl rfl hchecks
      (Path.copyEnd_enters hrd hwr (hopen ▸ hfit) hclash ?_) (x.enqueue_wid s _ _ _ _ _) (x.enqueue_over_threads s _ _ _ _ _)
      (x.enqueue_threads s _ _ _ _ _)
    rw [queuesRoom_copyRow hrow]
    exact decide_eq_true hroom
  case fences =>
    intro entry
    obtain ⟨hranges, hserial, hwin, hgroups, hmine, hothers⟩ := x.enqueue_spec s row.2.1 q desc pat new (x.fenceAll x.w) hq
    refine ⟨?_, hranges.trans (List.nil_append _), hserial, hwin, hgroups,
      ⟨x.entering s row.2.1 q desc pat (x.fenceAll x.w), hmine.trans ?_, rfl, rfl, rfl, rfl, rfl, rfl, rfl⟩,
      fun k hk hkq => (hothers k hk hkq).trans (x.fenceAll_queue x.w hk)⟩
    · exact State.copyWord_does (h := fun v => x.enqueue s row.2.1 q desc pat new (x.fenceAll v)) hexec hi hln hqueue rfl rfl hchecks
        (Path.copyEnd_fences hrd hwr (hopen ▸ hfull) hroom) (fun v => x.enqueue_wid s _ _ _ _ _ _)
        (fun v ts => x.enqueue_over_threads s _ _ _ _ _ (x.fenceAll v) ts) (fun v => x.enqueue_threads s _ _ _ _ _ _)
    · rw [x.fenceAll_queue x.w hq]

end

/-! SUPPORT and PROOF of the code version and launch words (O38): the end of a word beside a change of its context, writes of memory beside a
workgroup's threads, and the stages of LAUNCH. -/

namespace Sys2Proof.Machine

/-! ## Code versions (R322, R323) -/

/-- How a word completes that advances beside a change of the device that leaves its workgroups, and a change of its own workgroup. -/
theorem Does.of_advance {s m : State} {i : Instr} {nfo : Info} {x : Path} {ck : Path → Checks} {body : Path → State → State} {hold : Bool}
    {h : WG → WG} (hi : Issues s i nfo x (ck x)) (hexec : exec i s = s.word i ck body)
    (hbody : body x s = x.finish m hold (fun _ => x.next) (fun _ t => t) h) (hm : m.wgs = s.wgs) (hwid : ∀ w, (h w).wid = w.wid)
    (hover : ∀ (w : WG) (ts : List Thread),
      ({ (h { w with threads := ts }) with threads := w.threads } : WG) = h w ∧ (h { w with threads := ts }).threads = ts) :
    Does s i x hold (fun _ => x.cur.pc + 8) (fun ln => ln.t) m (h x.w) :=
  Does.of_finish hi hexec hbody (State.path_group_of_wgs hi.path hm) (Same.refl _) hwid hover (fun _ => rfl) rfl

/-- The end of a word and a change of a context do not meet. -/
theorem Path.finish_modCtx (x : Path) (s : State) (n : Nat) (c : Ctx → Ctx) (hold : Bool) (pc : Lane → Nat) (f : Lane → Thread → Thread)
    (h : WG → WG) : (x.finish s hold pc f h).modCtx n c = x.finish (s.modCtx n c) hold pc f h := by
  unfold Path.finish State.setHeld State.modCore
  split
  · next hc => rw [if_pos (by exact hc)]; rfl
  · next hc => rw [if_neg (by exact hc)]; rfl

/-- The end of a word and the sealing of versions do not meet. -/
theorem Path.finish_codes (x : Path) (s : State) (new : List CodeVer) (hold : Bool) (pc : Lane → Nat) (f : Lane → Thread → Thread)
    (h : WG → WG) : ({ x.finish s hold pc f h with codes := (x.finish s hold pc f h).codes ++ new } : State)
      = x.finish { s with codes := s.codes ++ new } hold pc f h := by
  unfold Path.finish State.setHeld State.modCore
  split
  · next hc => rw [if_pos (by exact hc)]; rfl
  · next hc => rw [if_neg (by exact hc)]; rfl

/-- The image of a handle after the executing lanes of a CVPUT have written into it (R322). -/
def Path.putImages (x : Path) (w : FWord) (img : List Byte) : List Byte :=
  (x.exec w.hd).foldl (fun m l => putImage m (x.read32 l w.b) (x.pair l w.c)) img

theorem State.cvput_does {s : State} {nfo : Info} {x : Path} {w : FWord} {ln : Lane} {img : List Byte} (hln : (x.exec w.hd).head? = some ln)
    (himg : s.openImage x.ctx (FSpec w % 4) (x.pair ln w.a) = some img)
    (hofs : ∀ l ∈ x.exec w.hd, x.read32 l w.b % 8 = 0 ∧ x.read32 l w.b < s.baseSize x.ctx (x.pair ln w.a) + 1048576)
    (hi : Issues s (.cvput w) nfo x { uniform := [(1, fun ln => x.pair ln w.a)] }) :
    Does s (.cvput w) x w.hd.hold (fun _ => x.cur.pc + 8) (fun ln => ln.t)
      (s.modCtx x.ctx (fun c => c.setHandle (FSpec w % 4) (some ⟨x.pair ln w.a, x.putImages w img⟩))) { x.w with noRelaunch := true } := by
  obtain ⟨ls, hls⟩ := Path.exec_cons hln
  refine Does.of_advance (h := fun g => { g with noRelaunch := true }) hi (exec_cvput s) ?_ rfl (fun _ => rfl) fun _ _ => ⟨rfl, rfl⟩
  have hbad : (x.exec w.hd).filter (fun l => x.read32 l w.b % 8 ≠ 0 || s.baseSize x.ctx (x.pair ln w.a) + 1048576 ≤ x.read32 l w.b) = [] :=
    List.filter_eq_nil_iff.2 fun l hl => by
      obtain ⟨halign, hlt⟩ := hofs l hl
      simp [halign, hlt]
  rw [hls] at hbad
  rw [← Path.finish_modCtx, Path.putImages]
  simp only [hls, himg, hbad]
  rfl

/-- How CVSEAL completes that writes a number beside a change `m` of the device. -/
theorem State.cvseal_does {s m : State} {nfo : Info} {x : Path} {w : FWord} {n : Nat} {body : Path → State → State}
    (hexec : exec (.cvseal w) s = s.word (.cvseal w) (fun _ => {}) body) (hi : Issues s (.cvseal w) nfo x {}) (hbody : body x s = x.sealed m w n)
    (hm : m.wgs = s.wgs) :
    Does s (.cvseal w) x w.hd.hold (fun _ => x.cur.pc + 8) (fun ln => ln.t) m
      (x.w.setS x.g.gid w.d [BitVec.ofNat 32 n, BitVec.ofNat 32 (n / 2 ^ 32)]) :=
  Does.of_advance (h := fun g => g.setS x.g.gid w.d (wordsOf 2 n)) (ck := fun _ => {}) hi hexec hbody hm (fun g => g.setS_wid ..)
    fun g ts => g.setS_over_threads x.g.gid w.d _ ts

/-- A version beside the end of the word that seals it (R323). -/
theorem Path.sealed_version (x : Path) (s : State) (w : FWord) (n : Nat) (c : Ctx → Ctx) (v : CodeVer) :
    ({ (x.sealed s w n).modCtx x.ctx c with codes := ((x.sealed s w n).modCtx x.ctx c).codes ++ [v] } : State)
      = x.sealed { s.modCtx x.ctx c with codes := s.codes ++ [v] } w n := by
  unfold Path.sealed
  rw [Path.finish_modCtx]
  exact Path.finish_codes ..

/-! ## Memory beside the workgroups -/

/-- A line comes into its set whatever the workgroups are. -/
theorem State.fillLine_over_wgs (s : State) (ws : List WG) (line : Nat) :
    ({ s with wgs := ws } : State).fillLine line = { s.fillLine line with wgs := ws } := by
  unfold State.fillLine
  dsimp only
  split
  · next h => rw [if_pos (by exact h)]
  · next h =>
    rw [if_neg (by exact h)]
    split
    · next i hi =>
      split
      · next j hj =>
        obtain rfl : i = j := Option.some.inj (hi.symm.trans hj)
        rfl
      · next hj => cases hi.symm.trans hj
    · next hi =>
      split
      · next j hj => cases hi.symm.trans hj
      · rfl

theorem State.fillLines_over_wgs (s : State) (ws : List WG) (ls : List Nat) :
    ls.foldl State.fillLine { s with wgs := ws } = { ls.foldl State.fillLine s with wgs := ws } := by
  induction ls generalizing s with
  | nil => rfl
  | cons l ls ih => rw [List.foldl_cons, State.fillLine_over_wgs, ih, List.foldl_cons]

theorem State.writeM_over_wgs (s : State) (ws : List WG) (ctx key : Nat) (cs : List Host.Cell) :
    ({ s with wgs := ws } : State).writeM ctx key cs = { s.writeM ctx key cs with wgs := ws } := by
  unfold State.writeM
  rw [State.fillLines_over_wgs]

theorem State.setDgen_over_wgs (s : State) (ws : List WG) (ctx : Nat) (t : Trans) :
    ({ s with wgs := ws } : State).setDgen ctx t = { s.setDgen ctx t with wgs := ws } := by
  unfold State.setDgen
  dsimp only
  split
  · next h => rw [if_pos (by exact h)]
  · next h => rw [if_neg (by exact h)]; rfl

/-! ## LAUNCH (R365) -/

section

variable (x : Path) (s : State) (w : FWord) (q record : Nat) (t : Trans) (cells : List Host.Cell)

/-- The device once a LAUNCH has written its record's bytes, `cells`, into the packet of a ring, which `t` is the place of. -/
def Path.handed : State :=
  { (((s.setDgen x.ctx t).writeM x.ctx t.key cells).modQueue q (fun d =>
      { d with wr := (d.wr + 1) % 2 ^ 32, devRecs := d.devRecs ++ [(d.wr, x.l.lid, s.lidNext)] })).modLaunch x.l.lid (fun l =>
      { l with children := l.children ++ [s.lidNext] }) with lidNext := s.lidNext + 1 }

/-- What LAUNCH leaves in its workgroup beside the threads. -/
def Path.launched (lid : Nat) (v : WG) : WG :=
  { v.setS x.g.gid w.d (wordsOf 2 (if x.l.isDet then 0 else lid)) with noRelaunch := true }

theorem Path.launched_wid (lid : Nat) (v : WG) : (x.launched w lid v).wid = v.wid := v.setS_wid ..

/-- The bytes of a record in its packet. -/
def Path.recordCells (lid : Nat) : List Host.Cell := cellsAt t.pa (bytesOf 128 (childRecord record x.l.lid lid))

theorem Path.handOver_eq : x.handOver s w q record t = x.finish (x.handed s q t (x.recordCells record t s.lidNext)) w.hd.hold (fun _ => x.next)
    (fun _ t => { t with launchAt := none }) (x.launched w s.lidNext) := rfl

theorem Path.handed_wgs : (x.handed s q t cells).wgs = s.wgs := by simp [Path.handed]

theorem Path.handed_over_wgs (ws : List WG) : x.handed { s with wgs := ws } q t cells = { x.handed s q t cells with wgs := ws } := by
  unfold Path.handed
  rw [State.setDgen_over_wgs, State.writeM_over_wgs]
  rfl

/-- What notes how far the LAUNCH of some lanes has come. -/
def stageThread (ls : List Lane) (z : Option (Option Nat)) (i : Nat) (t : Thread) : Thread :=
  if ls.any (fun l => l.tid == i) then { t with launchAt := z } else t

theorem stageThread_forgotten (ls : List Lane) (z : Option (Option Nat)) (i : Nat) (t : Thread) :
    ({ stageThread ls z i t with launchAt := none } : Thread) = { t with launchAt := none } := by
  unfold stageThread
  split <;> rfl

theorem Path.handed_stageAt (ls : List Lane) (z : Option (Option Nat)) : x.handed (x.stageAt s ls z) q t cells
    = (x.handed s q t cells).modWG x.w.wid (fun g => g.modThreads (stageThread ls z)) := by
  rw [State.modWG, x.handed_wgs]
  exact x.handed_over_wgs ..

/-- How far the LAUNCH of some lanes has come is forgotten at the end of the word. -/
theorem Path.finish_stageThread {ls : List Lane} (hls : ls ⊆ x.lanes) (z : Option (Option Nat)) (hold : Bool) (pc : Lane → Nat) (h : WG → WG) :
    x.finish (s.modWG x.w.wid (fun g => g.modThreads (stageThread ls z))) hold pc (fun _ t => { t with launchAt := none }) h
      = x.finish s hold pc (fun _ t => { t with launchAt := none }) h := by
  unfold Path.finish
  rw [State.modWG_modWG s x.w.wid (f := fun g => g.modThreads (stageThread ls z)) fun _ => rfl]
  refine congrArg (fun g => (s.modWG x.w.wid g).setHeld x hold) (funext fun v => congrArg h ?_)
  simp only [Path.onLanes, WG.modThreads, List.mapIdx_mapIdx]
  congr 2
  funext i u
  simp only [Function.comp]
  cases hlane : x.lanes.find? (fun l => l.tid == i) with
  | none =>
    have hnone : ls.any (fun l => l.tid == i) = false := List.any_eq_false.2 fun l hl => List.find?_eq_none.1 hlane l (hls hl)
    exact if_neg (ne_true_of_eq_false hnone)
  | some l => exact congrArg (fun t : Thread => t.past hold (pc l)) (stageThread_forgotten ls z i u)

theorem Path.handOver_stageAt {ls : List Lane} (hls : ls ⊆ x.lanes) (z : Option (Option Nat)) :
    x.handOver (x.stageAt s ls z) w q record t = x.handOver s w q record t := by
  have hlid : (x.stageAt s ls z).lidNext = s.lidNext := rfl
  rw [Path.handOver_eq, Path.handOver_eq, Path.handed_stageAt, hlid, x.finish_stageThread _ hls]

end

section

variable (x : Path) (s : State) (ls : List Lane) (z : Option (Option Nat))

/-! How far a LAUNCH has come rests in the threads alone. -/

@[simp] theorem Path.stageAt_queue (q : Nat) : (x.stageAt s ls z).queue q = s.queue q := rfl
@[simp] theorem Path.stageAt_mem : (x.stageAt s ls z).mem = s.mem := rfl
@[simp] theorem Path.stageAt_poisoned (pa n : Nat) : (x.stageAt s ls z).poisoned pa n = s.poisoned pa n := rfl
@[simp] theorem Path.stageAt_access (ctx va n al : Nat) (r w e : Bool) :
    (x.stageAt s ls z).access ctx va n al r w e = s.access ctx va n al r w e := rfl

end

/-- Lanes that have all come equally far with their LAUNCH have come that far together. -/
theorem launchStage_of_all {ls : List Lane} {z : Option (Option Nat)} (hne : ls ≠ []) (h : ∀ l ∈ ls, l.t.launchAt = z) :
    launchStage ls = z := by
  cases ls with
  | nil => exact absurd rfl hne
  | cons ln ls =>
    have hln : ln.t.launchAt = z := h ln List.mem_cons_self
    have hall : (ln :: ls).all (fun l => l.t.launchAt == ln.t.launchAt) = true :=
      List.all_eq_true.2 fun l hl => beq_iff_eq.2 ((h l hl).trans hln.symm)
    exact (if_pos hall).trans hln

/-- A record goes into a ring that has room, at a packet in reach. -/
theorem Path.intoRing_ok {x : Path} {s : State} {w : FWord} {q record : Nat} {u : Trans} (hroom : (s.queue q).full = false)
    (hacc : s.access x.ctx ((s.queue q).packetVa (s.queue q).wr) 128 1 false true false = .ok [u]) :
    x.intoRing s w q record = x.handOver s w q record u := by
  simp only [Path.intoRing, hroom, hacc, oneTrans, List.headD_cons, Bool.false_eq_true, if_false]

/-- The check of R365 on the queue that a LAUNCH names. -/
def Path.queueCheck (x : Path) (s : State) (w : FWord) : Checks :=
  { lane := fun ln => if 4096 ≤ x.read32 ln w.a ∨ (s.queue (x.read32 ln w.a)).ctx ≠ x.ctx then [14] else [] }

theorem Path.queueCheck_eq (x : Path) (s : State) (w : FWord) : x.queueCheck s w =
    { lane := fun ln => if 4096 ≤ x.read32 ln w.a || (s.queue (x.read32 ln w.a)).ctx ≠ x.ctx then [14] else [] } := by
  simp [Path.queueCheck]

section

variable {s s1 : State} {nfo : Info} {x : Path} {w : FWord} {ln : Lane} {t u : Trans} {packet : Nat}
  (hi : Issues s (.launch w) nfo x (x.queueCheck s w))

include hi

/-- How a LAUNCH completes that hands its record over beside a change of the device that leaves its workgroups. -/
theorem Does.of_handOver {ck : Path → Checks} {body : Path → State → State} (hexec : exec (.launch w) s = s.word (.launch w) ck body)
    (hck : ck x = x.queueCheck s w) {q : Nat} (hbody : body x s = x.handOver s1 w q packet u) (hm : s1.wgs = s.wgs) :
    Does s (.launch w) x w.hd.hold (fun _ => x.cur.pc + 8) (fun ln => { ln.t with launchAt := none })
      (x.handed s1 q u (x.recordCells packet u s1.lidNext)) (x.launched w s1.lidNext x.w) :=
  Does.of_finish (f := fun _ t => { t with launchAt := none }) (h := x.launched w s1.lidNext) (hck ▸ hi) hexec (hbody.trans (x.handOver_eq ..))
    (State.path_group_of_wgs hi.path ((x.handed_wgs ..).trans hm)) (Same.refl _) (x.launched_wid w _)
    (fun v ts => v.setS_mark_over_threads x.g.gid w.d _ ts) (fun _ => rfl) rfl

variable (hln : (x.exec w.hd).head? = some ln) (halign : x.pair ln w.b % 128 = 0)

include hln halign

/-- A LAUNCH that has not been tried before: the publish of its core, and the record read there (R245, R365). -/
theorem State.launch_does_first (hs1 : s1 = x.publishes s (x.exec w.hd)) (hfirst : ∀ l ∈ x.exec w.hd, l.t.launchAt = none)
    (hacc : s1.access x.ctx (x.pair ln w.b) 128 128 true false false = .ok [t]) (hpoison : s1.poisoned t.pa 128 = none)
    (hroom : (s1.queue (x.read32 ln w.a)).full = false)
    (hpacket : s1.access x.ctx ((s1.queue (x.read32 ln w.a)).packetVa (s1.queue (x.read32 ln w.a)).wr) 128 1 false true false = .ok [u])
    (hrecord : natOfBytes (s1.mem.readN t.key t.pa 128) = packet) :
    Does s (.launch w) x w.hd.hold (fun _ => x.cur.pc + 8) (fun ln => { ln.t with launchAt := none })
      (x.handed s1 (x.read32 ln w.a) u (x.recordCells packet u s1.lidNext)) (x.launched w s1.lidNext x.w) := by
  obtain ⟨ls, hls⟩ := Path.exec_cons hln
  have hlanes : ln :: ls ⊆ x.lanes := hls ▸ List.filter_subset_self (x.lanes)
  have hwgs : s1.wgs = s.wgs := hs1 ▸ State.publish_wgs ..
  rw [hls] at hs1 hfirst
  have hstage : launchStage (ln :: ls) = none := launchStage_of_all (List.cons_ne_nil _ _) hfirst
  refine Does.of_handOver hi (exec_launch s) (x.queueCheck_eq s w).symm ?_ hwgs
  simp only [hls, halign, hstage, ← hs1, Option.isSome_none, Bool.false_eq_true, if_false, Path.stageAt_access, hacc, ne_eq, not_true_eq_false,
    oneTrans, List.headD_cons, Path.stageAt_poisoned, hpoison, Path.stageAt_mem, hrecord]
  rw [Path.intoRing_ok (u := u) (by simpa using hroom) (by simpa using hpacket), x.handOver_stageAt _ _ _ _ _ hlanes,
    x.handOver_stageAt _ _ _ _ _ hlanes]

/-- A LAUNCH that has waited with its record hands it over as it stands (R365). -/
theorem State.launch_does_again (hagain : ∀ l ∈ x.exec w.hd, l.t.launchAt = some (some packet)) (hroom : (s.queue (x.read32 ln w.a)).full = false)
    (hpacket : s.access x.ctx ((s.queue (x.read32 ln w.a)).packetVa (s.queue (x.read32 ln w.a)).wr) 128 1 false true false = .ok [u]) :
    Does s (.launch w) x w.hd.hold (fun _ => x.cur.pc + 8) (fun ln => { ln.t with launchAt := none })
      (x.handed s (x.read32 ln w.a) u (x.recordCells packet u s.lidNext)) (x.launched w s.lidNext x.w) := by
  obtain ⟨ls, hls⟩ := Path.exec_cons hln
  rw [hls] at hagain
  have hstage : launchStage (ln :: ls) = some (some packet) := launchStage_of_all (List.cons_ne_nil _ _) hagain
  refine Does.of_handOver hi (exec_launch s) (x.queueCheck_eq s w).symm ?_ rfl
  simp only [hls, hstage]
  exact (if_neg (not_not.2 halign)).trans (Path.intoRing_ok hroom hpacket)

end

end Sys2Proof.Machine

section

open Sys2Proof Sys2Proof.Machine

/-- Settles O38: CVPUT and CVSEAL end in an advance beside a change of their context, and a LAUNCH, at its first try or after a wait for room, comes
to the hand-over of its record, where how far its lanes had come is forgotten. -/
theorem codeVersionAndLaunchWords : Obligations.CodeVersionAndLaunchWords := by
  unfold Obligations.CodeVersionAndLaunchWords
  refine ⟨fun s w nfo x ln img => ?codes, fun s w nfo x ln t u => ?launch⟩
  case codes =>
    intro h base ex next ends
    refine ⟨State.cvput_does, fun hi => ⟨fun hshut => ?_, fun v hopen => ⟨fun hbad => ?_, fun hok => ?_⟩⟩⟩
    · refine State.cvseal_does (exec_cvseal s) hi ?_ rfl
      dsimp only
      rw [hshut]
    · refine State.cvseal_does (exec_cvseal s) hi ?_ rfl
      dsimp only
      rw [hopen]
      exact if_pos (by rw [hbad]; rfl)
    · intro n
      refine ⟨State.cvseal_does (exec_cvseal s) hi ?_ rfl, Nat.mul_mod_left ..⟩
      dsimp only
      rw [hopen]
      refine (if_neg (by simp [hok])).trans ?_
      exact x.sealed_version ..
  case launch =>
    intro ex q ra other s1 hands hln halign
    refine ⟨fun hfirst hacc hpoison hi hroom hpacket => ?_, fun packet hagain hi hroom hpacket => ?_⟩
    · exact State.launch_does_first hi hln halign rfl hfirst hacc hpoison hroom hpacket rfl
    · exact State.launch_does_again hi hln halign hagain hroom hpacket

end

/-! PROOF of the reset state (O54). -/

section

open Sys2Proof Sys2Proof.Machine

/-- Settles O54: memory is the empty map, which is canonical (`State.reset_memWf`), and every other clause is a field of the reset state. -/
theorem resetState : Obligations.ResetState := by
  unfold Obligations.ResetState
  exact ⟨State.reset_memWf, rfl, rfl, rfl, rfl, rfl, rfl, rfl, rfl, rfl, rfl, rfl, rfl, rfl⟩

end

/-! SUPPORT and PROOF of the queue events (O47): the descriptor and its interrupt, the doorbell, and the packet at RD. -/

namespace Sys2Proof.Machine

/-! ## Descriptors (R234) -/

/-- After a queue's interrupt has been set by its STATUS, it stands exactly where the STATUS is not zero. -/
theorem State.mem_queueIrqAt_same (s : State) (q : Nat) : q ∈ (s.queueIrqAt q).lodge.queueIrq ↔ (s.queue q).status ≠ 0 := by
  unfold State.queueIrqAt
  by_cases hstatus : (s.queue q).status = 0
  · simp [hstatus]
  · simp [hstatus, mem_insertSet_iff]

/-- No other queue's interrupt changes. -/
theorem State.mem_queueIrqAt_other (s : State) {q k : Nat} (hk : k ≠ q) : k ∈ (s.queueIrqAt q).lodge.queueIrq ↔ k ∈ s.lodge.queueIrq := by
  unfold State.queueIrqAt
  by_cases hstatus : (s.queue q).status = 0
  · simp [hstatus, hk]
  · simp [hstatus, hk, mem_insertSet_iff]

theorem State.queue_modQueue_same (s : State) (q : Nat) (f : QDesc → QDesc) : (s.modQueue q f).queue q = f (s.queue q) :=
  (s.queue_modQueue q q f).trans (if_pos rfl)

theorem State.queue_modQueue_other (s : State) {q k : Nat} (f : QDesc → QDesc) (hk : k ≠ q) : (s.modQueue q f).queue k = s.queue k :=
  (s.queue_modQueue q k f).trans (if_neg hk)

theorem bitOf_toNat {n : Nat} (x : BitVec n) (i : Nat) : bitOf x.toNat i = x.getLsbD i := rfl

theorem exec_queueDescriptorWrite_rejected {s : State} {q : Nat} {x : BitVec 256} (hq : q < 4096) (hx : (s.queue q).accepts x.toNat = false) :
    exec (.queueDescriptorWrite q x) s = .next s.bindError := by
  rw [exec_queueDescriptorWrite, execQueueDescriptorWrite, if_neg (Nat.not_le.2 hq), hx]
  rfl

theorem exec_queueDescriptorWrite_accepted {s : State} {q : Nat} {x : BitVec 256} (hq : q < 4096) (hx : (s.queue q).accepts x.toNat = true) :
    exec (.queueDescriptorWrite q x) s = .next ((s.modQueue q (fun d => d.written x.toNat)).queueIrqAt q) := by
  rw [exec_queueDescriptorWrite, execQueueDescriptorWrite, if_neg (Nat.not_le.2 hq), if_pos hx]

/-! ## Doorbells (R235) -/

/-- The records of LAUNCH that a new WR leaves are those that lie between RD and it. -/
theorem QDesc.mem_setWr_devRecs {d : QDesc} {wr : Nat} {e : Nat × Nat × Nat} : e ∈ (d.setWr wr).devRecs ↔
    e ∈ d.devRecs ∧ (e.1 + 2 ^ 32 - d.rd) % 2 ^ 32 < (wr + 2 ^ 32 - d.rd) % 2 ^ 32 :=
  List.mem_filter.trans (and_congr_right fun _ => decide_eq_true_iff)

theorem exec_queueDoorbell_goes {s : State} {q : Nat} {wr : Word} (hq : q < 4096)
    (h : (s.modQueue q (fun d => d.setWr wr.toNat)).parses q = false ∨ (s.modQueue q (fun d => d.setWr wr.toNat)).preCode q = 0) :
    exec (.queueDoorbell q wr) s = .next (s.modQueue q (fun d => d.setWr wr.toNat)) := by
  rw [exec_queueDoorbell, execQueueDoorbell, if_neg (Nat.not_le.2 hq)]
  obtain h | h := h
  · simp [h]
  · simp [h]

theorem exec_queueDoorbell_rejects {s : State} {q : Nat} {wr : Word} (hq : q < 4096)
    (hparses : (s.modQueue q (fun d => d.setWr wr.toNat)).parses q = true)
    (hcode : (s.modQueue q (fun d => d.setWr wr.toNat)).preCode q ≠ 0) :
    exec (.queueDoorbell q wr) s = .next ((s.modQueue q (fun d => d.setWr wr.toNat)).reject q
      ((s.modQueue q (fun d => d.setWr wr.toNat)).preCode q)) := by
  rw [exec_queueDoorbell, execQueueDoorbell, if_neg (Nat.not_le.2 hq)]
  dsimp only
  rw [hparses]
  split
  · next h => cases h
  · split
    · next h => exact absurd h hcode
    · rfl

/-! ## The packet at RD (R235 to R237) -/

theorem pkType_eq (n : Nat) : pkType n = n % 256 := (bitsOf_eq_div n 0 8).trans (congrArg (· % 256) (Nat.div_one n))

section

variable {s : State} {q n c : Nat} (hn : s.readPacket q = .packet n)

include hn

theorem exec_launchPacket_unknown (hlaunch : n % 256 ≠ 1) (hwait : n % 256 ≠ 2) : exec (.launchPacket q) s = .next (s.reject q 1) := by
  simp only [exec_launchPacket, execLaunchPacket, hn, pkType_eq, hlaunch, hwait, if_false, ne_eq, not_false_eq_true, if_true]

theorem exec_launchPacket_code (hlaunch : n % 256 = 1)
    (hc : minOf (s.launchCodes (s.queue q) n ((s.queue q).devRecs.find? (fun e => e.1 == (s.queue q).rd)).isSome) = some c) :
    exec (.launchPacket q) s = .next (s.reject q c) := by
  simp [exec_launchPacket, execLaunchPacket, hn, pkType_eq, hlaunch, hc]

/-- A launch record of the host that breaks no rule becomes a launch. -/
theorem exec_launchPacket_launch (hlaunch : n % 256 = 1) (hchild : (s.queue q).devRecs.find? (fun e => e.1 == (s.queue q).rd) = none)
    (hc : minOf (s.launchCodes (s.queue q) n false) = none) {h : Hdr} (hh : s.kernelOf (s.queue q).ctx n = some h) :
    exec (.launchPacket q) s = .next (({ s with
        launches := s.launches ++ [s.newLaunch q (s.queue q).rd (s.queue q).ctx (completeRecord n (s.queue q) h 0 s.lidNext) h],
        lidNext := s.lidNext + 1 } : State).modQueue q
      (fun d => { d with rd := (d.rd + 1) % 2 ^ 32, devRecs := d.devRecs.filter (fun e => e.1 != d.rd) })) := by
  simp [exec_launchPacket, execLaunchPacket, hn, pkType_eq, hlaunch, hchild, hc, hh]

theorem exec_waitPacket_code (hwait : n % 256 = 2) (hc : minOf (waitCodes n) = some c) :
    exec (.waitPacket q) s = .next (s.reject q c) := by
  simp [exec_waitPacket, execWaitPacket, hn, pkType_eq, hwait, hc]

theorem exec_waitPacket_holds (hwait : n % 256 = 2) (hc : minOf (waitCodes n) = none) :
    exec (.waitPacket q) s = .next (s.modQueue q (fun d => { d with holding := some (n / 2 ^ 320 % 2 ^ 56, n / 2 ^ 512 % 2 ^ 64) })) := by
  simp only [exec_waitPacket, execWaitPacket, hn, pkType_eq, hwait, hc, pkSig, bitsOf_eq_div, ne_eq, not_true_eq_false, if_false]

end

/-- A wait packet whose word is in reach compares it with its count (R236). -/
theorem exec_waitPacketRelease_reads {s : State} {q va count : Nat} {t : Trans} (hhold : (s.queue q).holding = some (va, count))
    (hup : s.lodge.ready = true) (hen : (s.queue q).en = true) (hstall : (s.queue q).stalled = false)
    (hacc : s.access (s.queue q).ctx va 8 8 true false false = .ok [t]) (hpoison : s.poisoned t.pa 8 = none) :
    exec (.waitPacketRelease q) s = .next (if natOfBytes (s.mem.readN t.key t.pa 8) < count then s
      else s.modQueue q (fun d => { d with rd := (d.rd + 1) % 2 ^ 32, holding := none })) := by
  simp [exec_waitPacketRelease, execWaitPacketRelease, hhold, State.up, hup, hen, hstall, hacc, oneTrans, hpoison]

end Sys2Proof.Machine

section

open Sys2Proof Sys2Proof.Machine

/-- Settles O47: what a written descriptor holds is read off `QDesc.written`, its interrupt stands by its STATUS, and each move's end is an equation
of its own, by the packet that stands at RD. -/
theorem queueEvents : Obligations.QueueEvents := by
  unfold Obligations.QueueEvents
  refine ⟨fun s q hq => ⟨fun x => exec_queueDescriptorWrite_rejected hq, fun x hx => ?written, fun wr => ?doorbell⟩,
    fun s q => ⟨fun n hn => ?packet, fun va count t hhold hup hen hstall hacc hpoison => ?release⟩⟩
  case written =>
    intro t
    have hqueue : t.queue q = (s.queue q).written x.toNat := s.queue_modQueue_same q (fun d => d.written x.toNat)
    refine ⟨exec_queueDescriptorWrite_accepted hq hx, rfl, State.mem_queueIrqAt_same _ q, fun k hk => State.mem_queueIrqAt_other _ hk,
      fun k hk => s.queue_modQueue_other (fun d => d.written x.toNat) hk, ?_⟩
    rw [hqueue]
    simp [QDesc.written, QDesc.setWr, bitsOf_eq_div, bitOf_toNat]
  case doorbell =>
    intro m
    have hqueue : m.queue q = (s.queue q).setWr wr.toNat := s.queue_modQueue_same q _
    refine ⟨congrArg QDesc.wr hqueue, fun e => ?_, exec_queueDoorbell_goes hq, exec_queueDoorbell_rejects hq⟩
    rw [hqueue]
    exact QDesc.mem_setWr_devRecs
  case packet =>
    intro child reject
    refine ⟨exec_launchPacket_unknown hn, fun hlaunch c => exec_launchPacket_code hn hlaunch, fun hlaunch hchild hc h hh => ?_,
      fun hwait c => exec_waitPacket_code hn hwait, exec_waitPacket_holds hn⟩
    intro l t
    exact ⟨exec_launchPacket_launch hn hlaunch hchild hc hh, rfl, rfl, congrArg QDesc.rd (State.queue_modQueue_same _ q _), rfl⟩
  case release =>
    intro read
    have hreads := exec_waitPacketRelease_reads hhold hup hen hstall hacc hpoison
    exact ⟨fun hlt => hreads.trans (congrArg _ (if_pos hlt)), fun hle => hreads.trans (congrArg _ (if_neg (Nat.not_lt.2 hle)))⟩

end

/-! SUPPORT. Words that compute a result in each lane: what such a word yields, and how large an operand is. -/

namespace Sys2Proof.Machine

/-- A word that computes in each lane yields what its body gives, where its declared counts raise no cause. -/
theorem Yields.of_alu {s : State} {i : Instr} {nfo : Info} {x : Path} {d : Opnd} {decl : Path → List Nat} {g : State → Path → Lane → LaneRes}
    {f : Lane → LaneRes} (hexec : exec i s = s.alu i d decl g) (hdecl : decl x = []) (hg : ∀ ln, g s x ln = f ln)
    (hi : Issues s i nfo x { uniform := sDest d f }) : Yields s i nfo x d f := by
  have hissues : Issues s i nfo x { decl := decl x, uniform := sDest d f } := by rw [hdecl]; exact hi
  obtain ⟨t, ht, hcomputes⟩ := State.alu_yields hissues hg
  exact ⟨t, hexec.trans ht, hcomputes⟩

/-- A word that issues breaks none of its entry's rules. -/
theorem Issues.entry_causes {s : State} {i : Instr} {nfo : Info} {x : Path} {ck : Checks} {w : FWord} {e : Entry} {act : SpanAct}
    (hi : Issues s i nfo x ck) (hinfo : info i = some (fInfo w e act)) : fCauses w e = [] := by
  have hword := hi.word
  rw [hinfo, Option.some.injEq] at hword
  have hnil := hi.causes_nil
  rwa [← hword] at hnil

/-- A word without causes has a type that its entry accepts. -/
theorem ty_mem_of_fCauses {w : FWord} {e : Entry} (h : fCauses w e = []) : w.ty ∈ e.types := by
  simp only [fCauses, List.append_eq_nil_iff, and_assoc] at h
  obtain ⟨-, hty, -⟩ := h
  by_contra hmem
  by_cases hrsv : isRsv w.ty = true
  · simp [hrsv] at hty
  · simp [hrsv, hmem] at hty

/-! ## The size of an operand (R84, R95 to R98) -/

theorem numOf_lt (ws : List Word) : numOf ws < 2 ^ (32 * ws.length) := by
  induction ws with
  | nil => exact Nat.one_pos
  | cons w ws ih =>
    rw [numOf, List.length_cons, Nat.mul_succ, Nat.add_comm, Nat.pow_add]
    have hw := w.isLt
    calc 2 ^ 32 * numOf ws + w.toNat < 2 ^ 32 * (numOf ws + 1) := by omega
      _ ≤ 2 ^ 32 * 2 ^ (32 * ws.length) := Nat.mul_le_mul_left _ ih
      _ = 2 ^ (32 * ws.length) * 2 ^ 32 := Nat.mul_comm _ _

theorem wrapTo_lt (n : Nat) (e : Int) : wrapTo n e < 2 ^ n := by
  have hpos : (0 : Int) < ((2 ^ n : Nat) : Int) := by exact_mod_cast Nat.two_pow_pos n
  have hlt := Int.emod_lt_of_pos e hpos
  have hnonneg := Int.emod_nonneg e hpos.ne'
  unfold wrapTo
  omega

/-- The registers of a 32-bit or a 64-bit type hold it. -/
theorem bits_regsOf (ty : Ty) : 32 * regsOf ty = if is64 ty then 64 else 32 := by
  unfold regsOf
  split <;> rfl

theorem constInts_lt (k : Nat) : constInts.getD k 0 < 2 ^ 32 := by
  by_cases hk : k < 12
  · interval_cases k <;> decide
  · rw [List.getD_eq_default _ _ (Nat.le_of_not_lt hk)]
    decide

/-- An immediate of a float word fits the registers of its type. -/
theorem immBits_float_lt : ∀ ty ∈ floatTypes, ∀ k : BitVec 5, immBits ty (immVal k) < 2 ^ (32 * regsOf ty) := by decide +kernel

/-- A constant of a float word fits the registers of its type. -/
theorem constBits_float_lt : ∀ ty ∈ floatTypes, ∀ k : BitVec 4, constBits ty k.toNat < 2 ^ (32 * regsOf ty) := by decide +kernel

theorem immBits_lt {ty : Ty} (hty : isFloat ty = false ∨ ty ∈ floatTypes) (k : BitVec 5) : immBits ty (immVal k) < 2 ^ (32 * regsOf ty) := by
  rcases hty with hint | hfloat
  · rw [bits_regsOf, immBits, hint]
    exact wrapTo_lt _ _
  · exact immBits_float_lt ty hfloat k

theorem constBits_lt {ty : Ty} (hty : isFloat ty = false ∨ ty ∈ floatTypes) (k : BitVec 4) : constBits ty k.toNat < 2 ^ (32 * regsOf ty) := by
  rcases hty with hint | hfloat
  · rw [bits_regsOf, constBits, hint]
    simp only [Bool.false_eq_true, if_false]
    split
    · exact wrapTo_lt _ _
    · exact constInts_lt _
  · exact constBits_float_lt ty hfloat k

theorem readRegs_lt (s : SMap Word) (t : Thread) (o : Opnd) (n : Nat) : readRegs s t o n < 2 ^ (32 * n) := by
  unfold readRegs
  split
  · simpa only [SMap.length_getN] using numOf_lt (t.v.getN 0 _ n)
  · simpa only [SMap.length_getN] using numOf_lt (s.getN 0 _ n)
  · exact Nat.two_pow_pos _

/-- What a word reads of an operand in an integer, a bit or a full float type lies within the registers of the type. -/
theorem Path.read_lt (x : Path) (ln : Lane) {ty : Ty} (hty : isFloat ty = false ∨ ty ∈ floatTypes) (o : Opnd) :
    x.read ln ty o < 2 ^ (32 * regsOf ty) := by
  unfold Path.read readOpnd
  cases o with
  | v r => exact readRegs_lt _ _ _ _
  | s r => exact readRegs_lt _ _ _ _
  | imm k => exact immBits_lt hty k
  | const k => exact constBits_lt hty k
  | latch i =>
    rw [bits_regsOf]
    dsimp only
    split
    · exact BitVec.isLt _
    · exact Nat.mod_lt _ (Nat.two_pow_pos 32)
  | rsv c => exact Nat.two_pow_pos _
  | none => exact Nat.two_pow_pos _

theorem Path.read32_lt (x : Path) (ln : Lane) (o : Opnd) : x.read32 ln o < 2 ^ 32 := x.read_lt ln (.inl rfl) o

/-- The bit types are as wide as their registers. -/
theorem width_of_bitTypes {ty : Ty} (h : ty ∈ bitTypes) : 32 * regsOf ty = widthOf ty ∧ isFloat ty = false ∧ isSigned ty = false := by
  revert ty
  decide

end Sys2Proof.Machine

/-! SUPPORT and PROOF of the integer arithmetic (O3): an exact result written in a type, and what the immediate of a word reads as. -/

namespace Sys2Proof.Machine

variable {s : State} {i : Instr} {nfo : Info} {x : Path}

/-- A word of two sources in one type yields what its operation gives. -/
theorem Yields.of_binary {w : FWord} {n : Nat} {op : Nat → Nat → Nat × Nat} {r : Lane → Nat × Nat} (hexec : exec i s = s.binary i w n op)
    (hop : ∀ ln, op (x.read ln w.ty w.a) (x.read ln w.ty w.b) = r ln) :
    let f := fun ln => resultIn w.d n (r ln).1 (r ln).2 []
    Issues s i nfo x { uniform := sDest w.d f } → Yields s i nfo x w.d f :=
  Yields.of_alu hexec rfl fun ln => by rw [hop]

/-- An immediate form yields what its operation gives of source a and the immediate. -/
theorem Yields.of_binaryImm {w : IWord} {t : Ty} {op : Nat → Nat → Nat × Nat} {r : Lane → Nat} (hexec : exec i s = s.binaryImm i w t op)
    (hop : ∀ ln, op (x.read ln t w.a) (wrapTo (widthOf t) w.imm.toInt) = (r ln, 0)) :
    let f := fun ln => resultIn w.d (regsOf t) (r ln) 0 []
    Issues s i nfo x { uniform := sDest w.d f } → Yields s i nfo x w.d f :=
  Yields.of_alu hexec rfl fun ln => by rw [hop]

/-- Writing an exact result wraps it, or clamps it with SAT (R111, R351). -/
theorem finishInt_eq_writtenInt (t : Ty) (sat : Bool) (e : Int) : finishInt t sat e = writtenInt t sat e := by
  unfold finishInt writtenInt inRange clampInt wrapTo
  cases sat with
  | false => rfl
  | true =>
    by_cases hlow : e < minInt t
    · simp [hlow]
    · by_cases hhigh : maxInt t < e <;> simp [hlow, hhigh]

theorem intOp_eq_writtenInt {op : IntOp} (h : op ≠ .mulhi) (t : Ty) (sat : Bool) (a b : Nat) :
    intOp op t sat a b = writtenInt t sat (intExact op (intOf t a) (intOf t b)) := by
  rw [← finishInt_eq_writtenInt]
  cases op with
  | mulhi => exact absurd rfl h
  | _ => rfl

theorem intExact_imin (a b : Int) : intExact .imin a b = min a b := by
  show (if b < a then b else a) = min a b
  omega

theorem intExact_imax (a b : Int) : intExact .imax a b = max a b := by
  show (if a < b then b else a) = max a b
  omega

/-! ## Patterns as integers -/

/-- A pattern and its signed reading are congruent. -/
theorem signedOf_modEq {n : Nat} (hn : n ≠ 0) (a : Nat) : signedOf n a ≡ (a : Int) [ZMOD ((2 ^ n : Nat) : Int)] := by
  have hmod : ((a % 2 ^ n : Nat) : Int) ≡ (a : Int) [ZMOD ((2 ^ n : Nat) : Int)] := by
    rw [Int.natCast_mod]
    exact Int.mod_modEq _ _
  unfold signedOf
  dsimp only
  rw [if_neg hn]
  split
  · exact hmod
  · exact (Int.sub_modulus_modEq_iff).2 hmod

theorem wrapTo_congr {n : Nat} {e e' : Int} (h : e ≡ e' [ZMOD ((2 ^ n : Nat) : Int)]) : wrapTo n e = wrapTo n e' := congrArg Int.toNat h

/-- The 32-bit immediate reads back as itself. -/
theorem signedOf_wrapTo_imm (imm : BitVec 32) : signedOf 32 (wrapTo 32 imm.toInt) = imm.toInt := by
  have hlow := BitVec.le_toInt imm
  have hhigh := BitVec.toInt_lt (x := imm)
  unfold signedOf wrapTo
  norm_num at hlow hhigh ⊢
  split <;> omega

/-- An integer operation of the immediate forms raises no flag, and wraps its exact result of the two signed readings (R352). -/
theorem intOp_i32 {op : IntOp} (h : op ≠ .mulhi) (a b : Nat) :
    intOp op .i32 false a b = (wrapTo 32 (intExact op (signedOf 32 a) (signedOf 32 b)), 0) := by
  rw [intOp_eq_writtenInt h]
  rfl

theorem wrapTo_natCast (n a : Nat) : wrapTo n a = a % 2 ^ n := by
  rw [wrapTo, ← Int.natCast_mod, Int.toNat_natCast]

/-- The sum with an immediate wraps like the sum of the integers (R352). -/
theorem add_wrapTo_mod (a : Nat) (k : Int) : (a + wrapTo 64 k) % 2 ^ 64 = wrapTo 64 (a + k) := by
  unfold wrapTo
  norm_num
  omega

/-- A left shift by an immediate, as an integer written in 32 bits (R410). -/
theorem shiftOp_shl_wraps (a k : Nat) : shiftOp .shl 32 a k = wrapTo 32 (if 32 ≤ k then 0 else (a : Int) * 2 ^ k) := by
  show (if 32 ≤ k then 0 else a * 2 ^ k % 2 ^ 32) = _
  split
  · rfl
  · exact_mod_cast (wrapTo_natCast 32 (a * 2 ^ k)).symm

/-- A right shift by an immediate, as an integer written in 32 bits (R410). -/
theorem shiftOp_shr_wraps {a : Nat} (ha : a < 2 ^ 32) (k : Nat) : shiftOp .shr 32 a k = wrapTo 32 ((a : Int) / 2 ^ k) := by
  have hvalue : wrapTo 32 ((a : Int) / 2 ^ k) = a / 2 ^ k := by
    have hlt : a / 2 ^ k < 2 ^ 32 := (Nat.div_le_self _ _).trans_lt ha
    have h := wrapTo_natCast 32 (a / 2 ^ k)
    rw [Nat.mod_eq_of_lt hlt] at h
    exact_mod_cast h
  rw [hvalue]
  show (if 32 ≤ k then 0 else (a % 2 ^ 32) >>> k) = _
  split
  · next hk => exact (Nat.div_eq_of_lt (ha.trans_le (Nat.pow_le_pow_right (by decide) hk))).symm
  · rw [Nat.mod_eq_of_lt ha, Nat.shiftRight_eq_div_pow]

end Sys2Proof.Machine

section

open Sys2Proof Sys2Proof.Machine

/-- Settles O3: an exact result is written as `writtenInt` says, and an immediate reads as itself. -/
theorem integerArithmetic : Obligations.IntegerArithmetic := by
  unfold Obligations.IntegerArithmetic
  refine ⟨?exact, ?immediate, ?high⟩
  case exact =>
    intro row hrow s w nfo x
    simp only [exactRows, List.mem_cons, List.not_mem_nil, or_false] at hrow
    rcases hrow with rfl | rfl | rfl | rfl | rfl | rfl | rfl | rfl
    · exact Yields.of_binary (exec_iadd s) fun ln => intOp_eq_writtenInt (by decide) _ _ _ _
    · exact Yields.of_binary (exec_isub s) fun ln => intOp_eq_writtenInt (by decide) _ _ _ _
    · exact Yields.of_binary (exec_imul s) fun ln => intOp_eq_writtenInt (by decide) _ _ _ _
    · exact Yields.of_alu (exec_imad s) rfl fun ln => by
        dsimp only [imadOp]
        rw [finishInt_eq_writtenInt]
        rfl
    · exact Yields.of_binary (exec_imin s) fun ln => by
        rw [intOp_eq_writtenInt (by decide), intExact_imin]
        rfl
    · exact Yields.of_binary (exec_imax s) fun ln => by
        rw [intOp_eq_writtenInt (by decide), intExact_imax]
        rfl
    · exact Yields.of_binary (exec_iabs s) fun ln => by
        rw [intOp_eq_writtenInt (by decide), intExact, ← Int.abs_eq_natAbs]
        rfl
    · exact Yields.of_binary (exec_ineg s) fun ln => intOp_eq_writtenInt (by decide) _ _ _ _
  case immediate =>
    intro row hrow s w nfo x
    have hsigned : ∀ a : Nat, signedOf 32 a ≡ (a : Int) [ZMOD ((2 ^ 32 : Nat) : Int)] := signedOf_modEq (by decide)
    have himm := signedOf_wrapTo_imm w.imm
    have hmod : signedOf 32 (wrapTo 32 w.imm.toInt) ≡ w.imm.toInt [ZMOD ((2 ^ 32 : Nat) : Int)] := by rw [himm]
    have hwraps : ∀ {e e' : Int}, e ≡ e' [ZMOD ((2 ^ 32 : Nat) : Int)] → (wrapTo 32 e, 0) = (wrapTo 32 e', 0) := fun h => by rw [wrapTo_congr h]
    simp only [immediateRows, List.mem_cons, List.not_mem_nil, or_false] at hrow
    rcases hrow with rfl | rfl | rfl | rfl | rfl | rfl | rfl | rfl | rfl | rfl
    · exact Yields.of_binaryImm (exec_iaddImm s) fun ln => (intOp_i32 (by decide) _ _).trans (hwraps ((hsigned _).add hmod))
    · exact Yields.of_binaryImm (exec_isubImm s) fun ln => (intOp_i32 (by decide) _ _).trans (hwraps (hmod.sub (hsigned _)))
    · exact Yields.of_binaryImm (exec_imulImm s) fun ln => (intOp_i32 (by decide) _ _).trans (hwraps ((hsigned _).mul hmod))
    · exact Yields.of_binaryImm (exec_iminImm s) fun ln =>
        (intOp_i32 (by decide) _ _).trans (congrArg (wrapTo 32 ·, 0) ((intExact_imin _ _).trans (congrArg (min _) himm)))
    · exact Yields.of_binaryImm (exec_imaxImm s) fun ln =>
        (intOp_i32 (by decide) _ _).trans (congrArg (wrapTo 32 ·, 0) ((intExact_imax _ _).trans (congrArg (max _) himm)))
    · exact Yields.of_binaryImm (exec_imulhiImm s) fun ln => congrArg (fun e => (wrapTo 32 (signedOf 32 _ * e / ((2 ^ 32 : Nat) : Int)), 0)) himm
    · exact Yields.of_binaryImm (exec_leaImm s) fun ln => congrArg (·, 0) (add_wrapTo_mod _ _)
    · exact Yields.of_binaryImm (exec_shlImm s) fun ln => congrArg (·, 0) (shiftOp_shl_wraps _ _)
    · exact Yields.of_binaryImm (exec_shrImm s) fun ln => congrArg (·, 0) (shiftOp_shr_wraps (x.read_lt ln (.inl rfl) _) _)
    · exact Yields.of_binaryImm (exec_sarImm s) fun ln =>
        congrArg (fun m => (wrapTo 32 (signedOf 32 _ / ((2 ^ m : Nat) : Int)), 0)) (Nat.min_comm _ _)
  case high =>
    intro s w nfo x n
    exact Yields.of_binary (exec_imulhi s) fun ln => rfl

end

/-! SUPPORT and PROOF of the words on carries and comparisons (O4, O5). -/

namespace Sys2Proof.Machine

/-- A predicate that reads as false by number 7. -/
theorem Thread.pred_false (t : Thread) (n : Nat) : t.pred n false = (decide (n ≠ 7) && t.p.getLsbD n) := by
  unfold Thread.pred
  by_cases h : n = 7 <;> simp [h]

/-- The carry in, as an integer (R354). -/
theorem bit1_pred (t : Thread) (n : Nat) : (bit1 (t.pred n false) : Int) = if n ≠ 7 ∧ t.p.getLsbD n = true then 1 else 0 := by
  rw [Thread.pred_false]
  by_cases h : n ≠ 7 ∧ t.p.getLsbD n = true <;> simp_all [bit1]

/-- A carry word yields what `carryOp` gives of the carry in, and raises no flag (R354). -/
theorem Yields.of_carry {s : State} {i : Instr} {nfo : Info} {x : Path} {w : FWord} {sub : Bool} {val : Lane → Nat} {out : Lane → Bool}
    (hexec : exec i s = s.carry i w sub)
    (hval : ∀ ln, carryOp sub w.ty (x.read ln w.ty w.a) (x.read ln w.ty w.b) (ln.t.pred (bitsOf (FSpec w) 3 3) false) = (val ln, out ln)) :
    let f := fun ln => resultIn w.d (regsOf w.ty) (val ln) 0 [(FSpec w % 8, out ln)]
    Issues s i nfo x { uniform := sDest w.d f } → Yields s i nfo x w.d f :=
  Yields.of_alu hexec rfl fun ln => by rw [hval]

/-- An ordered condition on a bit type is cause 9 of ICMP (R358). -/
theorem icmp_ordered_bit {w : FWord} (hbit : isBit w.ty = true) (hcc : 2 ≤ bitsOf (FSpec w) 3 4) : 9 ∈ causesOf (.icmp w) := by
  have hextra : (if isBit w.ty && 2 ≤ bitsOf (FSpec w) 3 4 then [9] else []) = [9] := if_pos (by simp [hbit, hcc])
  show 9 ∈ fCauses w (cmpEntry w (intTypes ++ bitTypes) 6 false (if isBit w.ty && 2 ≤ bitsOf (FSpec w) 3 4 then [9] else []))
  rw [hextra]
  exact List.mem_append_right _ (List.mem_append_right _ List.mem_cons_self)

end Sys2Proof.Machine

section

open Sys2Proof Sys2Proof.Machine

/-- Settles O4: the model's carry in is the statement's, and its sum and carry out are then the same. -/
theorem carryAndBorrow : Obligations.CarryAndBorrow := by
  unfold Obligations.CarryAndBorrow
  intro row hrow s w nfo x n ci
  have hcin := fun ln : Lane => bit1_pred ln.t ci
  simp only [carryRows, List.mem_cons, List.not_mem_nil, or_false] at hrow
  rcases hrow with rfl | rfl
  · exact Yields.of_carry (exec_iaddc s) fun ln => by
      dsimp only
      rw [← hcin]
      rfl
  · exact Yields.of_carry (exec_isubb s) fun ln => by
      dsimp only
      rw [← hcin]
      rfl

/-- Settles O5: the mask and the predicate hold the model's comparison, which is the statement's condition by condition. -/
theorem integerCompare : Obligations.IntegerCompare := by
  unfold Obligations.IntegerCompare
  exact ⟨fun s w nfo x => Yields.of_alu (exec_icmp s) rfl fun ln => rfl, fun w => icmp_ordered_bit⟩

end

/-! SUPPORT and PROOF of the words on bits, shifts, moves and predicates (O6, O7, O8, O10): counts and fields of bits as arithmetic. -/

namespace Sys2Proof.Machine

/-! ## Bits and fields (R355, R356, R375, R376) -/

theorem popCount_eq_countP (n a : Nat) : popCount n a = (List.range n).countP (fun i => a.testBit i) := by
  induction n with
  | zero => rfl
  | succ n ih =>
    rw [popCount, ih, List.range_succ, List.countP_append, List.countP_singleton, Nat.add_comm]
    rfl

/-- The top bit of an (n + 1)-bit pattern. -/
theorem testBit_top_iff {n a : Nat} (ha : a < 2 ^ (n + 1)) : a.testBit n = true ↔ 2 ^ n ≤ a :=
  ⟨Nat.ge_two_pow_of_testBit, fun h => Nat.testBit_of_two_pow_le_and_two_pow_add_one_gt h ha⟩

theorem leadZeros_eq_log2 {n a : Nat} (ha : a < 2 ^ n) : leadZeros n a = if a = 0 then n else n - 1 - Nat.log2 a := by
  induction n with
  | zero =>
    have hzero : a = 0 := by simpa using ha
    simp [hzero, leadZeros]
  | succ n ih =>
    rw [leadZeros]
    split
    · next htop =>
      have hge := (testBit_top_iff ha).1 htop
      have hne : a ≠ 0 := ((Nat.two_pow_pos n).trans_le hge).ne'
      rw [if_neg hne, (Nat.log2_eq_iff hne).2 ⟨hge, ha⟩]
      omega
    · next htop =>
      have hlt : a < 2 ^ n := Nat.lt_of_not_le fun hge => htop ((testBit_top_iff ha).2 hge)
      rw [ih hlt]
      split
      · omega
      · next hne =>
        have := (Nat.log2_lt hne).2 hlt
        omega

/-- A field sign-extended to n bits (R355). -/
theorem wrapTo_signedOf_field {l n f : Nat} (hln : l + 1 ≤ n) (hf : f < 2 ^ (l + 1)) :
    wrapTo n (signedOf (l + 1) f) = if f.testBit l = true then f + 2 ^ n - 2 ^ (l + 1) else f := by
  have hpow : 2 ^ (l + 1) ≤ 2 ^ n := Nat.pow_le_pow_right (by decide) hln
  have htop := testBit_top_iff hf
  have hvalue : signedOf (l + 1) f = if f < 2 ^ l then (f : Int) else (f : Int) - (2 ^ (l + 1) : Nat) := by
    unfold signedOf
    rw [if_neg (Nat.succ_ne_zero l), Nat.mod_eq_of_lt hf, Nat.add_sub_cancel]
  rw [hvalue]
  by_cases hneg : 2 ^ l ≤ f
  · have hwraps : (f : Int) - (2 ^ (l + 1) : Nat) ≡ ((f + 2 ^ n - 2 ^ (l + 1) : Nat) : Int) [ZMOD ((2 ^ n : Nat) : Int)] := by
      have hcast : ((f + 2 ^ n - 2 ^ (l + 1) : Nat) : Int) = (f : Int) - (2 ^ (l + 1) : Nat) + (2 ^ n : Nat) := by omega
      rw [hcast]
      exact (Int.add_modulus_modEq_iff.2 rfl).symm
    rw [if_neg (Nat.not_lt.2 hneg), if_pos (htop.2 hneg), wrapTo_congr hwraps, wrapTo_natCast, Nat.mod_eq_of_lt (by omega)]
  · rw [if_pos (Nat.not_le.1 hneg), if_neg (fun h => hneg (htop.1 h)), wrapTo_natCast, Nat.mod_eq_of_lt (hf.trans_le hpow)]

/-- IBFE's field, extended by its top bit where the type is signed (R355). -/
theorem ibfeOp_eq (t : Ty) (a pl : Nat) :
    let n := widthOf t
    let p := pl % 256
    let l := min (pl / 256 % 256) n
    let f := ofBits (fun i => if p + i < n then a.testBit (p + i) else isSigned t && a.testBit (n - 1)) l
    ibfeOp t a pl = if l ≠ 0 ∧ isSigned t = true ∧ f.testBit (l - 1) = true then f + 2 ^ n - 2 ^ l else f := by
  intro n p l f
  have hf : f < 2 ^ l := ofBits_lt _ _
  have hln : l ≤ n := Nat.min_le_right _ _
  show (if l = 0 then 0 else if isSigned t then wrapTo n (signedOf l f) else f) = _
  clear_value f l
  cases l with
  | zero =>
    have hzero : f = 0 := by simpa using hf
    simp [hzero]
  | succ l =>
    rw [wrapTo_signedOf_field hln hf]
    cases isSigned t <;> simp

/-- LEA's sum (R375). -/
theorem leaOp_eq (a : Nat) {b : Nat} (hb : b < 2 ^ 32) (sx : Bool) (sh : Nat) :
    leaOp a b sx sh = (((a : Int) + (if sx then signedOf 32 b else b) * 2 ^ sh) % 2 ^ 64).toNat := by
  unfold leaOp wrapTo
  rw [Nat.mod_eq_of_lt hb]
  push_cast
  rfl

/-! ## Shifts (R410) -/

theorem shiftOp_shl (n a k : Nat) : shiftOp .shl n a k = if k < n then a * 2 ^ k % 2 ^ n else 0 := by
  show (if n ≤ k then 0 else a * 2 ^ k % 2 ^ n) = _
  split <;> split <;> omega

theorem shiftOp_shr {n a : Nat} (ha : a < 2 ^ n) (k : Nat) : shiftOp .shr n a k = if k < n then a / 2 ^ k else 0 := by
  show (if n ≤ k then 0 else (a % 2 ^ n) >>> k) = _
  rw [Nat.mod_eq_of_lt ha, Nat.shiftRight_eq_div_pow]
  split <;> split <;> omega

/-- A number of n bits, read with its sign. -/
theorem signedOf_bounds {n : Nat} (a : Nat) : -((2 ^ n : Nat) : Int) ≤ signedOf n a ∧ signedOf n a < ((2 ^ n : Nat) : Int) := by
  have hlt : a % 2 ^ n < 2 ^ n := Nat.mod_lt _ (Nat.two_pow_pos n)
  unfold signedOf
  dsimp only
  split
  · omega
  · split <;> omega

/-- A count of n or more leaves the sign alone (R410). -/
theorem wrapTo_signedOf_div (n a : Nat) :
    wrapTo n (signedOf n a / ((2 ^ n : Nat) : Int)) = if 0 ≤ signedOf n a then 0 else 2 ^ n - 1 := by
  obtain ⟨hlow, hhigh⟩ := signedOf_bounds (n := n) a
  have hpos := Nat.two_pow_pos n
  split
  · next hnonneg =>
    rw [Int.ediv_eq_zero_of_lt hnonneg hhigh]
    exact Int.toNat_zero ▸ congrArg Int.toNat (Int.zero_emod _)
  · next hneg =>
    have hdiv : signedOf n a / ((2 ^ n : Nat) : Int) = -1 := by
      rw [Int.ediv_eq_iff_of_pos (by exact_mod_cast hpos)]
      omega
    have hwraps : (-1 : Int) ≡ ((2 ^ n - 1 : Nat) : Int) [ZMOD ((2 ^ n : Nat) : Int)] := by
      have hcast : ((2 ^ n - 1 : Nat) : Int) = -1 + (2 ^ n : Nat) := by omega
      rw [hcast]
      exact (Int.add_modulus_modEq_iff.2 rfl).symm
    rw [hdiv, wrapTo_congr hwraps, wrapTo_natCast, Nat.mod_eq_of_lt (by omega)]

theorem shiftOp_sar (n a k : Nat) : shiftOp .sar n a k =
    if k < n then (signedOf n a / 2 ^ k % 2 ^ n).toNat else if 0 ≤ signedOf n a then 0 else 2 ^ n - 1 := by
  show wrapTo n (signedOf n a / ((2 ^ min k n : Nat) : Int)) = _
  split
  · next hk =>
    rw [Nat.min_eq_left hk.le, wrapTo]
    push_cast
    rfl
  · next hk => rw [Nat.min_eq_right (Nat.not_lt.1 hk), wrapTo_signedOf_div]

/-- A shift yields what `shiftOp` gives of its source and its count (R409, R410). -/
theorem Yields.of_shift {s : State} {i : Instr} {nfo : Info} {x : Path} {w : FWord} {op : ShiftOp} {r : Lane → Nat} (hexec : exec i s = s.shift i w op)
    (hr : ∀ ln, shiftOp op (widthOf w.ty) (x.read ln w.ty w.a) (x.read32 ln w.b) = r ln) :
    let f := fun ln => resultIn w.d (regsOf w.ty) (r ln) 0 []
    Issues s i nfo x { uniform := sDest w.d f } → Yields s i nfo x w.d f :=
  Yields.of_alu hexec rfl fun ln => by rw [hr]

/-! ## Predicates (R398, R399) -/

theorem pmov_mask_eq (m : Nat) (p : BitVec 7) : ofBits (fun i => m.testBit i && p.getLsbD i) 7 = m % 128 &&& p.toNat := by
  refine Nat.eq_of_testBit_eq fun i => ?_
  rw [testBit_ofBits, Nat.testBit_and, show (128 : Nat) = 2 ^ 7 from rfl, Nat.testBit_mod_two_pow, Bool.and_assoc]
  rfl

/-- The predicate that a PLOP source names (R398). -/
theorem predSrcOf_imm (t : Thread) (k : BitVec 5) : predSrcOf t (.imm k) = (decide (k = 23#5) || t.p.getLsbD (k.toNat - 16)) := by
  have hk := k.isLt
  have htrue : k.toNat - 16 = 7 ↔ k = 23#5 := by
    rw [← BitVec.toNat_inj]
    show _ ↔ k.toNat = 23
    omega
  show (if k.toNat - 16 = 7 then true else t.p.getLsbD (k.toNat - 16)) = _
  by_cases h : k = 23#5 <;> simp [htrue, h]

end Sys2Proof.Machine

section

open Sys2Proof Sys2Proof.Machine

/-- Settles O6: each word's model is the statement's count, field or table, where the bit words read no more than the width of their type. -/
theorem bitFieldAndLogicWords : Obligations.BitFieldAndLogicWords := by
  unfold Obligations.BitFieldAndLogicWords
  refine ⟨?fields, ?logic⟩
  case fields =>
    intro s w nfo x n a yields
    refine ⟨?popc, ?clz, ?brev, ?bfe, ?bfi⟩
    case popc => exact Yields.of_binary (exec_ipopc s) fun ln => congrArg (·, 0) (popCount_eq_countP _ _)
    case clz =>
      intro hi
      obtain ⟨hwidth, hint, -⟩ := width_of_bitTypes (ty_mem_of_fCauses (hi.entry_causes rfl))
      exact Yields.of_binary (exec_iclz s) (fun ln => congrArg (·, 0) (leadZeros_eq_log2 (hwidth ▸ x.read_lt ln (.inl hint) w.a))) hi
    case brev => exact Yields.of_binary (exec_ibrev s) fun ln => rfl
    case bfe =>
      exact Yields.of_alu (exec_ibfe s) rfl fun ln => by
        dsimp only
        rw [ibfeOp_eq]
    case bfi =>
      exact Yields.of_alu (exec_ibfi s) rfl fun ln => by
        simp only [ibfiOp, Bool.and_eq_true, decide_eq_true_eq]
        rfl
  case logic =>
    intro s w nfo x yields
    refine ⟨?lop, ?lea⟩
    case lop => exact Yields.of_alu (exec_lop s) rfl fun ln => rfl
    case lea =>
      exact Yields.of_alu (exec_lea s) rfl fun ln => by
        dsimp only
        rw [leaOp_eq _ (x.read32_lt ln w.b)]
        rfl

/-- Settles O7: `shiftOp` at every count, on sources no wider than the type. -/
theorem shiftWords : Obligations.ShiftWords := by
  unfold Obligations.ShiftWords
  intro row hrow s w nfo x
  simp only [shiftRows, List.mem_cons, List.not_mem_nil, or_false] at hrow
  rcases hrow with rfl | rfl | rfl
  · exact Yields.of_shift (exec_shl s) fun ln => shiftOp_shl _ _ _
  · intro f hi
    obtain ⟨hwidth, hint, -⟩ := width_of_bitTypes (ty_mem_of_fCauses (hi.entry_causes rfl))
    exact Yields.of_shift (exec_shr s) (fun ln => shiftOp_shr (hwidth ▸ x.read_lt ln (.inl hint) w.a) _) hi
  · exact Yields.of_shift (exec_sar s) fun ln => shiftOp_sar _ _ _

/-- Settles O8: the predicate that SEL reads is false by number 7. -/
theorem selectAndMove : Obligations.SelectAndMove := by
  unfold Obligations.SelectAndMove
  intro s w k nfo x yields
  refine ⟨?sel, ?mov, ?movi⟩
  case sel =>
    exact Yields.of_alu (exec_sel s) rfl fun ln => by
      dsimp only
      rw [Thread.pred_false]
      rfl
  case mov => exact Yields.of_binary (exec_mov s) fun ln => rfl
  case movi => exact Yields.of_alu (exec_movi s) rfl fun ln => rfl

/-- Settles O10: every word reads its predicates in the thread as the word found it. -/
theorem predicateWords : Obligations.PredicateWords := by
  unfold Obligations.PredicateWords
  intro s w nfo x m bit yields
  refine ⟨?plop, ?toReg, ?fromReg, ?pred⟩
  case plop =>
    refine Yields.of_alu (exec_plop s) rfl fun ln => ?_
    have hsource : ∀ o : Opnd, predSrcOf ln.t o = match o with
        | .imm k => decide (k = 23#5) || ln.t.p.getLsbD (k.toNat - 16)
        | _ => false := fun o => by
      cases o with
      | imm k => exact predSrcOf_imm ln.t k
      | _ => rfl
    dsimp only
    rw [hsource w.a, hsource w.b, hsource w.c]
    rfl
  case toReg =>
    exact Yields.of_alu (exec_pmovToReg s) rfl fun ln => by
      rw [show ofBits (fun i => bitOf w.mods.toNat i && ln.t.p.getLsbD i) 7 = _ from pmov_mask_eq m ln.t.p]
  case fromReg => exact Yields.of_alu (exec_pmovFromReg s) rfl fun ln => rfl
  case pred =>
    exact Yields.of_alu (exec_pmovPred s) rfl fun ln => by
      rw [Thread.pred_false]
      rfl

end

/-! SUPPORT and PROOF of the float words (O12, O14): the sign bits of a value or of a packed pair. -/

namespace Sys2Proof.Machine

variable {s : State} {i : Instr} {nfo : Info} {x : Path} {w : FWord}

theorem Yields.of_float {op : FloatOp} (hexec : exec i s = s.float i w op) :
    let f := fun ln =>
      let r := floatOp op w.ty (rndOf (FRnd w)) (FSat w) (FFtz w) (x.read ln w.ty w.a) (x.read ln w.ty w.b) (x.read ln w.ty w.c)
      resultIn w.d (regsOf w.ty) r.1 r.2 []
    Issues s i nfo x { uniform := sDest w.d f } → Yields s i nfo x w.d f :=
  Yields.of_alu hexec rfl fun _ => rfl

theorem Yields.of_floatImm {w : IWord} {op : FloatOp} (hexec : exec i s = s.floatImm i w op) :
    let f := fun ln =>
      let r := floatOp op .f32 .rn false false (x.read ln .f32 w.a) w.imm.toNat 0
      resultIn w.d 1 r.1 r.2 []
    Issues s i nfo x { uniform := sDest w.d f } → Yields s i nfo x w.d f :=
  Yields.of_alu hexec rfl fun _ => rfl

theorem Yields.of_specialFn {op : SpecialFn} (hexec : exec i s = s.specialFn i w op) :
    let f := fun ln =>
      let r := specialF op w.ty (rndOf (FRnd w)) (FFtz w) (x.read ln w.ty w.a)
      resultIn w.d (regsOf w.ty) r.1 r.2 []
    Issues s i nfo x { uniform := sDest w.d f } → Yields s i nfo x w.d f :=
  Yields.of_binary hexec fun _ => rfl

/-! ## Sign bits (R112, R329) -/

/-- What FABS and FNEG do to one value of k + 1 bits: the low k bits stay, and the sign goes or is inverted. -/
def signOne (neg : Bool) (k v : Nat) : Nat := v % 2 ^ k + if neg && !v.testBit k then 2 ^ k else 0

theorem testBit_signOne (neg : Bool) (k v j : Nat) :
    (signOne neg k v).testBit j = if j = k then neg && !v.testBit k else decide (j < k) && v.testBit j := by
  have hlt : v % 2 ^ k < 2 ^ k := Nat.mod_lt _ (Nat.two_pow_pos k)
  have hsplit : signOne neg k v = 2 ^ k * (neg && !v.testBit k).toNat + v % 2 ^ k := by
    unfold signOne
    cases neg && !v.testBit k <;> simp [Nat.add_comm]
  rw [hsplit, Nat.testBit_two_pow_mul_add _ hlt]
  rcases Nat.lt_trichotomy j k with hjk | rfl | hjk
  · simp [hjk, hjk.ne, Nat.testBit_mod_two_pow]
  · cases neg && !v.testBit j <;> simp
  · have hne : j - k ≠ 0 := by omega
    cases neg && !v.testBit k <;> simp [hjk.ne', hjk.not_gt, Nat.testBit_lt_two_pow (Nat.one_lt_two_pow hne)]

/-- The sign bits of a value in a register of a float type (R329). -/
def signsOf (ty : Ty) : Nat := if ty = .f64 then 2 ^ 63 else if ty = .h16 ∨ ty = .bf16 then 2 ^ 31 + 2 ^ 15 else 2 ^ 31

/-- One value, bit by bit: its sign bit is cleared or inverted, every other bit stays. -/
theorem testBit_signOne_of_lt (neg : Bool) {k v : Nat} (hv : v < 2 ^ (k + 1)) (j : Nat) :
    (signOne neg k v).testBit j = if (2 ^ k).testBit j = true then neg && !v.testBit j else v.testBit j := by
  rw [testBit_signOne, Nat.testBit_two_pow]
  rcases Nat.lt_trichotomy j k with hjk | rfl | hjk
  · simp [hjk, hjk.ne, hjk.ne']
  · simp
  · have hhigh : v.testBit j = false := Nat.testBit_lt_two_pow (hv.trans_le (Nat.pow_le_pow_right (by decide) hjk))
    simp [hhigh, hjk.ne, hjk.ne', hjk.not_gt]

theorem signOne_lt (neg : Bool) {k v : Nat} : signOne neg k v < 2 ^ (k + 1) := by
  have hlt : v % 2 ^ k < 2 ^ k := Nat.mod_lt _ (Nat.two_pow_pos k)
  unfold signOne
  rw [Nat.pow_succ]
  split <;> omega

/-- A packed pair, bit by bit, as its halves (R117). -/
theorem testBit_signOne_pair (neg : Bool) {a : Nat} (ha : a < 2 ^ 32) (j : Nat) :
    (signOne neg 15 (a / 2 ^ 16) * 65536 + signOne neg 15 (a % 2 ^ 16)).testBit j
      = if (2 ^ 31 + 2 ^ 15 : Nat).testBit j = true then neg && !a.testBit j else a.testBit j := by
  have hsigns : (2 ^ 31 + 2 ^ 15 : Nat) = 2 ^ 16 * 2 ^ 15 + 2 ^ 15 := by decide
  have hhigh : a / 2 ^ 16 < 2 ^ 16 := by omega
  have hlow : a % 2 ^ 16 < 2 ^ 16 := Nat.mod_lt _ (by decide)
  rw [Nat.mul_comm, show (65536 : Nat) = 2 ^ 16 from rfl, Nat.testBit_two_pow_mul_add _ (signOne_lt neg), hsigns,
    Nat.testBit_two_pow_mul_add _ (by decide), testBit_signOne_of_lt neg hlow, testBit_signOne_of_lt neg hhigh]
  by_cases hj : j < 16
  · simp only [hj, if_true, Nat.testBit_mod_two_pow, decide_true, Bool.true_and]
  · simp only [hj, if_false, Nat.testBit_div_two_pow, Nat.sub_add_cancel (Nat.not_lt.1 hj)]

/-- FABS and FNEG bit by bit, in every float type: a sign bit is cleared or inverted, every other bit stays. -/
theorem testBit_signOp {ty : Ty} (hty : ty ∈ floatTypes) (neg : Bool) {a : Nat} (ha : a < 2 ^ (32 * regsOf ty)) (j : Nat) :
    (signOp neg ty a).testBit j = if (signsOf ty).testBit j = true then neg && !a.testBit j else a.testBit j := by
  have hpair : a < 2 ^ 32 → signOne neg 15 (bitsOf a (16 * 1) 16) * 65536 + signOne neg 15 (bitsOf a (16 * 0) 16)
      = signOne neg 15 (a / 2 ^ 16) * 65536 + signOne neg 15 (a % 2 ^ 16) := fun h => by
    rw [bitsOf_eq_div, bitsOf_eq_div, Nat.mod_eq_of_lt (show a / 2 ^ (16 * 1) < 2 ^ 16 by omega)]
    simp
  simp only [floatTypes, List.mem_cons, List.not_mem_nil, or_false] at hty
  rcases hty with rfl | rfl | rfl | rfl
  · exact testBit_signOne_of_lt neg (k := 31) ha j
  · exact testBit_signOne_of_lt neg (k := 63) ha j
  · exact (congrArg (Nat.testBit · j) (hpair ha)).trans (testBit_signOne_pair neg ha j)
  · exact (congrArg (Nat.testBit · j) (hpair ha)).trans (testBit_signOne_pair neg ha j)

/-- What a mask clears, subtracted. -/
theorem testBit_sub_and (a m j : Nat) : (a - (a &&& m)).testBit j = (a.testBit j && !m.testBit j) := by
  have hsum : (a &&& m) + (a ^^^ (a &&& m)) = a := by
    induction a using Nat.binaryRec generalizing m with
    | zero => simp
    | bit b a ih =>
      rw [← Nat.bit_bodd_div2 m]
      simp only [Nat.land_bit, Nat.xor_bit]
      have hhalf := ih m.div2
      cases b <;> cases m.bodd <;> simp [Nat.bit] at * <;> omega
  have hsub : a - (a &&& m) = a ^^^ (a &&& m) := by omega
  rw [hsub, Nat.testBit_xor, Nat.testBit_and]
  cases a.testBit j <;> simp

theorem signOp_abs {ty : Ty} (hty : ty ∈ floatTypes) {a : Nat} (ha : a < 2 ^ (32 * regsOf ty)) :
    signOp false ty a = a - (a &&& signsOf ty) := by
  refine Nat.eq_of_testBit_eq fun j => ?_
  rw [testBit_signOp hty false ha, testBit_sub_and]
  cases (signsOf ty).testBit j <;> simp

theorem signOp_neg {ty : Ty} (hty : ty ∈ floatTypes) {a : Nat} (ha : a < 2 ^ (32 * regsOf ty)) : signOp true ty a = a ^^^ signsOf ty := by
  refine Nat.eq_of_testBit_eq fun j => ?_
  rw [testBit_signOp hty true ha, Nat.testBit_xor]
  cases (signsOf ty).testBit j <;> simp

end Sys2Proof.Machine

section

open Sys2Proof Sys2Proof.Machine

/-- Settles O12: the words differ in their operation alone. -/
theorem floatArithmetic : Obligations.FloatArithmetic := by
  unfold Obligations.FloatArithmetic
  refine ⟨?full, ?immediate⟩
  case full =>
    intro row hrow s w nfo x
    simp only [floatRows, List.mem_cons, List.not_mem_nil, or_false] at hrow
    rcases hrow with rfl | rfl | rfl | rfl | rfl | rfl
    · exact Yields.of_float (exec_fadd s)
    · exact Yields.of_float (exec_fsub s)
    · exact Yields.of_float (exec_fmul s)
    · exact Yields.of_float (exec_ffma s)
    · exact Yields.of_float (exec_fmin s)
    · exact Yields.of_float (exec_fmax s)
  case immediate =>
    intro row hrow s w nfo x
    simp only [floatImmRows, List.mem_cons, List.not_mem_nil, or_false] at hrow
    rcases hrow with rfl | rfl | rfl | rfl
    · exact Yields.of_floatImm (exec_faddImm s)
    · exact Yields.of_floatImm (exec_fmulImm s)
    · exact Yields.of_floatImm (exec_fminImm s)
    · exact Yields.of_floatImm (exec_fmaxImm s)

/-- Settles O14: the sign words by their bits (`testBit_signOp`), the others by the one function that model and statement name. -/
theorem floatUnaryWords : Obligations.FloatUnaryWords := by
  unfold Obligations.FloatUnaryWords
  refine ⟨?bits, ?compare, ?special, ?reciprocal⟩
  case bits =>
    intro s w nfo x signs a yields
    refine ⟨?abs, ?neg, ?classify, ?round⟩
    case abs =>
      intro hi
      have hty : w.ty ∈ floatTypes := ty_mem_of_fCauses (hi.entry_causes rfl)
      exact Yields.of_binary (exec_fabs s) (fun ln => congrArg (·, 0) (signOp_abs hty (x.read_lt ln (.inr hty) w.a))) hi
    case neg =>
      intro hi
      have hty : w.ty ∈ floatTypes := ty_mem_of_fCauses (hi.entry_causes rfl)
      exact Yields.of_binary (exec_fneg s) (fun ln => congrArg (·, 0) (signOp_neg hty (x.read_lt ln (.inr hty) w.a))) hi
    case classify => exact Yields.of_binary (exec_fclass s) fun ln => rfl
    case round => exact Yields.of_binary (exec_frnd s) fun ln => rfl
  case compare =>
    intro s w nfo x yields
    exact ⟨Yields.of_alu (exec_fcmp s) rfl fun ln => rfl, Yields.of_alu (exec_fcvt s) rfl fun ln => rfl⟩
  case special =>
    intro row hrow s w nfo x
    simp only [specialFnRows, List.mem_cons, List.not_mem_nil, or_false] at hrow
    rcases hrow with rfl | rfl | rfl | rfl | rfl
    · exact Yields.of_specialFn (exec_frsq s)
    · exact Yields.of_specialFn (exec_fsqrt s)
    · exact Yields.of_specialFn (exec_fexp2 s)
    · exact Yields.of_specialFn (exec_flog2 s)
    · exact Yields.of_specialFn (exec_ftanh s)
  case reciprocal =>
    intro s w nfo x
    exact Yields.of_alu (exec_frcp s) rfl fun ln => by
      simp only [Bool.and_eq_true, beq_iff_eq]

end

/-! SUPPORT and PROOF of the packing words (O15): the registers that a run names, and the elements packed. -/

namespace Sys2Proof.Machine

/-- NPACK adds the elements one above the other and joins their flags (R395). -/
theorem npackOp_eq (t : Ty) (r : Rnd) (sat ftz : Bool) (z : Int) (vals : List Nat) :
    let es := vals.map (packOne t r sat ftz z)
    npackOp t r sat ftz z vals = (es.foldr (fun e acc => e.1 + acc * 2 ^ widthOf t) 0, es.foldr (fun e acc => e.2 ||| acc) 0) := by
  induction vals with
  | nil => rfl
  | cons v vals ih =>
    rw [npackOp, ih]
    rfl

theorem SMap.getN_eq_map {α : Type} (d : α) (m : SMap α) (k n : Nat) : m.getN d k n = (List.range n).map (fun i => m.get d (k + i)) := by
  induction n generalizing k with
  | zero => rfl
  | succ n ih =>
    rw [SMap.getN, ih, List.range_succ_eq_map, List.map_cons, List.map_map]
    exact congrArg _ (List.map_congr_left fun i _ => congrArg _ (Nat.succ_add_eq_add_succ k i))

/-- The values of a run of registers, one by one (R394). -/
theorem runVals_eq (t : Thread) (o : Opnd) (n : Nat) : runVals t o n = match o with
    | .v r => (List.range n).map (fun i => (t.v.get 0 (r.toNat + i)).toNat)
    | _ => [] := by
  cases o with
  | v r => rw [runVals, SMap.getN_eq_map, List.map_map]; rfl
  | _ => rfl

end Sys2Proof.Machine

section

open Sys2Proof Sys2Proof.Machine

/-- Settles O15: the model's runs, sums and fields are the statement's. -/
theorem packingWords : Obligations.PackingWords := by
  unfold Obligations.PackingWords
  intro s w nfo x scale regs yields
  have hregs : ∀ (ln : Lane) (n : Nat), runVals ln.t w.a n = regs ln n := fun ln n => runVals_eq ln.t w.a n
  refine ⟨?pack, ?unpack, ?scale⟩
  case pack =>
    exact Yields.of_alu (exec_npack s) rfl fun ln => by
      dsimp only
      rw [npackOp_eq, hregs]
  case unpack =>
    exact Yields.of_alu (exec_nunpk s) rfl fun ln => by
      simp only [nunpkOp, bitsOf_eq_div]
      rfl
  case scale =>
    exact Yields.of_alu (exec_nscale s) rfl fun ln => by
      dsimp only
      rw [hregs]

end

/-! SUPPORT and PROOF of the branch words (O18): where a branch goes, and the table of a SWITCH. -/

namespace Sys2Proof.Machine

variable {s : State} {i : Instr} {nfo : Info} {x : Path}

/-! ## BRA, BRX, CALL and RET (R311, R312) -/

/-- A thread whose link pair, where a branch names one, takes the address of the next word. -/
def Thread.linked (t : Thread) (link : Opnd) (next : Nat) : Thread :=
  match link with
  | .v r => t.setV r.toNat (wordsOf 2 next)
  | _ => t

/-- A branch whose targets lie below 2^56 moves each executing lane to its target. -/
theorem Does.of_branch {hd : Head} {link : Opnd} {target : Path → Lane → Nat} {dest : Lane → Nat} (hexec : exec i s = s.branch i hd link target)
    (hdest : target x = dest) (hlow : ∀ ln ∈ x.exec hd, dest ln < 2 ^ 56)
    (hi : Issues s i nfo x { lane := fun ln => if dest ln % 8 ≠ 0 then [13] else [], target := some dest }) :
    Does s i x hd.hold (fun ln => if ln.t.executes hd then dest ln else x.cur.pc + 8)
      (fun ln => if ln.t.executes hd then ln.t.linked link (x.cur.pc + 8) else ln.t) s x.w := by
  subst hdest
  have hbad : (x.exec hd).filter (fun ln => decide (2 ^ 56 ≤ target x ln)) = [] :=
    List.filter_eq_nil_iff.2 fun ln hln => by simpa using hlow ln hln
  have hend : exec i s = .next (x.finish s hd.hold (fun ln => if ln.t.executes hd then target x ln else x.cur.pc + 8)
      (fun ln t => if ln.t.executes hd then t.linked link (x.cur.pc + 8) else t) id) := by
    rw [hexec, State.branch]
    refine (State.word_next hi _).trans (congrArg _ ?_)
    dsimp only
    rw [hbad]
    rfl
  exact ⟨_, hend, Path.finish_acts hi.path (State.path_parts hi.path).2.1 _ _ _ id (fun _ => rfl) fun _ _ => ⟨rfl, rfl⟩⟩

/-! ## The table of a SWITCH (R419, R420) -/

/-- A word with table words that passes its checks runs its body, whether or not a lane executes it. -/
theorem State.word_of_table {ck : Path → Checks} (hword : info i = some nfo) (hpath : s.path = some x) (hready : s.readyWord i nfo x = true)
    (hbreak : (s.ctx x.ctx).dbg.breakAt x.cur.pc = none) (hpasses : s.firstTrap i x nfo (ck x) = none) (htable : hasTable i = true)
    (body : Path → State → State) : s.word i ck body = .next (body x s) := by
  have hstop : s.breakStop x nfo.head.hold = (s, x.lanes) := by simp [State.breakStop, hbreak]
  have hlanes : x.lanes.isEmpty = false := by simpa using State.path_lanes hpath
  simp [State.word, hword, hpath, Path.run, hready, hstop, hlanes, Path.issue, hpasses, Path.act, htable]

/-- A table that is fetched whole is the table words one after another. -/
theorem State.switchTable_eq {table : List DWord} {m : Nat} (hlength : table.length = m)
    (hfetch : ∀ j e, table[j]? = some e → s.fetch x.l (x.cur.pc + 8 * (j + 1)) = .word e) :
    s.switchTable x m = table.map .word := by
  refine List.ext_getElem (by simp [State.switchTable, hlength]) fun j _ hj => ?_
  rw [List.length_map] at hj
  simp only [State.switchTable, List.getElem_map, List.getElem_range]
  exact hfetch j _ (List.getElem?_eq_getElem hj)

/-- An entry's value and its offset. -/
def tableEntry (e : DWord) : Nat × BitVec 32 := ((e.extractLsb' 32 32).toNat, e.setWidth 32)

theorem tableEntries_words (table : List DWord) : tableEntries (table.map .word) = table.map tableEntry := by
  rw [tableEntries, List.filterMap_map, ← List.filterMap_eq_map]
  exact congrFun (congrArg _ (funext fun e => by
    simp only [Function.comp, tableEntry, BitVec.extractLsb'_toNat, bitsOf_eq_div, Nat.shiftRight_eq_div_pow])) _

theorem tableCause_words (table : List DWord) : tableCause (table.map .word) = none := by
  induction table with
  | nil => rfl
  | cons e table ih => exact ih

theorem tablePoison_words (table : List DWord) : tablePoison (table.map .word) = none := by
  induction table with
  | nil => rfl
  | cons e table ih => exact ih

/-- A value goes to the offset of the first table word whose upper half it is. -/
theorem switchTarget_words (pc m : Nat) (table : List DWord) (v : Nat) :
    switchTarget pc m (table.map tableEntry) v = match table.find? (fun e => (e.extractLsb' 32 32).toNat = v) with
      | some e => offsetTo pc (e.setWidth 32)
      | none => pc + 8 * (m + 1) := by
  rw [switchTarget, List.find?_map]
  have hsame : ((fun e : Nat × BitVec 32 => e.1 == v) ∘ tableEntry) = fun e => decide ((e.extractLsb' 32 32).toNat = v) := rfl
  rw [hsame]
  cases table.find? (fun e => decide ((e.extractLsb' 32 32).toNat = v)) <;> rfl

/-- A SWITCH that passes its checks moves its lanes by its table, whose selected targets lie below 2^56. -/
theorem exec_switch_finish {w : FWord} {table : List DWord} (hlength : table.length = FSpec w % 8 + 1)
    (hfetch : ∀ j e, table[j]? = some e → s.fetch x.l (x.cur.pc + 8 * (j + 1)) = .word e) (haligned : ∀ e ∈ table, (e.setWidth 32).toNat % 8 = 0)
    (hlow : (∀ e ∈ table, offsetTo x.cur.pc (e.setWidth 32) < 2 ^ 56) ∨ x.exec w.hd = []) (hword : info (.switch w) = some nfo)
    (hpath : s.path = some x) (hready : s.readyWord (.switch w) nfo x = true) (hbreak : (s.ctx x.ctx).dbg.breakAt x.cur.pc = none)
    (hpasses : s.firstTrap (.switch w) x nfo {} = none) :
    exec (.switch w) s = .next (x.finish s w.hd.hold
      (fun ln => if ln.t.executes w.hd then switchTarget x.cur.pc (FSpec w % 8 + 1) (table.map tableEntry) (x.read32 ln w.a)
        else x.cur.pc + 8 * (FSpec w % 8 + 1 + 1)) (fun _ t => t) id) := by
  have htable : tableEntries (s.switchTable x (FSpec w % 8 + 1)) = table.map tableEntry := by
    rw [State.switchTable_eq hlength hfetch, tableEntries_words]
  have haligned : (table.map tableEntry).any (fun e => e.2.toNat % 8 != 0) = false := by
    rw [List.any_map, List.any_eq_false]
    exact fun e he => by simp only [Function.comp, tableEntry, haligned e he]; decide
  have hfar : ((table.map tableEntry).any (fun e => decide (2 ^ 56 ≤ offsetTo x.cur.pc e.2)) && !(x.exec w.hd).isEmpty) = false := by
    rcases hlow with hlow | hidle
    · rw [Bool.and_eq_false_iff, List.any_map, List.any_eq_false]
      exact .inl fun e he => fun hfar => absurd (hlow e he) (not_lt.2 (of_decide_eq_true hfar))
    · simp [hidle]
  rw [exec_switch, execSwitch]
  refine (State.word_of_table hword hpath hready hbreak ?_ rfl _).trans (congrArg _ ?_)
  · rw [htable, haligned]
    exact hpasses
  · dsimp only
    rw [htable, State.switchTable_eq hlength hfetch, tableCause_words, tablePoison_words]
    dsimp only
    rw [hfar]
    rfl

end Sys2Proof.Machine

section

open Sys2Proof Sys2Proof.Machine

/-- Settles O18: a branch ends its word at its targets, and a SWITCH at the entries of its table, which it fetches in any case. -/
theorem branchWords : Obligations.BranchWords := by
  unfold Obligations.BranchWords
  refine ⟨?branches, ?switch, ?idle⟩
  case branches =>
    intro s w k nfo x moves relative
    exact ⟨fun hi hlow => Does.of_branch (exec_bra s (w := k)) rfl hlow hi, fun hi hlow => Does.of_branch (exec_call s (w := k)) rfl hlow hi,
      fun hi hlow => Does.of_branch (exec_brx s (w := w)) rfl hlow hi, fun hi hlow => Does.of_branch (exec_ret s (w := w)) rfl hlow hi⟩
  case switch =>
    intro s w nfo x table m goes pick hlength hfetch hentries hi
    have hexec := exec_switch_finish hlength hfetch (fun e he => (hentries e he).1) (.inl fun e he => (hentries e he).2) hi.word hi.path
      hi.ready hi.noBreak hi.passes
    simp only [switchTarget_words] at hexec
    exact ⟨_, hexec, Path.finish_acts hi.path (State.path_parts hi.path).2.1 _ _ _ id (fun _ => rfl) fun _ _ => ⟨rfl, rfl⟩⟩
  case idle =>
    intro s w nfo x table m hlength hfetch haligned hword hpath hready hbreak hpasses hidle
    have hexec := exec_switch_finish hlength hfetch haligned (.inr hidle) hword hpath hready hbreak hpasses
    obtain ⟨hkeeps, hacts⟩ := Path.finish_acts hpath (State.path_parts hpath).2.1 w.hd.hold
      (fun ln => if ln.t.executes w.hd then switchTarget x.cur.pc m (table.map tableEntry) (x.read32 ln w.a) else x.cur.pc + 8 * (m + 1))
      (fun _ t => t) id (fun _ => rfl) fun _ _ => ⟨rfl, rfl⟩
    refine ⟨_, hexec, hkeeps, hacts.congr_pc fun ln hln => ?_⟩
    rw [if_neg (List.filter_eq_nil_iff.1 hidle ln hln)]

end

/-! SUPPORT and PROOF of the system register words (O30): the registers by number, and what SYSWR clears and writes. -/

namespace Sys2Proof.Machine

variable {s : State} {nfo : Info} {x : Path}

/-! ## The registers of R422 -/

section

variable (s : State) (x : Path) (ln : Lane)

theorem State.sysReg_special {n : Nat} (h : n ≤ 0x14) : s.sysReg x ln n = s.special x ln n := if_pos h

theorem State.sysReg_number (n : Nat) (hn : n = 0x44 ∨ n = 0x45) (hdet : x.l.isDet = true) : s.sysReg x ln n = 0 := by
  rcases hn with rfl | rfl <;> exact if_pos hdet

theorem State.sysReg_conf {c : Conf} (hconf : ln.t.conf = some c) {n : Nat} (hn : 0x50 ≤ n) : s.sysReg x ln n = confReg c n := by
  have hone : ∀ k, k < 0x50 → n ≠ k := fun k hk => by omega
  rw [State.sysReg, if_neg (by omega), if_neg (hone _ (by decide)), if_neg (hone _ (by decide)), if_neg (hone _ (by decide)),
    if_neg (hone _ (by decide)), if_neg (hone _ (by decide)), if_neg (hone _ (by decide)), hconf]

end

/-- The halves of a conformance register stand at an even number and the one after it. -/
theorem confReg_halves (c : Conf) : ∀ j, j < 5 →
    confReg c (0x50 + 2 * j) = ([c.word, c.a, c.b, c.c, c.res].getD j 0).toNat % 2 ^ 32
      ∧ confReg c (0x51 + 2 * j) = ([c.word, c.a, c.b, c.c, c.res].getD j 0).toNat / 2 ^ 32
  | 0, _ | 1, _ | 2, _ | 3, _ | 4, _ => ⟨rfl, rfl⟩

theorem Conf.write_low (c : Conf) {v : Nat} (hv : v < 2 ^ 32) :
    c.write 0x58 v = { c with res := BitVec.ofNat 64 (c.res.toNat / 2 ^ 32 * 2 ^ 32 + v) } := by
  have hput : putBits c.res.toNat 0 32 v = c.res.toNat / 2 ^ 32 * 2 ^ 32 + v := by
    rw [putBits_eq, Nat.mod_eq_of_lt hv]
    omega
  rw [← hput]
  rfl

theorem Conf.write_high (c : Conf) {v : Nat} (hv : v < 2 ^ 32) :
    c.write 0x59 v = { c with res := BitVec.ofNat 64 (v * 2 ^ 32 + c.res.toNat % 2 ^ 32) } := by
  have hput : putBits c.res.toNat 32 32 v = v * 2 ^ 32 + c.res.toNat % 2 ^ 32 := by
    have hres := c.res.isLt
    rw [putBits_eq, Nat.mod_eq_of_lt hv]
    omega
  rw [← hput]
  rfl

theorem Conf.write_other (c : Conf) {n : Nat} (v : Nat) (hlow : n ≠ 0x58) (hhigh : n ≠ 0x59) (hflags : n ≠ 0x5A) : c.write n v = c := by
  rw [Conf.write, if_neg hlow, if_neg hhigh, if_neg hflags]

/-! ## The words (R421 to R423) -/

/-- The registers of SYSRD: its number is checked for uniformity where an s register holds it. -/
theorem execSysrd_yields {w : FWord} {f : Lane → LaneRes} (hf : (fun ln => resultIn w.d 1 (s.sysReg x ln (sysNum x w ln)) 0 []) = f)
    (hi : Issues s (.sysrd w) nfo x { sysChecks w false x with uniform := (sysChecks w false x).uniform ++ sDest w.d f }) :
    Yields s (.sysrd w) nfo x w.d f := by
  subst hf
  have hexec := State.word_next
    (ck := fun x => { sysChecks w false x with
      uniform := (sysChecks w false x).uniform ++ sDest w.d (fun ln => resultIn w.d 1 (s.sysReg x ln (sysNum x w ln)) 0 []) }) hi
    (fun x s' => x.commit (s'.spend (if (x.exec w.hd).any (fun ln => sysNum x w ln == 0x13 || sysNum x w ln == 0x40) then 7 else 0)) (.sysrd w) nfo
      w.d (fun ln => resultIn w.d 1 (s.sysReg x ln (sysNum x w ln)) 0 []))
  refine ⟨_, ?_, (Path.commit_computes hi.path (.sysrd w) nfo w.d _).same
    (Same.spend _ (if (x.exec w.hd).any (fun ln => sysNum x w ln == 0x13 || sysNum x w ln == 0x40) then 7 else 0))⟩
  rw [exec_sysrd, execSysrd, hi.word]
  refine hexec.trans (congrArg _ ?_)
  unfold Path.commit
  rw [x.finish_spend]

theorem WG.clearFlags_flags (w : WG) {n b : Nat} (hb : b < 32) :
    (w.clearFlags n).flags.getLsbD b = (w.flags.getLsbD b && !n.testBit b) := by
  rw [WG.clearFlags, BitVec.getLsbD_and, BitVec.getLsbD_not, BitVec.getLsbD_ofNat]
  simp [hb]

end Sys2Proof.Machine

section

open Sys2Proof Sys2Proof.Machine

/-- Settles O30: SYSRD commits the register that its number names, and SYSWR ends its word with the flags or the registers changed. -/
theorem systemRegisterWords : Obligations.SystemRegisterWords := by
  unfold Obligations.SystemRegisterWords
  refine ⟨?words, fun w n b hb _ => ⟨w.clearFlags_flags hb, rfl⟩, ?registers⟩
  case words =>
    intro s w nfo x num uni
    refine ⟨fun hi => execSysrd_yields rfl hi, fun hi => Yields.of_alu (exec_time s) rfl (fun _ => rfl) hi, fun hi => ?_⟩
    intro ones
    have hflags : (x.exec w.hd).any (fun ln => decide (num ln = 0x40)) = (x.exec w.hd).any (fun ln => sysNum x w ln == 0x40) := rfl
    rw [hflags]
    refine Does.of_lanes hi (exec_syswr s) rfl (fun g => ?_) (fun g ts => ?_) (fun _ _ => rfl) (fun _ _ => rfl) rfl
    · split <;> rfl
    · dsimp only
      split <;> exact ⟨rfl, rfl⟩
  case registers =>
    intro s x ln
    refine ⟨fun n hn hflags => ?_, rfl, rfl, rfl, rfl, rfl, fun hdet => ?_, fun hdet => ?_, fun c hconf => ⟨fun j hj => ?_, ?_, fun v hv => ?_⟩⟩
    · rw [s.sysReg_special x ln hn, s.special_eq x ln hflags]
    · exact ⟨s.sysReg_number x ln _ (.inl rfl) hdet, s.sysReg_number x ln _ (.inr rfl) hdet⟩
    · have hlow : ¬ x.l.isDet = true := by rw [hdet]; decide
      exact ⟨if_neg hlow, if_neg hlow⟩
    · rw [s.sysReg_conf x ln hconf (by omega), s.sysReg_conf x ln hconf (by omega)]
      exact confReg_halves c j hj
    · exact s.sysReg_conf x ln hconf (by decide)
    · exact ⟨c.write_low hv, c.write_high hv, rfl, fun n => c.write_other v⟩

end

/-! SUPPORT and PROOF of the collectives (O16): the lanes that a shuffle reads, the leaves of the tree, and what is equal to what. -/

namespace Sys2Proof.Machine

variable {s : State} {i : Instr} {w : FWord} {nfo : Info} {x : Path}

/-- A collective yields what its body gives of the lanes that execute it, where its declared counts raise no cause. -/
theorem Yields.of_collective {decl : Path → List Nat} {g : Path → List Lane → Lane → LaneRes} {f : Lane → LaneRes}
    (hexec : exec i s = s.collective i w w.hd decl g) (hdecl : decl x = []) (hg : ∀ ln, g x (x.exec w.hd) ln = f ln)
    (hi : Issues s i nfo x { uniform := sDest w.d f }) : Yields s i nfo x w.d f :=
  Yields.of_alu hexec hdecl hg hi

/-! ## The lane that a shuffle reads (R346) -/

/-- The number of the lane that a shuffle names, where it is none below lane 0. -/
def shuffleSource (mode j k : Nat) : Option Nat :=
  match mode with
  | 0 => some k
  | 1 => if k ≤ j then some (j - k) else none
  | 2 => some (j + k)
  | _ => some (j ^^^ k)

/-- The same number as an integer. -/
def shuffleNumber (mode j k : Nat) : Int :=
  match mode with
  | 0 => k
  | 1 => j - k
  | 2 => j + k
  | _ => ((j ^^^ k : Nat) : Int)

/-- A number below the group's size names the lane of that number. -/
theorem lane_of_number {α : Type} (who : Nat → Option α) (g m : Nat) :
    (if m < g then who m else none) = if 0 ≤ (m : Int) ∧ (m : Int) < g then who (m : Int).toNat else none := by
  simp

theorem shuffleSource_bind {α : Type} (who : Nat → Option α) (g mode j k : Nat) :
    (shuffleSource mode j k).bind (fun m => if m < g then who m else none)
      = if 0 ≤ shuffleNumber mode j k ∧ shuffleNumber mode j k < g then who (shuffleNumber mode j k).toNat else none := by
  match mode with
  | 0 => exact lane_of_number who g k
  | 1 =>
    unfold shuffleSource shuffleNumber
    by_cases hle : k ≤ j
    · rw [if_pos hle, ← Nat.cast_sub hle]
      exact lane_of_number who g (j - k)
    · have hbelow : ¬ (0 ≤ (j : Int) - k ∧ (j : Int) - k < g) := by omega
      rw [if_neg hle]
      exact (if_neg hbelow).symm
  | 2 => exact lane_of_number who g (j + k)
  | n + 3 => exact lane_of_number who g (j ^^^ k)

/-! ## The tree and what is equal (R128, R342, R347) -/

/-- A group has 2^(4 + GSZ) lanes. -/
theorem Path.logG_gsz (x : Path) : logG x.gsz = 4 + x.l.hdr.gsz := by
  rw [logG, Path.gsz, Hdr.g, show 16 * 2 ^ x.l.hdr.gsz = 2 ^ (4 + x.l.hdr.gsz) from (Nat.pow_add 2 4 _).symm, Nat.log2_two_pow]

/-- The value that a participant brings to a reduction: a subnormal float is flushed with .ftz, and no other value changes. -/
theorem flushIn_of_float (t : Ty) (ftz : Bool) (v : Nat) : (if isFloat t then flushIn (fmtOf t) ftz v else v)
    = if isFloat t = true ∧ ftz = true ∧ isSubnormal (fmtOf t) v = true then flushIn (fmtOf t) true v else v := by
  unfold flushIn
  cases isFloat t <;> cases ftz <;> cases isSubnormal (fmtOf t) v <;> simp

/-- All values are one value where each is the first. -/
theorem all_eq_headD {α : Type} (f : α → Nat) (ps : List α) :
    (ps.map f).all (fun v => v == (ps.map f).headD 0) = ps.all (fun q => ps.all (fun r => f q == f r)) := by
  cases ps with
  | nil => rfl
  | cons p ps =>
    rw [Bool.eq_iff_iff, List.all_map, List.all_eq_true, List.all_eq_true]
    simp only [List.map_cons, List.headD_cons, Function.comp, beq_iff_eq, List.all_eq_true]
    exact ⟨fun h q hq r hr => (h q hq).trans (h r hr).symm, fun h q hq => h q hq p List.mem_cons_self⟩

/-- Whether a vote holds of the values of its participants. -/
def voteTruth (mode : Nat) (vs : List Nat) : Bool :=
  match mode with
  | 0 => vs.all (fun v => v != 0)
  | 1 => vs.any (fun v => v != 0)
  | _ => vs.all (fun v => v == vs.headD 0)

theorem voteTruth_map {α : Type} (mode : Nat) (f : α → Nat) (ps : List α) : voteTruth mode (ps.map f) = match mode with
    | 0 => ps.all (fun q => f q != 0)
    | 1 => ps.any (fun q => f q != 0)
    | _ => ps.all (fun q => ps.all (fun r => f q == f r)) := by
  match mode with
  | 0 => exact List.all_map
  | 1 => exact List.any_map
  | n + 2 => exact all_eq_headD f ps

end Sys2Proof.Machine

section

open Sys2Proof Sys2Proof.Machine

/-- Settles O16: each collective yields its body, and the bodies' lanes, leaves and masks are the statement's. -/
theorem collectiveWords : Obligations.CollectiveWords := by
  unfold Obligations.CollectiveWords
  refine ⟨?lanes, ?trees, ?masks⟩
  case lanes =>
    intro s w nfo x g who shuffled swapped shfl bfly
    refine ⟨Yields.of_collective (exec_gshfl s) rfl fun ln => ?_, fun hg => Yields.of_collective (exec_gbfly s) (if_neg (not_le.2 hg)) fun _ => rfl⟩
    have hsource : (shuffleSource (bitsOf (FSpec w) 3 2) ln.lane (x.read32 ln w.b)).bind
        (fun m => if m < x.gsz then atLane (x.exec w.hd) m else none) = shuffled ln := shuffleSource_bind who g _ _ _
    exact congrArg (fun q : Option Lane => resultIn w.d (regsOf w.ty) (x.read (q.getD ln) w.ty w.a) 0 [(FSpec w % 8, q.isSome)]) hsource
  case trees =>
    intro s w nfo x g value leaf comb res red scan
    have hleaf : leaves x w (x.exec w.hd) = leaf := by
      simp only [leaves, flushIn_of_float]
      rfl
    refine ⟨Yields.of_collective (exec_gred s) rfl fun ln => ?_, Yields.of_collective (exec_gscan s) rfl fun ln => ?_⟩
    · rw [x.logG_gsz, hleaf]
      rfl
    · rw [x.logG_gsz, hleaf]
      rfl
  case masks =>
    intro s w nfo x ps truth ballot vote same mtch rank
    refine ⟨fun hwide => Yields.of_collective (exec_gvote s) (if_neg ?_) fun ln => ?_,
      fun hwide => Yields.of_collective (exec_gmatch s) (if_neg ?_) fun ln => ?_, Yields.of_collective (exec_grank s) rfl fun ln => ?_⟩
    · simpa [and_assoc, Path.gsz, Hdr.g] using hwide
    · have htruth : voteTruth (FSpec w % 4) (ps.map fun q => x.read32 q w.a) = truth := voteTruth_map _ _ _
      show (if FSpec w % 4 = 3 then resultIn w.d (regsOf w.ty) ballot 0 []
        else resultIn w.d 1 (bit1 (voteTruth (FSpec w % 4) (ps.map fun q => x.read32 q w.a))) 0
          [(bitsOf (FSpec w) 2 3, voteTruth (FSpec w % 4) (ps.map fun q => x.read32 q w.a))]) = vote ln
      rw [htruth, bit1_eq_toNat]
    · simpa [Path.gsz, Hdr.g] using hwide
    · have hcount : FSpec w % 2 + 1 = if FSpec w % 2 = 1 then 2 else 1 := by
        split <;> omega
      dsimp only
      rw [hcount]
      rfl
    · dsimp only
      rw [← List.countP_eq_length_filter]

end

/-! SUPPORT and PROOF of the program traps (O32): the lanes that a TRAP leaves, and what a fatal trap makes of its launch. -/

namespace Sys2Proof.Machine

/-- A path whose lanes are threads of its workgroup advances. -/
theorem Path.advance_of_lanes {m : State} {x : Path} (hwg : m.wg? x.w.wid = some x.w)
    (hlanes : ∀ ln ∈ x.lanes, x.w.threads[ln.tid]? = some ln.t) (hold : Bool) :
    Keeps m (x.advance m hold) x ∧ Acts (x.advance m hold) x hold (fun _ => x.cur.pc + 8) (fun ln => ln.t) x.w := by
  obtain ⟨hkeeps, hv⟩ := Path.finish_spec hwg hold (fun _ => x.next) (fun _ t => t) id (fun _ => rfl)
  refine ⟨hkeeps, _, hv, rfl, fun tid hnone => x.onLanes_none _ _ hnone, fun tid ln hln => ?_⟩
  have htid : ln.tid = tid := by simpa using List.find?_some hln
  have hthread := hlanes ln (List.mem_of_find?_eq_some hln)
  rw [htid] at hthread
  refine ⟨ln.t.past hold x.next, ?_, Thread.past_moved _ _ _⟩
  rw [id, x.onLanes_some _ _ hln, hthread]
  rfl

/-- A fatal trap changes no other launch. -/
theorem State.raise_other (s : State) (lid core rank sub : Nat) (rs : List TrapRec) {k : Nat} (hk : k ≠ lid) :
    (s.raise lid core rank sub rs).launch? k = s.launch? k := by
  rw [State.raise, State.launch?_modLaunch _ _ _ _ fun l => by split <;> rfl]
  cases hl : s.launch? k with
  | none => rfl
  | some l =>
    have hlid : l.lid = k := by simpa using List.find?_some hl
    rw [Option.map_some, if_neg (by rw [hlid]; exact hk)]

/-- TRAP raises the trap of its executing lanes, and its other lanes advance. -/
theorem exec_trap_does {s : State} {w : FWord} {nfo : Info} {x : Path} (hi : Issues s (.trap w) nfo x {}) :
    Does s (.trap w) { x with lanes := x.lanes.filter (fun ln => !ln.t.executes w.hd) } w.hd.hold (fun _ => x.cur.pc + 8) (fun ln => ln.t)
      (x.trap s 17 ((x.exec w.hd).map (fun ln => (ln, 0, 0, x.read32 ln w.a)))) x.w :=
  ⟨_, (exec_trap s).trans (State.word_next (ck := fun _ => {}) hi _),
    Path.advance_of_lanes (m := x.trap s 17 _) (x := { x with lanes := x.lanes.filter (fun ln => !ln.t.executes w.hd) })
      (State.path_parts hi.path).2.1 (fun _ hln => State.path_mem hi.path (List.mem_filter.1 hln).1) w.hd.hold⟩

/-- BKPT advances a path that it has stopped before. -/
theorem exec_bkpt_advances {s : State} {w : FWord} {nfo : Info} {x : Path} (hi : Issues s (.bkpt w) nfo x {})
    (hskip : x.lanes.any (fun ln => ln.t.skip) = true) : exec (.bkpt w) s = .next (x.advance s w.hd.hold) :=
  (exec_bkpt s).trans ((State.word_next (ck := fun _ => {}) hi _).trans (congrArg _ (if_pos (by rw [hskip, Bool.or_true]))))

/-- BKPT stops its group where an agent holds the debug right. -/
theorem exec_bkpt_stops {s : State} {w : FWord} {nfo : Info} {x : Path} (hi : Issues s (.bkpt w) nfo x {})
    (hholder : (s.ctx x.ctx).dbg.holder ≠ none) (hskip : x.lanes.any (fun ln => ln.t.skip) = false) :
    exec (.bkpt w) s = .next ((s.stopGroup x.w.wid x.g.gid false ((x.exec w.hd).map (fun ln => x.event 2 8 false false ln 0))).modWG x.w.wid
      (fun v => x.onLanes (fun _ t => { t with skip := true }) v)) := by
  have hstops : ¬ ((s.ctx x.ctx).dbg.holder.isNone || x.lanes.any (fun ln => ln.t.skip)) = true := by
    rw [hskip, Bool.or_false, Option.isNone_iff_eq_none]
    exact hholder
  exact (exec_bkpt s).trans ((State.word_next (ck := fun _ => {}) hi _).trans (congrArg _ (if_neg hstops)))

end Sys2Proof.Machine

section

open Sys2Proof Sys2Proof.Machine

/-- Settles O32: the words by their three bodies, and the trap by what it makes of its launch. -/
theorem programTraps : Obligations.ProgramTraps := by
  unfold Obligations.ProgramTraps
  refine ⟨?words, ?raise⟩
  case words =>
    intro s w nfo x
    refine ⟨fun hi => ?_, fun hi hskip => ⟨_, exec_bkpt_advances hi hskip, Path.advance_acts hi.path w.hd.hold⟩, fun hi => exec_bkpt_stops hi⟩
    have htrap := exec_trap_does hi
    rw [Path.trap, List.map_map] at htrap
    exact htrap
  case raise =>
    intro s lid core rank sub recs l hl hphase
    exact ⟨s.raise_rest lid core rank sub recs, s.raise_launch lid core rank sub recs hl hphase, fun k => s.raise_other lid core rank sub recs⟩

end

/-! SUPPORT. What the lodge writes at a launch's end leaves the launches and the workgroups' launches as they are. -/

namespace Sys2Proof.Machine

/-! ## The launches, and the launch of each workgroup -/

/-- The launch of each workgroup, and the launches. -/
def State.launchView (s : State) : List Nat × List Launch := (s.wgs.map WG.lid, s.launches)

theorem State.launchView_launch? {s t : State} (h : t.launchView = s.launchView) (lid : Nat) : t.launch? lid = s.launch? lid := by
  show t.launchView.2.find? (fun l => l.lid == lid) = s.launchView.2.find? (fun l => l.lid == lid)
  rw [h]

/-- Where a launch has no workgroup. -/
theorem State.launchView_none {s t : State} (h : t.launchView.1 = s.launchView.1) {lid : Nat} (hs : ∀ w ∈ s.wgs, w.lid ≠ lid) :
    ∀ w ∈ t.wgs, w.lid ≠ lid := by
  intro w hw
  have hmem : w.lid ∈ s.wgs.map WG.lid := by
    have hlids : t.wgs.map WG.lid = s.wgs.map WG.lid := h
    rw [← hlids]
    exact List.mem_map_of_mem hw
  obtain ⟨v, hv, hlid⟩ := List.mem_map.1 hmem
  rw [← hlid]
  exact hs v hv

section

variable (s : State)

theorem State.sendFault_launchView (ctx va : Nat) (kind : Access) (src : FaultSrc) : (s.sendFault ctx va kind src).launchView = s.launchView := by
  have hrest := congrArg State.launchView (s.sendFault_rest ctx va kind src)
  exact hrest

theorem State.writeM_launchView (ctx key : Nat) (cs : List Host.Cell) : (s.writeM ctx key cs).launchView = s.launchView := by
  rw [State.launchView, s.writeM_wgs, s.writeM_launches]
  rfl

theorem State.setDgen_launchView (ctx : Nat) (t : Trans) : (s.setDgen ctx t).launchView = s.launchView := by
  have hrest := congrArg State.launchView (s.setDgen_rest ctx t)
  exact hrest

theorem State.wakeLine_launchView (line ctx : Nat) : (s.wakeLine line ctx).launchView = s.launchView :=
  congrArg (·, s.launches) List.map_map

theorem State.ras_launchView (r : Ras) : (s.ras r).launchView = s.launchView := by
  obtain ⟨_, _, _, hras⟩ := s.ras_eq r
  rw [hras]
  rfl

theorem State.lodgeWrite_launchView (ctx va : Nat) (bs : List Byte) : (s.lodgeWrite ctx va bs).1.launchView = s.launchView := by
  unfold State.lodgeWrite
  split
  · split
    · rfl
    · exact (State.writeM_launchView ..).trans (s.setDgen_launchView ..)
  · rfl

theorem State.lodgeExch_launchView (ctx va x : Nat) : (s.lodgeExch ctx va x).1.launchView = s.launchView := by
  unfold State.lodgeExch
  dsimp only
  split
  · split
    · exact (State.wakeLine_launchView ..).trans (s.lodgeWrite_launchView ..)
    · exact s.lodgeWrite_launchView ..
  · exact s.lodgeWrite_launchView ..

theorem State.ringPut_launchView (ctx : Nat) (r : Ring) (i : Nat) (bs : List Byte) : (s.ringPut ctx r i bs).launchView = s.launchView := by
  unfold State.ringPut
  dsimp only
  split
  · split
    · exact s.lodgeWrite_launchView ..
    · split
      · exact (State.lodgeExch_launchView ..).trans (s.lodgeWrite_launchView ..)
      · rfl
  · rfl

theorem State.ringWrite_launchView (ctx : Nat) (dbg : Bool) (r : Ring) (bs : List Byte) : (s.ringWrite ctx dbg r bs).1.launchView = s.launchView := by
  unfold State.ringWrite
  split
  · exact s.sendFault_launchView ..
  · split
    · exact s.ringPut_launchView ..
    · rfl

theorem State.writeRecords_launchView (ctx : Nat) (dropped : Bool) (es : List (TrapRec × Bool)) :
    (State.writeRecords ctx dropped s es).launchView = s.launchView := by
  induction es generalizing s with
  | nil => rfl
  | cons e es ih =>
    unfold State.writeRecords
    split
    · rfl
    · exact (ih _).trans (s.ringWrite_launchView ..)

theorem State.coreFails_launchView (n : Nat) : (s.coreFails n).launchView = s.launchView := by
  unfold State.coreFails
  split
  · rfl
  · split
    · exact State.ras_launchView ..
    · rfl

theorem State.settleFailing_launchView : s.settleFailing.launchView = s.launchView := foldl_keeps State.coreFails_launchView _ _

theorem State.keepImage_launchView (l : Launch) (term : Bool) : (s.keepImage l term).launchView = s.launchView :=
  s.writeM_launchView (s.imageInfo l (s.imageOf l term).length).ctx (s.ownerKey (s.imageInfo l (s.imageOf l term).length).ctx) _

theorem State.setSt_launchView (key st : Nat) : (s.setSt key st).launchView = s.launchView := by
  rw [State.setSt, State.launchView, State.launchView]

theorem State.vacate_launchView (key : Nat) : (s.vacate key).launchView = s.launchView := by
  rw [State.vacate, apply_ite State.launchView, s.setSt_launchView, ite_self]

/-- A launch whose records are written and for which nothing waits any more (R255). -/
def Launch.killed (l : Launch) : Launch := { l with recorded := true, window := [], pending := [], heldSig := false }

/-- Nothing of a launch that is killed is left on a core, and its launch is as before but for what it waits for. -/
theorem State.killLaunch_launchView (l : Launch) : (s.killLaunch l).launchView
    = ((s.wgs.filter (fun w => w.lid ≠ l.lid)).map WG.lid,
        s.launches.map (fun m => if m.lid = l.lid then m.killed else m)) := by
  have hcleared : (((s.sweepLaunch l.lid).vacateAll (s.coresOf l.lid)).launchView)
      = ((s.wgs.filter (fun w => w.lid ≠ l.lid)).map WG.lid, s.launches) := foldl_keeps State.vacate_launchView _ _
  have hrecorded := fun u : State => (State.settleFailing_launchView _).trans (u.writeRecords_launchView l.ctx (256 - l.nrec < (trapRecords l.traps).length)
    ((trapRecords l.traps).take (256 - l.nrec)))
  have hclosed := congrArg (fun p : List Nat × List Launch => (p.1, p.2.map (fun m => if m.lid = l.lid then m.killed else m))) hcleared
  unfold State.killLaunch
  dsimp only
  split
  · exact ((State.keepImage_launchView ..).trans (hrecorded _)).trans hclosed
  · exact (hrecorded _).trans hclosed

/-! ## The end of a launch (R239, R255) -/

theorem State.modLaunch_some {lid : Nat} {l : Launch} (hl : s.launch? lid = some l) (f : Launch → Launch) (hf : ∀ l, (f l).lid = l.lid) :
    (s.modLaunch lid f).launch? lid = some (f l) := by
  have hlid : l.lid = lid := by simpa using List.find?_some hl
  rw [State.launch?_modLaunch _ _ _ _ hf, hl, Option.map_some, if_pos hlid]

/-- The signal of a complete launch changes no workgroup's launch, and leaves the launch complete. -/
theorem State.storeSignal_complete {lid : Nat} {l : Launch} (hl : s.launch? lid = some l) (hphase : l.phase = .complete) :
    (s.storeSignal lid).launchView.1 = s.launchView.1 ∧ ∃ m, (s.storeSignal lid).launch? lid = some m ∧ m.phase = .complete := by
  unfold State.storeSignal
  rw [hl]
  dsimp only
  split
  · exact ⟨rfl, l, hl, hphase⟩
  · split
    · split
      · exact ⟨congrArg Prod.fst (s.sendFault_launchView ..), l, (State.launchView_launch? (s.sendFault_launchView ..) lid).trans hl, hphase⟩
      · exact ⟨rfl, _, s.modLaunch_some hl _ fun _ => rfl, hphase⟩
    · have hexch := s.lodgeExch_launchView l.ctx l.sig l.sigValue
      have hlids : (s.lodgeExch l.ctx l.sig l.sigValue).1.launchView.1 = s.launchView.1 := congrArg Prod.fst hexch
      exact ⟨hlids, _, State.modLaunch_some _ ((State.launchView_launch? hexch lid).trans hl) _ fun _ => rfl, hphase⟩

/-- A launch is unbound by giving up its slot, and then its context's pins. -/
theorem State.unbind_eq {lid : Nat} {l : Launch} (hl : s.launch? lid = some l) : ∃ slots,
    s.unbind lid = (({ s with slots := slots } : State).modLaunch lid (fun l => { l with slot := none })).unpin l.ctx := by
  unfold State.unbind
  rw [hl]
  dsimp only
  split
  · exact ⟨_, rfl⟩
  · exact ⟨s.slots, rfl⟩

/-- A launch that is unbound has no slot. -/
theorem State.unbind_slot {lid : Nat} {l : Launch} (hl : s.launch? lid = some l) :
    (s.unbind lid).wgs = s.wgs ∧ (s.unbind lid).faults = s.faults ∧ (s.unbind lid).launch? lid = some { l with slot := none } := by
  have hfree := s.modLaunch_some hl (fun l => { l with slot := none }) fun _ => rfl
  obtain ⟨slots, hunbind⟩ := s.unbind_eq hl
  rw [hunbind]
  exact ⟨rfl, rfl, hfree⟩

/-- A complete launch whose signal does not wait gives up its slot. -/
theorem State.freeBound_complete {lid : Nat} {l : Launch} (hl : s.launch? lid = some l) (hphase : l.phase = .complete) :
    (s.freeBound lid).wgs = s.wgs ∧ (s.freeBound lid).faults = s.faults
      ∧ ∃ m, (s.freeBound lid).launch? lid = some m ∧ m.phase = .complete ∧ (s.signalWaits lid = false → m.slot = none) := by
  unfold State.freeBound
  rw [hl]
  dsimp only
  split
  · obtain ⟨hwgs, hfaults, hfree⟩ := s.unbind_slot hl
    exact ⟨hwgs, hfaults, _, hfree, hphase, fun _ => rfl⟩
  · next hwaits =>
    refine ⟨rfl, rfl, l, hl, hphase, fun hout => absurd ?_ hwaits⟩
    rw [hphase, hout]
    rfl

/-- The end of a launch changes no workgroup's launch; the launch is complete, and its slot is free unless its signal waits. -/
theorem State.endLaunch_complete {lid : Nat} {l : Launch} (hl : s.launch? lid = some l) : (s.endLaunch lid).launchView.1 = s.launchView.1
    ∧ ∃ m, (s.endLaunch lid).launch? lid = some m ∧ m.phase = .complete ∧ ((s.endLaunch lid).signalWaits lid = false → m.slot = none) := by
  have hcomplete : (((s.modLaunch lid (fun l => { l with phase := .complete, heldSig := false })).dropViews lid).launch? lid)
      = some { l with phase := .complete, heldSig := false } := s.modLaunch_some hl _ fun _ => rfl
  obtain ⟨hsignal, m, hm, hphase⟩ := State.storeSignal_complete _ hcomplete rfl
  obtain ⟨hwgs, hfaults, n, hn, hnphase, hslot⟩ := State.freeBound_complete _ hm hphase
  obtain ⟨_, _, _, htrace⟩ := State.trace_eq ((((s.modLaunch lid (fun l => { l with phase := .complete, heldSig := false })).dropViews lid).storeSignal
    lid).freeBound lid) l.part 4 (Config.unstated 0) 0xFFFFFFFF (Config.unstated 1) 0 (Config.unstated 2) (Config.unstated 3) (Config.unstated 4)
  unfold State.endLaunch
  rw [hl]
  dsimp only
  unfold State.traceLaunch
  rw [htrace]
  refine ⟨(congrArg (List.map WG.lid) hwgs).trans hsignal, n, hn, hnphase, fun hwaits => hslot ?_⟩
  unfold State.signalWaits at hwaits ⊢
  rw [← hfaults]
  exact hwaits

end

end Sys2Proof.Machine

/-! SUPPORT and PROOF of the fault events (O49): the requests that gather the waiting threads, and what an error leaves. -/

namespace Sys2Proof.Machine

/-! ## Page-fault requests (R258) -/

/-- A request of a context and page has a source. -/
def State.Requested (ctx page : Nat) (src : FaultSrc) (s : State) : Prop := ∃ f ∈ s.faults, f.ctx = ctx ∧ f.page = page ∧ src ∈ f.srcs

section

variable (s : State)

theorem State.sendFault_requests (ctx va : Nat) (kind : Access) (src : FaultSrc) :
    (s.sendFault ctx va kind src).Requested ctx (pageOf va) src := by
  unfold State.sendFault
  dsimp only
  split
  · next hany =>
    obtain ⟨f, hf, hmatch⟩ := List.any_eq_true.1 hany
    obtain ⟨hctx, hpage⟩ : f.ctx = ctx ∧ f.page = pageOf va := by simpa using hmatch
    refine ⟨_, List.mem_map_of_mem hf, ?_⟩
    split
    · exact ⟨hctx, hpage, List.mem_append_right _ List.mem_cons_self⟩
    · next hold =>
      refine ⟨hctx, hpage, ?_⟩
      by_contra hnew
      exact hold ⟨hctx, hpage, by simpa using hnew⟩
  · exact ⟨_, List.mem_append_right _ List.mem_cons_self, rfl, rfl, List.mem_cons_self⟩

theorem State.Requested.sendFault {s : State} {ctx page : Nat} {src : FaultSrc} (h : s.Requested ctx page src) (c va : Nat) (kind : Access)
    (new : FaultSrc) : (s.sendFault c va kind new).Requested ctx page src := by
  obtain ⟨f, hf, hctx, hpage, hsrc⟩ := h
  unfold State.sendFault
  dsimp only
  split
  · refine ⟨_, List.mem_map_of_mem hf, ?_⟩
    split
    · exact ⟨hctx, hpage, List.mem_append_left _ hsrc⟩
    · exact ⟨hctx, hpage, hsrc⟩
  · exact ⟨f, List.mem_append_left _ hf, hctx, hpage, hsrc⟩

/-- A request of another context or page stays as it is. -/
theorem State.mem_sendFault_other {ctx va : Nat} (kind : Access) (src : FaultSrc) {f : FaultReq} (hf : f ∈ s.faults)
    (hother : ¬ (f.ctx = ctx ∧ f.page = pageOf va)) : f ∈ (s.sendFault ctx va kind src).faults := by
  unfold State.sendFault
  dsimp only
  split
  · exact List.mem_map.2 ⟨f, hf, if_neg fun h => hother ⟨h.1, h.2.1⟩⟩
  · exact List.mem_append_left _ hf

theorem pageOf_addrIn (page : Nat) (va : Option Nat) : pageOf (addrIn page va) = page := by
  have hfirst : pageOf (page * 65536) = page := Nat.mul_div_left page (by decide)
  unfold addrIn
  split
  · split
    · next h => exact h
    · exact hfirst
  · exact hfirst

/-- A waiting thread joins the request of its page. -/
def State.gather (ctx page : Nat) (s : State) (e : WG × Nat × Thread × Access × Option Nat) : State :=
  s.sendFault ctx (addrIn page e.2.2.2.2) e.2.2.2.1 (.word e.1.wid e.2.1)

theorem State.gather_requests (ctx page : Nat) (e : WG × Nat × Thread × Access × Option Nat) :
    (s.gather ctx page e).Requested ctx page (.word e.1.wid e.2.1) := by
  have hsent := s.sendFault_requests ctx (addrIn page e.2.2.2.2) e.2.2.2.1 (.word e.1.wid e.2.1)
  rw [pageOf_addrIn] at hsent
  exact hsent

theorem State.gatherAll_rest (ctx page : Nat) (es : List (WG × Nat × Thread × Access × Option Nat)) :
    ({ es.foldl (State.gather ctx page) s with faults := s.faults } : State) = s := by
  have hstep : ∀ (u : State) (e : WG × Nat × Thread × Access × Option Nat),
      ({ u.gather ctx page e with faults := s.faults } : State) = { u with faults := s.faults } := fun u e => by
    have hrest := congrArg (fun v : State => { v with faults := s.faults })
      (u.sendFault_rest ctx (addrIn page e.2.2.2.2) e.2.2.2.1 (.word e.1.wid e.2.1))
    exact hrest
  exact foldl_keeps (g := fun u : State => ({ u with faults := s.faults } : State)) hstep es s

theorem State.gatherAll_keeps {ctx page : Nat} {src : FaultSrc} (es : List (WG × Nat × Thread × Access × Option Nat))
    (h : s.Requested ctx page src) : (es.foldl (State.gather ctx page) s).Requested ctx page src :=
  List.foldlRecOn es _ (motive := State.Requested ctx page src) h fun _ hu _ _ => hu.sendFault _ _ _ _

theorem State.gatherAll_requests (ctx page : Nat) (es : List (WG × Nat × Thread × Access × Option Nat)) :
    ∀ e ∈ es, (es.foldl (State.gather ctx page) s).Requested ctx page (.word e.1.wid e.2.1) := by
  induction es generalizing s with
  | nil => exact fun _ he => nomatch he
  | cons a es ih =>
    intro e he
    rcases List.mem_cons.1 he with rfl | he
    · exact State.gatherAll_keeps _ es (s.gather_requests ctx page e)
    · exact ih _ e he

theorem State.gatherAll_other {ctx page : Nat} (es : List (WG × Nat × Thread × Access × Option Nat)) {f : FaultReq} (hf : f ∈ s.faults)
    (hother : ¬ (f.ctx = ctx ∧ f.page = page)) : f ∈ (es.foldl (State.gather ctx page) s).faults :=
  List.foldlRecOn es _ (motive := fun u : State => f ∈ u.faults) hf fun u hu _ _ =>
    u.mem_sendFault_other _ _ hu (by rw [pageOf_addrIn]; exact hother)

/-! ## The end of a launch and storage errors -/

/-- A launch that is killed and ended has no workgroup. -/
theorem State.killLaunch_none {lid : Nat} {l : Launch} (hlid : l.lid = lid) : ∀ w ∈ (s.killLaunch l).wgs, w.lid ≠ lid := by
  subst hlid
  have hlids : (s.killLaunch l).launchView.1 = (s.wgs.filter (fun w => w.lid ≠ l.lid)).map WG.lid := congrArg Prod.fst (s.killLaunch_launchView l)
  refine State.launchView_none (s := { s with wgs := s.wgs.filter (fun w => w.lid ≠ l.lid) }) hlids fun w hw => ?_
  simpa using (List.mem_filter.1 hw).2

theorem State.killLaunch_some {lid : Nat} {l : Launch} (hl : s.launch? lid = some l) : ∃ m, (s.killLaunch l).launch? lid = some m := by
  have hlid : l.lid = lid := by simpa using List.find?_some hl
  have hlaunches : (s.killLaunch l).launches = (s.modLaunch l.lid Launch.killed).launches :=
    congrArg Prod.snd (s.killLaunch_launchView l)
  have hfound := s.modLaunch_some hl Launch.killed fun _ => rfl
  rw [hlid] at hlaunches
  exact ⟨_, (congrArg (List.find? (fun m : Launch => m.lid == lid)) hlaunches).trans hfound⟩

/-- FATAL_TRAP kills a dying launch, and ends it where its records are out. -/
theorem execFatalTrap_dying {lid : Nat} {l : Launch} (hl : s.launch? lid = some l) (hphase : l.phase = .dying) (hnew : l.recorded = false) :
    execFatalTrap lid s = .next (if (s.killLaunch l).recordsOut l.ctx then (s.killLaunch l).endLaunch lid else s.killLaunch l) := by
  unfold execFatalTrap
  rw [hl]
  dsimp only
  rw [if_neg (not_not.2 hphase), hnew]
  rfl

/-- The corrections of a location that count, with the one of this ck (R263). -/
def State.corrections (s : State) (a : Struck) : List Nat := (s.corrected.get [] (s.struckPlace a)).filter (fun t => s.ck < t + 2 ^ 30) ++ [s.ck]

/-- A correction that does not wear its location out is counted and reported. -/
theorem execCorrectedError_counted {a : Struck} (hthere : s.struckThere a = true) (hfew : (s.corrections a).length < 16) :
    execCorrectedError a s = .next (({ s with corrected := s.corrected.put [] (s.struckPlace a) (s.corrections a) } : State).ras
      (rasOf 1 (s.struckAt a).1 (s.struckAt a).2.1 (s.struckAt a).2.2.1 (s.struckAt a).2.2.2 (s.struckOwner a) false false false)) := by
  have hunworn : ¬ 16 ≤ ((s.corrected.get [] (s.struckPlace a)).filter (fun t => s.ck < t + 2 ^ 30) ++ [s.ck]).length := Nat.not_le.2 hfew
  unfold execCorrectedError
  rw [hthere]
  simp only [hunworn, decide_false, Bool.false_and]
  rfl

/-- A retired line's page is retired, once the lodge's firmware runs. -/
theorem State.mem_retirePage (hready : s.lodge.ready = true) (line : Nat) (hrepairs : s.repairs = []) :
    line * 128 / 65536 ∈ (s.retirePage line).retired := by
  unfold State.retirePage
  rw [hready, hrepairs]
  dsimp only
  split
  · next h => simpa using h
  · exact List.mem_append_right _ List.mem_cons_self

/-- What poisons a line, once its record has its number: only the poison, the tag of the line and its page are changed. -/
theorem State.poisonLine_rest (line : Nat) :
    ({ s.poisonLine line with poison := s.poison, tags := s.tags, retired := s.retired, repairs := s.repairs } : State) = s :=
  congrArg (fun u : State => { u with poison := s.poison, tags := s.tags })
    (State.retirePage_rest { s with poison := s.poison.put 0 line s.rasSeq, tags := s.tags.put 0 line 0 } line)

theorem State.poisonLine_poison (line : Nat) : (s.poisonLine line).poison.get 0 line = s.rasSeq := by
  have hpoison := congrArg State.poison
    (State.retirePage_rest { s with poison := s.poison.put 0 line s.rasSeq, tags := s.tags.put 0 line 0 } line)
  exact (congrArg (SMap.get 0 · line) hpoison).trans (SMap.get_put_same ..)

end

end Sys2Proof.Machine

section

open Sys2Proof Sys2Proof.Machine

/-- Settles O49: requests only grow, a killed launch leaves the cores and ends, and an error changes what its record and its place say. -/
theorem faultEvents : Obligations.FaultEvents := by
  unfold Obligations.FaultEvents
  refine ⟨⟨?gather, ?answer, ?fatal⟩, ?corrected, ?tier, ?registers⟩
  case gather =>
    intro s ctx page t
    exact ⟨rfl, s.gatherAll_rest ctx page _, s.gatherAll_requests ctx page _, fun f => s.gatherAll_other _⟩
  case answer =>
    intro s ctx page f hready hf m
    constructor
    · rw [exec_faultAnswerRetry, execFaultAnswerRetry, hf]
      simp only [State.up, hready]
      rfl
    · rw [exec_faultAnswerFail, execFaultAnswerFail, hf]
      simp only [State.up, hready]
      rfl
  case fatal =>
    intro s lid l hl hphase hnew u t
    have hlid : l.lid = lid := by simpa using List.find?_some hl
    obtain ⟨m, hm⟩ := s.killLaunch_some hl
    obtain ⟨hview, hend⟩ := State.endLaunch_complete u hm
    refine ⟨execFatalTrap_dying s hl hphase hnew, ?_, fun hout => ?_⟩
    · have hnone := s.killLaunch_none hlid
      simp only [t]
      split
      · exact State.launchView_none hview hnone
      · exact hnone
    · simp only [t, hout, if_true]
      exact hend
  case corrected =>
    intro s a hthere place times u hfew
    exact execCorrectedError_counted s hthere hfew
  case tier =>
    intro s line hard far m t
    obtain ⟨_, _, _, hras⟩ := s.ras_eq (rasOf (if hard then 3 else 2) far (Config.rasLoc 6 line 0) (Config.rasLoc 6 line 1) (line * 128) none
      false true false)
    have hm : m.rasSeq = s.rasSeq + 1 ∧ m.lodge = s.lodge ∧ m.repairs = s.repairs ∧ m.launches = s.launches ∧ m.wgs = s.wgs ∧ m.ctxs = s.ctxs
        ∧ m.queues = s.queues := by
      simp only [m, hras, and_self]
    obtain ⟨hseq, hlodge, hrepairs, hlaunches, hwgs, hctxs, hqueues⟩ := hm
    have hrest := m.poisonLine_rest line
    refine ⟨rfl, (congrArg State.rasSeq hrest).trans hseq, (m.poisonLine_poison line).trans hseq, fun hready hnone => ?_,
      (congrArg State.launches hrest).trans hlaunches, (congrArg State.wgs hrest).trans hwgs, (congrArg State.ctxs hrest).trans hctxs,
      (congrArg State.queues hrest).trans hqueues⟩
    exact State.mem_retirePage { m with poison := m.poison.put 0 line m.rasSeq, tags := m.tags.put 0 line 0 }
      ((congrArg Lodge.ready hlodge).trans hready) line (hrepairs.trans hnone)
  case registers =>
    intro s wid word hard w l hw hl m
    have hwid := State.wg?_wid hw
    rw [exec_uncorrectableError, execUncorrectableError]
    unfold State.strikeGroup
    simp only [hw, hl]
    subst hwid
    rfl

end

/-! PROOF that the debug commands' statement fails (O52): an edit of a mask where two groups of a workgroup have one number. -/

namespace Sys2Proof.Machine

/-- A block whose fields are all 0. -/
def zeroBlock : MailBlock := ⟨0, 0, 0, 0, 0, 0, 0, 0⟩

/-- The one group of the placed program. -/
def placedOnly : Group := (placedGroup.group? 0).get (by decide +kernel)

/-- The placed workgroup with a second group of the same number, of one lane. -/
def twinGroups : WG := { placedGroup with groups := [placedOnly, { placedOnly with lanes := [none] }] }

/-- A workgroup with two groups of one number, which have 16 lanes and one. -/
def groupTwins : State := { placed with wgs := [twinGroups] }

/-- An edit that sets mask 0 of group 0 to 2. -/
def maskEdit : Edit := { wgid := 0, gid := 0, tid := 0, tgt := 3, reg := 0, size := 0, addr := 0, value := 2 }

/-- The first thread of the first of the two groups. -/
def twinsFirst : Nat × Thread := (firstThread twinGroups placedOnly).get (by decide +kernel)

theorem twinsFirst_first : firstThread twinGroups placedOnly = some twinsFirst := (Option.some_get _).symm

/-- Mask 0 of the group at a place of workgroup 1. -/
def maskAtPlace (v : Option WG) (n : Nat) : Option (BitVec 64) := v.bind fun w => (w.groups[n]?).map fun g => g.k.get 0 0

end Sys2Proof.Machine

section

open Sys2Proof Sys2Proof.Machine

/-- Refutes O52: of two groups with one number, COMMIT cuts an edit of a mask to the lanes of each, and the statement's next state to the
lanes of the first. In `groupTwins` the second group, of one lane, keeps bit 0 of the 2 alone, and in that state it keeps bit 1. -/
theorem not_debugCommands : ¬ Obligations.DebugCommands := by
  unfold Obligations.DebugCommands
  intro h
  obtain ⟨hcommands, -⟩ := h
  obtain ⟨-, -, -, -, -, -, hedit, -⟩ := hcommands groupTwins 0 zeroBlock
  obtain ⟨-, -, -, hmask, -⟩ := hedit maskEdit twinGroups placedOnly twinsFirst.1 twinsFirst.2 (by decide +kernel) (by decide +kernel)
    twinsFirst_first
  obtain ⟨hbecame, -⟩ := hmask rfl
  exact absurd (congrArg (maskAtPlace · 1) hbecame) (by decide +kernel)

end

/-! SUPPORT. The test of the image restore, which is the largest evaluation of the text. -/

namespace Sys2Proof.Machine

/-- The audit replays theorems in the order of their names' hashes, each after what it cites. The name of this one brings the restore's
test to the front, where the replay still has the memory that it takes: late in the replay it runs out of it more often than not. -/
theorem Image.restoring_evaluates : Tests.restoring = true := Tests.witness_ImageRestore

end Sys2Proof.Machine
